-- ==== Sys2Proof/Word.lean ====
section
/-! DEFINITION. The plain words of the module: bytes, numbers of tiles, compartments, ports, functions, and the
closed sets of names (states, statuses, roles) that chapters 00, 02, 18, 19 and 20 of spec/ give. -/

namespace Sys2Proof

abbrev Byte := BitVec 8
abbrev W32 := BitVec 32
abbrev W64 := BitVec 64

/-- Tile number t = 32 y + x (R24). -/
abbrev TileNo := Fin 1024
/-- Bofen die (R14). -/
abbrev DieNo := Fin 4
/-- Compartment slot (R2). -/
abbrev CompNo := Fin 8
/-- Span fabric port (R2). -/
abbrev PortNo := Fin 32
/-- PCI Express function: 0 the physical function, n + 1 the virtual function of compartment n (R490). -/
abbrev FuncNo := Fin 9
/-- Queue pair (R493). -/
abbrev PairNo := Fin 16
/-- Session slot (R541). -/
abbrev SessNo := Fin 8
/-- Seam link (R60). -/
abbrev LinkNo := Fin 64

/-- A hardware thread of a prep core of a tile (R147). -/
structure ThreadId where
  tile : TileNo
  core : Fin 4
  thr  : Fin 8
  deriving DecidableEq, Repr

/-- The number of a thread among the 32,768 of the module. -/
def ThreadId.key (t : ThreadId) : Nat := t.tile.val * 32 + t.core.val * 8 + t.thr.val

/-- The number of a prep core among the 4,096 of the module. -/
def ThreadId.coreKey (t : ThreadId) : Nat := t.tile.val * 4 + t.core.val

/-- Module states, coded as R543 codes them. -/
inductive ModState where
  | off | standby | verify | bringup | ready | run | holdup | fault | service
  deriving DecidableEq, Repr

def ModState.code : ModState → Nat
  | .off => 0 | .standby => 1 | .verify => 2 | .bringup => 3 | .ready => 4
  | .run => 5 | .holdup => 6 | .fault => 7 | .service => 8

/-- Compartment states (R9). -/
inductive CState where
  | free | forming | attested | running | held | closing
  deriving DecidableEq, Repr

/-- Coded as 0x4020+n.03 codes it (R343). -/
def CState.code : CState → Nat
  | .free => 0 | .forming => 1 | .attested => 2 | .running => 3 | .held => 4 | .closing => 5

/-- The statuses of R10 in the order of R495, and the further codes of R523; `ok` is 0. -/
inductive Status where
  | ok | stateConflict | notReady | quotaBlocked | shapeMismatch | divergentReplica | unverifiable
  | poisoned | sillUnmet | accessDenied | typeMismatch | outOfRange
  | rateLimited | replySpace | storeFailed
  deriving DecidableEq, Repr

def Status.code : Status → Nat
  | .ok => 0 | .stateConflict => 1 | .notReady => 2 | .quotaBlocked => 3 | .shapeMismatch => 4
  | .divergentReplica => 5 | .unverifiable => 6 | .poisoned => 7 | .sillUnmet => 8
  | .accessDenied => 9 | .typeMismatch => 10 | .outOfRange => 11
  | .rateLimited => 0x20 | .replySpace => 0x21 | .storeFailed => 0x22

/-- The roles of R514. -/
inductive Role where
  | management | host | observer
  | compartment (n : CompNo)
  | fabricPeer
  deriving DecidableEq, Repr

/-- Tile domain states (R49). -/
inductive TileDom where
  | off | on | retain
  deriving DecidableEq, Repr

/-- Boost phases of a die (R38, R39). -/
inductive BoostPhase where
  | idle | rising | inBoost | falling
  deriving DecidableEq, Repr

/-- Hardware thread states (R147). -/
inductive ThrState where
  | idle | ready | stalled | parked | waiting | runahead | halted
  deriving DecidableEq, Repr

/-- The four engines whose events a thread can receive (R140). -/
inductive Engine where
  | matrix | vector | gather0 | gather1
  deriving DecidableEq, Repr

/-- A request entry of the dictionary, field for field (R521). -/
structure DictEntry where
  op     : Nat
  sub    : Nat
  index  : Nat
  type   : Nat
  rsv    : Nat
  offset : Nat
  length : Nat
  value  : List Byte
  deriving DecidableEq, Repr

end Sys2Proof
end

