-- ==== Sys2Proof/Machine/Types.lean ====
section
/-! DEFINITION. The operand types of the commands: what a command carries from outside the block (a host read's data,
a fabric reply, a sensor sample). Each is plain data. -/

namespace Sys2Proof

/-- One tile's sentinel count over a measurement window, with the core voltage and junction temperature the module
measures at it (R32, R35). -/
structure CadSample where
  tile    : TileNo
  beats   : Nat
  mv      : Nat
  deciC   : Int
  deriving DecidableEq, Repr

/-- Atomic operations of the A extension (R134, R138). -/
inductive AmoOp where
  | swap | add | xor | and | or | min | max | minu | maxu
  deriving DecidableEq, Repr

/-- Kinds of a span access (R221, R232). -/
inductive AccKind where
  | read | write
  | amo (op : AmoOp)
  deriving DecidableEq, Repr

/-- The peg operations (R242). -/
inductive PegOp where
  | post | wait | try_ | read
  deriving DecidableEq, Repr

/-- Where a span request comes from: a request slot of a tile, or a job module, by its packet (R225, R293). -/
inductive SpanSource where
  | slot (tile : TileNo) (slot : Fin 256)
  | remote (node : BitVec 16) (tag : W32) (job : W64) (addr : W64) (kind : AccKind) (len : Fin 65) (data : List Byte)
  deriving DecidableEq, Repr

/-- Which end of a lease a message reaches: the lender, by lease number, or a borrowing compartment (R270). -/
inductive LeaseSide where
  | lender (lease : W32)
  | borrower (c : CompNo) (node : BitVec 16) (lease : W32)
  deriving DecidableEq, Repr

/-- A forced release: the write on the lender, or its news on the borrower (R272). -/
inductive ForceSide where
  | lender (r : Role) (lease : W32)
  | borrower (c : CompNo) (node : BitVec 16) (lease : W32)
  deriving DecidableEq, Repr

/-- The answer to a span request: 0 or a fault code, the poison mark, and the data. -/
structure SpanReply where
  fault : Nat
  data  : List Byte
  deriving DecidableEq, Repr

/-- What a read of host memory returned: its bytes, or UR, CA or a poisoned TLP (R511). -/
inductive HostRead where
  | data (bytes : List Byte)
  | failed
  deriving DecidableEq, Repr

/-- How what an access meets in memory outside the die reads (R361-R365, R277): intact; with errors the ECC corrects;
the line's tag fails; its data cannot be corrected; a flash data sector holding the lines named cannot be corrected;
its page block cannot be corrected; the node or page tag of a level fails; the node of a level cannot be corrected. -/
inductive Integ where
  | intact | corrected | tagFails | uncorrectable
  | sector (lines : List (Fin 1024))
  | blockBad
  | tagBad (level : Fin 11)
  | nodeBad (level : Fin 11)
  deriving DecidableEq, Repr

/-- A frame as a port receives it (R290): its 32-byte header, and whether its tag verifies. -/
structure RxFrame where
  header : BitVec 256
  tagOk  : Bool
  deriving DecidableEq, Repr

/-- A packet that an accepted frame completes (R293): its header flit and its data flits' bytes. -/
structure RxPkt where
  header : BitVec 512
  data   : List Byte
  deriving DecidableEq, Repr

/-- The four flits of an AUDIT frame (R302): CUT with its epoch number, and per VC the sums TX, RET and CRX, 64 bits
each. -/
structure AuditBody where
  cut : BitVec 12
  no  : W64
  tx  : BitVec 512
  ret : BitVec 512
  crx : BitVec 512
  deriving DecidableEq, Repr

/-- A dovetail record copy as a restore finds it (R421): whether its GMAC verifies, its fields, its SHAKE256 digest, and
for each copy of this module's shard whether its digest and header step match. -/
structure RecFound where
  gmacOk : Bool
  jobId  : W64
  mapId  : W64
  shards : W32
  step   : W64
  digest : BitVec 384
  copies : List Bool
  deriving DecidableEq, Repr

/-- A page record of a shard as the write pass opens it (R405). -/
structure ShardRec where
  page   : BitVec 40
  tagOk  : Bool
  poison : BitVec 1024
  zero   : BitVec 1024
  data   : List Byte
  deriving DecidableEq, Repr

/-- A shard copy that lies in another module's leases: the leases, the policies of its header, its page records. -/
structure ShardImg where
  leases : List (BitVec 16 × W32)
  pols   : List (BitVec 12 × W32)
  recs   : List ShardRec
  deriving DecidableEq, Repr

/-- A KEYING frame (R306): MSG, FRAG, FRAGS and MSG_BYTES, whether all else about it is as R306 lays it out, and what
the message it is a fragment of says: whether a CRED verifies, its fabric address and port. -/
structure KeyFrame where
  msg      : Byte
  frag     : BitVec 16
  frags    : BitVec 16
  bytes    : W32
  sound    : Bool
  verifies : Bool
  addr     : W32
  port     : Byte
  deriving DecidableEq, Repr

/-- Readings of the sensors (R457): the hottest hot spot of each die and the HBM hbmStacks, in 0.1 °C; coolant inlets and
outlets A and B, in 0.01 °C; the flow in 0.01 L/min and the valve position in percent. -/
structure Sensors where
  hot    : List Int
  hbmStacks : List Int
  inA    : Int
  inB    : Int
  outA   : Int
  outB   : Int
  flow   : Nat
  valve  : Nat
  deriving DecidableEq, Repr

/-- A firmware slot as the boot ROM or class 0 reads it (R379): whether everything but its SVN verifies, its SVN and its
body digest. -/
structure FwSlot where
  intact : Bool
  svn    : W64
  digest : BitVec 384
  deriving DecidableEq, Repr

/-- A PTP message as it arrives: on the management port, whether it is well formed, its sequence identifier, the time it
carries (the origin of a one-step SYNC, or of a FOLLOW_UP or DELAY_RESP), whether it is one-step, its announce interval
as a power of two, and the dataset of an ANNOUNCE laid out as bits [511:368] of R477; or on a fabric
port the 256 bits of its OPERAND. -/
inductive PtpIn where
  | mgmt (sound : Bool) (seq : BitVec 16) (ts : BitVec 80) (oneStep : Bool) (logInterval : Int) (ds : BitVec 144)
  | fabric (p : Fin 32) (op : BitVec 256)
  deriving DecidableEq, Repr


/-- The mailbox registers of a function as the host has written them before its doorbell (R493). -/
structure MbRegs where
  reqAddr : W64
  reqLen  : W32
  repLen  : W32
  repAddr : W64
  vec     : BitVec 16
  deriving DecidableEq, Repr

/-- An INIT as it arrives (R532): its source, whether the segment is well formed, the role asked for, whether its chain
verifies up to its root key, and the digests of that key and of the leaf certificate. -/
structure InitSeg where
  src      : BitVec 128
  sound    : Bool
  role     : Role
  verified : Bool
  root     : BitVec 384
  cert     : BitVec 384
  deriving DecidableEq, Repr

/-- A CONFIRM as it arrives (R532): source, SESSION, whether it is well formed, its tag and its signature verify. -/
structure ConfirmSeg where
  src    : BitVec 128
  ident  : W32
  sound  : Bool
  tagOk  : Bool
  signed : Bool
  deriving DecidableEq, Repr

/-- A DATA segment as it arrives (R531, R533): source, SESSION, whether its header is well formed, whether its tag
verifies, COUNTER, SEG_INDEX, SEG_COUNT, MSG_BYTES, the last-segment flag and the payload. -/
structure DataSeg where
  src     : BitVec 128
  ident   : W32
  sound   : Bool
  tagOk   : Bool
  counter : W64
  index   : BitVec 16
  count   : BitVec 16
  bytes   : W32
  last    : Bool
  data    : List Byte
  deriving DecidableEq, Repr

/-- What a write through the dictionary meets outside the engine: whether the signatures over its value verify, the key
its delivery opens to, whether a tile passes its self-test, the records a restore finds, and whether the boot store takes
the value (R519). -/
structure DictExt where
  signed : Bool
  opened : Option (BitVec 256)
  passes : Bool
  found  : List RecFound
  stored : Bool
  deriving DecidableEq, Repr

end Sys2Proof
end

