-- ==== Sys2Proof/Syntax.lean ====
section
/-! DEFINITION. The commands of the block: one constructor per row of spec/opcode_table.json, in the table's order, with
the operands its rule gives it. -/

namespace Sys2Proof

/-- A command: a register write or read, an operation of a protocol, an event inside the block or on a pin. -/
inductive Instr where
  /-- At each measurement window boundary every tile latches its sentinel beat count and reports its cadence. (R32) -/
  | cadenceWindow (samples : List CadSample)
  /-- Once every boost condition holds on a die, the die starts raising its rail toward 0.80 V. (R37) -/
  | boostEntry (d : DieNo)
  /-- Every 20 µs during boost the die moves its rail by 5 mV, to keep the lowest tile cadence at or below 2,200 Mbeat/s. (R38) -/
  | boostRailStep (d : DieNo) (lowest : Nat)
  /-- A boost condition fails or a hot spot reaches 90 °C, and the die starts lowering its rail to 0.75 V in 5 mV steps every 5 µs. (R39) -/
  | boostExit (d : DieNo)
  /-- At each permit time computed from span time, the pacer issues a beat permit to each gate-mode tile and discards permits beyond the bank of 2. (R43) -/
  | pacerPermit (c : CompNo) (deficit : List TileNo)
  /-- An ON tile that stays idle for retain_idle_us enters RETAIN. (R51) -/
  | retainEntry (t : TileNo)
  /-- Work addressed to a tile in RETAIN returns the tile to ON within 2 µs, and the work then starts. (R51) -/
  | tileWake (t : TileNo)
  /-- A handshake stage does not acknowledge within the watchdog, so the tile is fenced with 0x0102. (R53) -/
  | tileHandshakeTimeout (t : TileNo) (waitedUs : Nat)
  /-- A tile domain does not reach ON within 40 µs and is fenced with 0x0108. (R53) -/
  | tilePowerFail (t : TileNo)
  /-- A tile-store ECC error is detected; an uncorrectable error poisons the word, and a repeated one fences the tile. (R54) -/
  | tileStoreError (t : TileNo) (word : Fin 65536) (uncorrectable : Bool)
  /-- When the watchdog expires after the fence, each request slot that waits on the fenced tile completes to its issuer with 0x0110. (R55) -/
  | fencedSlotComplete (t : TileNo) (slot : Fin 256)
  /-- A write of a tile number to tile.array.unfence in SERVICE runs the self-test and clears the fence if the test passes. (R59) -/
  | unfence (r : Role) (tileNo : Nat) (passes : Bool)
  /-- A seam frame arrives; if its GCM tag fails, the frame is replayed from the retry buffer and the link's run of failures advances. (R60) -/
  | seamFrameReceive (l : LinkNo) (tagOk : Bool)
  /-- A thread posts a matrix descriptor; it is checked, copied into the queue, or refused. (R72) -/
  | mxPost (t : ThreadId) (rd rs1 : Fin 32)
  /-- Once its accumulator set is free, the descriptor at the head of the queue stages its operands and accumulates in the fixed order. (R75) -/
  | mxOpExecute (t : TileNo)
  /-- An uncorrectable accumulator error ends the operation; a repetition within 2^36 ns fences the tile. (R95) -/
  | mxAccUncorrectable (t : TileNo) (acc : Fin 8)
  /-- The accumulation ends, the engine drains the set to D, writes the completion record and posts PEG. (R81) -/
  | mxOpComplete (t : TileNo)
  /-- A write of true to mx.comp.trap_clear clears first_trap and re-arms trap logging. (R90) -/
  | mxTrapClear (r : Role) (c : CompNo) (v : Bool)
  /-- A thread posts a vector chain; it is checked, copied into the queue, or refused. (R122) -/
  | vxPost (t : ThreadId) (rd rs1 : Fin 32)
  /-- After the previous chain has completed, the chain runs its stages over all groups in order and writes its outputs. (R123) -/
  | vxChainExecute (t : TileNo)
  /-- An uncorrectable register-file error stops the chain; a repetition within 2^36 ns fences the tile. (R125) -/
  | vxRegUncorrectable (t : TileNo) (group : Nat)
  /-- After the last write, the chain writes its record and posts PEG. (R127) -/
  | vxChainComplete (t : TileNo)
  /-- A write of true to vx.comp.trap_clear clears first_trap and re-arms trap logging. (R124) -/
  | vxTrapClear (r : Role) (c : CompNo) (v : Bool)
  /-- A prep-core thread issues an ordinary RV64IMAFC instruction. (R134) -/
  | userInstruction (t : ThreadId)
  /-- At its next instruction boundary, a thread with a pending yevents bit that yevmask enables is diverted to yhandler. (R141) -/
  | eventDivert (t : ThreadId)
  /-- A write to yevents clears the pending event bits written as 1. (R140) -/
  | yeventsWrite (t : ThreadId) (v : W64)
  /-- A thread loads from a span address on a request slot, or parks under the cap. (R153) -/
  | spanLoad (t : ThreadId) (rd : Fin 32) (addr : W64) (log2 : Fin 4) (unsigned float : Bool)
  /-- A thread stores to a span address on a request slot. (R153) -/
  | spanStore (t : ThreadId) (addr : W64) (log2 : Fin 4) (data : W64)
  /-- A thread issues an AMO to a span address, which is performed at the page's owning location. (R138) -/
  | spanAmo (t : ThreadId) (op : AmoOp) (rd : Fin 32) (addr : W64) (wide : Bool) (data : W64) (aq rl : Bool)
  /-- A thread takes a reservation on an aligned 64-byte tile-store word. (R138) -/
  | tileLr (t : ThreadId) (rd : Fin 32) (addr : W64) (wide aq : Bool)
  /-- A thread's store-conditional succeeds only if no writer has touched the reserved word. (R138) -/
  | tileSc (t : ThreadId) (rd : Fin 32) (addr : W64) (wide : Bool) (data : W64) (rl : Bool)
  /-- A FENCE completes only after the thread's earlier stores are performed and acknowledged. (R234) -/
  | fence (t : ThreadId) (pred succ : Fin 16)
  /-- The data or acknowledge of a span request returns, its slot is freed and the issuer continues. (R153) -/
  | spanResponseReceive (t : TileNo) (slot : Fin 256) (remote : Option SpanReply)
  /-- A freed request slot is granted to the oldest parked request whose target is below its cap. (R154) -/
  | slotGrant (t : TileNo)
  /-- A thread posts a gather descriptor; it is checked, queued, or refused. (R163) -/
  | gxPost (t : ThreadId) (rd rs1 rs2 : Fin 32)
  /-- ENG.SPACE returns the number of free queue entries of the named engine. (R142) -/
  | engSpace (t : ThreadId) (rd rs1 : Fin 32)
  /-- THR.START starts an IDLE or HALTED thread of the core at a user address. (R150) -/
  | thrStart (t : ThreadId) (rd rs1 rs2 : Fin 32)
  /-- THR.EXIT makes the thread IDLE. (R142) -/
  | thrExit (t : ThreadId)
  /-- THR.YIELD gives up the thread's issue turn. (R142) -/
  | thrYield (t : ThreadId)
  /-- THR.RET returns from the event handler to yepc and allows diversion again. (R141) -/
  | thrRet (t : ThreadId)
  /-- A span load outstanding for ra_entry_beats puts its thread into run-ahead with its registers saved. (R157) -/
  | runaheadEntry (t : ThreadId) (beats : Nat)
  /-- A run-ahead episode reaches ra_max_beats, and the thread waits for the load without issuing. (R157) -/
  | runaheadLimit (t : ThreadId) (beats : Nat)
  /-- The stalled load returns or faults, and the core restores the saved registers and re-executes from the load. (R160) -/
  | runaheadExit (t : ThreadId)
  /-- A prefetch buffer entry reaches an age of 4,096 beats and is removed. (R159) -/
  | prefetchAgeOut (t : TileNo) (core : Fin 4) (line : Nat)
  /-- A gather engine runs the next descriptor, moving elements between the tile store and span memory. (R162) -/
  | gxDescExecute (t : TileNo) (eng : Bool) (remote : List (Nat × SpanReply)) (bad : Option (Nat × Integ))
  /-- The consumer advances CONS_PEG, freeing ring slots, so staged and demand elements are written and PROD_PEG advances. (R164) -/
  | gxRingAdvance (t : TileNo) (eng : Bool) (remote : List (Nat × SpanReply)) (bad : Option (Nat × Integ))
  /-- After its last write, the gather engine writes the record and posts PEG. (R167) -/
  | gxComplete (t : TileNo) (eng : Bool)
  /-- A write of true to prep.comp.fault_clear clears first_fault and re-arms logging. (R172) -/
  | prepFaultClear (r : Role) (c : CompNo) (v : Bool)
  /-- For each advance of verdict_peg, the keeper reads the verdict line, applies the loss-scale rule and posts scale_peg. (R185) -/
  | verdictApply (c : CompNo) (remote : Option SpanReply)
  /-- A write of true to num.comp.event_clear clears first_event and re-arms logging. (R194) -/
  | numEventClear (r : Role) (c : CompNo) (v : Bool)
  /-- For each advance of plumb_peg, the update unit reads the plumb line and accepts or refuses it. (R203) -/
  | plumbLineAccept (c : CompNo) (remote : Option SpanReply)
  /-- Once the verdict and plumb line of step s − 1 are accepted, the unit publishes the parameter line of step s and advances param_peg. (R205) -/
  | paramLinePublish (c : CompNo)
  /-- The update unit takes each posted ring entry in order, copies it and advances taken_peg. (R209) -/
  | updRingTake (c : CompNo) (remote : Option SpanReply)
  /-- Once its step is confirmed or dropped, a commit entry is checked and, if it passes, starts copying the staging into the guarded ranges. (R212) -/
  | updCommitEvaluate (c : CompNo) (entry : Nat)
  /-- No confirmation arrives within commit_deadline, so the commit finishes with 0x0607. (R212) -/
  | updConfirmTimeout (c : CompNo) (entry : Nat)
  /-- The commit copy ends, LAST_COMMIT_STEP is set, and the result is written and DONE_PEG posted. (R214) -/
  | updCommitCopyDone (c : CompNo) (entry : Nat)
  /-- A noise fill finishes writing samples to the owner tiles and sets the layer's NOISE_STEP. (R208) -/
  | noiseFillDone (c : CompNo) (entry : Nat)
  /-- A write of true to upd.comp.event_clear clears first_event and re-arms logging. (R217) -/
  | updEventClear (r : Role) (c : CompNo) (v : Bool)
  /-- A write to span.comp.seg_write appends a segment descriptor or is refused with 0x0701. (R222) -/
  | segWrite (r : Role) (c : CompNo) (v : BitVec 256)
  /-- A write of true to span.comp.seg_clear empties the segment table. (R249) -/
  | segClear (r : Role) (c : CompNo) (v : Bool)
  /-- A span access arrives at its owning location and is checked, verified and performed there. (R225) -/
  | spanRequestReceive (src : SpanSource) (it : Integ)
  /-- An uncorrectable metadata cache entry makes the lines it covered unverifiable. (R366) -/
  | metacacheUncorrectable (c : CompNo) (group : Fin 48) (entry : Nat)
  /-- PEG.POST adds tokens to a counting peg or advances a sequence peg, and satisfies any waiters it can. (R242) -/
  | pegPost (t : ThreadId) (rd rs1 rs2 : Fin 32)
  /-- PEG.WAIT consumes or observes the peg when its condition holds, and otherwise the thread becomes WAITING. (R242) -/
  | pegWait (t : ThreadId) (rd rs1 rs2 : Fin 32)
  /-- PEG.TRY acts as PEG.WAIT if satisfied, and otherwise returns 1 without waiting. (R242) -/
  | pegTry (t : ThreadId) (rd rs1 rs2 : Fin 32)
  /-- PEG.READ returns the token count or sequence value with acquire. (R242) -/
  | pegRead (t : ThreadId) (rd rs1 rs2 : Fin 32)
  /-- A peg operation from another module arrives; it is checked and performed, or its waiter is registered, and a reply is sent. (R246) -/
  | remotePegOperation (node : BitVec 16) (tag : W32) (job : W64) (op : PegOp) (peg : Fin 16384) (rs2 : W64)
  /-- The reply to a remote peg operation, or its later satisfaction, arrives and the thread writes rd. (R246) -/
  | remotePegReply (t : ThreadId) (status : BitVec 16) (value : W64) (registered : Bool)
  /-- No reply arrives within span.remote_timeout_ms, so the operation completes with 0x0708. (R246) -/
  | remoteTimeout (t : TileNo) (slot : Fin 256)
  /-- A write to tier.comp.define_write in FORMING defines a placement object at once. (R257) -/
  | defineWrite (r : Role) (c : CompNo) (v : BitVec 512)
  /-- A DEFINE ring entry defines an object or changes its policy. (R256) -/
  | placeDefine (c : CompNo) (remote : Option SpanReply)
  /-- A PROMOTE ring entry moves an object's pages into HBM, pinning it if PIN is set. (R265) -/
  | placePromote (c : CompNo) (remote : Option SpanReply)
  /-- An EVICT ring entry moves an object out of HBM, or is deferred or refused. (R265) -/
  | placeEvict (c : CompNo) (remote : Option SpanReply)
  /-- An UNPIN ring entry clears PINNED and starts any deferred eviction. (R265) -/
  | placeUnpin (c : CompNo) (remote : Option SpanReply)
  /-- A STREAM ring entry copies engine-tile slots into a tile store, with look-ahead staging for the following slots. (R261) -/
  | placeStream (c : CompNo) (remote : Option SpanReply) (slots : List (Option SpanReply))
  /-- A RETIRE ring entry retires an object, or is refused with 0x0803 while the object moves or is pinned. (R265) -/
  | placeRetire (c : CompNo) (remote : Option SpanReply)
  /-- The placement engine starts a page move: it reserves a destination frame and runs the copy passes. (R263) -/
  | pageMoveStart (c : CompNo) (page : BitVec 40)
  /-- After the final copy verifies and caches are invalidated, the page takes its ownership step and the held writes are released. (R229) -/
  | pageOwnershipStep (c : CompNo) (page : BitVec 40) (verifies : Bool)
  /-- A write of tier.lend.offer offers unheld channel groups as leases, or is refused for a held group. (R269) -/
  | lendOfferWrite (r : Role) (v : W64)
  /-- A lender receives a borrower's request for a lease and grants one or answers that none is free. (R270) -/
  | leaseRequest (node : BitVec 16) (job : W64) (comp : CompNo) (ckpt : Bool)
  /-- The borrower receives a grant and charges quota, or after all refusals counts 0x0806 and falls back. (R270) -/
  | leaseGrantReceive (c : CompNo) (range : Option (Fin 16)) (granted : Option (BitVec 16 × W32))
  /-- Every heartbeat_ms, borrower and lender exchange a heartbeat for each lease. (R270) -/
  | leaseHeartbeat (side : LeaseSide)
  /-- The borrower releases a lease once no page is owned in it, and the lender starts scrubbing it. (R270) -/
  | leaseRelease (side : LeaseSide)
  /-- The lender finishes scrubbing a released lease and offers it again. (R270) -/
  | leaseScrubDone (lease : W32)
  /-- A write of a channel group to tier.lend.reclaim clears its offer and sends reclaim notices to its borrowers. (R271) -/
  | reclaim (r : Role) (group : Byte)
  /-- A borrower receives a reclaim notice and evacuates the lease's pages ahead of other moves. (R271) -/
  | reclaimNoticeReceive (c : CompNo) (node : BitVec 16) (lease : W32) (dMs : BitVec 16)
  /-- The reclaim deadline passes with pages still in the lease, so the borrower moves to HELD with 0x0804. (R272) -/
  | reclaimDeadline (c : CompNo) (node : BitVec 16) (lease : W32)
  /-- A write of tier.lend.force_release scrubs a lease at once, making the borrower's pages there unverifiable. (R272) -/
  | forceRelease (side : ForceSide)
  /-- A reachable lender misses 10 heartbeats and is treated as having sent a reclaim notice. (R273) -/
  | heartbeatMissLimit (c : CompNo) (node : BitVec 16) (lease : W32)
  /-- A lender stays isolated for D, so its pages become unverifiable and the borrower moves to HELD with 0x0805. (R273) -/
  | lenderIsolated (c : CompNo) (node : BitVec 16)
  /-- A borrower misses heartbeats for orphan_s, so the lender scrubs and frees its leases. (R273) -/
  | tierLeaseOrphaned (lease : W32)
  /-- A flash program completes and the page takes its ownership step, becoming durable. (R275) -/
  | flashProgramDone (c : CompNo) (page : BitVec 40)
  /-- Garbage collection or wear levelling relocates pages inside one channel. (R275) -/
  | flashGc (c : CompNo) (page : BitVec 40)
  /-- A block fails a program or an erase and is replaced from the channel's spare. (R276) -/
  | flashBlockRetire (ch : Fin 32) (sparePct : Fin 101)
  /-- A quota write is applied, or refused when it is below the present charge. (R279) -/
  | quotaWrite (r : Role) (c : CompNo) (which : Fin 3) (v : W32)
  /-- A write of true to tier.comp.event_clear clears first_event. (R281) -/
  | tierEventClear (r : Role) (c : CompNo) (v : Bool)
  /-- A fabric parameter write is followed by re-evaluation of the whole set, which trains or retrains the ports. (R288) -/
  | fabricConfigWrite (r : Role) (which : Fin 8) (v : BitVec 128)
  /-- A write of fab.port_rearm starts training of an ISOLATED port. (R286) -/
  | portRearm (r : Role) (v : Byte)
  /-- A port trains its lanes at width 4, or else at width 2, or fails. (R284) -/
  | portTrain (p : PortNo) (lanes : Fin 5) (rtt : W32)
  /-- A CRED or ENCAP KEYING frame arrives and is verified, and the next message of the exchange is sent. (R306) -/
  | keyingFrameReceive (p : PortNo) (f : KeyFrame)
  /-- Every 1 ms during KEYING, the end repeats its latest message. (R306) -/
  | keyingRepeat (p : PortNo)
  /-- The exchange does not end within 50 ms of entering KEYING, which is a failed training attempt. (R306) -/
  | keyingTimeout (p : PortNo)
  /-- A LINK frame arrives and updates the acknowledgement and credit state. (R292) -/
  | linkFrameReceive (p : PortNo) (f : RxFrame)
  /-- A sender that holds credit for every flit transmits a DATA frame and charges the credits. (R297) -/
  | dataFrameSend (p : PortNo) (vc : Fin 8) (count : Fin 33)
  /-- A DATA frame arrives and is accepted in sequence, discarded with a replay request, or discarded as a duplicate. (R299) -/
  | dataFrameReceive (p : PortNo) (f : RxFrame) (pkts : List RxPkt)
  /-- A REPLAY_REQ arrives, and the sender retransmits every buffered frame from ACK_SEQ. (R300) -/
  | replayReqReceive (p : PortNo) (f : RxFrame)
  /-- An audit epoch ends after 2^20 flits or 100 µs, and each end sends an AUDIT frame. (R302) -/
  | auditEpochEnd (p : PortNo)
  /-- An AUDIT frame arrives, and the flit, credit and balance checks are made. (R303) -/
  | auditFrameReceive (p : PortNo) (f : RxFrame) (a : AuditBody)
  /-- A RECREDIT frame resets the credits and running sums, the retry buffer is replayed, and the port returns to UP. (R304) -/
  | recreditFrameReceive (p : PortNo) (f : RxFrame) (next : BitVec 12) (shares : BitVec 128)
  /-- FRAME_CTR reaches its threshold or 3,600 s pass, and a new key epoch is negotiated. (R307) -/
  | rekeyStart (p : PortNo)
  /-- A REKEY frame carries the exchange for a new key epoch. (R305) -/
  | rekeyFrameReceive (p : PortNo) (f : RxFrame) (sound : Bool)
  /-- A RESPONSE with UNDELIVERED arrives, and the source completes its request with 0x0708. (R310) -/
  | undeliveredReceive (tag : W32)
  /-- A write of fab.comp.node_map_write appends node numbers or is refused with 0x090B. (R289) -/
  | nodeMapWrite (r : Role) (c : CompNo) (v : BitVec 512)
  /-- A write of true to fab.comp.node_map_clear empties the node map. (R316) -/
  | nodeMapClear (r : Role) (c : CompNo) (v : Bool)
  /-- CREATE checks the geometry, switches on and zeroes the tiles, draws keys and seeds, and enters FORMING. (R324) -/
  | compCreate (r : Role) (c : CompNo)
  /-- ATTEST checks every ATTESTED condition and signs the report, or is refused and names the first unmet object. (R323) -/
  | compAttest (r : Role) (c : CompNo)
  /-- START takes an ATTESTED compartment with every contributor keyed into RUNNING and starts thread 0 of each core. (R323) -/
  | compStart (r : Role) (c : CompNo)
  /-- HOLD moves a RUNNING compartment to HELD with cause 0x0A0B. (R325) -/
  | compHold (r : Role) (c : CompNo)
  /-- RESUME returns a HELD compartment to RUNNING if its hold cause allows. (R325) -/
  | compResume (r : Role) (c : CompNo)
  /-- CLOSE starts teardown, or is held while a dovetail is in progress. (R326) -/
  | compClose (r : Role) (c : CompNo)
  /-- CLOSE_NOW abandons any dovetail and starts teardown at once. (R323) -/
  | compCloseNow (r : Role) (c : CompNo)
  /-- A held CLOSE executes when its dovetail is committed or abandoned. (R326) -/
  | deferredCloseExecute (c : CompNo)
  /-- A held CLOSE misses close_defer_ms and is refused with 0x0A0C. (R326) -/
  | closeDeferTimeout (c : CompNo)
  /-- The erase of a held flash channel ends, and the channel may be named in a geometry record again. (R327) -/
  | flashEraseDone (channel : PortNo)
  /-- A write of comp.contrib_write defines or empties a contributor slot, or is refused with 0x0A04. (R331) -/
  | contribWrite (r : Role) (c : CompNo) (v : BitVec 1024)
  /-- A key delivery is checked, unwrapped and compared with its commitment, and a contributor or job key is installed. (R391) -/
  | keyDeliver (r : Role) (c : CompNo) (record : List Byte) (opened : Option (BitVec 256))
  /-- An advance of tally_close_peg closes the tally step and sends tally posts to every job module. (R335) -/
  | tallyClose (c : CompNo)
  /-- A tally post arrives and is added, refused with NOT_READY, or discarded as a duplicate; the final tally is handed on. (R336) -/
  | tallyPostReceive (c : CompNo) (module : BitVec 16) (step : W64) (counts : List W32)
  /-- Every 10 µs the sender repeats a tally post that was refused with NOT_READY. (R336) -/
  | tallyPostRetry (c : CompNo) (module : BitVec 16) (step : W64)
  /-- A release request in HELD sets READ_ONLY on the object, fixes STEP and computes D. (R338) -/
  | releaseRequest (r : Role) (c : CompNo) (v : BitVec 384)
  /-- A contributor approval is verified, and at quorum the object's pages are released. (R339) -/
  | releaseApprove (r : Role) (c : CompNo) (v : List Byte) (signed : Bool)
  /-- A release request lacks its quorum at release_window_s and expires with 0x0A0A. (R340) -/
  | releaseExpired (c : CompNo)
  /-- A key-range descriptor write is accepted, or refused with 0x0B01. (R346) -/
  | krDescWrite (r : Role) (c : CompNo) (range : Fin 16) (v : BitVec 128)
  /-- A write of true to integ.comp.event_clear clears first_event. (R373) -/
  | integEventClear (r : Role) (c : CompNo) (v : Bool)
  /-- An entropy health test fails, and the module enters FAULT with 0x0C04. (R376) -/
  | entropyFail
  /-- A write of a class to rot.svn_advance in SERVICE blows SVN fuse bits up to the running image's SVN. (R382) -/
  | svnAdvance (r : Role) (cls : Byte)
  /-- A nonce written to rot.comp.report_request queues the signing of a compartment report. (R383) -/
  | reportRequest (r : Role) (c : CompNo) (nonce : BitVec 256)
  /-- A nonce written to rot.report_request queues the signing of a module report. (R383) -/
  | moduleReportRequest (r : Role) (nonce : BitVec 256)
  /-- A report signature completes, and the newest report becomes readable. (R383) -/
  | reportSigned (signature : List Byte)
  /-- The digest of a streamed MEASURED slot completes and is compared with its ledger entry. (R389) -/
  | slotMeasure (c : CompNo) (entry : Nat) (next ledger : Option SpanReply)
  /-- An SPDM GET_VERSION request is answered. (R393) -/
  | getVersion (sess : Option (Fin 4)) (sound : Bool)
  /-- An SPDM GET_CAPABILITIES request is answered. (R393) -/
  | getCapabilities (sess : Option (Fin 4)) (sound : Bool)
  /-- An SPDM NEGOTIATE_ALGORITHMS request is answered. (R393) -/
  | negotiateAlgorithms (sess : Option (Fin 4)) (sound : Bool)
  /-- An SPDM GET_DIGESTS request is answered. (R393) -/
  | getDigests (sess : Option (Fin 4)) (sound : Bool)
  /-- An SPDM GET_CERTIFICATE request for slot 0 is answered. (R393) -/
  | getCertificate (sess : Option (Fin 4)) (sound : Bool) (slot : Byte) (off len : BitVec 16)
  /-- An SPDM CHALLENGE is answered with a signed response, or with ResponseNotReady. (R393) -/
  | challenge (sess : Option (Fin 4)) (sound ready : Bool)
  /-- An SPDM GET_MEASUREMENTS request returns the measurement blocks. (R393) -/
  | getMeasurements (sess : Option (Fin 4)) (sound : Bool) (block : Byte) (signed ready : Bool)
  /-- A KEM_ENCAP vendor-defined request establishes a PSK and returns a 16-byte hint. (R394) -/
  | kemEncap (sess : Option (Fin 4)) (sound : Bool)
  /-- An SPDM PSK_EXCHANGE opens a secured session on a PSK hint. (R394) -/
  | pskExchange (sess : Option (Fin 4)) (sound : Bool) (hint : BitVec 128)
  /-- An SPDM PSK_FINISH completes the session establishment. (R393) -/
  | pskFinish (sess : Option (Fin 4)) (sound : Bool)
  /-- An SPDM KEY_UPDATE updates the session keys. (R393) -/
  | keyUpdate (sess : Option (Fin 4)) (sound : Bool)
  /-- An SPDM HEARTBEAT keeps a session alive. (R393) -/
  | spdmHeartbeat (sess : Option (Fin 4)) (sound : Bool)
  /-- An SPDM END_SESSION ends the session and erases its PSK. (R394) -/
  | endSession (sess : Option (Fin 4)) (sound : Bool)
  /-- An SPDM CHUNK_GET returns one chunk of a large response. (R393) -/
  | chunkGet (sess : Option (Fin 4)) (sound : Bool) (chunk : BitVec 16)
  /-- An SPDM request that is not listed receives ERROR UnsupportedRequest. (R393) -/
  | spdmUnsupportedRequest (sess : Option (Fin 4))
  /-- The 1 s refusal of PSK_EXCHANGE after a session was ended expires. (R398) -/
  | spdmLockoutEnd
  /-- IDE_KM KEY_PROG programs the keys of a virtual function's stream. (R395) -/
  | keyProg (sess : Option (Fin 4)) (sound : Bool) (c : CompNo)
  /-- IDE_KM K_SET_GO starts the stream's key set. (R395) -/
  | kSetGo (sess : Option (Fin 4)) (sound : Bool) (c : CompNo)
  /-- IDE_KM K_SET_STOP stops the stream's key set. (R395) -/
  | kSetStop (sess : Option (Fin 4)) (sound : Bool) (c : CompNo)
  /-- TDISP LOCK_INTERFACE moves the interface to CONFIG_LOCKED, or returns ERROR. (R396) -/
  | lockInterface (sess : Option (Fin 4)) (sound : Bool) (c : CompNo)
  /-- TDISP GET_DEVICE_INTERFACE_REPORT returns the report carrying the compartment's TERMS. (R396) -/
  | getDeviceInterfaceReport (sess : Option (Fin 4)) (sound : Bool) (c : CompNo)
  /-- TDISP START_INTERFACE moves the interface to RUN. (R396) -/
  | startInterface (sess : Option (Fin 4)) (sound : Bool) (c : CompNo)
  /-- TDISP STOP_INTERFACE returns the interface to CONFIG_UNLOCKED. (R397) -/
  | stopInterface (sess : Option (Fin 4)) (sound : Bool) (c : CompNo)
  /-- A configuration change, a stream leaving Secure or a compartment closing puts the interface in ERROR. (R397) -/
  | tdiError (c : CompNo) (streamLost : Bool)
  /-- A write of ckpt.comp.set_write appends a checkpoint set entry and defines its object, or is refused. (R401) -/
  | setWrite (r : Role) (c : CompNo) (v : BitVec 128)
  /-- The engine takes a boundary line, marks the pending pages, starts a dovetail and advances armed_peg, or refuses the line. (R411) -/
  | boundaryTake (c : CompNo) (remote : Option SpanReply)
  /-- The background copy of a pending page to every copy is acknowledged, and its mark is cleared. (R412) -/
  | ckptPageCopy (c : CompNo) (page : BitVec 40)
  /-- A shard post arrives; when all have arrived, the dovetail record is written to every copy. (R412) -/
  | shardPostReceive (c : CompNo) (module : BitVec 16) (step : W64) (digest : BitVec 384) (bytes : W64) (locs : List (W32 × W32))
  /-- Every 10 µs the sender repeats a shard post that was refused with NOT_READY. (R412) -/
  | shardPostRetry (c : CompNo) (module : BitVec 16)
  /-- Every copy acknowledges the record, so the step is committed and commit_peg advances. (R412) -/
  | dovetailCommit (c : CompNo)
  /-- The dovetail misses dovetail_ms and is abandoned with 0x0D05 and an abandon post. (R413) -/
  | dovetailTimeout (c : CompNo)
  /-- An abandon post arrives and the module abandons that step at once. (R413) -/
  | abandonPostReceive (c : CompNo) (step : W64)
  /-- The copy-ahead of a pending page completes, and the held write is performed. (R415) -/
  | copyAheadDone (c : CompNo) (page : BitVec 40)
  /-- A copy-ahead exceeds ahead_timeout_ms, so the dovetail is abandoned and the held writes are performed. (R415) -/
  | copyAheadTimeout (c : CompNo) (page : BitVec 40)
  /-- A copy's lease is reclaimed or its lender isolated, so the copy is rebuilt from another complete copy. (R409) -/
  | ckptCopyLost (c : CompNo) (slot copy : Fin 3)
  /-- During HOLDUP the budget minus holdup_margin_ms passes without commit, so the dovetail is abandoned. (R418) -/
  | ckptHoldupDeadline (c : CompNo)
  /-- A restore record is accepted, the copies are verified and this module's set of restorable steps is sent. (R420) -/
  | restoreRequest (r : Role) (c : CompNo) (v : BitVec 512) (found : List RecFound)
  /-- Another module's set arrives; once all are in, the common step is chosen and written back. (R421) -/
  | restoreSetReceive (c : CompNo) (rid : W64) (module : BitVec 16) (set : List (W64 × BitVec 384))
  /-- Not every set arrives within restore_ms, and the restore fails with 0x0D09. (R421) -/
  | restoreTimeout (c : CompNo)
  /-- An abort post for the RESTORE_ID arrives, and the restore fails with 0x0D0E. (R423) -/
  | restoreAbortPost (c : CompNo) (rid : W64)
  /-- The phase unit takes a mark entry, closes the open phase and records its duration, and opens the new phase. (R440) -/
  | phaseMarkTake (c : CompNo) (remote : Option SpanReply)
  /-- The open phase lasts twice its PLAN_US, so an overrun is counted and the controllers go to feedback alone. (R441) -/
  | phaseOverrun (c : CompNo)
  /-- Input held at or above 44 V for 10 ms takes the module from OFF to STANDBY. (R543) -/
  | inputApplied (mv : BitVec 16) (bad : List (BitVec 24))
  /-- Input below 44 V for more than 1 ms starts HOLDUP, or returns VERIFY or BRINGUP to STANDBY. (R444) -/
  | inputLow (mv : BitVec 16)
  /-- Input below 40 V for more than 100 µs stops the power stage and the module goes OFF. (R444) -/
  | inputLoss (mv : BitVec 16)
  /-- Input above 58 V for more than 10 ms stops the power stage and puts the module into FAULT. (R444) -/
  | inputOvervoltage (mv : BitVec 16)
  /-- Each 1 ms average of input power is compared with the input limit. (R445) -/
  | inputPowerSample (watts common : BitVec 16)
  /-- Every 100 ms the power-limit factor drops or rises one level. (R445) -/
  | powerLimitEval
  /-- A write of power.input_limit_w changes allotable_w, or is refused with 0x0E0F. (R446) -/
  | inputLimitWrite (r : Role) (v : BitVec 16)
  /-- A write of power.comp.allot_w is accepted, or refused for state or for exceeding allotable_w. (R447) -/
  | allotWrite (r : Role) (c : CompNo) (v : BitVec 16)
  /-- Every 100 µs the accounted draw, governed levels, filler, ramp slots and pacer caps of each compartment are updated. (R451) -/
  | governorWindow
  /-- Every 10 ms the valve controller computes a new flow setpoint from feed-forward and feedback. (R459) -/
  | valveTick (x : Sensors)
  /-- Flow stays below half the setpoint with the valve open for 2 s, so 0x0E0C is logged and the level rises to at least HOT. (R460) -/
  | coolantFlowLow (x : Sensors)
  /-- The inlet stays outside 20–45 °C for 1 s, so 0x0E0D is logged and the level rises to at least HOT. (R460) -/
  | coolantInletRange (x : Sensors)
  /-- Every 100 ms the thermal level is evaluated and the caps change identically for all compartments. (R461) -/
  | thermalEval (x : Sensors)
  /-- An EMERGENCY condition is entered within 1 ms, setting the cap to 500 Mbeat/s and opening the valve fully. (R461) -/
  | thermalEmergency (x : Sensors)
  /-- EMERGENCY lasts 10 s or a hot spot exceeds 120 °C, so the module enters FAULT. (R461) -/
  | thermalFault (x : Sensors)
  /-- A filtered assertion of BUS_WARN# starts HOLDUP, holds a pending START, or returns the module to STANDBY. (R561) -/
  | busWarnAssert
  /-- BUS_WARN# deasserts, and a pending START or auto-start proceeds to VERIFY. (R561) -/
  | busWarnDeassert
  /-- The hold-up budget is spent, so every pacer cap goes to 0 and the draw falls to the pause floor. (R464) -/
  | holdupPause
  /-- Input at or above 46 V with the bus warning deasserted for clear_ms returns the module to RUN or READY. (R465) -/
  | holdupExit (mv : BitVec 16)
  /-- A SYNC message arrives from the time source and is timestamped. (R478) -/
  | ptpSync (x : PtpIn)
  /-- A FOLLOW_UP gives the SYNC egress time, and the servo measures the offset and slews or steps the counter. (R472) -/
  | ptpFollowUp (x : PtpIn)
  /-- A DELAY_REQ arrives and is answered with DELAY_RESP carrying its ingress time. (R478) -/
  | ptpDelayReq (x : PtpIn)
  /-- A DELAY_RESP arrives, and the link delay is computed, filtered, or rejected. (R478) -/
  | ptpDelayResp (x : PtpIn)
  /-- An ANNOUNCE arrives, and the best master clock algorithm reselects the time source. (R476) -/
  | ptpAnnounce (x : PtpIn)
  /-- Sixteen times a second, each master fabric port sends SYNC and FOLLOW_UP. (R476) -/
  | ptpSyncSend (p : PortNo)
  /-- Once a second, each master fabric port sends ANNOUNCE. (R476) -/
  | ptpAnnounceSend (p : PortNo)
  /-- Eight times a second, each end of a fabric link sends DELAY_REQ. (R478) -/
  | ptpDelayReqSend (p : Fin 33)
  /-- The announce receipt timeout expires with no qualifying source, so the servo enters HOLDOVER. (R472) -/
  | timeSourceLost
  /-- HOLDOVER reaches holdover_limit_s, and the servo enters HOLDOVER_EXPIRED. (R472) -/
  | timeHoldoverLimit
  /-- A write of ev.comp.tile_sel zeroes the tile counters and schedules the new selection, or is refused. (R481) -/
  | tileSelWrite (r : Role) (c : CompNo) (v : W64)
  /-- A write of an aggregate counter object zeroes it and schedules its new code and scope. (R481) -/
  | aggWrite (r : Role) (c : CompNo) (j : Fin 64) (v : BitVec 128)
  /-- At the first multiple of 1,024 ns at least 2 µs after a selector write, the new selection starts on every tile. (R481) -/
  | evSelectEffect (c : CompNo)
  /-- An advance of snap_req_peg latches all tile counters and writes the snapshot, then advances snap_done_peg. (R483) -/
  | snapReq (c : CompNo)
  /-- A write of true to ev.comp.snap_now triggers a snapshot. (R483) -/
  | snapNow (r : Role) (c : CompNo) (v : Bool)
  /-- A write of true to ev.comp.phase_clear zeroes the phase timing records. (R484) -/
  | phaseClear (r : Role) (c : CompNo) (v : Bool)
  /-- A NOP command completes with success. (R498) -/
  | nop (f : FuncNo) (q : PairNo)
  /-- A PROGRAM load writes a tile's program store and extends LOAD_DIGEST. (R499) -/
  | loadProgram (f : FuncNo) (q : PairNo) (d : HostRead)
  /-- A SPAN load writes span pages as first writes, or is refused for contributor or table pages. (R499) -/
  | loadSpan (f : FuncNo) (q : PairNo) (d : HostRead)
  /-- A MAP_TABLE load loads the mapping table, or is refused. (R427) -/
  | loadMapTable (f : FuncNo) (q : PairNo) (d : HostRead)
  /-- A PHASE_PLAN load loads the phase plan, or is refused. (R438) -/
  | loadPhasePlan (f : FuncNo) (q : PairNo) (d : HostRead)
  /-- A SCALE_TABLE load is checked whole and writes the scale table page, or is refused with 0x0508. (R500) -/
  | loadScaleTable (f : FuncNo) (q : PairNo) (d : HostRead)
  /-- A LAYER_TABLE load is checked whole and writes the layer table, or is refused with 0x0601. (R500) -/
  | loadLayerTable (f : FuncNo) (q : PairNo) (d : HostRead)
  /-- An IMPORT command verifies one contributor import block and writes it as a whole page, or refuses it with 0x0B0A. (R372) -/
  | importBlock (f : FuncNo) (q : PairNo) (d : HostRead) (opened : Option (List Byte))
  /-- A SPAN_WRITE command writes host data into span memory as a job write. (R498) -/
  | spanWrite (f : FuncNo) (q : PairNo) (d : HostRead) (remote : Option SpanReply)
  /-- An EXPORT command writes a job-key-sealed page record of one homed page to the host. (R501) -/
  | exportPage (f : FuncNo) (q : PairNo) (bad : Option (Fin 1024 × Integ))
  /-- A READ_RELEASED command writes the plaintext of one released page to the host. (R501) -/
  | readReleased (f : FuncNo) (q : PairNo) (bad : Option (Fin 1024 × Integ))
  /-- A host PEG_POST command posts to a local peg of the compartment. (R498) -/
  | hostPegPost (f : FuncNo) (q : PairNo)
  /-- A host PEG_TRY command tries a local peg and returns the result. (R498) -/
  | hostPegTry (f : FuncNo) (q : PairNo)
  /-- A host PEG_READ command returns a local peg's value. (R498) -/
  | hostPegRead (f : FuncNo) (q : PairNo)
  /-- An MBOX_READ command writes a result mailbox's header and payload to the host, or returns NOT_READY. (R505) -/
  | mboxRead (f : FuncNo) (q : PairNo)
  /-- An MBOX_ACK command retires the mailbox's result of the matching generation, or is a stale acknowledge. (R506) -/
  | mboxAck (f : FuncNo) (q : PairNo)
  /-- A write of the submission doorbell makes the module take entries up to the new tail. (R496) -/
  | sqTail (f : FuncNo) (q : PairNo) (v : W32) (entries : List (Option (BitVec 512)))
  /-- A write of the completion doorbell releases completion slots. (R497) -/
  | cqHead (f : FuncNo) (q : PairNo) (v : W32) (entries : List (Option (BitVec 512)))
  /-- A write of ENABLE enables a queue pair and resets its sequence numbers, or disables it and discards its untaken entries. (R493) -/
  | queueEnable (f : FuncNo) (q : PairNo) (v : Byte)
  /-- A write to CAUSE clears the interrupt cause bits written as 1. (R508) -/
  | causeWrite (f : FuncNo) (reg : Fin 3) (v : W64)
  /-- Writing 1 to MB_DOORBELL submits a dictionary request, and the reply is written to the reply buffer. (R537) -/
  | mbDoorbell (f : FuncNo) (regs : MbRegs) (v : W32) (req : HostRead) (ext : List DictExt)
  /-- A BAR2 write or an ill-formed BAR0 access is discarded and counted. (R511) -/
  | hostBarViolation (f : FuncNo) (at_ : Option (Fin 17))
  /-- The 1 s quarantine of a dictionary mailbox ends. (R511) -/
  | mbQuarantineEnd (f : FuncNo)
  /-- Once its mailbox is not READY, a publish entry copies the result into the mailbox, sets READY and raises the vector. (R505) -/
  | publishEntry (c : CompNo) (k : Nat) (ring src : Option SpanReply)
  /-- The host link goes down; compartments continue and completions are held. (R509) -/
  | hostLinkDown
  /-- The host link returns, and held completions and interrupts are delivered. (R509) -/
  | hostLinkUp (width : Fin 9) (gts : Byte) (vfs : Fin 9)
  /-- A function-level reset disables the function's queues and resets its registers and mailbox. (R510) -/
  | hostFlr (f : FuncNo)
  /-- PERST#, a hot reset or a link disable resets only the host interface registers. (R548) -/
  | endpointReset (perst : Bool)
  /-- A READ entry returns a snapshot of the object or part of it. (R525) -/
  | dictRead (r : Role) (index : BitVec 16) (sub : Byte) (offset len : W32)
  /-- A WRITE entry replaces a writable object without a row of its own, after the checks. (R524) -/
  | dictWrite (r : Role) (index : BitVec 16) (sub type : Byte) (value : List Byte) (x : DictExt)
  /-- A DESCRIBE entry returns an object's type, rights, persistence, states and default. (R526) -/
  | dictDescribe (r : Role) (index : BitVec 16) (sub : Byte)
  /-- An INIT segment starts a session handshake, and the module checks the chain and sends ACCEPT. (R532) -/
  | xieskInit (m : InitSeg)
  /-- A CONFIRM from the client is verified, and the session is established or refused. (R532) -/
  | xieskConfirm (m : ConfirmSeg)
  /-- A DATA segment is checked and assembled into a request message, which is executed. (R533) -/
  | xieskData (m : DataSeg) (ext : List DictExt)
  /-- A CLOSE segment from the client ends the session. (R534) -/
  | xieskClose (src : BitVec 128) (ident : W32) (sound tagOk : Bool)
  /-- A handshake not complete within 10 s of its INIT is discarded. (R532) -/
  | handshakeTimeout (ident : W32)
  /-- A partly received message not complete within 1 s is discarded. (R531) -/
  | partialMessageTimeout (slot : Fin 8) (counter : W64)
  /-- No message arrives for idle_timeout_s, and the session ends. (R534) -/
  | sessionIdleTimeout (slot : Fin 8)
  /-- The session lifetime or counter limit is reached, and the session ends. (R534) -/
  | sessionLifetime (slot : Fin 8)
  /-- A write of a slot to sess.close ends that session. (R534) -/
  | sessClose (r : Role) (slot : Byte)
  /-- The 60 s ignore of a misbehaving IPv6 source ends. (R536) -/
  | sourceIgnoreEnd (src : BitVec 128)
  /-- A fabric DICT_RO request reads part of a fabric-subset object and is answered with a reply packet. (R540) -/
  | dictRoRequest (p : PortNo) (node : BitVec 16) (tag : W32) (op : BitVec 256)
  /-- START takes the module from STANDBY to VERIFY, or stays pending under BUS_WARN#. (R544) -/
  | moduleStart (r : Role)
  /-- With auto_start true, adequate input and both lines deasserted, the module goes from STANDBY to VERIFY by itself. (R543) -/
  | autoStart
  /-- SERVICE runs the lender reclaim and then enters SERVICE. (R544) -/
  | moduleService (r : Role)
  /-- EXIT_SERVICE returns the module to READY. (R544) -/
  | exitService (r : Role)
  /-- STANDBY runs the reclaim, switches off all but the always-on and time domains, and enters STANDBY. (R544) -/
  | moduleStandby (r : Role)
  /-- RESET_MODULE logs 0x1208, reclaims leases, closes compartments, switches domains off and enters VERIFY. (R549) -/
  | resetModule (r : Role)
  /-- RESET_FULL runs the reset sequence for the FULL kind and enters STANDBY. (R549) -/
  | resetFull (r : Role)
  /-- RESET# asserted for 10 ms or longer starts a FULL reset. (R562) -/
  | resetPinAssert (low : Bool)
  /-- Boot verification of every firmware class completes, and the module enters BRINGUP. (R381) -/
  | verifyPass (fuseOk : Bool) (slots : List (FwSlot × FwSlot))
  /-- VERIFY exceeds 485 ms, and the module enters FAULT with 0x1202. (R543) -/
  | verifyTimeout
  /-- Bring-up steps 2–5 end, and the module enters READY. (R546) -/
  | bringupComplete (railsOk : Bool) (hbmStacks : List (Fin 12)) (flash : List (Fin 32)) (tiles : List TileNo) (spare : BitVec 256)
  /-- BRINGUP exceeds 6 s, and the module enters FAULT with 0x1204. (R543) -/
  | bringupTimeout
  /-- A local request slot is still outstanding after slot_watchdog_us and completes with 0x1209. (R550) -/
  | requestWatchdog (t : TileNo) (slot : Fin 256)
  /-- A write of module.fw_stage in SERVICE appends one chunk to the staging image, or is refused. (R551) -/
  | fwStage (r : Role) (v : List Byte)
  /-- A write of module.fw_commit verifies the staged image and writes it to slot A, or refuses it. (R551) -/
  | fwCommit (r : Role) (cls : Byte) (signed : Bool)
  /-- A write of true to fault.clear in SERVICE empties the fault log and its mirror. (R553) -/
  | faultClear (r : Role) (v : Bool)
  /-- Every 60 s the fault log is mirrored to the boot store. (R552) -/
  | faultLogMirror
  /-- Every 60 s the persistent counters are stored to the boot store. (R519) -/
  | persistentCounterStore
  /-- A lane of a trained port loses lock, or its corrected-symbol rate exceeds 10^-5, and the port retrains at width 2 or goes down. (R284) -/
  | laneLockFail (p : PortNo) (retrained : Bool)
  /-- No AUDIT frame has arrived within three epoch lengths of the previous one, so the presence check fails and R304 runs. (R303) -/
  | auditAbsent (p : PortNo)
  /-- On the lender, the reclaim deadline D from its notices runs out, ending the reclaim that SERVICE, STANDBY, a reset or HOLDUP waits on. (R271) -/
  | lenderReclaimDeadline
  /-- The rebuild of a lost checkpoint copy into a new lease completes, and the slot again holds all its copies. (R409) -/
  | ckptCopyRebuilt (c : CompNo) (slot : Fin 3)
  /-- The zeroing of the held channel groups ends, the tile domains switch OFF and the compartment leaves CLOSING for FREE. (R327) -/
  | teardownComplete (c : CompNo)
  /-- The write pass of a restore ends, restore_status shows done or failed, and hold_cause and the units are set as R422 states. (R422) -/
  | restoreWriteDone (c : CompNo) (img : Option ShardImg)
  /-- A host write to a queue-pair register other than ENABLE is applied while QSTATE is 0, or is discarded with 0x1006 and counted as a violation. (R493) -/
  | queueRegisterWrite (f : FuncNo) (q : PairNo) (reg : Fin 4) (v : W64)
  deriving DecidableEq, Repr

end Sys2Proof
end

