-- ==== Sys2Proof/WellFormed.lean ====
section
/-! DEFINITION. Which commands are well formed: operands that the rules let the block receive. Every meaning is total on every
term; an ill-formed one is no command that reaches the block. -/

namespace Sys2Proof

/-- No value occurs twice. -/
def noRepeats {α : Type} [DecidableEq α] : List α → Bool
  | [] => true
  | x :: xs => !xs.contains x && noRepeats xs

/-- An answer to a span request carries a 16-bit status (R293). -/
def repliesOk (rs : List SpanReply) : Bool := rs.all fun r => decide (r.fault < 65536)

/-- A request of a job module carries the bytes it writes, and none when it reads (R293). -/
def sourceOk : SpanSource → Bool
  | .slot _ _ => true
  | .remote _ _ _ _ .read _ data => data.isEmpty
  | .remote _ _ _ _ .write len data => decide (data.length = len.val)
  | .remote _ _ _ _ (.amo _) len data => (len.val = 4 || len.val = 8) && decide (data.length = len.val)

/-- A host read returns no more than the longest LENGTH of its command (R498, R499, R520). -/
def readOk (most : Nat) : HostRead → Bool
  | .failed => true
  | .data bytes => decide (bytes.length ≤ most)

/-- A reading of every sensor: a hot spot per die and a temperature per stack (R457). -/
def sensorsOk (x : Sensors) : Bool := decide (x.hot.length = 4) && decide (x.hbmStacks.length = 12)

/-- The checks of each command. -/
def Instr.wf (i : Instr) : Bool :=
  match i with
  | .cadenceWindow samples => noRepeats (samples.map (·.tile))
  | .boostEntry _ => true
  | .boostRailStep _ _ => true
  | .boostExit _ => true
  | .pacerPermit _ deficit => noRepeats deficit
  | .retainEntry _ => true
  | .tileWake _ => true
  | .tileHandshakeTimeout _ _ => true
  | .tilePowerFail _ => true
  | .tileStoreError _ _ _ => true
  | .fencedSlotComplete _ _ => true
  | .unfence _ tileNo _ => decide (tileNo < 65536)
  | .seamFrameReceive _ _ => true
  | .mxPost _ _ _ => true
  | .mxOpExecute _ => true
  | .mxAccUncorrectable _ _ => true
  | .mxOpComplete _ => true
  | .mxTrapClear _ _ _ => true
  | .vxPost _ _ _ => true
  | .vxChainExecute _ => true
  | .vxRegUncorrectable _ _ => true
  | .vxChainComplete _ => true
  | .vxTrapClear _ _ _ => true
  | .userInstruction _ => true
  | .eventDivert _ => true
  | .yeventsWrite _ _ => true
  | .spanLoad _ _ _ _ _ _ => true
  | .spanStore _ _ _ _ => true
  | .spanAmo _ _ _ _ _ _ _ _ => true
  | .tileLr _ _ _ _ _ => true
  | .tileSc _ _ _ _ _ _ => true
  | .fence _ _ _ => true
  | .spanResponseReceive _ _ remote => repliesOk remote.toList
  | .slotGrant _ => true
  | .gxPost _ _ _ _ => true
  | .engSpace _ _ _ => true
  | .thrStart _ _ _ _ => true
  | .thrExit _ => true
  | .thrYield _ => true
  | .thrRet _ => true
  | .runaheadEntry _ _ => true
  | .runaheadLimit _ _ => true
  | .runaheadExit _ => true
  | .prefetchAgeOut _ _ _ => true
  | .gxDescExecute _ _ remote _ => repliesOk (remote.map (·.2))
  | .gxRingAdvance _ _ remote _ => repliesOk (remote.map (·.2))
  | .gxComplete _ _ => true
  | .prepFaultClear _ _ _ => true
  | .verdictApply _ remote => repliesOk remote.toList
  | .numEventClear _ _ _ => true
  | .plumbLineAccept _ remote => repliesOk remote.toList
  | .paramLinePublish _ => true
  | .updRingTake _ remote => repliesOk remote.toList
  | .updCommitEvaluate _ _ => true
  | .updConfirmTimeout _ _ => true
  | .updCommitCopyDone _ _ => true
  | .noiseFillDone _ _ => true
  | .updEventClear _ _ _ => true
  | .segWrite _ _ _ => true
  | .segClear _ _ _ => true
  | .spanRequestReceive src _ => sourceOk src
  | .metacacheUncorrectable _ _ _ => true
  | .pegPost _ _ _ _ => true
  | .pegWait _ _ _ _ => true
  | .pegTry _ _ _ _ => true
  | .pegRead _ _ _ _ => true
  | .remotePegOperation _ _ _ _ _ _ => true
  | .remotePegReply _ _ _ _ => true
  | .remoteTimeout _ _ => true
  | .defineWrite _ _ _ => true
  | .placeDefine _ remote => repliesOk remote.toList
  | .placePromote _ remote => repliesOk remote.toList
  | .placeEvict _ remote => repliesOk remote.toList
  | .placeUnpin _ remote => repliesOk remote.toList
  | .placeStream _ remote slots => repliesOk (remote.toList ++ slots.filterMap id) && decide (slots.length ≤ 124)
  | .placeRetire _ remote => repliesOk remote.toList
  | .pageMoveStart _ _ => true
  | .pageOwnershipStep _ _ _ => true
  | .lendOfferWrite _ _ => true
  | .leaseRequest _ _ _ _ => true
  | .leaseGrantReceive _ _ _ => true
  | .leaseHeartbeat _ => true
  | .leaseRelease _ => true
  | .leaseScrubDone _ => true
  | .reclaim _ _ => true
  | .reclaimNoticeReceive _ _ _ _ => true
  | .reclaimDeadline _ _ _ => true
  | .forceRelease _ => true
  | .heartbeatMissLimit _ _ _ => true
  | .lenderIsolated _ _ => true
  | .tierLeaseOrphaned _ => true
  | .flashProgramDone _ _ => true
  | .flashGc _ _ => true
  | .flashBlockRetire _ _ => true
  | .quotaWrite _ _ _ _ => true
  | .tierEventClear _ _ _ => true
  | .fabricConfigWrite _ _ _ => true
  | .portRearm _ _ => true
  | .portTrain _ _ _ => true
  | .keyingFrameReceive _ _ => true
  | .keyingRepeat _ => true
  | .keyingTimeout _ => true
  | .linkFrameReceive _ _ => true
  | .dataFrameSend _ _ _ => true
  | .dataFrameReceive _ _ pkts => pkts.all fun k => decide (k.data.length % 64 = 0 ∧ k.data.length ≤ 1024)
  | .replayReqReceive _ _ => true
  | .auditEpochEnd _ => true
  | .auditFrameReceive _ _ _ => true
  | .recreditFrameReceive _ _ _ _ => true
  | .rekeyStart _ => true
  | .rekeyFrameReceive _ _ _ => true
  | .undeliveredReceive _ => true
  | .nodeMapWrite _ _ _ => true
  | .nodeMapClear _ _ _ => true
  | .compCreate _ _ => true
  | .compAttest _ _ => true
  | .compStart _ _ => true
  | .compHold _ _ => true
  | .compResume _ _ => true
  | .compClose _ _ => true
  | .compCloseNow _ _ => true
  | .deferredCloseExecute _ => true
  | .closeDeferTimeout _ => true
  | .flashEraseDone _ => true
  | .contribWrite _ _ _ => true
  | .keyDeliver _ _ record _ => decide (record.length = 1680)
  | .tallyClose _ => true
  | .tallyPostReceive _ _ _ counts => decide (counts.length = 9)
  | .tallyPostRetry _ _ _ => true
  | .releaseRequest _ _ _ => true
  | .releaseApprove _ _ v _ => decide (v.length = 29888)
  | .releaseExpired _ => true
  | .krDescWrite _ _ _ _ => true
  | .integEventClear _ _ _ => true
  | .entropyFail => true
  | .svnAdvance _ _ => true
  | .reportRequest _ _ _ => true
  | .moduleReportRequest _ _ => true
  | .reportSigned signature => decide (signature.length = 29792)
  | .slotMeasure _ _ next ledger => repliesOk (next.toList ++ ledger.toList)
  | .getVersion _ _ => true
  | .getCapabilities _ _ => true
  | .negotiateAlgorithms _ _ => true
  | .getDigests _ _ => true
  | .getCertificate _ _ _ _ _ => true
  | .challenge _ _ _ => true
  | .getMeasurements _ _ _ _ _ => true
  | .kemEncap _ _ => true
  | .pskExchange _ _ _ => true
  | .pskFinish _ _ => true
  | .keyUpdate _ _ => true
  | .spdmHeartbeat _ _ => true
  | .endSession _ _ => true
  | .chunkGet _ _ _ => true
  | .spdmUnsupportedRequest _ => true
  | .spdmLockoutEnd => true
  | .keyProg _ _ _ => true
  | .kSetGo _ _ _ => true
  | .kSetStop _ _ _ => true
  | .lockInterface _ _ _ => true
  | .getDeviceInterfaceReport _ _ _ => true
  | .startInterface _ _ _ => true
  | .stopInterface _ _ _ => true
  | .tdiError _ _ => true
  | .setWrite _ _ _ => true
  | .boundaryTake _ remote => repliesOk remote.toList
  | .ckptPageCopy _ _ => true
  | .shardPostReceive _ _ _ _ _ _ => true
  | .shardPostRetry _ _ => true
  | .dovetailCommit _ => true
  | .dovetailTimeout _ => true
  | .abandonPostReceive _ _ => true
  | .copyAheadDone _ _ => true
  | .copyAheadTimeout _ _ => true
  | .ckptCopyLost _ _ _ => true
  | .ckptHoldupDeadline _ => true
  | .restoreRequest _ _ _ _ => true
  | .restoreSetReceive _ _ _ _ => true
  | .restoreTimeout _ => true
  | .restoreAbortPost _ _ => true
  | .phaseMarkTake _ remote => repliesOk remote.toList
  | .phaseOverrun _ => true
  | .inputApplied _ _ => true
  | .inputLow _ => true
  | .inputLoss _ => true
  | .inputOvervoltage _ => true
  | .inputPowerSample _ _ => true
  | .powerLimitEval => true
  | .inputLimitWrite _ _ => true
  | .allotWrite _ _ _ => true
  | .governorWindow => true
  | .valveTick x => sensorsOk x
  | .coolantFlowLow x => sensorsOk x
  | .coolantInletRange x => sensorsOk x
  | .thermalEval x => sensorsOk x
  | .thermalEmergency x => sensorsOk x
  | .thermalFault x => sensorsOk x
  | .busWarnAssert => true
  | .busWarnDeassert => true
  | .holdupPause => true
  | .holdupExit _ => true
  | .ptpSync _ => true
  | .ptpFollowUp _ => true
  | .ptpDelayReq _ => true
  | .ptpDelayResp _ => true
  | .ptpAnnounce _ => true
  | .ptpSyncSend _ => true
  | .ptpAnnounceSend _ => true
  | .ptpDelayReqSend _ => true
  | .timeSourceLost => true
  | .timeHoldoverLimit => true
  | .tileSelWrite _ _ _ => true
  | .aggWrite _ _ _ _ => true
  | .evSelectEffect _ => true
  | .snapReq _ => true
  | .snapNow _ _ _ => true
  | .phaseClear _ _ _ => true
  | .nop _ _ => true
  | .loadProgram _ _ d => readOk 131072 d
  | .loadSpan _ _ d => readOk 1048576 d
  | .loadMapTable _ _ d => readOk 128 d
  | .loadPhasePlan _ _ d => readOk 4096 d
  | .loadScaleTable _ _ d => readOk 65536 d
  | .loadLayerTable _ _ d => readOk 131072 d
  | .importBlock _ _ d opened => readOk 65616 d && opened.toList.all fun b => decide (b.length = 65536)
  | .spanWrite _ _ d remote => readOk 4096 d && repliesOk remote.toList
  | .exportPage _ _ _ => true
  | .readReleased _ _ _ => true
  | .hostPegPost _ _ => true
  | .hostPegTry _ _ => true
  | .hostPegRead _ _ => true
  | .mboxRead _ _ => true
  | .mboxAck _ _ => true
  | .sqTail _ _ _ entries => decide (entries.length ≤ 65536)
  | .cqHead _ _ _ entries => decide (entries.length ≤ 65536)
  | .queueEnable _ _ _ => true
  | .causeWrite _ _ _ => true
  | .mbDoorbell _ _ _ req ext => readOk 65536 req && decide (ext.length ≤ 64)
  | .hostBarViolation _ _ => true
  | .mbQuarantineEnd _ => true
  | .publishEntry _ k ring src => decide (k < 64) && repliesOk (ring.toList ++ src.toList)
  | .hostLinkDown => true
  | .hostLinkUp _ _ _ => true
  | .hostFlr _ => true
  | .endpointReset _ => true
  | .dictRead _ _ _ _ _ => true
  | .dictWrite _ _ _ _ value _ => decide (value.length ≤ 262144)
  | .dictDescribe _ _ _ => true
  | .xieskInit _ => true
  | .xieskConfirm _ => true
  | .xieskData m ext => decide (m.data.length ≤ 1192) && decide (ext.length ≤ 64)
  | .xieskClose _ _ _ _ => true
  | .handshakeTimeout _ => true
  | .partialMessageTimeout _ _ => true
  | .sessionIdleTimeout _ => true
  | .sessionLifetime _ => true
  | .sessClose _ _ => true
  | .sourceIgnoreEnd _ => true
  | .dictRoRequest _ _ _ _ => true
  | .moduleStart _ => true
  | .autoStart => true
  | .moduleService _ => true
  | .exitService _ => true
  | .moduleStandby _ => true
  | .resetModule _ => true
  | .resetFull _ => true
  | .resetPinAssert _ => true
  | .verifyPass _ slots => decide (slots.length = 6)
  | .verifyTimeout => true
  | .bringupComplete _ _ _ _ _ => true
  | .bringupTimeout => true
  | .requestWatchdog _ _ => true
  | .fwStage _ v => decide (v.length = 32768)
  | .fwCommit _ _ _ => true
  | .faultClear _ _ => true
  | .faultLogMirror => true
  | .persistentCounterStore => true
  | .laneLockFail _ _ => true
  | .auditAbsent _ => true
  | .lenderReclaimDeadline => true
  | .ckptCopyRebuilt _ _ => true
  | .teardownComplete _ => true
  | .restoreWriteDone _ _ => true
  | .queueRegisterWrite _ _ _ _ => true

/-- A well-formed command. -/
abbrev WellFormed (i : Instr) : Prop := i.wf = true

end Sys2Proof
end

