-- ==== Sys2Proof/Machine/Bits.lean ====
section
/-! DEFINITION. Bit fields, byte order and sparse maps, the helpers every chapter's layout tables are read with
(R3 little-endian, R4 bit numbering). -/

namespace Sys2Proof.Machine

/-- Bits [hi:lo] of a number, both ends included (R4). -/
def fld (w hi lo : Nat) : Nat := (w >>> lo) % 2 ^ (hi + 1 - lo)

/-- Bit b as a truth value. -/
def bit (w b : Nat) : Bool := w.testBit b

/-- A field of n bits read as two's complement. -/
def signed (n w : Nat) : Int := if w % 2 ^ n < 2 ^ (n - 1) then (w % 2 ^ n : Nat) else ((w % 2 ^ n : Nat) : Int) - 2 ^ n

/-- Bits [hi:lo] read as two's complement. -/
def sfld (w hi lo : Nat) : Int := signed (hi + 1 - lo) (fld w hi lo)

/-- The two's complement pattern of an integer in n bits. -/
def unsigned (n : Nat) (i : Int) : Nat := (i % (2 ^ n : Int)).toNat

/-- One bit as a number. -/
def b2n (b : Bool) : Nat := if b then 1 else 0

/-- Little-endian value of a byte string (R3). -/
def leNat : List Byte → Nat
  | [] => 0
  | b :: bs => b.toNat + 256 * leNat bs

/-- The n little-endian bytes of a number (R3). -/
def leBytes : Nat → Nat → List Byte
  | 0, _ => []
  | n + 1, w => BitVec.ofNat 8 w :: leBytes n (w / 256)

/-- A record laid out as pairs (lowest bit, value), as one number. -/
def pack : List (Nat × Nat) → Nat
  | [] => 0
  | (lo, v) :: r => v <<< lo + pack r

/-- Bit set or cleared in a bitmap. -/
def setBit (w b : Nat) (v : Bool) : Nat :=
  if w.testBit b then (if v then w else w - 2 ^ b) else (if v then w + 2 ^ b else w)

/-- How many of the lowest n bits are set. -/
def popCount : Nat → Nat → Nat
  | 0, _ => 0
  | n + 1, w => b2n (w.testBit n) + popCount n w

/-- The numbers of the set bits below n, rising. -/
def bitsOf (n w : Nat) : List Nat := (List.range n).filter fun b => w.testBit b

/-- Bytes of an ASCII text. -/
def ascii (s : String) : List Byte := s.toList.map fun c => BitVec.ofNat 8 c.toNat

/-- The list cut or padded with zero bytes to n. -/
def padTo (n : Nat) (bs : List Byte) : List Byte := bs.take n ++ List.replicate (n - bs.length) 0

/-- Bytes [off, off + n) of a byte string, zero beyond its end. -/
def slice (bs : List Byte) (off n : Nat) : List Byte := padTo n (bs.drop off)

/-- Whether two byte ranges meet. -/
def overlaps (a an b bn : Nat) : Bool := a < b + bn && b < a + an

/-! Sparse maps: pairs (key, value), keys strictly rising, no value equal to the default. -/

/-- The value at a key: the listed one, or the default. -/
def kget {α : Type} (d : α) : List (Nat × α) → Nat → α
  | [], _ => d
  | (a, v) :: r, k => if a = k then v else kget d r k

/-- The pairs without a key. -/
def kerase {α : Type} : List (Nat × α) → Nat → List (Nat × α)
  | [], _ => []
  | (a, v) :: r, k => if a = k then kerase r k else (a, v) :: kerase r k

/-- A pair put before the first larger key. -/
def kins {α : Type} : List (Nat × α) → Nat → α → List (Nat × α)
  | [], k, x => [(k, x)]
  | (a, v) :: r, k, x => if k < a then (k, x) :: (a, v) :: r else (a, v) :: kins r k x

/-- The map with a key set; a default value is not listed. -/
def kput {α : Type} [DecidableEq α] (d : α) (m : List (Nat × α)) (k : Nat) (x : α) : List (Nat × α) :=
  if x = d then kerase m k else kins (kerase m k) k x

/-- The value at a key changed by a function. -/
def kmod {α : Type} [DecidableEq α] (d : α) (m : List (Nat × α)) (k : Nat) (f : α → α) : List (Nat × α) :=
  kput d m k (f (kget d m k))

/-- Canonical form: keys strictly rising from a bound, no default value listed. -/
def kwf {α : Type} [DecidableEq α] (d : α) : List (Nat × α) → Bool
  | [] => true
  | [(_, v)] => decide (v ≠ d)
  | (a, v) :: (b, w) :: r => decide (v ≠ d) && decide (a < b) && kwf d ((b, w) :: r)

/-- n consecutive bytes of a byte memory from an address. -/
def readBytes (m : List (Nat × Byte)) (a : Nat) : Nat → List Byte
  | 0 => []
  | n + 1 => kget 0 m a :: readBytes m (a + 1) n

/-- Bytes written one after another from an address. -/
def writeBytes (m : List (Nat × Byte)) (a : Nat) : List Byte → List (Nat × Byte)
  | [] => m
  | b :: bs => writeBytes (kput 0 m a b) (a + 1) bs

/-- The first number below n that a test accepts. -/
def firstBelow (n : Nat) (p : Nat → Bool) : Option Nat := (List.range n).find? p

/-- Ceiling of a quotient. -/
def ceilDiv (a b : Nat) : Nat := (a + b - 1) / b

/-- A quotient rounded to nearest, halves up. -/
def roundDiv (a b : Nat) : Nat := (2 * a + b) / (2 * b)

end Sys2Proof.Machine
end

