-- ==== Sys2Proof/Machine/Operands.lean ====
section
/-! DEFINITION. The operand forms of the engines: fields of the slot header (R68) and of the matrix (R71), vector
(R100, R105, R106), gather (R161) and peg handle (R241) layouts, by the names and bit places of their tables. -/

namespace Sys2Proof.Machine

/-! The engine tile slot (R67-R69). -/

def slotBytes : Nat := 33792
def pairBytes : Nat := 67584
def planeAt : Nat := 32768
def headerAt : Nat := 33024

def Hdr.format (h : Nat) : Nat := fld h 7 0
def Hdr.coarse (h : Nat) : Int := sfld h 15 8
def Hdr.orient (h : Nat) : Bool := bit h 16
def Hdr.tensor (h : Nat) : Nat := fld h 63 32
def Hdr.layer (h : Nat) : Nat := fld h 79 64
def Hdr.rows (h : Nat) : Nat := fld h 87 80
def Hdr.cols (h : Nat) : Nat := fld h 95 88
def Hdr.tileRow (h : Nat) : Nat := fld h 111 96
def Hdr.tileCol (h : Nat) : Nat := fld h 127 112

/-- A slot is invalid: reserved FORMAT, a reserved field not zero, or a count of 0 or above 128 (R70). -/
def Hdr.invalid (h : Nat) : Bool :=
  decide (3 < Hdr.format h) || fld h 31 17 ≠ 0 || fld h 511 128 ≠ 0 || Hdr.rows h = 0 || decide (128 < Hdr.rows h) ||
    Hdr.cols h = 0 || decide (128 < Hdr.cols h)

/-- A header laid out (R68). -/
def Hdr.make (format coarse : Nat) (orient : Bool) (tensor layer rows cols tileRow tileCol : Nat) : Nat :=
  pack [(0, format), (8, coarse), (16, b2n orient), (32, tensor), (64, layer), (80, rows), (88, cols), (96, tileRow),
        (112, tileCol)]

/-- Offset of element (r, c) in a slot, or in an FP32 pair (R67, R69). -/
def elemOff (fp32 : Bool) (r c : Nat) : Nat :=
  if fp32 then (if r < 64 then 4 * (128 * r + c) else slotBytes + 4 * (128 * (r - 64) + c)) else 2 * (128 * r + c)

/-- Fine block of element (r, c) by ORIENT (R65). -/
def fineBlock (orient : Bool) (r c : Nat) : Nat := if orient then 128 * (r / 32) + c else 4 * r + c / 32

/-! The matrix descriptor (R71). -/

def Mx.opcode (d : Nat) : Nat := fld d 7 0
def Mx.fp32 (d : Nat) : Bool := Mx.opcode d = 0x11
def Mx.acc (d : Nat) : Nat := fld d 10 8
def Mx.init (d : Nat) : Nat := fld d 12 11
def Mx.outFmt (d : Nat) : Nat := fld d 14 13
def Mx.outOrient (d : Nat) : Bool := bit d 15
def Mx.round (d : Nat) : Nat := fld d 17 16
def Mx.nanTrap (d : Nat) : Bool := bit d 18
def Mx.transA (d : Nat) : Bool := bit d 19
def Mx.transB (d : Nat) : Bool := bit d 20
def Mx.kTiles (d : Nat) : Nat := fld d 47 32
def Mx.outCoarse (d : Nat) : Nat := fld d 55 48
def Mx.aAddr (d : Nat) : Nat := fld d 95 64
def Mx.aStride (d : Nat) : Int := sfld d 127 96
def Mx.bAddr (d : Nat) : Nat := fld d 159 128
def Mx.bStride (d : Nat) : Int := sfld d 191 160
def Mx.cAddr (d : Nat) : Nat := fld d 223 192
def Mx.dAddr (d : Nat) : Nat := fld d 255 224
def Mx.outTensor (d : Nat) : Nat := fld d 287 256
def Mx.outLayer (d : Nat) : Nat := fld d 303 288
def Mx.outTileRow (d : Nat) : Nat := fld d 319 304
def Mx.outTileCol (d : Nat) : Nat := fld d 335 320
def Mx.peg (d : Nat) : Nat := fld d 349 336
def Mx.pegEn (d : Nat) : Bool := bit d 351
def Mx.recAddr (d : Nat) : Nat := fld d 383 352
def Mx.opTag (d : Nat) : Nat := fld d 415 384

/-- A reserved field or a reserved value is used (R5, R71). -/
def Mx.reserved (d : Nat) : Bool :=
  fld d 31 21 ≠ 0 || fld d 63 56 ≠ 0 || bit d 350 || fld d 511 416 ≠ 0 ||
    (Mx.opcode d ≠ 0x10 && Mx.opcode d ≠ 0x11) || decide (1 < Mx.init d) || decide (1 < Mx.outFmt d) ||
    decide (1 < Mx.round d)

/-- Address of A tile t, and of B tile t (R72). -/
def Mx.aTile (d t : Nat) : Int := Mx.aAddr d + t * Mx.aStride d
def Mx.bTile (d t : Nat) : Int := Mx.bAddr d + t * Mx.bStride d
/-- Bytes of an A or B slot, and of D. -/
def Mx.opBytes (d : Nat) : Nat := if Mx.fp32 d then pairBytes else slotBytes
def Mx.dBytes (d : Nat) : Nat := if Mx.outFmt d = 1 then pairBytes else slotBytes

/-! The vector chain (R100, R105, R106). A chain is its bytes; `Vx.header` is its first 32. -/

def Vx.header (c : List Byte) : Nat := leNat (c.take 32)
def Vx.kind (h : Nat) : Nat := fld h 7 0
def Vx.nIn (h : Nat) : Nat := fld h 9 8
def Vx.nOut (h : Nat) : Nat := fld h 11 10
def Vx.nStages (h : Nat) : Nat := fld h 15 12
def Vx.nanTrap (h : Nat) : Bool := bit h 16
def Vx.pegEn (h : Nat) : Bool := bit h 17
def Vx.nElem (h : Nat) : Nat := fld h 55 32
def Vx.peg (h : Nat) : Nat := fld h 77 64
def Vx.segLen (h : Nat) : Nat := fld h 115 96
def Vx.recAddr (h : Nat) : Nat := fld h 159 128
def Vx.opTag (h : Nat) : Nat := fld h 191 160
/-- Length of the chain descriptor (R105). -/
def Vx.length (h : Nat) : Nat := 32 + 16 * (Vx.nIn h + Vx.nOut h + Vx.nStages h)
def Vx.hdrReserved (h : Nat) : Bool :=
  Vx.kind h ≠ 0x20 || fld h 31 18 ≠ 0 || fld h 63 56 ≠ 0 || fld h 95 78 ≠ 0 || fld h 127 116 ≠ 0 || fld h 255 192 ≠ 0
/-- Stream i of the chain: inputs first, then outputs; and stage i. -/
def Vx.stream (c : List Byte) (i : Nat) : Nat := leNat ((c.drop (32 + 16 * i)).take 16)
def Vx.input (c : List Byte) (i : Nat) : Nat := Vx.stream c i
def Vx.output (c : List Byte) (i : Nat) : Nat := Vx.stream c (Vx.nIn (Vx.header c) + i)
def Vx.stage (c : List Byte) (i : Nat) : Nat :=
  Vx.stream c (Vx.nIn (Vx.header c) + Vx.nOut (Vx.header c) + i)

def Strm.addr (d : Nat) : Nat := fld d 31 0
def Strm.stride (d : Nat) : Int := sfld d 63 32
def Strm.type (d : Nat) : Nat := fld d 67 64
def Strm.tile (d : Nat) : Bool := bit d 68
def Strm.traverse (d : Nat) : Bool := bit d 69
def Strm.rate (d : Nat) : Bool := bit d 70
def Strm.outCoarse (d : Nat) : Nat := fld d 79 72
def Strm.rnd (d : Nat) : Nat := fld d 82 80
def Strm.sat (d : Nat) : Bool := bit d 83
def Strm.srcReg (d : Nat) : Nat := fld d 89 84
def Strm.hdrSrc (d : Nat) : Nat := fld d 91 90
def Strm.outTensor (d : Nat) : Nat := fld d 127 96

def Stg.op (d : Nat) : Nat := fld d 7 0
def Stg.type (d : Nat) : Nat := fld d 11 8
def Stg.rnd (d : Nat) : Nat := fld d 14 12
def Stg.sat (d : Nat) : Bool := bit d 15
def Stg.dst (d : Nat) : Nat := fld d 21 16
def Stg.srcA (d : Nat) : Nat := fld d 30 24
def Stg.srcB (d : Nat) : Nat := fld d 38 32
def Stg.srcC (d : Nat) : Nat := fld d 46 40
def Stg.imm0 (d : Nat) : Nat := fld d 95 64
def Stg.imm1 (d : Nat) : Nat := fld d 127 96
def Stg.reserved (d : Nat) : Bool := fld d 23 22 ≠ 0 || bit d 31 || bit d 39 || fld d 63 47 ≠ 0

/-! The gather descriptor (R161). -/

def Gx.kind (d : Nat) : Nat := fld d 7 0
def Gx.mode (d : Nat) : Nat := fld d 9 8
def Gx.dir (d : Nat) : Bool := bit d 10
def Gx.idx64 (d : Nat) : Bool := bit d 11
def Gx.pegEn (d : Nat) : Bool := bit d 12
def Gx.tagEn (d : Nat) : Bool := bit d 13
def Gx.ring (d : Nat) : Bool := bit d 14
def Gx.window (d : Nat) : Nat := fld d 25 16
def Gx.count (d : Nat) : Nat := fld d 63 32
def Gx.spanBase (d : Nat) : Nat := fld d 119 64
def Gx.tsAddr (d : Nat) : Nat := fld d 159 128
def Gx.elemBytes (d : Nat) : Nat := fld d 191 160
def Gx.spanStride (d : Nat) : Nat := fld d 223 192
def Gx.tsStride (d : Nat) : Int := sfld d 255 224
def Gx.idxAddr (d : Nat) : Nat := fld d 287 256
def Gx.tagAddr (d : Nat) : Nat := fld d 319 288
def Gx.exampleLen (d : Nat) : Nat := fld d 335 320
def Gx.peg (d : Nat) : Nat := fld d 349 336
def Gx.recAddr (d : Nat) : Nat := fld d 383 352
def Gx.opTag (d : Nat) : Nat := fld d 415 384
def Gx.idxLimit (d : Nat) : Nat := fld d 447 416
def Gx.consPeg (d : Nat) : Nat := fld d 461 448
def Gx.prodPeg (d : Nat) : Nat := fld d 477 464
def Gx.ringSlots (d : Nat) : Nat := fld d 495 480
def Gx.reserved (d : Nat) : Bool :=
  Gx.kind d ≠ 0x30 || Gx.mode d = 3 || bit d 15 || fld d 31 26 ≠ 0 || fld d 127 120 ≠ 0 || fld d 351 350 ≠ 0 ||
    fld d 463 462 ≠ 0 || fld d 479 478 ≠ 0 || fld d 511 496 ≠ 0

/-! The peg handle (R241). -/

def Hnd.peg (h : Nat) : Nat := fld h 13 0
def Hnd.remote (h : Nat) : Bool := bit h 14
def Hnd.module (h : Nat) : Nat := fld h 31 16
def Hnd.bad (h : Nat) : Bool := bit h 15 || fld h 63 32 ≠ 0 || (!Hnd.remote h && Hnd.module h ≠ 0)

end Sys2Proof.Machine
end

