-- ==== Sys2Proof/Config.lean ====
section
/-! DEFINITION. What an implementation fixes and what the manual leaves open: constants with no body, so that nothing
can be proved of their values. Each is named in an assumption log entry. -/

namespace Sys2Proof.Config

/-- The n-th draw of the root of trust's random generator (R118, R208, R348, R376). -/
opaque random : Nat → Nat
/-- The choice among the results an error bound admits (R111, R206), for the n-th use. -/
opaque choice : Nat → Nat
/-- Which of the admissible neighbours a function within 1 ulp answers for an operand: 0 the square root, 1 the cosine
of the schedule engine (R206). -/
opaque ulp : Nat → Nat → Nat
/-- floor_frac^x of the exponential schedule, binary64 patterns; no accuracy is stated (R206). -/
opaque pow : Nat → Nat → Nat
/-- Value of a constant object whose table gives none: serial, revision, addresses, identity (R541, R554, R399, R487). -/
opaque identity : Nat → Nat
/-- Accounted draw in mW of a compartment's work in a governor window, from the n-th evaluation (R448). -/
opaque workDraw : Nat → Nat
/-- What a master port announces of the module's own clock: 0 clockClass in FREERUN, 1 clockAccuracy, 2
offsetScaledLogVariance (R476, R477). -/
opaque ownClock : Nat → Nat

end Sys2Proof.Config
end

