-- ==== Sys2Proof/Machine/Keccak.lean ====
section
/-! DEFINITION. SHAKE256 and SHA3-384 of FIPS 202: the digest the manual names for seeds, tables, keys and measurements, and
the base hash of R393. -/

namespace Sys2Proof.Machine

/-- A 64-bit lane rotated left. -/
def rotl64 (x n : Nat) : Nat := ((x <<< (n % 64)) ||| (x >>> ((64 - n % 64) % 64) * b2n (n % 64 != 0))) % 2 ^ 64

/-- Lane x + 5 y of the 25. -/
def lane (a : List Nat) (x y : Nat) : Nat := (a.drop (x % 5 + 5 * (y % 5))).headD 0

def keccakRC : List Nat :=
  [0x0000000000000001, 0x0000000000008082, 0x800000000000808A, 0x8000000080008000,
   0x000000000000808B, 0x0000000080000001, 0x8000000080008081, 0x8000000000008009,
   0x000000000000008A, 0x0000000000000088, 0x0000000080008009, 0x000000008000000A,
   0x000000008000808B, 0x800000000000008B, 0x8000000000008089, 0x8000000000008003,
   0x8000000000008002, 0x8000000000000080, 0x000000000000800A, 0x800000008000000A,
   0x8000000080008081, 0x8000000000008080, 0x0000000080000001, 0x8000000080008008]

/-- Rotation offsets of rho, at x + 5 y. -/
def keccakRho : List Nat :=
  [0, 1, 62, 28, 27, 36, 44, 6, 55, 20, 3, 10, 43, 25, 39, 41, 45, 15, 21, 8, 18, 2, 61, 56, 14]

/-- One round of Keccak-f[1600]: theta, rho and pi, chi, iota. -/
def keccakRound (a : List Nat) (rc : Nat) : List Nat :=
  let c := (List.range 5).map fun x =>
    lane a x 0 ^^^ lane a x 1 ^^^ lane a x 2 ^^^ lane a x 3 ^^^ lane a x 4
  let d := (List.range 5).map fun x =>
    (c.drop ((x + 4) % 5)).headD 0 ^^^ rotl64 ((c.drop ((x + 1) % 5)).headD 0) 1
  let t := (List.range 25).map fun i => lane a (i % 5) (i / 5) ^^^ (d.drop (i % 5)).headD 0
  let b := (List.range 25).map fun i =>
    let x := i % 5
    let y := i / 5
    let sx := (x + 3 * y) % 5
    rotl64 (lane t sx x) ((keccakRho.drop (sx + 5 * x)).headD 0)
  let e := (List.range 25).map fun i =>
    let x := i % 5
    let y := i / 5
    lane b x y ^^^ ((2 ^ 64 - 1 - lane b (x + 1) y) &&& lane b (x + 2) y)
  match e with
  | [] => []
  | h :: r => (h ^^^ rc) :: r

def keccakF (a : List Nat) : List Nat := keccakRC.foldl keccakRound a

/-- The lanes of one rate block of r bytes, then zero capacity. -/
def rateLanes (r : Nat) (bs : List Byte) : List Nat :=
  (List.range 25).map fun i => if 8 * i < r then leNat (slice bs (8 * i) 8) else 0

def xorLanes (a b : List Nat) : List Nat := List.zipWith (· ^^^ ·) a b

/-- Absorb n rate blocks. -/
def keccakAbsorb (r : Nat) : Nat → List Nat → List Byte → List Nat
  | 0, a, _ => a
  | n + 1, a, bs => keccakAbsorb r n (keccakF (xorLanes a (rateLanes r (bs.take r)))) (bs.drop r)

/-- Squeeze n blocks. -/
def keccakSqueeze (r : Nat) : Nat → List Nat → List Byte
  | 0, _ => []
  | n + 1, a => ((a.take (r / 8)).map (leBytes 8)).flatten ++ keccakSqueeze r n (keccakF a)

/-- The sponge of rate r: the first n bytes for a message padded from a domain byte on. -/
def sponge (r : Nat) (dom : Byte) (n : Nat) (msg : List Byte) : List Byte :=
  let blocks := msg.length / r + 1
  let gap := blocks * r - msg.length
  let tail : List Byte := if gap = 1 then [dom + 0x80] else dom :: (List.replicate (gap - 2) 0 ++ [0x80])
  (keccakSqueeze r (ceilDiv n r) (keccakAbsorb r blocks (List.replicate 25 0) (msg ++ tail))).take n

/-- SHAKE256 with the first n bytes of output. -/
def shake256 (n : Nat) (msg : List Byte) : List Byte := sponge 136 0x1F n msg
/-- SHA3-384. -/
def sha3 (msg : List Byte) : List Byte := sponge 104 0x06 48 msg

/-- The 48-byte digest used for tables, keys and measurements. -/
def digest48 (msg : List Byte) : Nat := leNat (shake256 48 msg)

end Sys2Proof.Machine
end

