-- ==== Sys2Proof/Machine/Objects.lean ====
section
/-! DEFINITION. The Xiesk dictionary: the address of every object (index * 256 + subindex, of compartment, port or
session 0 in a block) and the table of its attributes, as the chapters' object tables give them (R11, R516-R519). -/

namespace Sys2Proof.Machine

/-- 0x2000.01 tile.array.tiles (R61). -/
abbrev Obj.tileArrayTiles : Nat := 0x200001
/-- 0x2000.02 tile.array.fenced (R61). -/
abbrev Obj.tileArrayFenced : Nat := 0x200002
/-- 0x2000.03 tile.array.fence_map (R61). -/
abbrev Obj.tileArrayFenceMap : Nat := 0x200003
/-- 0x2000.04 tile.array.link_fence_map (R61). -/
abbrev Obj.tileArrayLinkFenceMap : Nat := 0x200004
/-- 0x2000.05 tile.array.unfence (R61). -/
abbrev Obj.tileArrayUnfence : Nat := 0x200005
/-- 0x2010.01 tile.cadence.min (R61). -/
abbrev Obj.tileCadenceMin : Nat := 0x201001
/-- 0x2010.02 tile.cadence.mean (R61). -/
abbrev Obj.tileCadenceMean : Nat := 0x201002
/-- 0x2010.03 tile.cadence.floor (R61). -/
abbrev Obj.tileCadenceFloor : Nat := 0x201003
/-- 0x2010.04 tile.cadence.nominal (R61). -/
abbrev Obj.tileCadenceNominal : Nat := 0x201004
/-- 0x2010.05 tile.cadence.boost_ceiling (R61). -/
abbrev Obj.tileCadenceBoostCeiling : Nat := 0x201005
/-- 0x2010.06 tile.cadence.window_log2 (R61). -/
abbrev Obj.tileCadenceWindowLog2 : Nat := 0x201006
/-- 0x2011.01–.04 tile.cadence.die_min (R61). -/
abbrev Obj.tileCadenceDieMin : Nat := 0x201101
/-- 0x2012.01–.04 tile.rail.setpoint (R61). -/
abbrev Obj.tileRailSetpoint : Nat := 0x201201
/-- 0x2012.05 tile.rail.boost_enable (R61). -/
abbrev Obj.tileRailBoostEnable : Nat := 0x201205
/-- 0x2020+n.01 tile.comp.mode (R61). -/
abbrev Obj.tileCompMode : Nat := 0x202001
/-- 0x2020+n.02 tile.comp.pacer_rate (R61). -/
abbrev Obj.tileCompPacerRate : Nat := 0x202002
/-- 0x2020+n.03 tile.comp.boost_permit (R61). -/
abbrev Obj.tileCompBoostPermit : Nat := 0x202003
/-- 0x2020+n.04 tile.comp.cadence (R61). -/
abbrev Obj.tileCompCadence : Nat := 0x202004
/-- 0x2020+n.05 tile.comp.deficit (R61). -/
abbrev Obj.tileCompDeficit : Nat := 0x202005
/-- 0x2020+n.06 tile.comp.fenced (R61). -/
abbrev Obj.tileCompFenced : Nat := 0x202006
/-- 0x2030.01 tile.watchdog.timeout_us (R61). -/
abbrev Obj.tileWatchdogTimeoutUs : Nat := 0x203001
/-- 0x2030.02 tile.store.ce_threshold (R61). -/
abbrev Obj.tileStoreCeThreshold : Nat := 0x203002
/-- 0x2040.01 tile.power.on_map (R61). -/
abbrev Obj.tilePowerOnMap : Nat := 0x204001
/-- 0x2040.02 tile.power.retain_map (R61). -/
abbrev Obj.tilePowerRetainMap : Nat := 0x204002
/-- 0x2040.03 tile.power.retain_idle_us (R61). -/
abbrev Obj.tilePowerRetainIdleUs : Nat := 0x204003
/-- 0x2100.01 mx.macs_fp16 (R94). -/
abbrev Obj.mxMacsFp16 : Nat := 0x210001
/-- 0x2100.02 mx.macs_fp32 (R94). -/
abbrev Obj.mxMacsFp32 : Nat := 0x210002
/-- 0x2100.03 mx.queue_depth (R94). -/
abbrev Obj.mxQueueDepth : Nat := 0x210003
/-- 0x2100.04 mx.slot_bytes (R94). -/
abbrev Obj.mxSlotBytes : Nat := 0x210004
/-- 0x2100.05 mx.k_tiles_max (R94). -/
abbrev Obj.mxKTilesMax : Nat := 0x210005
/-- 0x2120+n.01 mx.comp.trap_force (R94). -/
abbrev Obj.mxCompTrapForce : Nat := 0x212001
/-- 0x2120+n.02 mx.comp.ops (R94). -/
abbrev Obj.mxCompOps : Nat := 0x212002
/-- 0x2120+n.03 mx.comp.mac_beats (R94). -/
abbrev Obj.mxCompMacBeats : Nat := 0x212003
/-- 0x2120+n.04 mx.comp.saturated (R94). -/
abbrev Obj.mxCompSaturated : Nat := 0x212004
/-- 0x2120+n.05 mx.comp.flushed (R94). -/
abbrev Obj.mxCompFlushed : Nat := 0x212005
/-- 0x2120+n.06 mx.comp.nan_traps (R94). -/
abbrev Obj.mxCompNanTraps : Nat := 0x212006
/-- 0x2120+n.07 mx.comp.first_trap (R94). -/
abbrev Obj.mxCompFirstTrap : Nat := 0x212007
/-- 0x2120+n.08 mx.comp.trap_clear (R94). -/
abbrev Obj.mxCompTrapClear : Nat := 0x212008
/-- 0x2120+n.09 mx.comp.refused (R94). -/
abbrev Obj.mxCompRefused : Nat := 0x212009
/-- 0x2200.01 vx.lanes_fp16 (R132). -/
abbrev Obj.vxLanesFp16 : Nat := 0x220001
/-- 0x2200.02 vx.lanes_fp32 (R132). -/
abbrev Obj.vxLanesFp32 : Nat := 0x220002
/-- 0x2200.03 vx.queue_depth (R132). -/
abbrev Obj.vxQueueDepth : Nat := 0x220003
/-- 0x2200.04 vx.stages_max (R132). -/
abbrev Obj.vxStagesMax : Nat := 0x220004
/-- 0x2200.05 vx.registers (R132). -/
abbrev Obj.vxRegisters : Nat := 0x220005
/-- 0x2200.06 vx.port_bytes (R132). -/
abbrev Obj.vxPortBytes : Nat := 0x220006
/-- 0x2220+n.01 vx.comp.trap_force (R132). -/
abbrev Obj.vxCompTrapForce : Nat := 0x222001
/-- 0x2220+n.02 vx.comp.seed_mode (R132). -/
abbrev Obj.vxCompSeedMode : Nat := 0x222002
/-- 0x2220+n.03 vx.comp.job_seed (R132). -/
abbrev Obj.vxCompJobSeed : Nat := 0x222003
/-- 0x2220+n.04 vx.comp.chains (R132). -/
abbrev Obj.vxCompChains : Nat := 0x222004
/-- 0x2220+n.05 vx.comp.busy_beats (R132). -/
abbrev Obj.vxCompBusyBeats : Nat := 0x222005
/-- 0x2220+n.06 vx.comp.nan_traps (R132). -/
abbrev Obj.vxCompNanTraps : Nat := 0x222006
/-- 0x2220+n.07 vx.comp.first_trap (R132). -/
abbrev Obj.vxCompFirstTrap : Nat := 0x222007
/-- 0x2220+n.08 vx.comp.trap_clear (R132). -/
abbrev Obj.vxCompTrapClear : Nat := 0x222008
/-- 0x2220+n.09 vx.comp.refused (R132). -/
abbrev Obj.vxCompRefused : Nat := 0x222009
/-- 0x2220+n.0A vx.comp.saturated (R132). -/
abbrev Obj.vxCompSaturated : Nat := 0x22200A
/-- 0x2220+n.0B vx.comp.kerf_clamped (R132). -/
abbrev Obj.vxCompKerfClamped : Nat := 0x22200B
/-- 0x2300.01 prep.cores (R172). -/
abbrev Obj.prepCores : Nat := 0x230001
/-- 0x2300.02 prep.threads (R172). -/
abbrev Obj.prepThreads : Nat := 0x230002
/-- 0x2300.03 prep.slots (R172). -/
abbrev Obj.prepSlots : Nat := 0x230003
/-- 0x2300.04 prep.program_bytes (R172). -/
abbrev Obj.prepProgramBytes : Nat := 0x230004
/-- 0x2300.05 prep.misa (R172). -/
abbrev Obj.prepMisa : Nat := 0x230005
/-- 0x2300.06 gx.queue_depth (R172). -/
abbrev Obj.gxQueueDepth : Nat := 0x230006
/-- 0x2300.07 gx.window_max (R172). -/
abbrev Obj.gxWindowMax : Nat := 0x230007
/-- 0x2320+n.01 prep.comp.latency_mode (R172). -/
abbrev Obj.prepCompLatencyMode : Nat := 0x232001
/-- 0x2320+n.02 prep.comp.resident_threads (R172). -/
abbrev Obj.prepCompResidentThreads : Nat := 0x232002
/-- 0x2320+n.03 prep.comp.runahead (R172). -/
abbrev Obj.prepCompRunahead : Nat := 0x232003
/-- 0x2320+n.04 prep.comp.ra_entry_beats (R172). -/
abbrev Obj.prepCompRaEntryBeats : Nat := 0x232004
/-- 0x2320+n.05 prep.comp.ra_max_beats (R172). -/
abbrev Obj.prepCompRaMaxBeats : Nat := 0x232005
/-- 0x2320+n.06 prep.comp.slot_cap (R172). -/
abbrev Obj.prepCompSlotCap : Nat := 0x232006
/-- 0x2320+n.07 prep.comp.cap_stalls (R172). -/
abbrev Obj.prepCompCapStalls : Nat := 0x232007
/-- 0x2320+n.08 prep.comp.ra_entries (R172). -/
abbrev Obj.prepCompRaEntries : Nat := 0x232008
/-- 0x2320+n.09 prep.comp.ra_prefetch_hits (R172). -/
abbrev Obj.prepCompRaPrefetchHits : Nat := 0x232009
/-- 0x2320+n.0A prep.comp.la_issued (R172). -/
abbrev Obj.prepCompLaIssued : Nat := 0x23200A
/-- 0x2320+n.0B prep.comp.la_dropped (R172). -/
abbrev Obj.prepCompLaDropped : Nat := 0x23200B
/-- 0x2320+n.0C prep.comp.la_dropped_tier (R172). -/
abbrev Obj.prepCompLaDroppedTier : Nat := 0x23200C
/-- 0x2320+n.0D prep.comp.la_dropped_migrating (R172). -/
abbrev Obj.prepCompLaDroppedMigrating : Nat := 0x23200D
/-- 0x2320+n.0E prep.comp.bank_stall_beats (R172). -/
abbrev Obj.prepCompBankStallBeats : Nat := 0x23200E
/-- 0x2320+n.0F prep.comp.gx_refused (R172). -/
abbrev Obj.prepCompGxRefused : Nat := 0x23200F
/-- 0x2320+n.10 prep.comp.thread_faults (R172). -/
abbrev Obj.prepCompThreadFaults : Nat := 0x232010
/-- 0x2320+n.11 prep.comp.first_fault (R172). -/
abbrev Obj.prepCompFirstFault : Nat := 0x232011
/-- 0x2320+n.12 prep.comp.fault_clear (R172). -/
abbrev Obj.prepCompFaultClear : Nat := 0x232012
/-- 0x2400.01 num.loss_log2_max (R194). -/
abbrev Obj.numLossLog2Max : Nat := 0x240001
/-- 0x2400.02 num.table_entries (R194). -/
abbrev Obj.numTableEntries : Nat := 0x240002
/-- 0x2400.03 num.headroom_binades (R194). -/
abbrev Obj.numHeadroomBinades : Nat := 0x240003
/-- 0x2420+n.02 num.comp.herringbone (R194). -/
abbrev Obj.numCompHerringbone : Nat := 0x242002
/-- 0x2420+n.03 num.comp.skip_limit (R194). -/
abbrev Obj.numCompSkipLimit : Nat := 0x242003
/-- 0x2420+n.04 num.comp.est_decay (R194). -/
abbrev Obj.numCompEstDecay : Nat := 0x242004
/-- 0x2420+n.05 num.comp.table_base (R194). -/
abbrev Obj.numCompTableBase : Nat := 0x242005
/-- 0x2420+n.06 num.comp.verdict_addr (R194). -/
abbrev Obj.numCompVerdictAddr : Nat := 0x242006
/-- 0x2420+n.07 num.comp.verdict_peg (R194). -/
abbrev Obj.numCompVerdictPeg : Nat := 0x242007
/-- 0x2420+n.08 num.comp.scale_peg (R194). -/
abbrev Obj.numCompScalePeg : Nat := 0x242008
/-- 0x2420+n.09 num.comp.loss_log2 (R194). -/
abbrev Obj.numCompLossLog2 : Nat := 0x242009
/-- 0x2420+n.0A num.comp.steps_skipped (R194). -/
abbrev Obj.numCompStepsSkipped : Nat := 0x24200A
/-- 0x2420+n.0B num.comp.saturations (R194). -/
abbrev Obj.numCompSaturations : Nat := 0x24200B
/-- 0x2420+n.0C num.comp.untracked (R194). -/
abbrev Obj.numCompUntracked : Nat := 0x24200C
/-- 0x2420+n.0D num.comp.verdicts_refused (R194). -/
abbrev Obj.numCompVerdictsRefused : Nat := 0x24200D
/-- 0x2420+n.0E num.comp.first_event (R194). -/
abbrev Obj.numCompFirstEvent : Nat := 0x24200E
/-- 0x2420+n.0F num.comp.event_clear (R194). -/
abbrev Obj.numCompEventClear : Nat := 0x24200F
/-- 0x2500.01 upd.layers_max (R217). -/
abbrev Obj.updLayersMax : Nat := 0x250001
/-- 0x2500.02 upd.open_max (R217). -/
abbrev Obj.updOpenMax : Nat := 0x250002
/-- 0x2500.03 upd.window_steps (R217). -/
abbrev Obj.updWindowSteps : Nat := 0x250003
/-- 0x2500.04 upd.noise_rate (R217). -/
abbrev Obj.updNoiseRate : Nat := 0x250004
/-- 0x2520+n.01 upd.comp.layer_table (R217). -/
abbrev Obj.updCompLayerTable : Nat := 0x252001
/-- 0x2520+n.02 upd.comp.layer_count (R217). -/
abbrev Obj.updCompLayerCount : Nat := 0x252002
/-- 0x2520+n.03 upd.comp.ring_addr (R217). -/
abbrev Obj.updCompRingAddr : Nat := 0x252003
/-- 0x2520+n.04 upd.comp.ring_entries (R217). -/
abbrev Obj.updCompRingEntries : Nat := 0x252004
/-- 0x2520+n.05 upd.comp.ring_peg (R217). -/
abbrev Obj.updCompRingPeg : Nat := 0x252005
/-- 0x2520+n.06 upd.comp.taken_peg (R217). -/
abbrev Obj.updCompTakenPeg : Nat := 0x252006
/-- 0x2520+n.07 upd.comp.plumb_addr (R217). -/
abbrev Obj.updCompPlumbAddr : Nat := 0x252007
/-- 0x2520+n.08 upd.comp.plumb_peg (R217). -/
abbrev Obj.updCompPlumbPeg : Nat := 0x252008
/-- 0x2520+n.09 upd.comp.param_addr (R217). -/
abbrev Obj.updCompParamAddr : Nat := 0x252009
/-- 0x2520+n.0A upd.comp.param_peg (R217). -/
abbrev Obj.updCompParamPeg : Nat := 0x25200A
/-- 0x2520+n.0B upd.comp.clip_norm (R217). -/
abbrev Obj.updCompClipNorm : Nat := 0x25200B
/-- 0x2520+n.0C upd.comp.noise_sigma (R217). -/
abbrev Obj.updCompNoiseSigma : Nat := 0x25200C
/-- 0x2520+n.0D upd.comp.commit_deadline_us (R217). -/
abbrev Obj.updCompCommitDeadlineUs : Nat := 0x25200D
/-- 0x2520+n.10 upd.comp.sched_law (R217). -/
abbrev Obj.updCompSchedLaw : Nat := 0x252010
/-- 0x2520+n.11 upd.comp.sched_lr_start (R217). -/
abbrev Obj.updCompSchedLrStart : Nat := 0x252011
/-- 0x2520+n.12 upd.comp.sched_lr_peak (R217). -/
abbrev Obj.updCompSchedLrPeak : Nat := 0x252012
/-- 0x2520+n.13 upd.comp.sched_floor_frac (R217). -/
abbrev Obj.updCompSchedFloorFrac : Nat := 0x252013
/-- 0x2520+n.14 upd.comp.sched_warmup (R217). -/
abbrev Obj.updCompSchedWarmup : Nat := 0x252014
/-- 0x2520+n.15 upd.comp.sched_cycle (R217). -/
abbrev Obj.updCompSchedCycle : Nat := 0x252015
/-- 0x2520+n.16 upd.comp.sched_cycle_mult (R217). -/
abbrev Obj.updCompSchedCycleMult : Nat := 0x252016
/-- 0x2520+n.17 upd.comp.sched_peak_mult (R217). -/
abbrev Obj.updCompSchedPeakMult : Nat := 0x252017
/-- 0x2520+n.18 upd.comp.sched_restart (R217). -/
abbrev Obj.updCompSchedRestart : Nat := 0x252018
/-- 0x2520+n.20 upd.comp.commits (R217). -/
abbrev Obj.updCompCommits : Nat := 0x252020
/-- 0x2520+n.21 upd.comp.mispredicts (R217). -/
abbrev Obj.updCompMispredicts : Nat := 0x252021
/-- 0x2520+n.22 upd.comp.sill_unmet (R217). -/
abbrev Obj.updCompSillUnmet : Nat := 0x252022
/-- 0x2520+n.23 upd.comp.refused (R217). -/
abbrev Obj.updCompRefused : Nat := 0x252023
/-- 0x2520+n.24 upd.comp.skipped_commits (R217). -/
abbrev Obj.updCompSkippedCommits : Nat := 0x252024
/-- 0x2520+n.25 upd.comp.noise_fills (R217). -/
abbrev Obj.updCompNoiseFills : Nat := 0x252025
/-- 0x2520+n.26 upd.comp.open_entries (R217). -/
abbrev Obj.updCompOpenEntries : Nat := 0x252026
/-- 0x2520+n.27 upd.comp.last_confirmed (R217). -/
abbrev Obj.updCompLastConfirmed : Nat := 0x252027
/-- 0x2520+n.28 upd.comp.first_event (R217). -/
abbrev Obj.updCompFirstEvent : Nat := 0x252028
/-- 0x2520+n.29 upd.comp.event_clear (R217). -/
abbrev Obj.updCompEventClear : Nat := 0x252029
/-- 0x3000.01 span.addr_bits (R249). -/
abbrev Obj.spanAddrBits : Nat := 0x300001
/-- 0x3000.02 span.page_bytes (R249). -/
abbrev Obj.spanPageBytes : Nat := 0x300002
/-- 0x3000.03 span.pegs (R249). -/
abbrev Obj.spanPegs : Nat := 0x300003
/-- 0x3000.04 span.peg_group_size (R249). -/
abbrev Obj.spanPegGroupSize : Nat := 0x300004
/-- 0x3000.05 span.peg_groups_free (R249). -/
abbrev Obj.spanPegGroupsFree : Nat := 0x300005
/-- 0x3000.06 span.remote_timeout_ms (R249). -/
abbrev Obj.spanRemoteTimeoutMs : Nat := 0x300006
/-- 0x3000.07 span.segments_max (R249). -/
abbrev Obj.spanSegmentsMax : Nat := 0x300007
/-- 0x3000.08 span.remote_waiters (R249). -/
abbrev Obj.spanRemoteWaiters : Nat := 0x300008
/-- 0x3000.09 span.remote_denied (R249). -/
abbrev Obj.spanRemoteDenied : Nat := 0x300009
/-- 0x3020+n.01 span.comp.job_id (R249). -/
abbrev Obj.spanCompJobId : Nat := 0x302001
/-- 0x3020+n.02 span.comp.peg_groups (R249). -/
abbrev Obj.spanCompPegGroups : Nat := 0x302002
/-- 0x3020+n.03 span.comp.peg_kind (R249). -/
abbrev Obj.spanCompPegKind : Nat := 0x302003
/-- 0x3020+n.04 span.comp.job_modules (R249). -/
abbrev Obj.spanCompJobModules : Nat := 0x302004
/-- 0x3020+n.05 span.comp.module_index (R249). -/
abbrev Obj.spanCompModuleIndex : Nat := 0x302005
/-- 0x3020+n.06 span.comp.seg_count (R249). -/
abbrev Obj.spanCompSegCount : Nat := 0x302006
/-- 0x3020+n.07 span.comp.seg_write (R249). -/
abbrev Obj.spanCompSegWrite : Nat := 0x302007
/-- 0x3020+n.08 span.comp.seg_clear (R249). -/
abbrev Obj.spanCompSegClear : Nat := 0x302008
/-- 0x3020+n.09 span.comp.seg_digest (R249). -/
abbrev Obj.spanCompSegDigest : Nat := 0x302009
/-- 0x3020+n.0A span.comp.peg_refused (R249). -/
abbrev Obj.spanCompPegRefused : Nat := 0x30200A
/-- 0x3020+n.0B span.comp.peg_overflows (R249). -/
abbrev Obj.spanCompPegOverflows : Nat := 0x30200B
/-- 0x3020+n.0C span.comp.remote_waiters_used (R249). -/
abbrev Obj.spanCompRemoteWaitersUsed : Nat := 0x30200C
/-- 0x3020+n.0D span.comp.unreachable (R249). -/
abbrev Obj.spanCompUnreachable : Nat := 0x30200D
/-- 0x3020+n.0E span.comp.outcome_unknown (R249). -/
abbrev Obj.spanCompOutcomeUnknown : Nat := 0x30200E
/-- 0x3020+n.0F span.comp.xlate_misses (R249). -/
abbrev Obj.spanCompXlateMisses : Nat := 0x30200F
/-- 0x3100.01 tier.hbm_frames_per_group (R281). -/
abbrev Obj.tierHbmFramesPerGroup : Nat := 0x310001
/-- 0x3100.02 tier.flash_pages_per_channel (R281). -/
abbrev Obj.tierFlashPagesPerChannel : Nat := 0x310002
/-- 0x3100.03 tier.lend.offer (R281). -/
abbrev Obj.tierLendOffer : Nat := 0x310003
/-- 0x3100.04 tier.lend.reclaim_deadline_ms (R281). -/
abbrev Obj.tierLendReclaimDeadlineMs : Nat := 0x310004
/-- 0x3100.05 tier.lend.heartbeat_ms (R281). -/
abbrev Obj.tierLendHeartbeatMs : Nat := 0x310005
/-- 0x3100.06 tier.lend.orphan_s (R281). -/
abbrev Obj.tierLendOrphanS : Nat := 0x310006
/-- 0x3100.07 tier.lend.leases_out (R281). -/
abbrev Obj.tierLendLeasesOut : Nat := 0x310007
/-- 0x3100.08 tier.lend.reclaim (R281). -/
abbrev Obj.tierLendReclaim : Nat := 0x310008
/-- 0x3100.09 tier.lend.force_release (R281). -/
abbrev Obj.tierLendForceRelease : Nat := 0x310009
/-- 0x3100.0A tier.flash.wear_pct (R281). -/
abbrev Obj.tierFlashWearPct : Nat := 0x31000A
/-- 0x3100.0B tier.flash.bytes_written (R281). -/
abbrev Obj.tierFlashBytesWritten : Nat := 0x31000B
/-- 0x3100.0C tier.flash.spare_pct (R281). -/
abbrev Obj.tierFlashSparePct : Nat := 0x31000C
/-- 0x3100.0D tier.flash.readonly_map (R281). -/
abbrev Obj.tierFlashReadonlyMap : Nat := 0x31000D
/-- 0x3120+n.01 tier.comp.ring_addr (R281). -/
abbrev Obj.tierCompRingAddr : Nat := 0x312001
/-- 0x3120+n.02 tier.comp.ring_entries (R281). -/
abbrev Obj.tierCompRingEntries : Nat := 0x312002
/-- 0x3120+n.03 tier.comp.ring_peg (R281). -/
abbrev Obj.tierCompRingPeg : Nat := 0x312003
/-- 0x3120+n.04 tier.comp.taken_peg (R281). -/
abbrev Obj.tierCompTakenPeg : Nat := 0x312004
/-- 0x3120+n.05 tier.comp.lent_quota_gib (R281). -/
abbrev Obj.tierCompLentQuotaGib : Nat := 0x312005
/-- 0x3120+n.06 tier.comp.flash_quota_gib (R281). -/
abbrev Obj.tierCompFlashQuotaGib : Nat := 0x312006
/-- 0x3120+n.07 tier.comp.ckpt_quota_gib (R281). -/
abbrev Obj.tierCompCkptQuotaGib : Nat := 0x312007
/-- 0x3120+n.08 tier.comp.hbm_frames_used (R281). -/
abbrev Obj.tierCompHbmFramesUsed : Nat := 0x312008
/-- 0x3120+n.09 tier.comp.lent_gib_used (R281). -/
abbrev Obj.tierCompLentGibUsed : Nat := 0x312009
/-- 0x3120+n.0A tier.comp.flash_pages_used (R281). -/
abbrev Obj.tierCompFlashPagesUsed : Nat := 0x31200A
/-- 0x3120+n.0B tier.comp.ckpt_gib_used (R281). -/
abbrev Obj.tierCompCkptGibUsed : Nat := 0x31200B
/-- 0x3120+n.0C tier.comp.in_transit (R281). -/
abbrev Obj.tierCompInTransit : Nat := 0x31200C
/-- 0x3120+n.0D tier.comp.lenders (R281). -/
abbrev Obj.tierCompLenders : Nat := 0x31200D
/-- 0x3120+n.0E tier.comp.moves (R281). -/
abbrev Obj.tierCompMoves : Nat := 0x31200E
/-- 0x3120+n.0F tier.comp.quota_blocked (R281). -/
abbrev Obj.tierCompQuotaBlocked : Nat := 0x31200F
/-- 0x3120+n.10 tier.comp.default_policy (R281). -/
abbrev Obj.tierCompDefaultPolicy : Nat := 0x312010
/-- 0x3120+n.11 tier.comp.evacuated (R281). -/
abbrev Obj.tierCompEvacuated : Nat := 0x312011
/-- 0x3120+n.12 tier.comp.pc_slow (R281). -/
abbrev Obj.tierCompPcSlow : Nat := 0x312012
/-- 0x3120+n.13 tier.comp.flash_rmw (R281). -/
abbrev Obj.tierCompFlashRmw : Nat := 0x312013
/-- 0x3120+n.14 tier.comp.flash_gc_pages (R281). -/
abbrev Obj.tierCompFlashGcPages : Nat := 0x312014
/-- 0x3120+n.15 tier.comp.ahead_dropped (R281). -/
abbrev Obj.tierCompAheadDropped : Nat := 0x312015
/-- 0x3120+n.16 tier.comp.first_event (R281). -/
abbrev Obj.tierCompFirstEvent : Nat := 0x312016
/-- 0x3120+n.17 tier.comp.event_clear (R281). -/
abbrev Obj.tierCompEventClear : Nat := 0x312017
/-- 0x3120+n.18 tier.comp.define_write (R281). -/
abbrev Obj.tierCompDefineWrite : Nat := 0x312018
/-- 0x3200.01 fab.ports (R316). -/
abbrev Obj.fabPorts : Nat := 0x320001
/-- 0x3200.02 fab.lane_gbps (R316). -/
abbrev Obj.fabLaneGbps : Nat := 0x320002
/-- 0x3200.03 fab.topology (R316). -/
abbrev Obj.fabTopology : Nat := 0x320003
/-- 0x3200.04 fab.dims (R316). -/
abbrev Obj.fabDims : Nat := 0x320004
/-- 0x3200.05 fab.span_tag (R316). -/
abbrev Obj.fabSpanTag : Nat := 0x320005
/-- 0x3200.06 fab.node (R316). -/
abbrev Obj.fabNode : Nat := 0x320006
/-- 0x3200.07 fab.df_group (R316). -/
abbrev Obj.fabDfGroup : Nat := 0x320007
/-- 0x3200.08 fab.df_global (R316). -/
abbrev Obj.fabDfGlobal : Nat := 0x320008
/-- 0x3200.09 fab.vc_credits (R316). -/
abbrev Obj.fabVcCredits : Nat := 0x320009
/-- 0x3200.0A fab.df_groups (R316). -/
abbrev Obj.fabDfGroups : Nat := 0x32000A
/-- 0x3200.0B fab.audit_us (R316). -/
abbrev Obj.fabAuditUs : Nat := 0x32000B
/-- 0x3200.0C fab.rekey_s (R316). -/
abbrev Obj.fabRekeyS : Nat := 0x32000C
/-- 0x3200.0E fab.violation_limit (R316). -/
abbrev Obj.fabViolationLimit : Nat := 0x32000E
/-- 0x3200.0F fab.retrain_limit (R316). -/
abbrev Obj.fabRetrainLimit : Nat := 0x32000F
/-- 0x3200.10 fab.up_map (R316). -/
abbrev Obj.fabUpMap : Nat := 0x320010
/-- 0x3200.11 fab.isolated_map (R316). -/
abbrev Obj.fabIsolatedMap : Nat := 0x320011
/-- 0x3200.12 fab.port_rearm (R316). -/
abbrev Obj.fabPortRearm : Nat := 0x320012
/-- 0x3220+n.01 fab.comp.node_map_write (R316). -/
abbrev Obj.fabCompNodeMapWrite : Nat := 0x322001
/-- 0x3220+n.02 fab.comp.node_map_clear (R316). -/
abbrev Obj.fabCompNodeMapClear : Nat := 0x322002
/-- 0x3220+n.03 fab.comp.node_map_count (R316). -/
abbrev Obj.fabCompNodeMapCount : Nat := 0x322003
/-- 0x3220+n.04 fab.comp.node_map_digest (R316). -/
abbrev Obj.fabCompNodeMapDigest : Nat := 0x322004
/-- 0x3220+n.05 fab.comp.lines_out (R316). -/
abbrev Obj.fabCompLinesOut : Nat := 0x322005
/-- 0x3220+n.06 fab.comp.lines_in (R316). -/
abbrev Obj.fabCompLinesIn : Nat := 0x322006
/-- 0x3220+n.07 fab.comp.undelivered (R316). -/
abbrev Obj.fabCompUndelivered : Nat := 0x322007
/-- 0x3240+p.01 fab.port.state (R316). -/
abbrev Obj.fabPortState : Nat := 0x324001
/-- 0x3240+p.02 fab.port.width (R316). -/
abbrev Obj.fabPortWidth : Nat := 0x324002
/-- 0x3240+p.03 fab.port.peer (R316). -/
abbrev Obj.fabPortPeer : Nat := 0x324003
/-- 0x3240+p.04 fab.port.peer_port (R316). -/
abbrev Obj.fabPortPeerPort : Nat := 0x324004
/-- 0x3240+p.05 fab.port.rtt_ns (R316). -/
abbrev Obj.fabPortRttNs : Nat := 0x324005
/-- 0x3240+p.06 fab.port.key_epoch (R316). -/
abbrev Obj.fabPortKeyEpoch : Nat := 0x324006
/-- 0x3240+p.07 fab.port.frames_tx (R316). -/
abbrev Obj.fabPortFramesTx : Nat := 0x324007
/-- 0x3240+p.08 fab.port.replays (R316). -/
abbrev Obj.fabPortReplays : Nat := 0x324008
/-- 0x3240+p.09 fab.port.tag_failures (R316). -/
abbrev Obj.fabPortTagFailures : Nat := 0x324009
/-- 0x3240+p.0A fab.port.audits (R316). -/
abbrev Obj.fabPortAudits : Nat := 0x32400A
/-- 0x3240+p.0B fab.port.mismatches (R316). -/
abbrev Obj.fabPortMismatches : Nat := 0x32400B
/-- 0x3240+p.0C fab.port.recredits (R316). -/
abbrev Obj.fabPortRecredits : Nat := 0x32400C
/-- 0x3240+p.0D fab.port.violations (R316). -/
abbrev Obj.fabPortViolations : Nat := 0x32400D
/-- 0x3240+p.0E fab.port.fec_corrected (R316). -/
abbrev Obj.fabPortFecCorrected : Nat := 0x32400E
/-- 0x3240+p.0F fab.port.last_mismatch (R316). -/
abbrev Obj.fabPortLastMismatch : Nat := 0x32400F
/-- 0x4000.01 comp.max (R343). -/
abbrev Obj.compMax : Nat := 0x400001
/-- 0x4000.02 comp.contrib_max (R343). -/
abbrev Obj.compContribMax : Nat := 0x400002
/-- 0x4000.03 comp.blocks_free (R343). -/
abbrev Obj.compBlocksFree : Nat := 0x400003
/-- 0x4000.04 comp.groups_free (R343). -/
abbrev Obj.compGroupsFree : Nat := 0x400004
/-- 0x4000.05 comp.flash_free (R343). -/
abbrev Obj.compFlashFree : Nat := 0x400005
/-- 0x4000.06 comp.ports_free (R343). -/
abbrev Obj.compPortsFree : Nat := 0x400006
/-- 0x4000.07 comp.flash_erasing (R343). -/
abbrev Obj.compFlashErasing : Nat := 0x400007
/-- 0x4000.08 comp.crossing_rate (R343). -/
abbrev Obj.compCrossingRate : Nat := 0x400008
/-- 0x4000.09 comp.close_defer_ms (R343). -/
abbrev Obj.compCloseDeferMs : Nat := 0x400009
/-- 0x4020+n.01 comp.geometry (R343). -/
abbrev Obj.compGeometry : Nat := 0x402001
/-- 0x4020+n.02 comp.command (R343). -/
abbrev Obj.compCommand : Nat := 0x402002
/-- 0x4020+n.03 comp.state (R343). -/
abbrev Obj.compState : Nat := 0x402003
/-- 0x4020+n.04 comp.hold_cause (R343). -/
abbrev Obj.compHoldCause : Nat := 0x402004
/-- 0x4020+n.05 comp.policy (R343). -/
abbrev Obj.compPolicy : Nat := 0x402005
/-- 0x4020+n.06 comp.contrib_write (R343). -/
abbrev Obj.compContribWrite : Nat := 0x402006
/-- 0x4020+n.07 comp.contrib_keyed (R343). -/
abbrev Obj.compContribKeyed : Nat := 0x402007
/-- 0x4020+n.08 comp.contrib_valid (R343). -/
abbrev Obj.compContribValid : Nat := 0x402008
/-- 0x4020+n.09 comp.sill_contrib (R343). -/
abbrev Obj.compSillContrib : Nat := 0x402009
/-- 0x4020+n.0A comp.sill_examples (R343). -/
abbrev Obj.compSillExamples : Nat := 0x40200A
/-- 0x4020+n.0B comp.sill_min (R343). -/
abbrev Obj.compSillMin : Nat := 0x40200B
/-- 0x4020+n.0D comp.tally_close_peg (R343). -/
abbrev Obj.compTallyClosePeg : Nat := 0x40200D
/-- 0x4020+n.0E comp.tally_step (R343). -/
abbrev Obj.compTallyStep : Nat := 0x40200E
/-- 0x4020+n.0F comp.release_m (R343). -/
abbrev Obj.compReleaseM : Nat := 0x40200F
/-- 0x4020+n.10 comp.release_request (R343). -/
abbrev Obj.compReleaseRequest : Nat := 0x402010
/-- 0x4020+n.11 comp.release_approve (R343). -/
abbrev Obj.compReleaseApprove : Nat := 0x402011
/-- 0x4020+n.12 comp.release_status (R343). -/
abbrev Obj.compReleaseStatus : Nat := 0x402012
/-- 0x4020+n.13 comp.release_window_s (R343). -/
abbrev Obj.compReleaseWindowS : Nat := 0x402013
/-- 0x4020+n.14 comp.tally_sums (R343). -/
abbrev Obj.compTallySums : Nat := 0x402014
/-- 0x4020+n.15 comp.mixed_examples (R343). -/
abbrev Obj.compMixedExamples : Nat := 0x402015
/-- 0x4100.01 integ.tag_bits (R373). -/
abbrev Obj.integTagBits : Nat := 0x410001
/-- 0x4100.02 integ.cache_mib (R373). -/
abbrev Obj.integCacheMib : Nat := 0x410002
/-- 0x4100.03 integ.partition_kib (R373). -/
abbrev Obj.integPartitionKib : Nat := 0x410003
/-- 0x4100.04 integ.tree_arity (R373). -/
abbrev Obj.integTreeArity : Nat := 0x410004
/-- 0x4100.05 integ.hbm_ce_total (R373). -/
abbrev Obj.integHbmCeTotal : Nat := 0x410005
/-- 0x4120+n.01 integ.comp.tag_failures (R373). -/
abbrev Obj.integCompTagFailures : Nat := 0x412001
/-- 0x4120+n.02 integ.comp.partial_refused (R373). -/
abbrev Obj.integCompPartialRefused : Nat := 0x412002
/-- 0x4120+n.03 integ.comp.minor_wraps (R373). -/
abbrev Obj.integCompMinorWraps : Nat := 0x412003
/-- 0x4120+n.04 integ.comp.reencrypt_lines (R373). -/
abbrev Obj.integCompReencryptLines : Nat := 0x412004
/-- 0x4120+n.05 integ.comp.cache_hits (R373). -/
abbrev Obj.integCompCacheHits : Nat := 0x412005
/-- 0x4120+n.06 integ.comp.cache_misses (R373). -/
abbrev Obj.integCompCacheMisses : Nat := 0x412006
/-- 0x4120+n.07 integ.comp.unverifiable_pages (R373). -/
abbrev Obj.integCompUnverifiablePages : Nat := 0x412007
/-- 0x4120+n.08 integ.comp.poisoned_lines (R373). -/
abbrev Obj.integCompPoisonedLines : Nat := 0x412008
/-- 0x4120+n.09 integ.comp.ce_corrected (R373). -/
abbrev Obj.integCompCeCorrected : Nat := 0x412009
/-- 0x4120+n.0A integ.comp.unverifiable_ranges (R373). -/
abbrev Obj.integCompUnverifiableRanges : Nat := 0x41200A
/-- 0x4120+n.0B integ.comp.imports (R373). -/
abbrev Obj.integCompImports : Nat := 0x41200B
/-- 0x4120+n.0C integ.comp.import_refused (R373). -/
abbrev Obj.integCompImportRefused : Nat := 0x41200C
/-- 0x4120+n.0D integ.comp.first_event (R373). -/
abbrev Obj.integCompFirstEvent : Nat := 0x41200D
/-- 0x4120+n.0E integ.comp.event_clear (R373). -/
abbrev Obj.integCompEventClear : Nat := 0x41200E
/-- 0x4130+n.01–.10 integ.kr.desc (R373). -/
abbrev Obj.integKrDesc : Nat := 0x413001
/-- 0x4140+n.01–.08 integ.comp.import_seq (R373). -/
abbrev Obj.integCompImportSeq : Nat := 0x414001
/-- 0x4150+n.01–.10 integ.kr.majors_drawn (R373). -/
abbrev Obj.integKrMajorsDrawn : Nat := 0x415001
/-- 0x4200.01 rot.id_digest (R399). -/
abbrev Obj.rotIdDigest : Nat := 0x420001
/-- 0x4200.02 rot.id_certs (R399). -/
abbrev Obj.rotIdCerts : Nat := 0x420002
/-- 0x4200.03 rot.mr (R399). -/
abbrev Obj.rotMr : Nat := 0x420003
/-- 0x4200.04 rot.svn_fused (R399). -/
abbrev Obj.rotSvnFused : Nat := 0x420004
/-- 0x4200.05 rot.svn_advance (R399). -/
abbrev Obj.rotSvnAdvance : Nat := 0x420005
/-- 0x4200.06 rot.boot_slot (R399). -/
abbrev Obj.rotBootSlot : Nat := 0x420006
/-- 0x4200.07 rot.delivery_ek (R399). -/
abbrev Obj.rotDeliveryEk : Nat := 0x420007
/-- 0x4200.08 rot.report_request (R399). -/
abbrev Obj.rotReportRequest : Nat := 0x420008
/-- 0x4200.09 rot.report (R399). -/
abbrev Obj.rotReport : Nat := 0x420009
/-- 0x4200.0A rot.reports_signed (R399). -/
abbrev Obj.rotReportsSigned : Nat := 0x42000A
/-- 0x4200.0B rot.spdm_sessions (R399). -/
abbrev Obj.rotSpdmSessions : Nat := 0x42000B
/-- 0x4200.0C rot.spdm_errors (R399). -/
abbrev Obj.rotSpdmErrors : Nat := 0x42000C
/-- 0x4220+n.01 rot.comp.report_request (R399). -/
abbrev Obj.rotCompReportRequest : Nat := 0x422001
/-- 0x4220+n.02 rot.comp.report (R399). -/
abbrev Obj.rotCompReport : Nat := 0x422002
/-- 0x4220+n.03 rot.comp.terms (R399). -/
abbrev Obj.rotCompTerms : Nat := 0x422003
/-- 0x4220+n.04 rot.comp.job_key_commit (R399). -/
abbrev Obj.rotCompJobKeyCommit : Nat := 0x422004
/-- 0x4220+n.05 rot.comp.key_deliver (R399). -/
abbrev Obj.rotCompKeyDeliver : Nat := 0x422005
/-- 0x4220+n.06 rot.comp.job_key_installed (R399). -/
abbrev Obj.rotCompJobKeyInstalled : Nat := 0x422006
/-- 0x4220+n.07 rot.comp.tdi_state (R399). -/
abbrev Obj.rotCompTdiState : Nat := 0x422007
/-- 0x4220+n.08 rot.comp.deliveries_refused (R399). -/
abbrev Obj.rotCompDeliveriesRefused : Nat := 0x422008
/-- 0x4220+n.10–.1F rot.comp.ledger (R399). -/
abbrev Obj.rotCompLedger : Nat := 0x422010
/-- 0x4220+n.20 rot.comp.slots_verified (R399). -/
abbrev Obj.rotCompSlotsVerified : Nat := 0x422020
/-- 0x5000.01 ckpt.slots (R424). -/
abbrev Obj.ckptSlots : Nat := 0x500001
/-- 0x5000.02 ckpt.mirrors_max (R424). -/
abbrev Obj.ckptMirrorsMax : Nat := 0x500002
/-- 0x5000.03 ckpt.set_max (R424). -/
abbrev Obj.ckptSetMax : Nat := 0x500003
/-- 0x5000.04 ckpt.record_bytes (R424). -/
abbrev Obj.ckptRecordBytes : Nat := 0x500004
/-- 0x5000.05 ckpt.ahead_timeout_ms (R424). -/
abbrev Obj.ckptAheadTimeoutMs : Nat := 0x500005
/-- 0x5000.06 ckpt.holdup_margin_ms (R424). -/
abbrev Obj.ckptHoldupMarginMs : Nat := 0x500006
/-- 0x5000.07 ckpt.restore_ms (R424). -/
abbrev Obj.ckptRestoreMs : Nat := 0x500007
/-- 0x5020+n.01 ckpt.comp.map_id (R424). -/
abbrev Obj.ckptCompMapId : Nat := 0x502001
/-- 0x5020+n.02 ckpt.comp.mirrors (R424). -/
abbrev Obj.ckptCompMirrors : Nat := 0x502002
/-- 0x5020+n.03 ckpt.comp.set_write (R424). -/
abbrev Obj.ckptCompSetWrite : Nat := 0x502003
/-- 0x5020+n.04 ckpt.comp.set_count (R424). -/
abbrev Obj.ckptCompSetCount : Nat := 0x502004
/-- 0x5020+n.05 ckpt.comp.boundary_addr (R424). -/
abbrev Obj.ckptCompBoundaryAddr : Nat := 0x502005
/-- 0x5020+n.06 ckpt.comp.boundary_peg (R424). -/
abbrev Obj.ckptCompBoundaryPeg : Nat := 0x502006
/-- 0x5020+n.07 ckpt.comp.armed_peg (R424). -/
abbrev Obj.ckptCompArmedPeg : Nat := 0x502007
/-- 0x5020+n.08 ckpt.comp.commit_peg (R424). -/
abbrev Obj.ckptCompCommitPeg : Nat := 0x502008
/-- 0x5020+n.09 ckpt.comp.copy_gbps (R424). -/
abbrev Obj.ckptCompCopyGbps : Nat := 0x502009
/-- 0x5020+n.0A ckpt.comp.dovetail_ms (R424). -/
abbrev Obj.ckptCompDovetailMs : Nat := 0x50200A
/-- 0x5020+n.0B ckpt.comp.last_committed (R424). -/
abbrev Obj.ckptCompLastCommitted : Nat := 0x50200B
/-- 0x5020+n.0C ckpt.comp.last_status (R424). -/
abbrev Obj.ckptCompLastStatus : Nat := 0x50200C
/-- 0x5020+n.0D ckpt.comp.in_progress (R424). -/
abbrev Obj.ckptCompInProgress : Nat := 0x50200D
/-- 0x5020+n.0E ckpt.comp.pending_pages (R424). -/
abbrev Obj.ckptCompPendingPages : Nat := 0x50200E
/-- 0x5020+n.0F ckpt.comp.copy_aheads (R424). -/
abbrev Obj.ckptCompCopyAheads : Nat := 0x50200F
/-- 0x5020+n.10 ckpt.comp.ahead_wait_max_ns (R424). -/
abbrev Obj.ckptCompAheadWaitMaxNs : Nat := 0x502010
/-- 0x5020+n.11 ckpt.comp.hints (R424). -/
abbrev Obj.ckptCompHints : Nat := 0x502011
/-- 0x5020+n.12 ckpt.comp.restore (R424). -/
abbrev Obj.ckptCompRestore : Nat := 0x502012
/-- 0x5020+n.13 ckpt.comp.restore_status (R424). -/
abbrev Obj.ckptCompRestoreStatus : Nat := 0x502013
/-- 0x5020+n.14 ckpt.comp.copies_rebuilt (R424). -/
abbrev Obj.ckptCompCopiesRebuilt : Nat := 0x502014
/-- 0x5020+n.15 ckpt.comp.abandoned (R424). -/
abbrev Obj.ckptCompAbandoned : Nat := 0x502015
/-- 0x5020+n.16 ckpt.comp.corrupt_copies (R424). -/
abbrev Obj.ckptCompCorruptCopies : Nat := 0x502016
/-- 0x5100.01 phase.maps_max (R443). -/
abbrev Obj.phaseMapsMax : Nat := 0x510001
/-- 0x5100.02 phase.ids (R443). -/
abbrev Obj.phaseIds : Nat := 0x510002
/-- 0x5120+n.01 phase.comp.ring_addr (R443). -/
abbrev Obj.phaseCompRingAddr : Nat := 0x512001
/-- 0x5120+n.02 phase.comp.ring_entries (R443). -/
abbrev Obj.phaseCompRingEntries : Nat := 0x512002
/-- 0x5120+n.03 phase.comp.ring_peg (R443). -/
abbrev Obj.phaseCompRingPeg : Nat := 0x512003
/-- 0x5120+n.04 phase.comp.taken_peg (R443). -/
abbrev Obj.phaseCompTakenPeg : Nat := 0x512004
/-- 0x5120+n.05 phase.comp.current (R443). -/
abbrev Obj.phaseCompCurrent : Nat := 0x512005
/-- 0x5120+n.06 phase.comp.current_since (R443). -/
abbrev Obj.phaseCompCurrentSince : Nat := 0x512006
/-- 0x5120+n.07 phase.comp.marks (R443). -/
abbrev Obj.phaseCompMarks : Nat := 0x512007
/-- 0x5120+n.08 phase.comp.marks_refused (R443). -/
abbrev Obj.phaseCompMarksRefused : Nat := 0x512008
/-- 0x5120+n.09 phase.comp.overruns (R443). -/
abbrev Obj.phaseCompOverruns : Nat := 0x512009
/-- 0x5120+n.0A phase.comp.map_count (R443). -/
abbrev Obj.phaseCompMapCount : Nat := 0x51200A
/-- 0x5120+n.0B phase.comp.plan_count (R443). -/
abbrev Obj.phaseCompPlanCount : Nat := 0x51200B
/-- 0x5120+n.10–.17 phase.comp.map (R443). -/
abbrev Obj.phaseCompMap : Nat := 0x512010
/-- 0x5120+n.18 phase.comp.plan (R443). -/
abbrev Obj.phaseCompPlan : Nat := 0x512018
/-- 0x6000.01 power.input_mv (R467). -/
abbrev Obj.powerInputMv : Nat := 0x600001
/-- 0x6000.02 power.input_w (R467). -/
abbrev Obj.powerInputW : Nat := 0x600002
/-- 0x6000.03 power.input_limit_w (R467). -/
abbrev Obj.powerInputLimitW : Nat := 0x600003
/-- 0x6000.04 power.allotable_w (R467). -/
abbrev Obj.powerAllotableW : Nat := 0x600004
/-- 0x6000.05 power.common_w (R467). -/
abbrev Obj.powerCommonW : Nat := 0x600005
/-- 0x6000.06 power.energy_mj (R467). -/
abbrev Obj.powerEnergyMj : Nat := 0x600006
/-- 0x6001.01 bevel.slope_up (R467). -/
abbrev Obj.bevelSlopeUp : Nat := 0x600101
/-- 0x6001.02 bevel.slope_dn (R467). -/
abbrev Obj.bevelSlopeDn : Nat := 0x600102
/-- 0x6001.03 bevel.horizon_ms (R467). -/
abbrev Obj.bevelHorizonMs : Nat := 0x600103
/-- 0x6001.04 bevel.filler_w (R467). -/
abbrev Obj.bevelFillerW : Nat := 0x600104
/-- 0x6001.05 bevel.filler_mj (R467). -/
abbrev Obj.bevelFillerMj : Nat := 0x600105
/-- 0x6001.06 bevel.filler_short (R467). -/
abbrev Obj.bevelFillerShort : Nat := 0x600106
/-- 0x6002.01 ramp.slot_us (R467). -/
abbrev Obj.rampSlotUs : Nat := 0x600201
/-- 0x6002.02 ramp.slots (R467). -/
abbrev Obj.rampSlots : Nat := 0x600202
/-- 0x6002.03 ramp.index (R467). -/
abbrev Obj.rampIndex : Nat := 0x600203
/-- 0x6002.04 ramp.step_w (R467). -/
abbrev Obj.rampStepW : Nat := 0x600204
/-- 0x6003.01 valve.t_out_target_c (R467). -/
abbrev Obj.valveTOutTargetC : Nat := 0x600301
/-- 0x6003.02 valve.t_hot_target_c (R467). -/
abbrev Obj.valveTHotTargetC : Nat := 0x600302
/-- 0x6003.03 valve.lead_ms (R467). -/
abbrev Obj.valveLeadMs : Nat := 0x600303
/-- 0x6003.04 valve.kp (R467). -/
abbrev Obj.valveKp : Nat := 0x600304
/-- 0x6003.05 valve.ki (R467). -/
abbrev Obj.valveKi : Nat := 0x600305
/-- 0x6003.06 valve.flow_set (R467). -/
abbrev Obj.valveFlowSet : Nat := 0x600306
/-- 0x6003.07 valve.flow (R467). -/
abbrev Obj.valveFlow : Nat := 0x600307
/-- 0x6003.08 valve.position (R467). -/
abbrev Obj.valvePosition : Nat := 0x600308
/-- 0x6003.09 valve.coolant_c (R467). -/
abbrev Obj.valveCoolantC : Nat := 0x600309
/-- 0x6003.0A valve.hot_spot_c (R467). -/
abbrev Obj.valveHotSpotC : Nat := 0x60030A
/-- 0x6004.01 thermal.status (R467). -/
abbrev Obj.thermalStatus : Nat := 0x600401
/-- 0x6004.02 thermal.events (R467). -/
abbrev Obj.thermalEvents : Nat := 0x600402
/-- 0x6005.01 holdup.budget_s (R467). -/
abbrev Obj.holdupBudgetS : Nat := 0x600501
/-- 0x6005.02 holdup.clear_ms (R467). -/
abbrev Obj.holdupClearMs : Nat := 0x600502
/-- 0x6005.03 holdup.elapsed_ms (R467). -/
abbrev Obj.holdupElapsedMs : Nat := 0x600503
/-- 0x6005.04 holdup.count (R467). -/
abbrev Obj.holdupCount : Nat := 0x600504
/-- 0x6005.05 holdup.bus_warning (R467). -/
abbrev Obj.holdupBusWarning : Nat := 0x600505
/-- 0x6020+n.01 power.comp.draw_w (R467). -/
abbrev Obj.powerCompDrawW : Nat := 0x602001
/-- 0x6020+n.02 power.comp.energy_mj (R467). -/
abbrev Obj.powerCompEnergyMj : Nat := 0x602002
/-- 0x6020+n.03 power.comp.filler_mj (R467). -/
abbrev Obj.powerCompFillerMj : Nat := 0x602003
/-- 0x6020+n.04 power.comp.throttle_windows (R467). -/
abbrev Obj.powerCompThrottleWindows : Nat := 0x602004
/-- 0x6020+n.05 power.comp.allot_w (R467). -/
abbrev Obj.powerCompAllotW : Nat := 0x602005
/-- 0x6020+n.06 power.comp.slope_windows (R467). -/
abbrev Obj.powerCompSlopeWindows : Nat := 0x602006
/-- 0x6020+n.07 power.comp.pacer_cap (R467). -/
abbrev Obj.powerCompPacerCap : Nat := 0x602007
/-- 0x6100.01 time.now (R487). -/
abbrev Obj.timeNow : Nat := 0x610001
/-- 0x6100.02 time.state (R487). -/
abbrev Obj.timeState : Nat := 0x610002
/-- 0x6100.03 time.source (R487). -/
abbrev Obj.timeSource : Nat := 0x610003
/-- 0x6100.04 time.offset_ns (R487). -/
abbrev Obj.timeOffsetNs : Nat := 0x610004
/-- 0x6100.05 time.freq_ppb (R487). -/
abbrev Obj.timeFreqPpb : Nat := 0x610005
/-- 0x6100.06 time.holdover_s (R487). -/
abbrev Obj.timeHoldoverS : Nat := 0x610006
/-- 0x6100.07 time.holdover_limit_s (R487). -/
abbrev Obj.timeHoldoverLimitS : Nat := 0x610007
/-- 0x6100.08 time.domain (R487). -/
abbrev Obj.timeDomain : Nat := 0x610008
/-- 0x6100.09 time.slew_ppm (R487). -/
abbrev Obj.timeSlewPpm : Nat := 0x610009
/-- 0x6100.0A time.step_threshold_ns (R487). -/
abbrev Obj.timeStepThresholdNs : Nat := 0x61000A
/-- 0x6100.0B time.clock_id (R487). -/
abbrev Obj.timeClockId : Nat := 0x61000B
/-- 0x6100.0C time.utc_offset_s (R487). -/
abbrev Obj.timeUtcOffsetS : Nat := 0x61000C
/-- 0x6100.0D time.priority1 (R487). -/
abbrev Obj.timePriority1 : Nat := 0x61000D
/-- 0x6100.0E time.priority2 (R487). -/
abbrev Obj.timePriority2 : Nat := 0x61000E
/-- 0x6100.0F time.gm_identity (R487). -/
abbrev Obj.timeGmIdentity : Nat := 0x61000F
/-- 0x6100.10 time.steps_removed (R487). -/
abbrev Obj.timeStepsRemoved : Nat := 0x610010
/-- 0x6100.11 time.ptp_dropped (R487). -/
abbrev Obj.timePtpDropped : Nat := 0x610011
/-- 0x6140+p.01 time.port.delay_ns (R487). -/
abbrev Obj.timePortDelayNs : Nat := 0x614001
/-- 0x6140+p.02 time.port.role (R487). -/
abbrev Obj.timePortRole : Nat := 0x614002
/-- 0x6140+p.03 time.port.rejected (R487). -/
abbrev Obj.timePortRejected : Nat := 0x614003
/-- 0x6200.01 ev.tile_counters (R487). -/
abbrev Obj.evTileCounters : Nat := 0x620001
/-- 0x6200.02 ev.comp_counters (R487). -/
abbrev Obj.evCompCounters : Nat := 0x620002
/-- 0x6200.03 ev.tile_bits (R487). -/
abbrev Obj.evTileBits : Nat := 0x620003
/-- 0x6220+n.01 ev.comp.tile_sel (R487). -/
abbrev Obj.evCompTileSel : Nat := 0x622001
/-- 0x6220+n.02 ev.comp.snap_addr (R487). -/
abbrev Obj.evCompSnapAddr : Nat := 0x622002
/-- 0x6220+n.03 ev.comp.snap_req_peg (R487). -/
abbrev Obj.evCompSnapReqPeg : Nat := 0x622003
/-- 0x6220+n.04 ev.comp.snap_done_peg (R487). -/
abbrev Obj.evCompSnapDonePeg : Nat := 0x622004
/-- 0x6220+n.05 ev.comp.snap_now (R487). -/
abbrev Obj.evCompSnapNow : Nat := 0x622005
/-- 0x6220+n.06 ev.comp.snapshots (R487). -/
abbrev Obj.evCompSnapshots : Nat := 0x622006
/-- 0x6220+n.07 ev.comp.snap_refused (R487). -/
abbrev Obj.evCompSnapRefused : Nat := 0x622007
/-- 0x6220+n.08 ev.comp.phase_clear (R487). -/
abbrev Obj.evCompPhaseClear : Nat := 0x622008
/-- 0x6230+n.01–.40 ev.comp.agg (R487). -/
abbrev Obj.evCompAgg : Nat := 0x623001
/-- 0x6240+n.01 ev.comp.phase_records (R487). -/
abbrev Obj.evCompPhaseRecords : Nat := 0x624001
/-- 0x7000.01 host.link_width (R512). -/
abbrev Obj.hostLinkWidth : Nat := 0x700001
/-- 0x7000.02 host.link_gts (R512). -/
abbrev Obj.hostLinkGts : Nat := 0x700002
/-- 0x7000.03 host.flit_mode (R512). -/
abbrev Obj.hostFlitMode : Nat := 0x700003
/-- 0x7000.04 host.num_vfs (R512). -/
abbrev Obj.hostNumVfs : Nat := 0x700004
/-- 0x7000.05 host.link_downs (R512). -/
abbrev Obj.hostLinkDowns : Nat := 0x700005
/-- 0x7000.06 host.violation_limit (R512). -/
abbrev Obj.hostViolationLimit : Nat := 0x700006
/-- 0x7000.07 host.queue_pairs (R512). -/
abbrev Obj.hostQueuePairs : Nat := 0x700007
/-- 0x7000.08 host.mailboxes (R512). -/
abbrev Obj.hostMailboxes : Nat := 0x700008
/-- 0x7000.09 host.msix_vectors (R512). -/
abbrev Obj.hostMsixVectors : Nat := 0x700009
/-- 0x7000.0A host.pf_violations (R512). -/
abbrev Obj.hostPfViolations : Nat := 0x70000A
/-- 0x7020+n.01 host.comp.pub_ring_addr (R512). -/
abbrev Obj.hostCompPubRingAddr : Nat := 0x702001
/-- 0x7020+n.02 host.comp.pub_ring_entries (R512). -/
abbrev Obj.hostCompPubRingEntries : Nat := 0x702002
/-- 0x7020+n.03 host.comp.pub_ring_peg (R512). -/
abbrev Obj.hostCompPubRingPeg : Nat := 0x702003
/-- 0x7020+n.04 host.comp.pub_taken_peg (R512). -/
abbrev Obj.hostCompPubTakenPeg : Nat := 0x702004
/-- 0x7020+n.05 host.comp.mbox_vector_base (R512). -/
abbrev Obj.hostCompMboxVectorBase : Nat := 0x702005
/-- 0x7020+n.06 host.comp.publishes (R512). -/
abbrev Obj.hostCompPublishes : Nat := 0x702006
/-- 0x7020+n.07 host.comp.mbox_reads (R512). -/
abbrev Obj.hostCompMboxReads : Nat := 0x702007
/-- 0x7020+n.08 host.comp.not_ready_reads (R512). -/
abbrev Obj.hostCompNotReadyReads : Nat := 0x702008
/-- 0x7020+n.09 host.comp.stale_acks (R512). -/
abbrev Obj.hostCompStaleAcks : Nat := 0x702009
/-- 0x7020+n.0A host.comp.commands (R512). -/
abbrev Obj.hostCompCommands : Nat := 0x70200A
/-- 0x7020+n.0B host.comp.state_conflicts (R512). -/
abbrev Obj.hostCompStateConflicts : Nat := 0x70200B
/-- 0x7020+n.0C host.comp.violations (R512). -/
abbrev Obj.hostCompViolations : Nat := 0x70200C
/-- 0x7020+n.0D host.comp.completions_discarded (R512). -/
abbrev Obj.hostCompCompletionsDiscarded : Nat := 0x70200D
/-- 0x7020+n.0E host.comp.mbox_ready (R512). -/
abbrev Obj.hostCompMboxReady : Nat := 0x70200E
/-- 0x1100.01 sess.udp_port (R541). -/
abbrev Obj.sessUdpPort : Nat := 0x110001
/-- 0x1100.02 sess.max_sessions (R541). -/
abbrev Obj.sessMaxSessions : Nat := 0x110002
/-- 0x1100.03 sess.open (R541). -/
abbrev Obj.sessOpen : Nat := 0x110003
/-- 0x1100.04 sess.idle_timeout_s (R541). -/
abbrev Obj.sessIdleTimeoutS : Nat := 0x110004
/-- 0x1100.05 sess.lifetime_s (R541). -/
abbrev Obj.sessLifetimeS : Nat := 0x110005
/-- 0x1100.06 sess.req_rate (R541). -/
abbrev Obj.sessReqRate : Nat := 0x110006
/-- 0x1100.07 sess.anchor_mgr (R541). -/
abbrev Obj.sessAnchorMgr : Nat := 0x110007
/-- 0x1100.08 sess.anchor_obs (R541). -/
abbrev Obj.sessAnchorObs : Nat := 0x110008
/-- 0x1100.09 sess.mac (R541). -/
abbrev Obj.sessMac : Nat := 0x110009
/-- 0x1100.0A sess.ipv6_static (R541). -/
abbrev Obj.sessIpv6Static : Nat := 0x11000A
/-- 0x1100.0B sess.ipv6_addrs (R541). -/
abbrev Obj.sessIpv6Addrs : Nat := 0x11000B
/-- 0x1100.0C sess.plca_node (R541). -/
abbrev Obj.sessPlcaNode : Nat := 0x11000C
/-- 0x1100.0D sess.plca_count (R541). -/
abbrev Obj.sessPlcaCount : Nat := 0x11000D
/-- 0x1100.0E sess.plca_to (R541). -/
abbrev Obj.sessPlcaTo : Nat := 0x11000E
/-- 0x1100.0F sess.dropped (R541). -/
abbrev Obj.sessDropped : Nat := 0x11000F
/-- 0x1100.10 sess.handshakes_refused (R541). -/
abbrev Obj.sessHandshakesRefused : Nat := 0x110010
/-- 0x1100.11 sess.rate_limited (R541). -/
abbrev Obj.sessRateLimited : Nat := 0x110011
/-- 0x1100.12 sess.quarantines (R541). -/
abbrev Obj.sessQuarantines : Nat := 0x110012
/-- 0x1100.13 sess.fabric_reads (R541). -/
abbrev Obj.sessFabricReads : Nat := 0x110013
/-- 0x1100.14 sess.fabric_ro_rate (R541). -/
abbrev Obj.sessFabricRoRate : Nat := 0x110014
/-- 0x1100.15 sess.close (R541). -/
abbrev Obj.sessClose : Nat := 0x110015
/-- 0x1120+n.01 sess.comp.anchor (R541). -/
abbrev Obj.sessCompAnchor : Nat := 0x112001
/-- 0x1120+n.02 sess.comp.sessions (R541). -/
abbrev Obj.sessCompSessions : Nat := 0x112002
/-- 0x1140+s.01 sess.slot.role (R541). -/
abbrev Obj.sessSlotRole : Nat := 0x114001
/-- 0x1140+s.02 sess.slot.comp (R541). -/
abbrev Obj.sessSlotComp : Nat := 0x114002
/-- 0x1140+s.03 sess.slot.peer (R541). -/
abbrev Obj.sessSlotPeer : Nat := 0x114003
/-- 0x1140+s.04 sess.slot.cert_digest (R541). -/
abbrev Obj.sessSlotCertDigest : Nat := 0x114004
/-- 0x1140+s.05 sess.slot.opened (R541). -/
abbrev Obj.sessSlotOpened : Nat := 0x114005
/-- 0x1140+s.06 sess.slot.messages (R541). -/
abbrev Obj.sessSlotMessages : Nat := 0x114006
/-- 0x1140+s.07 sess.slot.auth_failures (R541). -/
abbrev Obj.sessSlotAuthFailures : Nat := 0x114007
/-- 0x1000.01 module.state (R554). -/
abbrev Obj.moduleState : Nat := 0x100001
/-- 0x1000.02 module.part_number (R554). -/
abbrev Obj.modulePartNumber : Nat := 0x100002
/-- 0x1000.03 module.serial (R554). -/
abbrev Obj.moduleSerial : Nat := 0x100003
/-- 0x1000.04 module.hw_revision (R554). -/
abbrev Obj.moduleHwRevision : Nat := 0x100004
/-- 0x1000.05 module.boot_count (R554). -/
abbrev Obj.moduleBootCount : Nat := 0x100005
/-- 0x1000.06 module.command (R554). -/
abbrev Obj.moduleCommand : Nat := 0x100006
/-- 0x1000.07 module.auto_start (R554). -/
abbrev Obj.moduleAutoStart : Nat := 0x100007
/-- 0x1000.08 module.last_reset (R554). -/
abbrev Obj.moduleLastReset : Nat := 0x100008
/-- 0x1000.09 module.fault_cause (R554). -/
abbrev Obj.moduleFaultCause : Nat := 0x100009
/-- 0x1000.0A module.bringup_ms (R554). -/
abbrev Obj.moduleBringupMs : Nat := 0x10000A
/-- 0x1000.0B module.groups_failed (R554). -/
abbrev Obj.moduleGroupsFailed : Nat := 0x10000B
/-- 0x1000.0C module.flash_failed (R554). -/
abbrev Obj.moduleFlashFailed : Nat := 0x10000C
/-- 0x1000.0D module.slot_watchdog_us (R554). -/
abbrev Obj.moduleSlotWatchdogUs : Nat := 0x10000D
/-- 0x1000.0E module.fw_stage (R554). -/
abbrev Obj.moduleFwStage : Nat := 0x10000E
/-- 0x1000.0F module.fw_commit (R554). -/
abbrev Obj.moduleFwCommit : Nat := 0x10000F
/-- 0x7F00.01 fault.capacity (R554). -/
abbrev Obj.faultCapacity : Nat := 0x7F0001
/-- 0x7F00.02 fault.log (R554). -/
abbrev Obj.faultLog : Nat := 0x7F0002
/-- 0x7F00.03 fault.next_seq (R554). -/
abbrev Obj.faultNextSeq : Nat := 0x7F0003
/-- 0x7F00.04 fault.overwritten (R554). -/
abbrev Obj.faultOverwritten : Nat := 0x7F0004
/-- 0x7F00.05 fault.clear (R554). -/
abbrev Obj.faultClear : Nat := 0x7F0005
/-- 0x7F20+n.01 fault.comp.log (R554). -/
abbrev Obj.faultCompLog : Nat := 0x7F2001

/-- Address of an object of compartment, port or session n. -/
def objAt (base n : Nat) : Nat := base + 256 * n

/-- One row of an object table: first address, how many indices and subindices it spans, type code (R517), size in bytes,
access (0 RO, 1 RW, 2 WO; R518), kind of state limit (0 none, 1 module, 2 compartment) with its mask, default (none: the
table gives none), persistence (0 constant, 1 persistent, 2 volatile; R519), which compartments read it (0 none, 1 every,
2 its own), and for a number the range its chapter states (both 0: see dictRules). -/
structure ObjRow where
  base : Nat
  idxs : Nat
  subs : Nat
  type : Nat
  size : Nat
  access : Nat
  stKind : Nat
  stMask : Nat
  dflt : Option Nat
  pers : Nat
  cvis : Nat
  lo : Nat
  hi : Nat
  deriving DecidableEq, Repr

/-- The phase records as R484 gives them at reset: every byte zero but MIN_NS, which is 2^64 - 1 in each of the 256. -/
def phaseRecordsDefault : Nat :=
  (List.range 256).foldl (fun a p => a + (2 ^ 64 - 1) <<< (8 * (320 * p + 16))) 0

def objRows0 : List ObjRow :=
  [ ⟨Obj.tileArrayTiles, 1, 1, 3, 2, 0, 0, 0, some 1024, 0, 1, 0, 0⟩,
    ⟨Obj.tileArrayFenced, 1, 1, 3, 2, 0, 0, 0, some 0, 1, 1, 0, 0⟩,
    ⟨Obj.tileArrayFenceMap, 1, 1, 16, 128, 0, 0, 0, some 0, 1, 1, 0, 0⟩,
    ⟨Obj.tileArrayLinkFenceMap, 1, 1, 16, 8, 0, 0, 0, some 0, 1, 1, 0, 0⟩,
    ⟨Obj.tileArrayUnfence, 1, 1, 3, 2, 2, 1, 256, none, 2, 0, 0, 65535⟩,
    ⟨Obj.tileCadenceMin, 1, 1, 3, 2, 0, 0, 0, none, 2, 0, 0, 0⟩,
    ⟨Obj.tileCadenceMean, 1, 1, 3, 2, 0, 0, 0, none, 2, 0, 0, 0⟩,
    ⟨Obj.tileCadenceFloor, 1, 1, 3, 2, 0, 0, 0, some 1790, 0, 1, 0, 0⟩,
    ⟨Obj.tileCadenceNominal, 1, 1, 3, 2, 0, 0, 0, some 2000, 0, 1, 0, 0⟩,
    ⟨Obj.tileCadenceBoostCeiling, 1, 1, 3, 2, 0, 0, 0, some 2200, 0, 1, 0, 0⟩,
    ⟨Obj.tileCadenceWindowLog2, 1, 1, 2, 1, 1, 0, 0, some 20, 1, 0, 16, 24⟩,
    ⟨Obj.tileCadenceDieMin, 1, 4, 3, 2, 0, 0, 0, none, 2, 0, 0, 0⟩,
    ⟨Obj.tileRailSetpoint, 1, 4, 3, 2, 0, 0, 0, some 750, 2, 0, 0, 0⟩,
    ⟨Obj.tileRailBoostEnable, 1, 1, 1, 1, 1, 0, 0, some 0, 1, 0, 0, 0⟩,
    ⟨Obj.tileCompMode, 8, 1, 2, 1, 1, 2, 2, some 1, 2, 2, 0, 1⟩,
    ⟨Obj.tileCompPacerRate, 8, 1, 3, 2, 1, 2, 2, some 1790, 2, 2, 500, 1790⟩,
    ⟨Obj.tileCompBoostPermit, 8, 1, 1, 1, 1, 2, 2, some 0, 2, 2, 0, 0⟩,
    ⟨Obj.tileCompCadence, 8, 1, 3, 2, 0, 0, 0, none, 2, 2, 0, 0⟩,
    ⟨Obj.tileCompDeficit, 8, 1, 5, 8, 0, 0, 0, some 0, 2, 2, 0, 0⟩,
    ⟨Obj.tileCompFenced, 8, 1, 2, 1, 0, 0, 0, some 0, 2, 2, 0, 0⟩,
    ⟨Obj.tileWatchdogTimeoutUs, 1, 1, 3, 2, 1, 0, 0, some 1000, 1, 0, 100, 10000⟩,
    ⟨Obj.tileStoreCeThreshold, 1, 1, 3, 2, 1, 0, 0, some 64, 1, 0, 8, 1024⟩,
    ⟨Obj.tilePowerOnMap, 1, 1, 16, 128, 0, 0, 0, none, 2, 0, 0, 0⟩,
    ⟨Obj.tilePowerRetainMap, 1, 1, 16, 128, 0, 0, 0, none, 2, 0, 0, 0⟩,
    ⟨Obj.tilePowerRetainIdleUs, 1, 1, 3, 2, 1, 0, 0, some 100, 1, 0, 10, 10000⟩,
    ⟨Obj.mxMacsFp16, 1, 1, 3, 2, 0, 0, 0, some 16384, 0, 1, 0, 0⟩,
    ⟨Obj.mxMacsFp32, 1, 1, 3, 2, 0, 0, 0, some 4096, 0, 1, 0, 0⟩,
    ⟨Obj.mxQueueDepth, 1, 1, 2, 1, 0, 0, 0, some 16, 0, 1, 0, 0⟩,
    ⟨Obj.mxSlotBytes, 1, 1, 4, 4, 0, 0, 0, some 33792, 0, 1, 0, 0⟩,
    ⟨Obj.mxKTilesMax, 1, 1, 3, 2, 0, 0, 0, some 4096, 0, 1, 0, 0⟩,
    ⟨Obj.mxCompTrapForce, 8, 1, 1, 1, 1, 0, 0, some 0, 2, 2, 0, 0⟩,
    ⟨Obj.mxCompOps, 8, 1, 5, 8, 0, 0, 0, some 0, 2, 2, 0, 0⟩,
    ⟨Obj.mxCompMacBeats, 8, 1, 5, 8, 0, 0, 0, some 0, 2, 2, 0, 0⟩,
    ⟨Obj.mxCompSaturated, 8, 1, 5, 8, 0, 0, 0, some 0, 2, 2, 0, 0⟩,
    ⟨Obj.mxCompFlushed, 8, 1, 5, 8, 0, 0, 0, some 0, 2, 2, 0, 0⟩,
    ⟨Obj.mxCompNanTraps, 8, 1, 4, 4, 0, 0, 0, some 0, 2, 2, 0, 0⟩,
    ⟨Obj.mxCompFirstTrap, 8, 1, 16, 64, 0, 0, 0, some 0, 2, 2, 0, 0⟩,
    ⟨Obj.mxCompTrapClear, 8, 1, 1, 1, 2, 0, 0, none, 2, 2, 0, 0⟩,
    ⟨Obj.mxCompRefused, 8, 1, 4, 4, 0, 0, 0, some 0, 2, 2, 0, 0⟩,
    ⟨Obj.vxLanesFp16, 1, 1, 2, 1, 0, 0, 0, some 64, 0, 1, 0, 0⟩ ]

def objRows1 : List ObjRow :=
  [ ⟨Obj.vxLanesFp32, 1, 1, 2, 1, 0, 0, 0, some 32, 0, 1, 0, 0⟩,
    ⟨Obj.vxQueueDepth, 1, 1, 2, 1, 0, 0, 0, some 16, 0, 1, 0, 0⟩,
    ⟨Obj.vxStagesMax, 1, 1, 2, 1, 0, 0, 0, some 8, 0, 1, 0, 0⟩,
    ⟨Obj.vxRegisters, 1, 1, 2, 1, 0, 0, 0, some 64, 0, 1, 0, 0⟩,
    ⟨Obj.vxPortBytes, 1, 1, 3, 2, 0, 0, 0, some 512, 0, 1, 0, 0⟩,
    ⟨Obj.vxCompTrapForce, 8, 1, 1, 1, 1, 0, 0, some 0, 2, 2, 0, 0⟩,
    ⟨Obj.vxCompSeedMode, 8, 1, 2, 1, 1, 2, 2, some 0, 2, 2, 0, 1⟩,
    ⟨Obj.vxCompJobSeed, 8, 1, 5, 8, 2, 2, 2, none, 2, 2, 0, 18446744073709551615⟩,
    ⟨Obj.vxCompChains, 8, 1, 5, 8, 0, 0, 0, some 0, 2, 2, 0, 0⟩,
    ⟨Obj.vxCompBusyBeats, 8, 1, 5, 8, 0, 0, 0, some 0, 2, 2, 0, 0⟩,
    ⟨Obj.vxCompNanTraps, 8, 1, 4, 4, 0, 0, 0, some 0, 2, 2, 0, 0⟩,
    ⟨Obj.vxCompFirstTrap, 8, 1, 16, 64, 0, 0, 0, some 0, 2, 2, 0, 0⟩,
    ⟨Obj.vxCompTrapClear, 8, 1, 1, 1, 2, 0, 0, none, 2, 2, 0, 0⟩,
    ⟨Obj.vxCompRefused, 8, 1, 4, 4, 0, 0, 0, some 0, 2, 2, 0, 0⟩,
    ⟨Obj.vxCompSaturated, 8, 1, 5, 8, 0, 0, 0, some 0, 2, 2, 0, 0⟩,
    ⟨Obj.vxCompKerfClamped, 8, 1, 5, 8, 0, 0, 0, some 0, 2, 2, 0, 0⟩,
    ⟨Obj.prepCores, 1, 1, 2, 1, 0, 0, 0, some 4, 0, 1, 0, 0⟩,
    ⟨Obj.prepThreads, 1, 1, 2, 1, 0, 0, 0, some 8, 0, 1, 0, 0⟩,
    ⟨Obj.prepSlots, 1, 1, 3, 2, 0, 0, 0, some 256, 0, 1, 0, 0⟩,
    ⟨Obj.prepProgramBytes, 1, 1, 4, 4, 0, 0, 0, some 0x20000, 0, 1, 0, 0⟩,
    ⟨Obj.prepMisa, 1, 1, 5, 8, 0, 0, 0, some 0x8000000000901125, 0, 1, 0, 0⟩,
    ⟨Obj.gxQueueDepth, 1, 1, 2, 1, 0, 0, 0, some 8, 0, 1, 0, 0⟩,
    ⟨Obj.gxWindowMax, 1, 1, 3, 2, 0, 0, 0, some 512, 0, 1, 0, 0⟩,
    ⟨Obj.prepCompLatencyMode, 8, 1, 2, 1, 1, 2, 2, some 1, 2, 2, 0, 1⟩,
    ⟨Obj.prepCompResidentThreads, 8, 1, 2, 1, 1, 2, 2, some 1, 2, 2, 1, 2⟩,
    ⟨Obj.prepCompRunahead, 8, 1, 1, 1, 1, 2, 2, some 1, 2, 2, 0, 0⟩,
    ⟨Obj.prepCompRaEntryBeats, 8, 1, 3, 2, 1, 0, 0, some 32, 2, 2, 16, 1024⟩,
    ⟨Obj.prepCompRaMaxBeats, 8, 1, 3, 2, 1, 0, 0, some 2048, 2, 2, 256, 16384⟩,
    ⟨Obj.prepCompSlotCap, 8, 1, 2, 1, 1, 2, 2, some 64, 2, 2, 16, 128⟩,
    ⟨Obj.prepCompCapStalls, 8, 1, 5, 8, 0, 0, 0, some 0, 2, 2, 0, 0⟩,
    ⟨Obj.prepCompRaEntries, 8, 1, 5, 8, 0, 0, 0, some 0, 2, 2, 0, 0⟩,
    ⟨Obj.prepCompRaPrefetchHits, 8, 1, 5, 8, 0, 0, 0, some 0, 2, 2, 0, 0⟩,
    ⟨Obj.prepCompLaIssued, 8, 1, 5, 8, 0, 0, 0, some 0, 2, 2, 0, 0⟩,
    ⟨Obj.prepCompLaDropped, 8, 1, 5, 8, 0, 0, 0, some 0, 2, 2, 0, 0⟩,
    ⟨Obj.prepCompLaDroppedTier, 8, 1, 5, 8, 0, 0, 0, some 0, 2, 2, 0, 0⟩,
    ⟨Obj.prepCompLaDroppedMigrating, 8, 1, 5, 8, 0, 0, 0, some 0, 2, 2, 0, 0⟩,
    ⟨Obj.prepCompBankStallBeats, 8, 1, 5, 8, 0, 0, 0, some 0, 2, 2, 0, 0⟩,
    ⟨Obj.prepCompGxRefused, 8, 1, 4, 4, 0, 0, 0, some 0, 2, 2, 0, 0⟩,
    ⟨Obj.prepCompThreadFaults, 8, 1, 4, 4, 0, 0, 0, some 0, 2, 2, 0, 0⟩,
    ⟨Obj.prepCompFirstFault, 8, 1, 16, 32, 0, 0, 0, some 0, 2, 2, 0, 0⟩ ]

def objRows2 : List ObjRow :=
  [ ⟨Obj.prepCompFaultClear, 8, 1, 1, 1, 2, 0, 0, none, 2, 2, 0, 0⟩,
    ⟨Obj.numLossLog2Max, 1, 1, 2, 1, 0, 0, 0, some 24, 0, 1, 0, 0⟩,
    ⟨Obj.numTableEntries, 1, 1, 3, 2, 0, 0, 0, some 4096, 0, 1, 0, 0⟩,
    ⟨Obj.numHeadroomBinades, 1, 1, 2, 1, 0, 0, 0, some 2, 0, 1, 0, 0⟩,
    ⟨Obj.numCompHerringbone, 8, 1, 4, 4, 1, 2, 2, some 2000, 2, 2, 16, 1000000⟩,
    ⟨Obj.numCompSkipLimit, 8, 1, 3, 2, 1, 2, 2, some 16, 2, 2, 1, 1024⟩,
    ⟨Obj.numCompEstDecay, 8, 1, 3, 2, 1, 2, 2, some 4, 2, 2, 0, 256⟩,
    ⟨Obj.numCompTableBase, 8, 1, 5, 8, 1, 2, 2, some 0, 2, 2, 0, 18446744073709551615⟩,
    ⟨Obj.numCompVerdictAddr, 8, 1, 5, 8, 1, 2, 2, some 0, 2, 2, 0, 18446744073709551615⟩,
    ⟨Obj.numCompVerdictPeg, 8, 1, 3, 2, 1, 2, 2, some 0, 2, 2, 0, 16383⟩,
    ⟨Obj.numCompScalePeg, 8, 1, 3, 2, 1, 2, 2, some 0, 2, 2, 0, 16383⟩,
    ⟨Obj.numCompLossLog2, 8, 1, 2, 1, 0, 0, 0, none, 2, 2, 0, 0⟩,
    ⟨Obj.numCompStepsSkipped, 8, 1, 5, 8, 0, 0, 0, some 0, 2, 2, 0, 0⟩,
    ⟨Obj.numCompSaturations, 8, 1, 5, 8, 0, 0, 0, some 0, 2, 2, 0, 0⟩,
    ⟨Obj.numCompUntracked, 8, 1, 5, 8, 0, 0, 0, some 0, 2, 2, 0, 0⟩,
    ⟨Obj.numCompVerdictsRefused, 8, 1, 4, 4, 0, 0, 0, some 0, 2, 2, 0, 0⟩,
    ⟨Obj.numCompFirstEvent, 8, 1, 16, 32, 0, 0, 0, some 0, 2, 2, 0, 0⟩,
    ⟨Obj.numCompEventClear, 8, 1, 1, 1, 2, 0, 0, none, 2, 2, 0, 0⟩,
    ⟨Obj.updLayersMax, 1, 1, 3, 2, 0, 0, 0, some 1024, 0, 1, 0, 0⟩,
    ⟨Obj.updOpenMax, 1, 1, 3, 2, 0, 0, 0, some 256, 0, 1, 0, 0⟩,
    ⟨Obj.updWindowSteps, 1, 1, 2, 1, 0, 0, 0, some 4, 0, 1, 0, 0⟩,
    ⟨Obj.updNoiseRate, 1, 1, 2, 1, 0, 0, 0, some 32, 0, 1, 0, 0⟩,
    ⟨Obj.updCompLayerTable, 8, 1, 5, 8, 1, 2, 2, some 0, 2, 2, 0, 18446744073709551615⟩,
    ⟨Obj.updCompLayerCount, 8, 1, 3, 2, 1, 2, 2, some 0, 2, 2, 1, 1024⟩,
    ⟨Obj.updCompRingAddr, 8, 1, 5, 8, 1, 2, 2, some 0, 2, 2, 0, 18446744073709551615⟩,
    ⟨Obj.updCompRingEntries, 8, 1, 3, 2, 1, 2, 2, some 256, 2, 2, 16, 4096⟩,
    ⟨Obj.updCompRingPeg, 8, 1, 3, 2, 1, 2, 2, some 0, 2, 2, 0, 65535⟩,
    ⟨Obj.updCompTakenPeg, 8, 1, 3, 2, 1, 2, 2, some 0, 2, 2, 0, 65535⟩,
    ⟨Obj.updCompPlumbAddr, 8, 1, 5, 8, 1, 2, 2, some 0, 2, 2, 0, 18446744073709551615⟩,
    ⟨Obj.updCompPlumbPeg, 8, 1, 3, 2, 1, 2, 2, some 0, 2, 2, 0, 65535⟩,
    ⟨Obj.updCompParamAddr, 8, 1, 5, 8, 1, 2, 2, some 0, 2, 2, 0, 18446744073709551615⟩,
    ⟨Obj.updCompParamPeg, 8, 1, 3, 2, 1, 2, 2, some 0, 2, 2, 0, 65535⟩,
    ⟨Obj.updCompClipNorm, 8, 1, 8, 4, 1, 2, 2, some 0, 2, 2, 0, 0⟩,
    ⟨Obj.updCompNoiseSigma, 8, 1, 8, 4, 1, 2, 2, some 0, 2, 2, 0, 0⟩,
    ⟨Obj.updCompCommitDeadlineUs, 8, 1, 4, 4, 1, 2, 2, some 0xf4240, 2, 2, 1000, 60000000⟩,
    ⟨Obj.updCompSchedLaw, 8, 1, 2, 1, 1, 2, 2, some 2, 2, 2, 0, 4⟩,
    ⟨Obj.updCompSchedLrStart, 8, 1, 8, 4, 1, 2, 2, some 0, 2, 2, 0, 0⟩,
    ⟨Obj.updCompSchedLrPeak, 8, 1, 8, 4, 1, 2, 2, some 0, 2, 2, 0, 0⟩,
    ⟨Obj.updCompSchedFloorFrac, 8, 1, 8, 4, 1, 2, 2, some 0x3dcccccd, 2, 2, 0, 0⟩,
    ⟨Obj.updCompSchedWarmup, 8, 1, 4, 4, 1, 2, 2, some 0, 2, 2, 0, 4294967295⟩ ]

def objRows3 : List ObjRow :=
  [ ⟨Obj.updCompSchedCycle, 8, 1, 4, 4, 1, 2, 2, some 0x186a0, 2, 2, 1, 4294967295⟩,
    ⟨Obj.updCompSchedCycleMult, 8, 1, 2, 1, 1, 2, 2, some 1, 2, 2, 1, 8⟩,
    ⟨Obj.updCompSchedPeakMult, 8, 1, 8, 4, 1, 2, 2, some 0x3f800000, 2, 2, 0, 0⟩,
    ⟨Obj.updCompSchedRestart, 8, 1, 1, 1, 1, 2, 2, some 0, 2, 2, 0, 0⟩,
    ⟨Obj.updCompCommits, 8, 1, 5, 8, 0, 0, 0, some 0, 2, 2, 0, 0⟩,
    ⟨Obj.updCompMispredicts, 8, 1, 5, 8, 0, 0, 0, some 0, 2, 2, 0, 0⟩,
    ⟨Obj.updCompSillUnmet, 8, 1, 5, 8, 0, 0, 0, some 0, 2, 2, 0, 0⟩,
    ⟨Obj.updCompRefused, 8, 1, 5, 8, 0, 0, 0, some 0, 2, 2, 0, 0⟩,
    ⟨Obj.updCompSkippedCommits, 8, 1, 5, 8, 0, 0, 0, some 0, 2, 2, 0, 0⟩,
    ⟨Obj.updCompNoiseFills, 8, 1, 5, 8, 0, 0, 0, some 0, 2, 2, 0, 0⟩,
    ⟨Obj.updCompOpenEntries, 8, 1, 3, 2, 0, 0, 0, some 0, 2, 2, 0, 0⟩,
    ⟨Obj.updCompLastConfirmed, 8, 1, 5, 8, 0, 0, 0, some 0, 2, 2, 0, 0⟩,
    ⟨Obj.updCompFirstEvent, 8, 1, 16, 32, 0, 0, 0, some 0, 2, 2, 0, 0⟩,
    ⟨Obj.updCompEventClear, 8, 1, 1, 1, 2, 0, 0, none, 2, 2, 0, 0⟩,
    ⟨Obj.spanAddrBits, 1, 1, 2, 1, 0, 0, 0, some 56, 0, 1, 0, 0⟩,
    ⟨Obj.spanPageBytes, 1, 1, 4, 4, 0, 0, 0, some 65536, 0, 1, 0, 0⟩,
    ⟨Obj.spanPegs, 1, 1, 3, 2, 0, 0, 0, some 16384, 0, 1, 0, 0⟩,
    ⟨Obj.spanPegGroupSize, 1, 1, 2, 1, 0, 0, 0, some 64, 0, 1, 0, 0⟩,
    ⟨Obj.spanPegGroupsFree, 1, 1, 3, 2, 0, 0, 0, some 256, 2, 1, 0, 0⟩,
    ⟨Obj.spanRemoteTimeoutMs, 1, 1, 3, 2, 1, 0, 0, some 100, 1, 1, 10, 10000⟩,
    ⟨Obj.spanSegmentsMax, 1, 1, 3, 2, 0, 0, 0, some 256, 0, 1, 0, 0⟩,
    ⟨Obj.spanRemoteWaiters, 1, 1, 3, 2, 0, 0, 0, some 2048, 0, 1, 0, 0⟩,
    ⟨Obj.spanRemoteDenied, 1, 1, 5, 8, 0, 0, 0, some 0, 2, 0, 0, 0⟩,
    ⟨Obj.spanCompJobId, 8, 1, 5, 8, 1, 2, 2, some 0, 2, 2, 0, 18446744073709551615⟩,
    ⟨Obj.spanCompPegGroups, 8, 1, 16, 32, 1, 2, 2, some 0, 2, 2, 0, 0⟩,
    ⟨Obj.spanCompPegKind, 8, 1, 16, 32, 1, 2, 2, some 0, 2, 2, 0, 0⟩,
    ⟨Obj.spanCompJobModules, 8, 1, 4, 4, 1, 2, 2, some 1, 2, 2, 1, 65536⟩,
    ⟨Obj.spanCompModuleIndex, 8, 1, 3, 2, 1, 2, 2, some 0, 2, 2, 0, 65535⟩,
    ⟨Obj.spanCompSegCount, 8, 1, 3, 2, 0, 0, 0, some 0, 2, 2, 0, 0⟩,
    ⟨Obj.spanCompSegWrite, 8, 1, 16, 32, 2, 2, 2, none, 2, 2, 0, 0⟩,
    ⟨Obj.spanCompSegClear, 8, 1, 1, 1, 2, 2, 2, none, 2, 2, 0, 0⟩,
    ⟨Obj.spanCompSegDigest, 8, 1, 16, 48, 0, 0, 0, some 0, 2, 2, 0, 0⟩,
    ⟨Obj.spanCompPegRefused, 8, 1, 5, 8, 0, 0, 0, some 0, 2, 2, 0, 0⟩,
    ⟨Obj.spanCompPegOverflows, 8, 1, 5, 8, 0, 0, 0, some 0, 2, 2, 0, 0⟩,
    ⟨Obj.spanCompRemoteWaitersUsed, 8, 1, 3, 2, 0, 0, 0, some 0, 2, 2, 0, 0⟩,
    ⟨Obj.spanCompUnreachable, 8, 1, 5, 8, 0, 0, 0, some 0, 2, 2, 0, 0⟩,
    ⟨Obj.spanCompOutcomeUnknown, 8, 1, 5, 8, 0, 0, 0, some 0, 2, 2, 0, 0⟩,
    ⟨Obj.spanCompXlateMisses, 8, 1, 5, 8, 0, 0, 0, some 0, 2, 2, 0, 0⟩,
    ⟨Obj.tierHbmFramesPerGroup, 1, 1, 4, 4, 0, 0, 0, some 0x29d55, 0, 1, 0, 0⟩,
    ⟨Obj.tierFlashPagesPerChannel, 1, 1, 4, 4, 0, 0, 0, some 0x700000, 0, 1, 0, 0⟩ ]

def objRows4 : List ObjRow :=
  [ ⟨Obj.tierLendOffer, 1, 1, 16, 8, 1, 0, 0, some 0, 1, 0, 0, 0⟩,
    ⟨Obj.tierLendReclaimDeadlineMs, 1, 1, 3, 2, 1, 0, 0, some 2000, 1, 0, 500, 30000⟩,
    ⟨Obj.tierLendHeartbeatMs, 1, 1, 3, 2, 1, 0, 0, some 100, 1, 0, 10, 1000⟩,
    ⟨Obj.tierLendOrphanS, 1, 1, 3, 2, 1, 0, 0, some 60, 1, 0, 10, 3600⟩,
    ⟨Obj.tierLendLeasesOut, 1, 1, 3, 2, 0, 0, 0, some 0, 2, 0, 0, 0⟩,
    ⟨Obj.tierLendReclaim, 1, 1, 2, 1, 2, 0, 0, none, 2, 0, 0, 47⟩,
    ⟨Obj.tierLendForceRelease, 1, 1, 4, 4, 2, 0, 0, none, 2, 0, 0, 4294967295⟩,
    ⟨Obj.tierFlashWearPct, 1, 1, 2, 1, 0, 0, 0, some 0, 1, 0, 0, 0⟩,
    ⟨Obj.tierFlashBytesWritten, 1, 1, 5, 8, 0, 0, 0, some 0, 1, 0, 0, 0⟩,
    ⟨Obj.tierFlashSparePct, 1, 1, 16, 32, 0, 0, 0, some 0x6464646464646464646464646464646464646464646464646464646464646464, 1, 0, 0, 0⟩,
    ⟨Obj.tierFlashReadonlyMap, 1, 1, 16, 4, 0, 0, 0, some 0, 1, 0, 0, 0⟩,
    ⟨Obj.tierCompRingAddr, 8, 1, 5, 8, 1, 2, 2, some 0, 2, 2, 0, 18446744073709551615⟩,
    ⟨Obj.tierCompRingEntries, 8, 1, 3, 2, 1, 2, 2, some 256, 2, 2, 16, 4096⟩,
    ⟨Obj.tierCompRingPeg, 8, 1, 3, 2, 1, 2, 2, some 0, 2, 2, 0, 65535⟩,
    ⟨Obj.tierCompTakenPeg, 8, 1, 3, 2, 1, 2, 2, some 0, 2, 2, 0, 65535⟩,
    ⟨Obj.tierCompLentQuotaGib, 8, 1, 4, 4, 1, 0, 0, some 0, 2, 2, 0, 4294967295⟩,
    ⟨Obj.tierCompFlashQuotaGib, 8, 1, 4, 4, 1, 0, 0, some 0, 2, 2, 0, 4294967295⟩,
    ⟨Obj.tierCompCkptQuotaGib, 8, 1, 4, 4, 1, 0, 0, some 0, 2, 2, 0, 4294967295⟩,
    ⟨Obj.tierCompHbmFramesUsed, 8, 1, 4, 4, 0, 0, 0, some 0, 2, 2, 0, 0⟩,
    ⟨Obj.tierCompLentGibUsed, 8, 1, 4, 4, 0, 0, 0, some 0, 2, 2, 0, 0⟩,
    ⟨Obj.tierCompFlashPagesUsed, 8, 1, 5, 8, 0, 0, 0, some 0, 2, 2, 0, 0⟩,
    ⟨Obj.tierCompCkptGibUsed, 8, 1, 4, 4, 0, 0, 0, some 0, 2, 2, 0, 0⟩,
    ⟨Obj.tierCompInTransit, 8, 1, 4, 4, 0, 0, 0, some 0, 2, 2, 0, 0⟩,
    ⟨Obj.tierCompLenders, 8, 1, 16, 64, 1, 0, 0, some 0, 2, 2, 0, 0⟩,
    ⟨Obj.tierCompMoves, 8, 1, 5, 8, 0, 0, 0, some 0, 2, 2, 0, 0⟩,
    ⟨Obj.tierCompQuotaBlocked, 8, 1, 5, 8, 0, 0, 0, some 0, 2, 2, 0, 0⟩,
    ⟨Obj.tierCompDefaultPolicy, 8, 1, 4, 4, 1, 2, 2, some 0, 2, 2, 0, 4294967295⟩,
    ⟨Obj.tierCompEvacuated, 8, 1, 5, 8, 0, 0, 0, some 0, 2, 2, 0, 0⟩,
    ⟨Obj.tierCompPcSlow, 8, 1, 5, 8, 0, 0, 0, some 0, 2, 2, 0, 0⟩,
    ⟨Obj.tierCompFlashRmw, 8, 1, 5, 8, 0, 0, 0, some 0, 2, 2, 0, 0⟩,
    ⟨Obj.tierCompFlashGcPages, 8, 1, 5, 8, 0, 0, 0, some 0, 2, 2, 0, 0⟩,
    ⟨Obj.tierCompAheadDropped, 8, 1, 5, 8, 0, 0, 0, some 0, 2, 2, 0, 0⟩,
    ⟨Obj.tierCompFirstEvent, 8, 1, 16, 32, 0, 0, 0, some 0, 2, 2, 0, 0⟩,
    ⟨Obj.tierCompEventClear, 8, 1, 1, 1, 2, 0, 0, none, 2, 2, 0, 0⟩,
    ⟨Obj.tierCompDefineWrite, 8, 1, 16, 64, 2, 2, 2, none, 2, 2, 0, 0⟩,
    ⟨Obj.fabPorts, 1, 1, 2, 1, 0, 0, 0, some 32, 0, 1, 0, 0⟩,
    ⟨Obj.fabLaneGbps, 1, 1, 3, 2, 0, 0, 0, some 400, 0, 1, 0, 0⟩,
    ⟨Obj.fabTopology, 1, 1, 2, 1, 1, 1, 16, some 1, 1, 0, 0, 2⟩,
    ⟨Obj.fabDims, 1, 1, 16, 8, 1, 1, 16, some 0, 1, 0, 0, 0⟩,
    ⟨Obj.fabSpanTag, 1, 1, 3, 2, 1, 1, 16, some 0, 1, 0, 0, 65535⟩ ]

def objRows5 : List ObjRow :=
  [ ⟨Obj.fabNode, 1, 1, 3, 2, 1, 1, 16, some 0, 1, 0, 0, 65535⟩,
    ⟨Obj.fabDfGroup, 1, 1, 2, 1, 1, 1, 16, some 16, 1, 0, 2, 16⟩,
    ⟨Obj.fabDfGlobal, 1, 1, 2, 1, 1, 1, 16, some 16, 1, 0, 1, 16⟩,
    ⟨Obj.fabVcCredits, 1, 1, 16, 16, 1, 1, 16, some 0x8000800800080003c003c003c003c0, 1, 0, 0, 0⟩,
    ⟨Obj.fabDfGroups, 1, 1, 3, 2, 1, 1, 16, some 257, 1, 0, 0, 65535⟩,
    ⟨Obj.fabAuditUs, 1, 1, 3, 2, 0, 0, 0, some 100, 0, 0, 0, 0⟩,
    ⟨Obj.fabRekeyS, 1, 1, 3, 2, 0, 0, 0, some 3600, 0, 0, 0, 0⟩,
    ⟨Obj.fabViolationLimit, 1, 1, 2, 1, 1, 0, 0, some 8, 1, 0, 1, 64⟩,
    ⟨Obj.fabRetrainLimit, 1, 1, 2, 1, 0, 0, 0, some 3, 0, 0, 0, 0⟩,
    ⟨Obj.fabUpMap, 1, 1, 16, 4, 0, 0, 0, some 0, 2, 0, 0, 0⟩,
    ⟨Obj.fabIsolatedMap, 1, 1, 16, 4, 0, 0, 0, some 0, 2, 0, 0, 0⟩,
    ⟨Obj.fabPortRearm, 1, 1, 2, 1, 2, 0, 0, none, 2, 0, 0, 31⟩,
    ⟨Obj.fabCompNodeMapWrite, 8, 1, 16, 64, 2, 2, 2, none, 2, 2, 0, 0⟩,
    ⟨Obj.fabCompNodeMapClear, 8, 1, 1, 1, 2, 2, 2, none, 2, 2, 0, 0⟩,
    ⟨Obj.fabCompNodeMapCount, 8, 1, 4, 4, 0, 0, 0, some 0, 2, 2, 0, 0⟩,
    ⟨Obj.fabCompNodeMapDigest, 8, 1, 16, 48, 0, 0, 0, some 0, 2, 2, 0, 0⟩,
    ⟨Obj.fabCompLinesOut, 8, 1, 5, 8, 0, 0, 0, some 0, 2, 2, 0, 0⟩,
    ⟨Obj.fabCompLinesIn, 8, 1, 5, 8, 0, 0, 0, some 0, 2, 2, 0, 0⟩,
    ⟨Obj.fabCompUndelivered, 8, 1, 5, 8, 0, 0, 0, some 0, 2, 2, 0, 0⟩,
    ⟨Obj.fabPortState, 32, 1, 2, 1, 0, 0, 0, some 0, 2, 0, 0, 0⟩,
    ⟨Obj.fabPortWidth, 32, 1, 2, 1, 0, 0, 0, some 0, 2, 0, 0, 0⟩,
    ⟨Obj.fabPortPeer, 32, 1, 4, 4, 0, 0, 0, some 0, 2, 0, 0, 0⟩,
    ⟨Obj.fabPortPeerPort, 32, 1, 2, 1, 0, 0, 0, some 0, 2, 0, 0, 0⟩,
    ⟨Obj.fabPortRttNs, 32, 1, 4, 4, 0, 0, 0, some 0, 2, 0, 0, 0⟩,
    ⟨Obj.fabPortKeyEpoch, 32, 1, 4, 4, 0, 0, 0, some 0, 2, 0, 0, 0⟩,
    ⟨Obj.fabPortFramesTx, 32, 1, 5, 8, 0, 0, 0, some 0, 2, 0, 0, 0⟩,
    ⟨Obj.fabPortReplays, 32, 1, 5, 8, 0, 0, 0, some 0, 2, 0, 0, 0⟩,
    ⟨Obj.fabPortTagFailures, 32, 1, 5, 8, 0, 0, 0, some 0, 2, 0, 0, 0⟩,
    ⟨Obj.fabPortAudits, 32, 1, 5, 8, 0, 0, 0, some 0, 2, 0, 0, 0⟩,
    ⟨Obj.fabPortMismatches, 32, 1, 5, 8, 0, 0, 0, some 0, 2, 0, 0, 0⟩,
    ⟨Obj.fabPortRecredits, 32, 1, 5, 8, 0, 0, 0, some 0, 2, 0, 0, 0⟩,
    ⟨Obj.fabPortViolations, 32, 1, 5, 8, 0, 0, 0, some 0, 2, 0, 0, 0⟩,
    ⟨Obj.fabPortFecCorrected, 32, 1, 5, 8, 0, 0, 0, some 0, 2, 0, 0, 0⟩,
    ⟨Obj.fabPortLastMismatch, 32, 1, 16, 64, 0, 0, 0, some 0, 2, 0, 0, 0⟩,
    ⟨Obj.compMax, 1, 1, 2, 1, 0, 0, 0, some 8, 0, 1, 0, 0⟩,
    ⟨Obj.compContribMax, 1, 1, 2, 1, 0, 0, 0, some 8, 0, 1, 0, 0⟩,
    ⟨Obj.compBlocksFree, 1, 1, 3, 2, 0, 0, 0, some 65535, 2, 0, 0, 0⟩,
    ⟨Obj.compGroupsFree, 1, 1, 16, 8, 0, 0, 0, none, 2, 0, 0, 0⟩,
    ⟨Obj.compFlashFree, 1, 1, 16, 4, 0, 0, 0, none, 2, 0, 0, 0⟩,
    ⟨Obj.compPortsFree, 1, 1, 16, 4, 0, 0, 0, none, 2, 0, 0, 0⟩ ]

def objRows6 : List ObjRow :=
  [ ⟨Obj.compFlashErasing, 1, 1, 16, 4, 0, 0, 0, some 0, 2, 0, 0, 0⟩,
    ⟨Obj.compCrossingRate, 1, 1, 3, 2, 0, 0, 0, some 1790, 0, 1, 0, 0⟩,
    ⟨Obj.compCloseDeferMs, 1, 1, 4, 4, 1, 0, 0, some 10000, 1, 0, 100, 600000⟩,
    ⟨Obj.compGeometry, 8, 1, 16, 32, 1, 2, 1, some 0, 2, 2, 0, 0⟩,
    ⟨Obj.compCommand, 8, 1, 2, 1, 2, 0, 0, none, 2, 2, 0, 255⟩,
    ⟨Obj.compState, 8, 1, 2, 1, 0, 0, 0, some 0, 2, 2, 0, 0⟩,
    ⟨Obj.compHoldCause, 8, 1, 3, 2, 0, 0, 0, some 0, 2, 2, 0, 0⟩,
    ⟨Obj.compPolicy, 8, 1, 2, 1, 1, 2, 2, some 0, 2, 2, 0, 1⟩,
    ⟨Obj.compContribWrite, 8, 1, 16, 128, 2, 2, 2, none, 2, 2, 0, 0⟩,
    ⟨Obj.compContribKeyed, 8, 1, 2, 1, 0, 0, 0, some 0, 2, 2, 0, 0⟩,
    ⟨Obj.compContribValid, 8, 1, 2, 1, 0, 0, 0, some 0, 2, 2, 0, 0⟩,
    ⟨Obj.compSillContrib, 8, 1, 2, 1, 1, 2, 2, some 1, 2, 2, 1, 8⟩,
    ⟨Obj.compSillExamples, 8, 1, 4, 4, 1, 2, 2, some 1, 2, 2, 1, 2147483647⟩,
    ⟨Obj.compSillMin, 8, 1, 4, 4, 1, 2, 2, some 1, 2, 2, 1, 2147483647⟩,
    ⟨Obj.compTallyClosePeg, 8, 1, 3, 2, 1, 2, 2, some 0, 2, 2, 0, 65535⟩,
    ⟨Obj.compTallyStep, 8, 1, 5, 8, 0, 0, 0, some 0, 2, 2, 0, 0⟩,
    ⟨Obj.compReleaseM, 8, 1, 2, 1, 1, 2, 2, some 1, 2, 2, 1, 8⟩,
    ⟨Obj.compReleaseRequest, 8, 1, 16, 48, 2, 2, 16, none, 2, 2, 0, 0⟩,
    ⟨Obj.compReleaseApprove, 8, 1, 16, 29888, 2, 0, 0, none, 2, 2, 0, 0⟩,
    ⟨Obj.compReleaseStatus, 8, 1, 16, 128, 0, 0, 0, some 0, 2, 2, 0, 0⟩,
    ⟨Obj.compReleaseWindowS, 8, 1, 4, 4, 1, 0, 0, some 3600, 2, 2, 60, 86400⟩,
    ⟨Obj.compTallySums, 8, 1, 16, 40, 0, 0, 0, some 0, 2, 2, 0, 0⟩,
    ⟨Obj.compMixedExamples, 8, 1, 5, 8, 0, 0, 0, some 0, 2, 2, 0, 0⟩,
    ⟨Obj.integTagBits, 1, 1, 2, 1, 0, 0, 0, some 48, 0, 1, 0, 0⟩,
    ⟨Obj.integCacheMib, 1, 1, 2, 1, 0, 0, 0, some 48, 0, 1, 0, 0⟩,
    ⟨Obj.integPartitionKib, 1, 1, 3, 2, 0, 0, 0, some 1024, 0, 1, 0, 0⟩,
    ⟨Obj.integTreeArity, 1, 1, 2, 1, 0, 0, 0, some 8, 0, 1, 0, 0⟩,
    ⟨Obj.integHbmCeTotal, 1, 1, 5, 8, 0, 0, 0, some 0, 1, 0, 0, 0⟩,
    ⟨Obj.integCompTagFailures, 8, 1, 5, 8, 0, 0, 0, some 0, 2, 2, 0, 0⟩,
    ⟨Obj.integCompPartialRefused, 8, 1, 5, 8, 0, 0, 0, some 0, 2, 2, 0, 0⟩,
    ⟨Obj.integCompMinorWraps, 8, 1, 5, 8, 0, 0, 0, some 0, 2, 2, 0, 0⟩,
    ⟨Obj.integCompReencryptLines, 8, 1, 5, 8, 0, 0, 0, some 0, 2, 2, 0, 0⟩,
    ⟨Obj.integCompCacheHits, 8, 1, 5, 8, 0, 0, 0, some 0, 2, 2, 0, 0⟩,
    ⟨Obj.integCompCacheMisses, 8, 1, 5, 8, 0, 0, 0, some 0, 2, 2, 0, 0⟩,
    ⟨Obj.integCompUnverifiablePages, 8, 1, 5, 8, 0, 0, 0, some 0, 2, 2, 0, 0⟩,
    ⟨Obj.integCompPoisonedLines, 8, 1, 5, 8, 0, 0, 0, some 0, 2, 2, 0, 0⟩,
    ⟨Obj.integCompCeCorrected, 8, 1, 5, 8, 0, 0, 0, some 0, 2, 2, 0, 0⟩,
    ⟨Obj.integCompUnverifiableRanges, 8, 1, 3, 2, 0, 0, 0, some 0, 2, 2, 0, 0⟩,
    ⟨Obj.integCompImports, 8, 1, 5, 8, 0, 0, 0, some 0, 2, 2, 0, 0⟩,
    ⟨Obj.integCompImportRefused, 8, 1, 5, 8, 0, 0, 0, some 0, 2, 2, 0, 0⟩ ]

def objRows7 : List ObjRow :=
  [ ⟨Obj.integCompFirstEvent, 8, 1, 16, 32, 0, 0, 0, some 0, 2, 2, 0, 0⟩,
    ⟨Obj.integCompEventClear, 8, 1, 1, 1, 2, 0, 0, none, 2, 2, 0, 0⟩,
    ⟨Obj.integKrDesc, 8, 16, 16, 16, 1, 2, 2, some 0, 2, 2, 0, 0⟩,
    ⟨Obj.integCompImportSeq, 8, 8, 5, 8, 0, 0, 0, some 0, 2, 2, 0, 0⟩,
    ⟨Obj.integKrMajorsDrawn, 8, 16, 5, 8, 0, 0, 0, some 0, 2, 2, 0, 0⟩,
    ⟨Obj.rotIdDigest, 1, 1, 16, 48, 0, 0, 0, none, 0, 1, 0, 0⟩,
    ⟨Obj.rotIdCerts, 1, 1, 16, 131072, 0, 0, 0, none, 0, 1, 0, 0⟩,
    ⟨Obj.rotMr, 1, 1, 16, 288, 0, 0, 0, none, 2, 1, 0, 0⟩,
    ⟨Obj.rotSvnFused, 1, 1, 16, 64, 0, 0, 0, none, 1, 1, 0, 0⟩,
    ⟨Obj.rotSvnAdvance, 1, 1, 2, 1, 2, 1, 256, none, 1, 0, 0, 255⟩,
    ⟨Obj.rotBootSlot, 1, 1, 2, 1, 0, 0, 0, some 0, 2, 0, 0, 0⟩,
    ⟨Obj.rotDeliveryEk, 1, 1, 16, 1568, 0, 0, 0, none, 2, 1, 0, 0⟩,
    ⟨Obj.rotReportRequest, 1, 1, 16, 32, 2, 1, 496, none, 2, 0, 0, 0⟩,
    ⟨Obj.rotReport, 1, 1, 16, 31968, 0, 0, 0, none, 2, 0, 0, 0⟩,
    ⟨Obj.rotReportsSigned, 1, 1, 5, 8, 0, 0, 0, some 0, 2, 0, 0, 0⟩,
    ⟨Obj.rotSpdmSessions, 1, 1, 2, 1, 0, 0, 0, some 0, 2, 0, 0, 0⟩,
    ⟨Obj.rotSpdmErrors, 1, 1, 5, 8, 0, 0, 0, some 0, 2, 0, 0, 0⟩,
    ⟨Obj.rotCompReportRequest, 8, 1, 16, 32, 2, 2, 30, none, 2, 2, 0, 0⟩,
    ⟨Obj.rotCompReport, 8, 1, 16, 35584, 0, 0, 0, none, 2, 2, 0, 0⟩,
    ⟨Obj.rotCompTerms, 8, 1, 16, 48, 0, 0, 0, some 0, 2, 2, 0, 0⟩,
    ⟨Obj.rotCompJobKeyCommit, 8, 1, 16, 48, 1, 2, 2, some 0, 2, 2, 0, 0⟩,
    ⟨Obj.rotCompKeyDeliver, 8, 1, 16, 1680, 2, 2, 4, none, 2, 2, 0, 0⟩,
    ⟨Obj.rotCompJobKeyInstalled, 8, 1, 1, 1, 0, 0, 0, some 0, 2, 2, 0, 0⟩,
    ⟨Obj.rotCompTdiState, 8, 1, 2, 1, 0, 0, 0, some 0, 2, 2, 0, 0⟩,
    ⟨Obj.rotCompDeliveriesRefused, 8, 1, 4, 4, 0, 0, 0, some 0, 2, 2, 0, 0⟩,
    ⟨Obj.rotCompLedger, 8, 16, 16, 24, 1, 2, 2, some 0, 2, 2, 0, 0⟩,
    ⟨Obj.rotCompSlotsVerified, 8, 1, 5, 8, 0, 0, 0, some 0, 2, 2, 0, 0⟩,
    ⟨Obj.ckptSlots, 1, 1, 2, 1, 0, 0, 0, some 3, 0, 1, 0, 0⟩,
    ⟨Obj.ckptMirrorsMax, 1, 1, 2, 1, 0, 0, 0, some 2, 0, 1, 0, 0⟩,
    ⟨Obj.ckptSetMax, 1, 1, 2, 1, 0, 0, 0, some 64, 0, 1, 0, 0⟩,
    ⟨Obj.ckptRecordBytes, 1, 1, 4, 4, 0, 0, 0, some 65872, 0, 1, 0, 0⟩,
    ⟨Obj.ckptAheadTimeoutMs, 1, 1, 3, 2, 1, 0, 0, some 10, 1, 1, 1, 1000⟩,
    ⟨Obj.ckptHoldupMarginMs, 1, 1, 3, 2, 1, 0, 0, some 5000, 1, 1, 0, 60000⟩,
    ⟨Obj.ckptRestoreMs, 1, 1, 4, 4, 1, 0, 0, some 60000, 1, 1, 1000, 3600000⟩,
    ⟨Obj.ckptCompMapId, 8, 1, 5, 8, 1, 2, 2, some 0, 2, 2, 0, 18446744073709551615⟩,
    ⟨Obj.ckptCompMirrors, 8, 1, 2, 1, 1, 2, 2, some 1, 2, 2, 1, 2⟩,
    ⟨Obj.ckptCompSetWrite, 8, 1, 16, 16, 2, 2, 2, none, 2, 2, 0, 0⟩,
    ⟨Obj.ckptCompSetCount, 8, 1, 2, 1, 0, 0, 0, some 0, 2, 2, 0, 0⟩,
    ⟨Obj.ckptCompBoundaryAddr, 8, 1, 5, 8, 1, 2, 2, some 0, 2, 2, 0, 18446744073709551615⟩,
    ⟨Obj.ckptCompBoundaryPeg, 8, 1, 3, 2, 1, 2, 2, some 0, 2, 2, 0, 65535⟩ ]

def objRows8 : List ObjRow :=
  [ ⟨Obj.ckptCompArmedPeg, 8, 1, 3, 2, 1, 2, 2, some 0, 2, 2, 0, 65535⟩,
    ⟨Obj.ckptCompCommitPeg, 8, 1, 3, 2, 1, 2, 2, some 0, 2, 2, 0, 65535⟩,
    ⟨Obj.ckptCompCopyGbps, 8, 1, 3, 2, 1, 0, 0, some 50, 2, 2, 1, 800⟩,
    ⟨Obj.ckptCompDovetailMs, 8, 1, 4, 4, 1, 0, 0, some 10000, 2, 2, 100, 600000⟩,
    ⟨Obj.ckptCompLastCommitted, 8, 1, 5, 8, 0, 0, 0, some 0, 2, 2, 0, 0⟩,
    ⟨Obj.ckptCompLastStatus, 8, 1, 3, 2, 0, 0, 0, some 0, 2, 2, 0, 0⟩,
    ⟨Obj.ckptCompInProgress, 8, 1, 5, 8, 0, 0, 0, some 0, 2, 2, 0, 0⟩,
    ⟨Obj.ckptCompPendingPages, 8, 1, 4, 4, 0, 0, 0, some 0, 2, 2, 0, 0⟩,
    ⟨Obj.ckptCompCopyAheads, 8, 1, 5, 8, 0, 0, 0, some 0, 2, 2, 0, 0⟩,
    ⟨Obj.ckptCompAheadWaitMaxNs, 8, 1, 4, 4, 0, 0, 0, some 0, 2, 2, 0, 0⟩,
    ⟨Obj.ckptCompHints, 8, 1, 16, 24, 0, 0, 0, some 0, 2, 2, 0, 0⟩,
    ⟨Obj.ckptCompRestore, 8, 1, 16, 64, 2, 2, 20, none, 2, 2, 0, 0⟩,
    ⟨Obj.ckptCompRestoreStatus, 8, 1, 16, 32, 0, 0, 0, some 0, 2, 2, 0, 0⟩,
    ⟨Obj.ckptCompCopiesRebuilt, 8, 1, 5, 8, 0, 0, 0, some 0, 2, 2, 0, 0⟩,
    ⟨Obj.ckptCompAbandoned, 8, 1, 5, 8, 0, 0, 0, some 0, 2, 2, 0, 0⟩,
    ⟨Obj.ckptCompCorruptCopies, 8, 1, 5, 8, 0, 0, 0, some 0, 2, 2, 0, 0⟩,
    ⟨Obj.phaseMapsMax, 1, 1, 2, 1, 0, 0, 0, some 8, 0, 1, 0, 0⟩,
    ⟨Obj.phaseIds, 1, 1, 3, 2, 0, 0, 0, some 256, 0, 1, 0, 0⟩,
    ⟨Obj.phaseCompRingAddr, 8, 1, 5, 8, 1, 2, 2, some 0, 2, 2, 0, 18446744073709551615⟩,
    ⟨Obj.phaseCompRingEntries, 8, 1, 3, 2, 1, 2, 2, some 256, 2, 2, 16, 4096⟩,
    ⟨Obj.phaseCompRingPeg, 8, 1, 3, 2, 1, 2, 2, some 0, 2, 2, 0, 65535⟩,
    ⟨Obj.phaseCompTakenPeg, 8, 1, 3, 2, 1, 2, 2, some 0, 2, 2, 0, 65535⟩,
    ⟨Obj.phaseCompCurrent, 8, 1, 2, 1, 0, 0, 0, some 0, 2, 2, 0, 0⟩,
    ⟨Obj.phaseCompCurrentSince, 8, 1, 5, 8, 0, 0, 0, some 0, 2, 2, 0, 0⟩,
    ⟨Obj.phaseCompMarks, 8, 1, 5, 8, 0, 0, 0, some 0, 2, 2, 0, 0⟩,
    ⟨Obj.phaseCompMarksRefused, 8, 1, 5, 8, 0, 0, 0, some 0, 2, 2, 0, 0⟩,
    ⟨Obj.phaseCompOverruns, 8, 1, 5, 8, 0, 0, 0, some 0, 2, 2, 0, 0⟩,
    ⟨Obj.phaseCompMapCount, 8, 1, 2, 1, 0, 0, 0, some 0, 2, 2, 0, 0⟩,
    ⟨Obj.phaseCompPlanCount, 8, 1, 3, 2, 0, 0, 0, some 0, 2, 2, 0, 0⟩,
    ⟨Obj.phaseCompMap, 8, 8, 16, 16, 0, 0, 0, some 0, 2, 2, 0, 0⟩,
    ⟨Obj.phaseCompPlan, 8, 1, 16, 4096, 0, 0, 0, some 0, 2, 2, 0, 0⟩,
    ⟨Obj.powerInputMv, 1, 1, 3, 2, 0, 0, 0, none, 2, 0, 0, 0⟩,
    ⟨Obj.powerInputW, 1, 1, 3, 2, 0, 0, 0, none, 2, 0, 0, 0⟩,
    ⟨Obj.powerInputLimitW, 1, 1, 3, 2, 1, 1, 16, some 9600, 1, 0, 2000, 9600⟩,
    ⟨Obj.powerAllotableW, 1, 1, 3, 2, 0, 0, 0, some 9000, 2, 0, 0, 0⟩,
    ⟨Obj.powerCommonW, 1, 1, 3, 2, 0, 0, 0, none, 2, 0, 0, 0⟩,
    ⟨Obj.powerEnergyMj, 1, 1, 5, 8, 0, 0, 0, some 0, 1, 0, 0, 0⟩,
    ⟨Obj.bevelSlopeUp, 1, 1, 3, 2, 1, 0, 0, some 40, 1, 0, 5, 400⟩,
    ⟨Obj.bevelSlopeDn, 1, 1, 3, 2, 1, 0, 0, some 40, 1, 0, 5, 400⟩,
    ⟨Obj.bevelHorizonMs, 1, 1, 3, 2, 1, 0, 0, some 50, 1, 0, 0, 1000⟩ ]

def objRows9 : List ObjRow :=
  [ ⟨Obj.bevelFillerW, 1, 1, 3, 2, 0, 0, 0, some 0, 2, 0, 0, 0⟩,
    ⟨Obj.bevelFillerMj, 1, 1, 5, 8, 0, 0, 0, some 0, 1, 0, 0, 0⟩,
    ⟨Obj.bevelFillerShort, 1, 1, 5, 8, 0, 0, 0, some 0, 2, 0, 0, 0⟩,
    ⟨Obj.rampSlotUs, 1, 1, 3, 2, 1, 0, 0, some 500, 1, 0, 100, 10000⟩,
    ⟨Obj.rampSlots, 1, 1, 3, 2, 1, 0, 0, some 16, 1, 0, 1, 256⟩,
    ⟨Obj.rampIndex, 1, 1, 3, 2, 1, 0, 0, some 0, 1, 0, 0, 65535⟩,
    ⟨Obj.rampStepW, 1, 1, 3, 2, 1, 0, 0, some 200, 1, 0, 50, 5000⟩,
    ⟨Obj.valveTOutTargetC, 1, 1, 2, 1, 1, 0, 0, some 55, 1, 0, 40, 64⟩,
    ⟨Obj.valveTHotTargetC, 1, 1, 2, 1, 1, 0, 0, some 85, 1, 0, 60, 95⟩,
    ⟨Obj.valveLeadMs, 1, 1, 3, 2, 1, 0, 0, some 1500, 1, 0, 0, 10000⟩,
    ⟨Obj.valveKp, 1, 1, 8, 4, 1, 0, 0, some 0x3f000000, 1, 0, 0, 0⟩,
    ⟨Obj.valveKi, 1, 1, 8, 4, 1, 0, 0, some 0x3dcccccd, 1, 0, 0, 0⟩,
    ⟨Obj.valveFlowSet, 1, 1, 3, 2, 0, 0, 0, none, 2, 0, 0, 0⟩,
    ⟨Obj.valveFlow, 1, 1, 3, 2, 0, 0, 0, none, 2, 0, 0, 0⟩,
    ⟨Obj.valvePosition, 1, 1, 2, 1, 0, 0, 0, none, 2, 0, 0, 0⟩,
    ⟨Obj.valveCoolantC, 1, 1, 16, 8, 0, 0, 0, none, 2, 0, 0, 0⟩,
    ⟨Obj.valveHotSpotC, 1, 1, 16, 8, 0, 0, 0, none, 2, 0, 0, 0⟩,
    ⟨Obj.thermalStatus, 1, 1, 2, 1, 0, 0, 0, some 0, 2, 1, 0, 0⟩,
    ⟨Obj.thermalEvents, 1, 1, 5, 8, 0, 0, 0, some 0, 2, 1, 0, 0⟩,
    ⟨Obj.holdupBudgetS, 1, 1, 3, 2, 1, 0, 0, some 60, 1, 0, 10, 600⟩,
    ⟨Obj.holdupClearMs, 1, 1, 3, 2, 1, 0, 0, some 5000, 1, 0, 1000, 60000⟩,
    ⟨Obj.holdupElapsedMs, 1, 1, 4, 4, 0, 0, 0, some 0, 2, 1, 0, 0⟩,
    ⟨Obj.holdupCount, 1, 1, 4, 4, 0, 0, 0, some 0, 1, 0, 0, 0⟩,
    ⟨Obj.holdupBusWarning, 1, 1, 1, 1, 0, 0, 0, some 0, 2, 1, 0, 0⟩,
    ⟨Obj.powerCompDrawW, 8, 1, 3, 2, 0, 0, 0, some 0, 2, 2, 0, 0⟩,
    ⟨Obj.powerCompEnergyMj, 8, 1, 5, 8, 0, 0, 0, some 0, 2, 2, 0, 0⟩,
    ⟨Obj.powerCompFillerMj, 8, 1, 5, 8, 0, 0, 0, some 0, 2, 2, 0, 0⟩,
    ⟨Obj.powerCompThrottleWindows, 8, 1, 5, 8, 0, 0, 0, some 0, 2, 2, 0, 0⟩,
    ⟨Obj.powerCompAllotW, 8, 1, 3, 2, 1, 2, 3, some 0, 2, 2, 200, 9000⟩,
    ⟨Obj.powerCompSlopeWindows, 8, 1, 5, 8, 0, 0, 0, some 0, 2, 2, 0, 0⟩,
    ⟨Obj.powerCompPacerCap, 8, 1, 3, 2, 0, 0, 0, none, 2, 2, 0, 0⟩,
    ⟨Obj.timeNow, 1, 1, 16, 10, 0, 0, 0, none, 2, 1, 0, 0⟩,
    ⟨Obj.timeState, 1, 1, 2, 1, 0, 0, 0, some 0, 2, 1, 0, 0⟩,
    ⟨Obj.timeSource, 1, 1, 2, 1, 0, 0, 0, some 0, 2, 1, 0, 0⟩,
    ⟨Obj.timeOffsetNs, 1, 1, 7, 4, 0, 0, 0, some 0, 2, 0, 0, 0⟩,
    ⟨Obj.timeFreqPpb, 1, 1, 7, 4, 0, 0, 0, some 0, 2, 0, 0, 0⟩,
    ⟨Obj.timeHoldoverS, 1, 1, 4, 4, 0, 0, 0, some 0, 2, 1, 0, 0⟩,
    ⟨Obj.timeHoldoverLimitS, 1, 1, 4, 4, 1, 0, 0, some 3600, 1, 0, 60, 604800⟩,
    ⟨Obj.timeDomain, 1, 1, 2, 1, 1, 1, 16, some 0, 1, 0, 0, 127⟩,
    ⟨Obj.timeSlewPpm, 1, 1, 3, 2, 1, 0, 0, some 100, 1, 0, 10, 200⟩ ]

def objRows10 : List ObjRow :=
  [ ⟨Obj.timeStepThresholdNs, 1, 1, 4, 4, 1, 0, 0, some 1000, 1, 0, 100, 1000000000⟩,
    ⟨Obj.timeClockId, 1, 1, 16, 8, 0, 0, 0, none, 0, 0, 0, 0⟩,
    ⟨Obj.timeUtcOffsetS, 1, 1, 6, 2, 0, 0, 0, some 0, 2, 0, 0, 0⟩,
    ⟨Obj.timePriority1, 1, 1, 2, 1, 1, 0, 0, some 128, 1, 0, 0, 255⟩,
    ⟨Obj.timePriority2, 1, 1, 2, 1, 1, 0, 0, some 128, 1, 0, 0, 255⟩,
    ⟨Obj.timeGmIdentity, 1, 1, 16, 8, 0, 0, 0, some 0, 2, 0, 0, 0⟩,
    ⟨Obj.timeStepsRemoved, 1, 1, 3, 2, 0, 0, 0, some 0, 2, 0, 0, 0⟩,
    ⟨Obj.timePtpDropped, 1, 1, 5, 8, 0, 0, 0, some 0, 2, 0, 0, 0⟩,
    ⟨Obj.timePortDelayNs, 32, 1, 4, 4, 0, 0, 0, some 0, 2, 0, 0, 0⟩,
    ⟨Obj.timePortRole, 32, 1, 2, 1, 0, 0, 0, some 0, 2, 0, 0, 0⟩,
    ⟨Obj.timePortRejected, 32, 1, 5, 8, 0, 0, 0, some 0, 2, 0, 0, 0⟩,
    ⟨Obj.evTileCounters, 1, 1, 2, 1, 0, 0, 0, some 8, 0, 1, 0, 0⟩,
    ⟨Obj.evCompCounters, 1, 1, 2, 1, 0, 0, 0, some 64, 0, 1, 0, 0⟩,
    ⟨Obj.evTileBits, 1, 1, 2, 1, 0, 0, 0, some 48, 0, 1, 0, 0⟩,
    ⟨Obj.evCompTileSel, 8, 1, 16, 8, 1, 0, 0, some 0, 2, 2, 0, 0⟩,
    ⟨Obj.evCompSnapAddr, 8, 1, 5, 8, 1, 2, 2, some 0, 2, 2, 0, 18446744073709551615⟩,
    ⟨Obj.evCompSnapReqPeg, 8, 1, 3, 2, 1, 2, 2, some 0, 2, 2, 0, 65535⟩,
    ⟨Obj.evCompSnapDonePeg, 8, 1, 3, 2, 1, 2, 2, some 0, 2, 2, 0, 65535⟩,
    ⟨Obj.evCompSnapNow, 8, 1, 1, 1, 2, 0, 0, none, 2, 2, 0, 0⟩,
    ⟨Obj.evCompSnapshots, 8, 1, 5, 8, 0, 0, 0, some 0, 2, 2, 0, 0⟩,
    ⟨Obj.evCompSnapRefused, 8, 1, 4, 4, 0, 0, 0, some 0, 2, 2, 0, 0⟩,
    ⟨Obj.evCompPhaseClear, 8, 1, 1, 1, 2, 0, 0, none, 2, 2, 0, 0⟩,
    ⟨Obj.evCompAgg, 8, 64, 16, 16, 1, 0, 0, some 0, 2, 2, 0, 0⟩,
    ⟨Obj.evCompPhaseRecords, 8, 1, 16, 81920, 0, 0, 0, some phaseRecordsDefault, 2, 2, 0, 0⟩,
    ⟨Obj.hostLinkWidth, 1, 1, 2, 1, 0, 0, 0, some 0, 2, 1, 0, 0⟩,
    ⟨Obj.hostLinkGts, 1, 1, 2, 1, 0, 0, 0, some 0, 2, 1, 0, 0⟩,
    ⟨Obj.hostFlitMode, 1, 1, 1, 1, 0, 0, 0, some 0, 2, 1, 0, 0⟩,
    ⟨Obj.hostNumVfs, 1, 1, 2, 1, 0, 0, 0, some 0, 2, 1, 0, 0⟩,
    ⟨Obj.hostLinkDowns, 1, 1, 5, 8, 0, 0, 0, some 0, 2, 0, 0, 0⟩,
    ⟨Obj.hostViolationLimit, 1, 1, 3, 2, 1, 0, 0, some 64, 1, 0, 8, 1024⟩,
    ⟨Obj.hostQueuePairs, 1, 1, 2, 1, 0, 0, 0, some 16, 0, 1, 0, 0⟩,
    ⟨Obj.hostMailboxes, 1, 1, 2, 1, 0, 0, 0, some 64, 0, 1, 0, 0⟩,
    ⟨Obj.hostMsixVectors, 1, 1, 3, 2, 0, 0, 0, some 2048, 0, 1, 0, 0⟩,
    ⟨Obj.hostPfViolations, 1, 1, 5, 8, 0, 0, 0, some 0, 2, 0, 0, 0⟩,
    ⟨Obj.hostCompPubRingAddr, 8, 1, 5, 8, 1, 2, 2, some 0, 2, 2, 0, 18446744073709551615⟩,
    ⟨Obj.hostCompPubRingEntries, 8, 1, 3, 2, 1, 2, 2, some 64, 2, 2, 16, 4096⟩,
    ⟨Obj.hostCompPubRingPeg, 8, 1, 3, 2, 1, 2, 2, some 0, 2, 2, 0, 65535⟩,
    ⟨Obj.hostCompPubTakenPeg, 8, 1, 3, 2, 1, 2, 2, some 0, 2, 2, 0, 65535⟩,
    ⟨Obj.hostCompMboxVectorBase, 8, 1, 3, 2, 1, 0, 0, some 1, 2, 2, 0, 1984⟩,
    ⟨Obj.hostCompPublishes, 8, 1, 5, 8, 0, 0, 0, some 0, 2, 2, 0, 0⟩ ]

def objRows11 : List ObjRow :=
  [ ⟨Obj.hostCompMboxReads, 8, 1, 5, 8, 0, 0, 0, some 0, 2, 2, 0, 0⟩,
    ⟨Obj.hostCompNotReadyReads, 8, 1, 5, 8, 0, 0, 0, some 0, 2, 2, 0, 0⟩,
    ⟨Obj.hostCompStaleAcks, 8, 1, 5, 8, 0, 0, 0, some 0, 2, 2, 0, 0⟩,
    ⟨Obj.hostCompCommands, 8, 1, 5, 8, 0, 0, 0, some 0, 2, 2, 0, 0⟩,
    ⟨Obj.hostCompStateConflicts, 8, 1, 5, 8, 0, 0, 0, some 0, 2, 2, 0, 0⟩,
    ⟨Obj.hostCompViolations, 8, 1, 5, 8, 0, 0, 0, some 0, 2, 2, 0, 0⟩,
    ⟨Obj.hostCompCompletionsDiscarded, 8, 1, 5, 8, 0, 0, 0, some 0, 2, 2, 0, 0⟩,
    ⟨Obj.hostCompMboxReady, 8, 1, 16, 8, 0, 0, 0, some 0, 2, 2, 0, 0⟩,
    ⟨Obj.sessUdpPort, 1, 1, 3, 2, 1, 0, 0, some 47610, 1, 1, 1024, 65535⟩,
    ⟨Obj.sessMaxSessions, 1, 1, 2, 1, 0, 0, 0, some 8, 0, 1, 0, 0⟩,
    ⟨Obj.sessOpen, 1, 1, 2, 1, 0, 0, 0, some 0, 2, 1, 0, 0⟩,
    ⟨Obj.sessIdleTimeoutS, 1, 1, 3, 2, 1, 0, 0, some 600, 1, 0, 30, 65535⟩,
    ⟨Obj.sessLifetimeS, 1, 1, 4, 4, 1, 0, 0, some 86400, 1, 0, 600, 604800⟩,
    ⟨Obj.sessReqRate, 1, 1, 3, 2, 1, 0, 0, some 1000, 1, 0, 100, 10000⟩,
    ⟨Obj.sessAnchorMgr, 1, 1, 16, 192, 1, 0, 0, some 0, 1, 0, 0, 0⟩,
    ⟨Obj.sessAnchorObs, 1, 1, 16, 192, 1, 0, 0, some 0, 1, 0, 0, 0⟩,
    ⟨Obj.sessMac, 1, 1, 16, 6, 0, 0, 0, none, 0, 0, 0, 0⟩,
    ⟨Obj.sessIpv6Static, 1, 1, 16, 17, 1, 0, 0, some 0, 1, 0, 0, 0⟩,
    ⟨Obj.sessIpv6Addrs, 1, 1, 16, 32, 0, 0, 0, none, 2, 0, 0, 0⟩,
    ⟨Obj.sessPlcaNode, 1, 1, 2, 1, 1, 0, 0, some 1, 1, 0, 0, 255⟩,
    ⟨Obj.sessPlcaCount, 1, 1, 2, 1, 1, 0, 0, some 8, 1, 0, 2, 32⟩,
    ⟨Obj.sessPlcaTo, 1, 1, 2, 1, 1, 0, 0, some 32, 1, 0, 16, 255⟩,
    ⟨Obj.sessDropped, 1, 1, 5, 8, 0, 0, 0, some 0, 2, 0, 0, 0⟩,
    ⟨Obj.sessHandshakesRefused, 1, 1, 5, 8, 0, 0, 0, some 0, 2, 0, 0, 0⟩,
    ⟨Obj.sessRateLimited, 1, 1, 5, 8, 0, 0, 0, some 0, 2, 0, 0, 0⟩,
    ⟨Obj.sessQuarantines, 1, 1, 5, 8, 0, 0, 0, some 0, 2, 0, 0, 0⟩,
    ⟨Obj.sessFabricReads, 1, 1, 5, 8, 0, 0, 0, some 0, 2, 0, 0, 0⟩,
    ⟨Obj.sessFabricRoRate, 1, 1, 3, 2, 1, 0, 0, some 256, 1, 0, 16, 4096⟩,
    ⟨Obj.sessClose, 1, 1, 2, 1, 2, 0, 0, none, 2, 0, 0, 7⟩,
    ⟨Obj.sessCompAnchor, 8, 1, 16, 192, 1, 2, 2, some 0, 2, 2, 0, 0⟩,
    ⟨Obj.sessCompSessions, 8, 1, 2, 1, 0, 0, 0, some 0, 2, 2, 0, 0⟩,
    ⟨Obj.sessSlotRole, 8, 1, 2, 1, 0, 0, 0, some 0, 2, 0, 0, 0⟩,
    ⟨Obj.sessSlotComp, 8, 1, 2, 1, 0, 0, 0, some 255, 2, 0, 0, 0⟩,
    ⟨Obj.sessSlotPeer, 8, 1, 16, 16, 0, 0, 0, some 0, 2, 0, 0, 0⟩,
    ⟨Obj.sessSlotCertDigest, 8, 1, 16, 48, 0, 0, 0, some 0, 2, 0, 0, 0⟩,
    ⟨Obj.sessSlotOpened, 8, 1, 5, 8, 0, 0, 0, some 0, 2, 0, 0, 0⟩,
    ⟨Obj.sessSlotMessages, 8, 1, 5, 8, 0, 0, 0, some 0, 2, 0, 0, 0⟩,
    ⟨Obj.sessSlotAuthFailures, 8, 1, 4, 4, 0, 0, 0, some 0, 2, 0, 0, 0⟩,
    ⟨Obj.moduleState, 1, 1, 2, 1, 0, 0, 0, none, 2, 0, 0, 0⟩,
    ⟨Obj.modulePartNumber, 1, 1, 16, 16, 0, 0, 0, some 0x363134362d465659, 0, 1, 0, 0⟩ ]

def objRows12 : List ObjRow :=
  [ ⟨Obj.moduleSerial, 1, 1, 16, 16, 0, 0, 0, none, 0, 1, 0, 0⟩,
    ⟨Obj.moduleHwRevision, 1, 1, 3, 2, 0, 0, 0, none, 0, 1, 0, 0⟩,
    ⟨Obj.moduleBootCount, 1, 1, 4, 4, 0, 0, 0, some 0, 1, 0, 0, 0⟩,
    ⟨Obj.moduleCommand, 1, 1, 2, 1, 2, 0, 0, none, 2, 0, 0, 255⟩,
    ⟨Obj.moduleAutoStart, 1, 1, 1, 1, 1, 0, 0, some 1, 1, 0, 0, 0⟩,
    ⟨Obj.moduleLastReset, 1, 1, 2, 1, 0, 0, 0, some 0, 1, 0, 0, 0⟩,
    ⟨Obj.moduleFaultCause, 1, 1, 3, 2, 0, 0, 0, some 0, 2, 0, 0, 0⟩,
    ⟨Obj.moduleBringupMs, 1, 1, 4, 4, 0, 0, 0, some 0, 2, 0, 0, 0⟩,
    ⟨Obj.moduleGroupsFailed, 1, 1, 16, 8, 0, 0, 0, some 0, 2, 0, 0, 0⟩,
    ⟨Obj.moduleFlashFailed, 1, 1, 16, 4, 0, 0, 0, some 0, 2, 0, 0, 0⟩,
    ⟨Obj.moduleSlotWatchdogUs, 1, 1, 4, 4, 1, 0, 0, some 10000, 1, 0, 1000, 1000000⟩,
    ⟨Obj.moduleFwStage, 1, 1, 16, 32768, 2, 1, 256, none, 2, 0, 0, 0⟩,
    ⟨Obj.moduleFwCommit, 1, 1, 2, 1, 2, 1, 256, none, 2, 0, 0, 5⟩,
    ⟨Obj.faultCapacity, 1, 1, 3, 2, 0, 0, 0, some 1024, 0, 0, 0, 0⟩,
    ⟨Obj.faultLog, 1, 1, 16, 65536, 0, 0, 0, some 0, 1, 0, 0, 0⟩,
    ⟨Obj.faultNextSeq, 1, 1, 5, 8, 0, 0, 0, some 1, 1, 0, 0, 0⟩,
    ⟨Obj.faultOverwritten, 1, 1, 5, 8, 0, 0, 0, some 0, 1, 0, 0, 0⟩,
    ⟨Obj.faultClear, 1, 1, 1, 1, 2, 1, 256, none, 2, 0, 0, 0⟩,
    ⟨Obj.faultCompLog, 8, 1, 16, 65536, 0, 0, 0, some 0, 2, 2, 0, 0⟩ ]

/-- Every row of every object table. -/
def objRows : List ObjRow :=
  objRows0 ++ objRows1 ++ objRows2 ++ objRows3 ++ objRows4 ++ objRows5 ++ objRows6 ++ objRows7 ++ objRows8 ++ objRows9 ++ objRows10 ++ objRows11 ++ objRows12

/-- Whether a row holds an address. -/
def ObjRow.holds (r : ObjRow) (key : Nat) : Bool :=
  decide (r.base ≤ key) && decide ((key - r.base) / 256 < r.idxs) && decide ((key - r.base) % 256 < r.subs)

/-- The row of an address; none where no object is defined (R12). -/
def objRow (key : Nat) : Option ObjRow := objRows.find? fun r => r.holds key

/-- Whether a block of indices is per compartment (R516). -/
def perCompBases : List Nat :=
  [0x1120, 0x2020, 0x2120, 0x2220, 0x2320, 0x2420, 0x2520, 0x3020, 0x3120, 0x3220, 0x4020, 0x4120,
   0x4130, 0x4140, 0x4150, 0x4220, 0x5020, 0x5120, 0x6020, 0x6220, 0x6230, 0x6240, 0x7020, 0x7f20]

/-- The compartment of an address in a per-compartment block. -/
def compOfKey (key : Nat) : Option Nat :=
  (perCompBases.find? fun b => b ≤ key / 256 && key / 256 < b + 8).map fun b => key / 256 - b

end Sys2Proof.Machine
end

