-- ==== Sys2Proof/Machine/State.lean ====
section
/-! DEFINITION. The state of the YVF-6416 block: every register, queue, buffer, counter, mode and pin that spec/ gives
it, as plain data, and its reset. Maps are lists of (key, value) with keys rising and no default value listed. -/

namespace Sys2Proof.Machine
open Sys2Proof

/-! Tiles, threads and engines (chapters 02-05). -/

/-- A lane or noise generator (R117). -/
structure LaneGen where
  s    : Nat
  buf  : Nat
  left : Nat
  deriving DecidableEq, Repr

/-- A matrix descriptor copied whole, with the thread that posted it (R71, R144). -/
structure MxDesc where
  bits   : Nat
  poster : Nat
  deriving DecidableEq, Repr

/-- A matrix operation that has accumulated and not yet drained: the set's 16,384 FP32 values, row by row, and what its
record will say (R77, R82). -/
structure MxRun where
  desc     : MxDesc
  acc      : List Nat
  rows     : Nat
  cols     : Nat
  invalid  : Bool
  overflow : Bool
  flushed  : Bool
  deriving DecidableEq, Repr

/-- A chain copied whole, with the thread that posted it (R99, R144). -/
structure VxDesc where
  bytes  : List Byte
  poster : Nat
  deriving DecidableEq, Repr

/-- A chain that has run and not yet written its record (R127). -/
structure VxRun where
  record  : Nat
  recAddr : Nat
  pegEn   : Bool
  peg     : Nat
  poster  : Nat
  deriving DecidableEq, Repr

/-- A gather descriptor copied whole, with the thread that posted it (R161). -/
structure GxDesc where
  bits   : Nat
  poster : Nat
  deriving DecidableEq, Repr

/-- A look-ahead element held in the staging buffer (R164). -/
structure Staged where
  elem    : Nat
  data    : List Byte
  contrib : Nat
  deriving DecidableEq, Repr

/-- A gather descriptor in progress (R162-R168); `laNext` is the element after the last its look-ahead has asked for. -/
structure GxRun where
  desc      : GxDesc
  next      : Nat
  staged    : List Staged
  laNext    : Nat
  laIssued  : Nat
  laDropped : Nat
  examples  : Nat
  mixed     : Bool
  seen      : List Nat
  status    : Nat
  faultIdx  : Nat
  faultSpan : Nat
  deriving DecidableEq, Repr

structure Gather where
  queue : List GxDesc
  run   : Option GxRun
  deriving DecidableEq, Repr

/-- The target of a request (R153): a pseudo-channel of this module, a bank of a tile store, or the module that owns
the page. -/
inductive Target where
  | pseudo (pc : Nat)
  | bank (tile bank : Nat)
  | module (m : Nat)
  deriving DecidableEq, Repr

/-- Who holds a request slot. -/
inductive SlotOwner where
  | thread (key : Nat)
  | store (key : Nat)
  | pegOp (key : Nat)
  | prefetch (core : Nat)
  deriving DecidableEq, Repr

/-- A request slot in use (R153). -/
structure Slot where
  who       : SlotOwner
  target    : Target
  addr      : Nat
  bytes     : Nat
  kind      : AccKind
  data      : List Byte
  lookAhead : Bool
  issued    : Nat
  left      : Bool
  reply     : Option SpanReply
  deriving DecidableEq, Repr

/-- A request that waits under the slot cap (R154). -/
structure Parked where
  who    : SlotOwner
  target : Target
  addr   : Nat
  bytes  : Nat
  kind   : AccKind
  data   : List Byte
  deriving DecidableEq, Repr

/-- One tile (R49-R54, R77, R99, R117, R153, R161). -/
structure Tile where
  dom       : TileDom
  since     : Nat
  permits   : Nat
  sentinel  : BitVec 48
  cadence   : Nat
  lowRun    : Nat
  ueTimes   : List (Nat × Nat)
  ceTimes   : List Nat
  accErr    : Option Nat
  vregErr   : Option Nat
  poison    : List (Nat × Bool)
  store     : List (Nat × Byte)
  prog      : List (Nat × Byte)
  mxQueue   : List MxDesc
  mxRuns    : List MxRun
  vxQueue   : List VxDesc
  vxRun     : Option VxRun
  gens      : List (Nat × Option LaneGen)
  gx0       : Gather
  gx1       : Gather
  slots     : List (Nat × Option Slot)
  parked    : List Parked
  xlate     : List Nat
  events    : List (Nat × Nat)
  deriving DecidableEq, Repr

/-- A tile as it is after the module leaves manufacture: OFF, everything empty. -/
def Tile.init : Tile :=
  { dom := .off, since := 0, permits := 0, sentinel := 0, cadence := 0, lowRun := 0, ueTimes := [],
    ceTimes := [], accErr := none, vregErr := none, poison := [], store := [], prog := [], mxQueue := [], mxRuns := [],
    vxQueue := [], vxRun := none, gens := [], gx0 := ⟨[], none⟩, gx1 := ⟨[], none⟩, slots := [], parked := [],
    xlate := [], events := [] }

/-- One die's rail and boost (R36-R39) and the hot spots of its last reading. -/
structure Die where
  railMv  : Nat
  boost   : BoostPhase
  stepAt  : Nat
  hotSpot : Int
  junction : Int
  deriving DecidableEq, Repr

/-- Rail setpoint 750 mV (R36, R61), no boost. -/
def Die.init : Die := { railMv := 750, boost := .idle, stepAt := 0, hotSpot := 0, junction := 0 }

/-- One seam link: error count and run of failures (R60). -/
structure Seam where
  errors : Nat
  run    : Nat
  deriving DecidableEq, Repr

def Seam.init : Seam := ⟨0, 0⟩

/-- One line of a core's prefetch buffer with the core's beat at its fetch (R159). -/
structure PrefLine where
  line : Nat
  data : List Byte
  beat : Nat
  deriving DecidableEq, Repr

/-- One prep core: the beats it has issued (R140), its prefetch buffer (R159) and its last issuer (R147). -/
structure Core where
  cycle : Nat
  pref  : List PrefLine
  last  : Nat
  deriving DecidableEq, Repr

def Core.init : Core := ⟨0, [], 7⟩

/-- An access a thread waits for: the instruction's destination, width, kind, address and length, and whether its
run-ahead episode is spent (R157). -/
structure PendAcc where
  rd       : Nat
  float    : Bool
  log2     : Nat
  unsigned : Bool
  kind     : AccKind
  addr     : Nat
  len      : Nat
  spent    : Bool
  deriving DecidableEq, Repr

/-- What a thread waits on a peg for (R242, R243). -/
structure PegWaitFor where
  rd     : Nat
  peg    : Nat
  remote : Option Nat
  deriving DecidableEq, Repr

/-- An episode of run-ahead: the registers saved, the invalid marks, the 16-entry store buffer, the bytes of stores it
could not hold, whether one had no valid address, and whether the thread still issues (R157, R158). -/
structure RunAhead where
  x       : List (Nat × W64)
  f       : List (Nat × W32)
  fcsr    : Nat
  pc      : W64
  invX    : Nat
  invF    : Nat
  stores  : List (Nat × Byte)
  entries : Nat
  lost    : List Nat
  full    : Bool
  issuing : Bool
  deriving DecidableEq, Repr

/-- One hardware thread (R134, R140, R141, R147). -/
structure Thread where
  st        : ThrState
  pc        : W64
  x         : List (Nat × W64)
  f         : List (Nat × W32)
  fcsr      : Nat
  yhandler  : W64
  ycause    : W64
  yepc      : W64
  ytval     : W64
  yevents   : Nat
  yevmask   : W64
  evRec     : List (Nat × Nat)
  inHandler : Bool
  instret   : Nat
  runaheads : Nat
  resv      : Option Nat
  acc       : Option PendAcc
  waitPeg   : Option PegWaitFor
  stallOn   : Option Engine
  ra        : Option RunAhead
  deriving DecidableEq, Repr

/-- An IDLE thread, its registers zero (R140, R150). -/
def Thread.init : Thread :=
  { st := .idle, pc := 0, x := [], f := [], fcsr := 0, yhandler := 0, ycause := 0, yepc := 0, ytval := 0, yevents := 0,
    yevmask := 0, evRec := [], inHandler := false, instret := 0, runaheads := 0, resv := none, acc := none,
    waitPeg := none, stallOn := none, ra := none }

/-! Pegs (chapter 08). -/

/-- A waiter in a peg's queue: a thread of this module, or a job module's registration with its request tag (R243,
R246, R247). -/
inductive Waiter where
  | local (thread : Nat) (n : Nat)
  | remote (comp : Nat) (node : Nat) (tag : Nat) (n : Nat)
  deriving DecidableEq, Repr

structure Peg where
  value   : Nat
  waiters : List Waiter
  deriving DecidableEq, Repr

def Peg.init : Peg := ⟨0, []⟩

/-! Update unit (chapter 07). -/

/-- Where an open ring entry stands (R209, R212, R214). -/
inductive UpdPhase where
  | waiting | copying | filling
  deriving DecidableEq, Repr

structure UpdEntry where
  id     : Nat
  raw    : Nat
  t0     : Nat
  paused : Nat
  phase  : UpdPhase
  deriving DecidableEq, Repr

/-- The inputs of a step's confirmation as they arrive (R211): verdict with S_USED, the accepted NORM_SQ, and the final
tally's credited examples, contributors met and SILL_MET. -/
structure Conf where
  step    : Nat
  verdict : Option (Nat × Nat)
  normSq  : Option Nat
  tally   : Option (Nat × Nat × Bool)
  deriving DecidableEq, Repr

/-- The update unit of a compartment. `verds` holds verdicts (v, S_USED, the next S) and `norms` NORM_SQ whose step's
other half has not come, `lines` the parameter lines to publish: step, S, PRED_VERDICT, PRED_CLIP (R205); `first` is true
until the first line after RUNNING. -/
structure Upd where
  taken     : Nat
  nextId    : Nat
  opened    : List UpdEntry
  confs     : List Conf
  dropped   : List Nat
  lastPlumb : Nat
  verds     : List (Nat × (Nat × Nat × Nat))
  norms     : List (Nat × Nat)
  lines     : List (Nat × (Nat × Nat × Nat))
  first     : Bool
  predClip  : Nat
  noise     : LaneGen
  scaleLoaded : Bool
  layerLoaded : Bool
  deriving DecidableEq, Repr

def Upd.init : Upd :=
  { taken := 0, nextId := 0, opened := [], confs := [], dropped := [], lastPlumb := 0, verds := [], norms := [],
    lines := [], first := true, predClip := 0x3F800000, noise := ⟨0, 0, 0⟩, scaleLoaded := false, layerLoaded := false }

/-! Host interface (chapter 18). -/

/-- A command taken from a submission queue: its entry and the SEQ it was taken with; `bad` is the code that refuses it
before it executes (0 none); `discard` marks one whose pair was disabled after it was taken (R493, R496, R511); `posted` a
SPAN_WRITE whose lines are under way, some held at their page, with the code one of them met (R415). -/
structure Taken where
  raw     : Nat
  seq     : Nat
  bad     : Nat
  discard : Bool
  posted  : Bool
  code    : Nat
  deriving DecidableEq, Repr

/-- A queue pair of a function (R493, R496, R497, R509, R511); `tail` is the last tail accepted. -/
structure Pair where
  sqBase   : W64
  cqBase   : W64
  depth    : Nat
  vector   : Nat
  enable   : Bool
  qstate   : Nat
  sqTaken  : Nat
  tail     : Nat
  produced : Nat
  head     : Nat
  taken    : List Taken
  held     : List Nat
  viol     : List Nat
  deriving DecidableEq, Repr

def Pair.init : Pair :=
  { sqBase := 0, cqBase := 0, depth := 4, vector := 0, enable := false, qstate := 0, sqTaken := 0, tail := 0, produced := 1,
    head := 1, taken := [], held := [], viol := [] }

/-- BAR0 registers of a function and its dictionary mailbox (R493, R537, R538). `raised` holds causes, and 64 plus other
vectors, that wait for the link; `mbParts` the reply entries of the request in progress, empty where a CLOSE is held (R528), with its
MSG_ID; `mbHeld` a reply that waits for the link. -/
structure Func where
  cause     : Nat
  mask      : W64
  vector    : Nat
  raised    : List Nat
  mbReqAddr : W64
  mbReqLen  : Nat
  mbRepLen  : Nat
  mbRepAddr : W64
  mbStatus  : Nat
  mbVector  : Nat
  mbViol    : List Nat
  mbQuarAt  : Nat
  mbParts   : List (List Byte)
  mbMsgId   : Nat
  mbHeld    : List Byte
  pairs     : List (Nat × Pair)
  deriving DecidableEq, Repr

def Func.init : Func :=
  { cause := 0, mask := 0, vector := 0, raised := [], mbReqAddr := 0, mbReqLen := 0, mbRepLen := 0, mbRepAddr := 0,
    mbStatus := 0, mbVector := 0, mbViol := [], mbQuarAt := 0, mbParts := [], mbMsgId := 0,
    mbHeld := [], pairs := [] }

/-- A result mailbox (R504). -/
structure MBox where
  gen       : Nat
  ready     : Bool
  readCount : Nat
  len       : Nat
  published : Nat
  rtag      : Nat
  payload   : List Byte
  deriving DecidableEq, Repr

def MBox.init : MBox := ⟨0, false, 0, 0, 0, 0, []⟩

/-- The publish unit of a compartment: entries taken and the open ones, oldest first (R505). -/
structure Pub where
  taken  : Nat
  opened : List Nat
  deriving DecidableEq, Repr

/-! Sessions (chapter 19). -/

/-- A message received in part (R531). -/
structure Partial where
  counter : Nat
  count   : Nat
  bytes   : Nat
  since   : Nat
  segs    : List (Nat × List Byte)
  deriving DecidableEq, Repr

/-- An open session (R532-R535, R541). `window` holds the accepted counters among the 64 below the highest. -/
structure Sess where
  role     : Role
  ident    : Nat
  peer     : Nat
  cert     : Nat
  opened   : Nat
  last     : Nat
  messages : Nat
  authFail : Nat
  drops    : List Nat
  rxHigh   : Nat
  window   : List Nat
  txNext   : Nat
  keys     : Nat
  parts    : List Partial
  deriving DecidableEq, Repr

/-- A handshake in progress: accepted is true once ACCEPT has been sent; until then it waits for the identity key (R532). -/
structure Handshake where
  source   : Nat
  ident    : Nat
  role     : Role
  cert     : Nat
  since    : Nat
  accepted : Bool
  keys     : Nat
  deriving DecidableEq, Repr

/-- Faults of one IPv6 source and until when it is ignored (R536). -/
structure Source where
  faults : List Nat
  ignoreTo : Option Nat
  deriving DecidableEq, Repr

structure Xiesk where
  sess       : List (Nat × Option Sess)
  hands      : List Handshake
  nextIdent  : Nat
  sources    : List (Nat × Source)
  tokens     : Nat
  tokensAt   : Nat
  roCounts   : List (Nat × (Nat × Nat))
  deriving DecidableEq, Repr

def Xiesk.init : Xiesk := ⟨[], [], 1, [], 64, 0, []⟩

/-! Module state, faults, persistence (chapter 20). -/

/-- An entry of the fault log (R552). -/
structure LogEntry where
  code    : Nat
  comp    : Nat
  mstate  : Nat
  subject : Nat
  cause   : Nat
  time    : Nat
  seq     : Nat
  d0      : Nat
  d1      : Nat
  deriving DecidableEq, Repr

/-- The fault log, oldest first, its mirror and SEQ with the stored ceiling (R552); `lastWin` holds, per code logged
once a window and the compartment or port it names, the window of its last logging plus one. -/
structure FaultLog where
  entries : List LogEntry
  mirror  : List LogEntry
  nextSeq : Nat
  ceiling : Nat
  lastWin : List (Nat × Nat)
  deriving DecidableEq, Repr

def FaultLog.init : FaultLog := ⟨[], [], 1, 4096, []⟩

/-- A MODULE or FULL reset in progress, or a SERVICE or STANDBY command waiting for its reclaim (R544, R549). -/
inductive Going where
  | resetModule (step : Nat)
  | resetFull (step : Nat)
  | toService
  | toStandby
  deriving DecidableEq, Repr

/-- The input and the pins as the module sees them (R444, R560-R562), and since when each condition has held. -/
structure Pins where
  inputMv   : Nat
  busWarn   : Bool
  resetLow  : Bool
  perstLow  : Bool
  deriving DecidableEq, Repr

def Pins.init : Pins := ⟨0, false, false, false⟩

/-- What the block sends outside or hands to its outside, newest first in the state's `out`. -/
inductive Output where
  /-- The answer to a command: status, fault code, and a value. -/
  | reply (st : Status) (fault : Nat) (value : Nat)
  /-- A dictionary reply entry (R522). -/
  | dictReply (code type mstate cstate fault total : Nat) (data : List Byte)
  /-- A management-port segment to an IPv6 source: KIND, SESSION and payload (R531). -/
  | segment (peer kind ident : Nat) (payload : List Byte)
  /-- A write into host memory. -/
  | hostWrite (addr : Nat) (data : List Byte)
  /-- An MSI-X vector of a function. -/
  | msix (func vector : Nat)
  /-- A seam frame sent again from the retry buffer (R60). -/
  | seamReplay (link : Nat)
  /-- A post between job modules: kind (1 tally, 2 shard, 3 abandon, 4 abort, 5 restore set), module and contents. -/
  | post (kind node : Nat) (data : List Nat)
  /-- A frame or packet on a fabric port: kind and fields. -/
  | frame (port kind : Nat) (fields : List Nat) (data : List Byte)
  /-- A lease message to another module: kind (1 request, 2 grant, 3 none free, 4 heartbeat, 5 release, 6 reclaim
  notice), lease and an argument (R270-R273). -/
  | lease (node kind lease arg : Nat)
  /-- A PTP message on port p (32 the management port): kind and fields (R474-R478). -/
  | ptp (port kind : Nat) (fields : List Int)
  /-- An SPDM, IDE_KM or TDISP response: code and bytes (R393-R397). -/
  | spdm (code : Nat) (data : List Byte)
  deriving DecidableEq, Repr

/-! Span pages, placement and integrity (chapters 08, 09, 12). -/

/-- The owning location of a span page (R224, R251), and a reserved destination. -/
inductive PLoc where
  | nowhere
  | hbm (group frame : Nat)
  | lent (lease frame : Nat)
  | flash (channel index : Nat)
  deriving DecidableEq, Repr

/-- A span page homed on this module: its location, the destination of a move (R263), whether writes are held in step
4, whether a demand access asks for its promotion (R258), its CKPT_PENDING mark, the first write it held up and its
write-tracking epoch (R412, R415), its last use (R259), and the MAJOR, MINOR and cleared ZERO bits of its encryption
pages and lines (R349-R353). -/
structure Page where
  loc     : PLoc
  dest    : PLoc
  final   : Bool
  want    : Bool
  pending : Bool
  ahead   : Option Nat
  epoch   : Nat
  used    : Nat
  majors  : List (Nat × Nat)
  minors  : List (Nat × Nat)
  live    : List (Nat × Bool)
  deriving DecidableEq, Repr

def Page.init : Page :=
  { loc := .nowhere, dest := .nowhere, final := false, want := false, pending := false, ahead := none, epoch := 0, used := 0, majors := [],
    minors := [], live := [] }

/-- Kinds of a move of an object (R262). -/
inductive MoveKind where
  | promote (pin : Bool)
  | evict (tier : Nat)
  | policy
  | evacuate (lease : Nat)
  deriving DecidableEq, Repr

/-- A move running or waiting, the ring entries that finish with it, and the pages it has moved (R262, R265). -/
structure Move where
  kind    : MoveKind
  entries : List Nat
  moved   : Nat
  deriving DecidableEq, Repr

/-- A placement object (R254, R262): its moves oldest first, the head running. -/
structure PObj where
  base   : Nat
  pages  : Nat
  policy : Nat
  pinned : Bool
  deferred : Option Nat
  moves  : List Move
  deriving DecidableEq, Repr

/-- An open placement ring entry and, for a stream, the demand slots it has written (R261, R266). -/
structure PEntry where
  id    : Nat
  raw   : Nat
  done  : Nat
  deriving DecidableEq, Repr

/-- A lease this module's compartment has borrowed (R270): its lender, the key range it serves (none for the checkpoint
pool), its serial in the range (R355), the deadline of a reclaim notice, heartbeats missed. -/
structure Lease where
  node   : Nat
  range  : Option Nat
  serial : Nat
  notice : Option Nat
  missed : Nat
  deriving DecidableEq, Repr

/-- What a granted lease of an offered group is doing on the lender. -/
inductive LeaseSt where
  | granted
  | reclaiming (deadline : Nat)
  | scrubbing
  deriving DecidableEq, Repr

/-- A lease this module has lent (R269-R273, R407). -/
structure LeaseOut where
  group : Nat
  slot  : Nat
  node  : Nat
  job   : Nat
  comp  : Nat
  ckpt  : Bool
  st    : LeaseSt
  heard : Nat
  mem   : List (Nat × Byte)
  deriving DecidableEq, Repr

/-- Where a held access came from: a slot of a tile, another module's request, or a unit of this module. -/
inductive AccSrc where
  | slot (tile slot : Nat)
  | remote (node tag : Nat)
  | gather (tile : Nat) (eng : Bool) (elem : Nat)
  | host (f q : Nat)
  | unit
  deriving DecidableEq, Repr

/-- A write held at its home module: a page in its final copy (R229) or a pending page (R415). -/
structure HeldAcc where
  src   : AccSrc
  addr  : Nat
  kind  : AccKind
  data  : List Byte
  since : Nat
  deriving DecidableEq, Repr

/-- An entry of a metadata-cache partition: a page block (level 0) or tree node, by key range, region kind, level and
index (R355, R358). The list of a partition is in order of use, the latest first. -/
structure MetaEnt where
  range : Nat
  kind  : Nat
  lease : Nat
  level : Nat
  index : Nat
  dirty : Bool
  deriving DecidableEq, Repr

/-- An unverifiable subtree of a key range (R367) and the fault that made it so. -/
structure Unver where
  range : Nat
  kind  : Nat
  lease : Nat
  level : Nat
  index : Nat
  code  : Nat
  deriving DecidableEq, Repr

/-! Checkpoint engine (chapter 14). -/

/-- One copy of a slot: its lender, its leases, and whether it is whole (R406, R409). -/
structure CkptCopy where
  node   : Nat
  leases : List Nat
  whole  : Bool
  deriving DecidableEq, Repr

/-- A shard post (R412): job module, step, digest, bytes, and per copy the lender's fabric address and first lease. -/
structure ShardPost where
  module : Nat
  step   : Nat
  digest : Nat
  bytes  : Nat
  locs   : List (Nat × Nat)
  deriving DecidableEq, Repr

/-- A checkpoint slot (R403-R406, R414): the step it holds, the write-tracking epoch of its boundary, the bytes, poison
and cleared ZERO marks of its shard's pages, its copies, the shard digest, the posts of
its dovetail record, and the policies of its set's objects at the boundary. -/
structure CkptSlot where
  step   : Option Nat
  epoch  : Nat
  mem    : List (Nat × Byte)
  poison : List (Nat × Nat)
  live   : List (Nat × Bool)
  copies : List CkptCopy
  digest : Nat
  record : List ShardPost
  pols   : List (Nat × Nat)
  deriving DecidableEq, Repr

def CkptSlot.init : CkptSlot := ⟨none, 0, [], [], [], [], 0, [], []⟩

/-- A dovetail in progress (R412): its step, target slot, time armed, whether its own shard posts have been sent and its
record written. -/
structure Dovetail where
  step    : Nat
  slot    : Nat
  armedAt : Nat
  posted  : Bool
  record  : Bool
  deriving DecidableEq, Repr

/-- A restore in progress (R420-R423): its request, this module's set of restorable steps with their record digests, which
copies of each step's shard were counted corrupt, the sets received, and the step chosen. -/
structure Restore where
  rid     : Nat
  since   : Nat
  shape   : Bool
  mine    : List (Nat × Nat)
  corrupt : List (Nat × List Nat)
  sets    : List (Nat × List (Nat × Nat))
  step    : Option Nat
  deriving DecidableEq, Repr

/-- The checkpoint engine of a compartment. `set` is the entries of R401 in order. -/
structure Ckpt where
  set     : List Nat
  epoch   : Nat
  slots   : List (Nat × CkptSlot)
  posts   : List ShardPost
  dove    : Option Dovetail
  lastBoundary : Option Nat
  rest    : Option Restore
  badRestore : Bool
  rebuilding : List (Nat × Nat)
  deriving DecidableEq, Repr

def Ckpt.init : Ckpt := ⟨[], 1, [], [], none, none, none, false, []⟩

/-! Fabric (chapter 10). -/

/-- A packet (R293), field by field. `value` and `registered` are what the RESPONSE to a peg operation carries (R246). -/
structure Packet where
  op      : Nat
  lines   : Nat
  src     : Nat
  dst     : Nat
  job     : Nat
  addr    : Nat
  tag     : Nat
  status  : Nat
  operand : Nat
  data    : List Byte
  deriving DecidableEq, Repr

/-- A packet waiting at the fabric switches to be framed: the compartment it comes from, or the port and VC whose
receive buffer brought it, with whether that buffer still holds it (R297, R321). -/
structure QPkt where
  pkt    : Packet
  comp   : Option Nat
  inPort : Option (Nat × Nat × Bool)
  deriving DecidableEq, Repr

/-- A DATA frame in the retry buffer (R300); `sent` is false while it waits for its replay after a re-credit (R304). -/
structure Frame where
  fseq  : Nat
  flits : Nat
  vc    : Nat
  ctr   : Nat
  epoch : Nat
  sent  : Bool
  pkts  : List QPkt
  deriving DecidableEq, Repr

/-- Port states, coded as R316 codes them (R286). -/
inductive PortState where
  | off | training | keying | up | quiesced | isolated
  deriving DecidableEq, Repr

def PortState.code : PortState → Nat
  | .off => 0 | .training => 1 | .keying => 2 | .up => 3 | .quiesced => 4 | .isolated => 5

/-- A port: its state and lanes, its peer, its keys and frame counters, its sequence and retry state, its credits, its
running sums per VC, its audit and its record of violations (R283-R313). -/
structure Port where
  st       : PortState
  width    : Nat
  peer     : Nat
  peerPort : Nat
  rtt      : Nat
  epoch    : Nat
  epochAt  : Nat
  ctrTx    : Nat
  ctrRx    : Nat
  rekeying : Bool
  recredit : Bool
  gotCred  : Bool
  gotEncap : Bool
  sentEncap : Bool
  frags    : List Nat
  keyAt    : Nat
  msgAt    : Nat
  trains   : Nat
  nextSeq  : Nat
  acked    : Nat
  expect   : Nat
  discard  : Bool
  reqAt    : Option Nat
  reqs     : Nat
  retry    : List Frame
  lastVc   : Nat
  avail    : List (Nat × Nat)
  share    : Nat
  peerShare : Nat
  retTx    : List (Nat × Nat)
  retRx    : List (Nat × Nat)
  sumTx    : List (Nat × Nat)
  sumAcc   : List (Nat × Nat)
  auditAt  : Nat
  auditFlits : Nat
  auditNo  : Nat
  heardAt  : Nat
  cut      : Option (Nat × List Nat)
  runs     : List Nat
  deriving DecidableEq, Repr

/-- A port that is OFF (R286). -/
def Port.init : Port :=
  { st := .off, width := 0, peer := 0, peerPort := 0, rtt := 0, epoch := 0, epochAt := 0, ctrTx := 0, ctrRx := 0,
    rekeying := false, recredit := false, gotCred := false, gotEncap := false, sentEncap := false, frags := [], keyAt := 0,
    msgAt := 0, trains := 0, nextSeq := 0, acked := 0, expect := 0, discard := false, reqAt := none, reqs := 0,
    retry := [], lastVc := 7, avail := [], share := 0, peerShare := 0, retTx := [], retRx := [], sumTx := [], sumAcc := [],
    auditAt := 0, auditFlits := 0, auditNo := 0, heardAt := 0, cut := none, runs := [] }

/-! Compartments, contributors and the root of trust (chapters 11, 13, 15). -/

/-- A tally slot (R336): its step, the job modules whose posts it holds, and the nine sums. -/
structure TallySlot where
  step   : Nat
  posted : List Nat
  sums   : List (Nat × Nat)
  deriving DecidableEq, Repr

/-- A release request (R338-R340): its object, STEP, nonce, digest D, when it was accepted, the slots that approved,
and its status: 1 open, 2 granted, 3 expired, 4 ended. -/
structure Release where
  obj     : Nat
  step    : Nat
  nonce   : Nat
  digest  : Nat
  since   : Nat
  slots   : List Nat
  st      : Nat
  deriving DecidableEq, Repr

/-- What the measurement unit keeps of a ledger entry (R388, R389). -/
structure Ledger where
  verified : Nat
  digest   : Nat
  run      : Nat
  deriving DecidableEq, Repr

def Ledger.init : Ledger := ⟨0, 0, 0⟩

/-- The state of an IDE stream (R395): nothing programmed, keys programmed, Secure. -/
inductive Stream where
  | insecure | programmed | secure
  deriving DecidableEq, Repr

/-- An SPDM session (R393, R394, R398): the hint whose PSK it uses, whether PSK_FINISH has ended its establishment, its
key updates, and the times of its errors. -/
structure SpdmSess where
  hint     : Nat
  finished : Bool
  updates  : Nat
  errors   : List Nat
  deriving DecidableEq, Repr

/-- The SPDM responder: how far the connection is negotiated (0 nothing, 1 version, 2 capabilities, 3 algorithms),
whether CHALLENGE was answered, the hints of unused PSKs, its sessions, the large response being read in chunks, and
until when PSK_EXCHANGE is refused. -/
structure Spdm where
  phase   : Nat
  proved  : Bool
  psks    : List Nat
  sess    : List (Nat × Option SpdmSess)
  large   : List Byte
  lockTo  : Option Nat
  deriving DecidableEq, Repr

def Spdm.init : Spdm := ⟨0, false, [], [], [], none⟩

/-- A queued report request (R383): the compartment, none for a module report, and the nonce. -/
structure ReportReq where
  comp  : Option Nat
  nonce : Nat
  deriving DecidableEq, Repr

/-- The root of trust (R375-R384): the SVNs of the running images, the report requests in their order with the content
of the head once its signing has started and since when, and SPDM. -/
structure Rot where
  svn     : List (Nat × Nat)
  queue   : List ReportReq
  signing : Option (List Byte × Nat)
  spdm    : Spdm
  deriving DecidableEq, Repr

def Rot.init : Rot := ⟨[], [], none, Spdm.init⟩

/-- The timing record of a phase (R484). -/
structure PhaseRec where
  count : Nat
  sum   : Nat
  minNs : Nat
  maxNs : Nat
  last  : Nat
  step  : Nat
  endNs : Nat
  hist  : List (Nat × Nat)
  deriving DecidableEq, Repr

def PhaseRec.init : PhaseRec := ⟨0, 0, 2 ^ 64 - 1, 0, 0, 0, 0, []⟩

/-! Power and cooling (chapter 16). -/

/-- The bevel governor of a compartment (R449-R453): the governed level (FP32), whether a ramp runs, the allotment and
slope caps in Mbeat/s, its filler in mW, the accounted draws of the present 100 ms summed with their count, and what is
left below one mJ of the energies, in mW windows. -/
structure Gov where
  level    : Nat
  ramping  : Bool
  allotCap : Option Nat
  slopeCap : Option Nat
  filler   : Nat
  sum      : Nat
  count    : Nat
  energy   : Nat
  fillMj   : Nat
  deriving DecidableEq, Repr

def Gov.init : Gov := ⟨0, false, none, none, 0, 0, 0, 0, 0⟩

/-- Power and cooling of the module: the power-limit factor (level 0-3 of R445), when it last changed, the level the
next evaluation takes, what the 1 ms averages since the last evaluation showed, and the numbers of the last evaluations
(R445, R451, R459, R461); when a condition of the present thermal level last held and when EMERGENCY was entered, since
when the flow is below 1.0 L/min, the conditions of 0x0E0C and 0x0E0D; the valve controller's integral and setpoint
(FP32) and whether the valve is held fully open; the hold-up pause; the last readings, and the inlet and outlet temperatures taken from
their pairs in 0.01 °C. -/
structure Power where
  factor   : Nat
  setAt    : Nat
  due      : Option Nat
  overP    : Bool
  calm     : Bool
  powerNo  : Nat
  windowNo : Nat
  valveNo  : Nat
  thermNo  : Nat
  seenAt   : Nat
  emergAt  : Nat
  slowAt   : Option Nat
  flowLow  : Bool
  inletBad : Bool
  integ    : Nat
  flowSet  : Nat
  valveOpen : Bool
  paused   : Bool
  sense    : Sensors
  tIn      : Int
  tOut     : Int
  deriving DecidableEq, Repr

/-- No readings. -/
def Sensors.none : Sensors := ⟨[], [], 0, 0, 0, 0, 0, 0⟩

/-- Factor 1.00, level NORMAL, the integral 0 and the setpoint at its lowest, 1.5 L/min. -/
def Power.init : Power :=
  { factor := 0, setAt := 0, due := none, overP := false, calm := true, powerNo := 0, windowNo := 0, valveNo := 0, thermNo := 0,
    seenAt := 0, emergAt := 0, slowAt := none, flowLow := false, inletBad := false, integ := 0, flowSet := 0x3FC00000,
    valveOpen := true, paused := false, sense := Sensors.none, tIn := 0, tOut := 0 }

/-! Time (chapter 17). -/

/-- The dataset of a master, as ANNOUNCE carries it (R476, R477). -/
structure Dataset where
  prio1    : Nat
  cls      : Nat
  accuracy : Nat
  variance : Nat
  prio2    : Nat
  gm       : Nat
  steps    : Nat
  utc      : Nat
  deriving DecidableEq, Repr

/-- A port of IEEE 1588 (fabric ports 0-31, 32 the management port): the dataset it hears, when and at what interval;
the SYNC waiting for its FOLLOW_UP (sequence, ingress); egress and ingress of the last SYNC; the DELAY_REQ outstanding
(sequence, egress); the accepted delays, at most 16; discards in a row; the next sequence identifiers and the times of
the last SYNC, ANNOUNCE and DELAY_REQ sent. Times in units of 2^-16 ns. -/
structure PtpPort where
  heard    : Option Dataset
  heardAt  : Nat
  interval : Nat
  sync     : Option (Nat × Nat)
  pair     : Option (Nat × Nat)
  req      : Option (Nat × Nat)
  delays   : List Int
  bad      : Nat
  syncSeq  : Nat
  annSeq   : Nat
  reqSeq   : Nat
  syncAt   : Option Nat
  annAt    : Option Nat
  reqAt    : Option Nat
  deriving DecidableEq, Repr

def PtpPort.init : PtpPort := ⟨none, 0, 0, none, none, none, [], 0, 0, 0, 0, none, none, none⟩

/-- The time servo (R469-R476): the increment of a tick in 2^-16 ns, offsets in a row within 100 ns, when HOLDOVER was
entered, the times of the PTP messages the management port accepted in the last second, and the ports. -/
structure Clock where
  incr   : Nat
  good   : Nat
  lostAt : Nat
  mgmt   : List Nat
  ports  : List (Nat × PtpPort)
  deriving DecidableEq, Repr

/-- The nominal increment is 1 ns (R469, R472). -/
def Clock.init : Clock := ⟨65536, 0, 0, [], []⟩

/-- The header of a firmware image in a slot of the boot store (R379, R551). -/
structure FwHdr where
  svn    : Nat
  digest : Nat
  deriving DecidableEq, Repr


/-! A compartment. -/

/-- Where the reply to a held CLOSE goes: place `pos` of the reply a function's mailbox writes, or a session (R528). -/
inductive CloseTo where
  | mailbox (f pos : Nat)
  | session (slot ident msgId : Nat)
  deriving DecidableEq, Repr

/-- What a compartment holds beside its dictionary objects. -/
structure Comp where
  st      : CState
  seed    : Nat
  jobSeed : Option Nat
  segs    : List Nat
  mem     : List (Nat × Byte)
  poison  : List (Nat × Nat)
  seen    : List (Nat × Nat)
  upd     : Upd
  pacerAt : Nat
  pacerNo : Nat
  cap     : Option Nat
  pub     : Pub
  pages   : List (Nat × Page)
  pobjs   : List (Nat × Option PObj)
  pOpen   : List PEntry
  pTaken  : Nat
  pNext   : Nat
  leases  : List (Nat × Option Lease)
  serials : List (Nat × Nat)
  askAt   : List (Nat × Nat)
  held    : List HeldAcc
  unvers  : List Unver
  cache   : List (Nat × List MetaEnt)
  ctrs    : List (Nat × Nat)
  ckpt    : Ckpt
  selFrom : Nat
  aggFrom : List (Nat × Nat)
  contribs : List (Nat × Nat)
  tally   : List (Nat × Nat)
  nodes   : List Nat
  sumsStep : Nat
  sent    : List (Nat × List Nat)
  digests : List Nat
  closeAt : Option Nat
  closeTo : Option CloseTo
  tallies : List TallySlot
  release : Option Release
  ledgers : List (Nat × Ledger)
  loadDigest : Nat
  nonce   : Nat
  stream  : Stream
  recs    : List (Nat × PhaseRec)
  phTaken : Nat
  phOver  : Bool
  stamps  : List (Nat × Nat)
  logged  : List Nat
  gov     : Gov
  deriving DecidableEq, Repr

/-- A FREE slot: it holds nothing (R9). -/
def Comp.init : Comp :=
  { st := .free, seed := 0, jobSeed := none, segs := [], mem := [], poison := [], seen := [], upd := Upd.init, pacerAt := 0, pacerNo := 0, cap := none, pub := ⟨0, []⟩,
    pages := [], pobjs := [], pOpen := [], pTaken := 0, pNext := 0, leases := [], serials := [], askAt := [], held := [],
    unvers := [], cache := [], ctrs := [], ckpt := Ckpt.init, selFrom := 0, aggFrom := [], contribs := [], tally := [], nodes := [], sumsStep := 0, sent := [], digests := [], closeAt := none, closeTo := none, tallies := [],
    release := none, ledgers := [], loadDigest := 0, nonce := 0, stream := .insecure, recs := [], phTaken := 0, phOver := false,
    stamps := [], logged := [], gov := Gov.init }

/-! The whole block. -/

/-- Beside the parts named above: `pending` the queue of waiting commands, `out` what the block has sent, `fresh` the count of
free values taken, `stored` the persistent counters as last stored (R519), `cleanEnd` false once a boot has begun that no
requested reset has ended (R549), `windowAt` the last CADENCE_WINDOW, `fwStage` the staging image, `flashOld` the flash
channels whose blocks were written under an earlier boot's keys (R546), `boot` the headers of committed images by
2 * class + slot. -/
structure State where
  pending  : List Instr
  out      : List Output
  fresh    : Nat
  time     : Nat
  mode     : ModState
  modeAt   : Nat
  startPending : Bool
  going    : Option Going
  goingAt  : Nat
  cleanEnd : Bool
  windowAt : Nat
  pins     : Pins
  objs     : List (Nat × Nat)
  stored   : List (Nat × Nat)
  log      : FaultLog
  fwStage  : List Byte
  dies     : List (Nat × Die)
  tiles    : List (Nat × Tile)
  cores    : List (Nat × Core)
  threads  : List (Nat × Thread)
  seams    : List (Nat × Seam)
  pegs     : List (Nat × Peg)
  comps    : List (Nat × Comp)
  ports    : List (Nat × Port)
  egress   : List QPkt
  leasesOut : List (Nat × Option LeaseOut)
  funcs    : List (Nat × Func)
  mboxes   : List (Nat × MBox)
  hostLink : Bool
  rot      : Rot
  xiesk    : Xiesk
  power    : Power
  clock    : Clock
  flashOld : Nat
  boot     : List (Nat × FwHdr)
  deriving DecidableEq, Repr

/-- A stop with a fault. No command of this block ends so: every fault of the manual is a log entry and a status, and
the block goes on. The constructor names the one access the block's memory could not answer. -/
inductive Fault where
  /-- An access outside every address space of the block. Raised by no command: each refuses such an access with the
  status its rule names. Safe. -/
  | addressSpace (addr : Nat)
  deriving DecidableEq, Repr

/-- A refusal of the model. -/
inductive Refusal where
  /-- The command has no meaning yet: exec's arm says so by its mnemonic. Safe: no statement can be proved of it. -/
  | notModelled (mnemonic : String)
  deriving DecidableEq, Repr

/-- The module with no input power: OFF, every object at its default, nothing logged, every register at the value its
table gives, everything else empty (R8, R543). -/
def State.reset : State :=
  { pending := [], out := [], fresh := 0, time := 0, mode := .off, modeAt := 0, startPending := false, going := none,
    goingAt := 0, cleanEnd := true, windowAt := 0, pins := Pins.init, objs := [], stored := [], log := FaultLog.init, fwStage := [],
    dies := [], tiles := [], cores := [], threads := [], seams := [], pegs := [], comps := [], ports := [], egress := [], leasesOut := [], funcs := [], mboxes := [],
    hostLink := false, rot := Rot.init, xiesk := Xiesk.init, power := Power.init, clock := Clock.init, flashOld := 0,
    boot := [] }

end Sys2Proof.Machine
end

