-- ==== Sys2Proof/Machine/Ops.lean ====
section
/-! DEFINITION. The named operations over the state that every family uses: parts of the state by number, dictionary
objects, span time, the fault log, interrupt causes, ownership of tiles, and pegs. -/

namespace Sys2Proof.Machine
open Sys2Proof

/-! Parts of the state by number. -/

def State.tile (s : State) (t : Nat) : Tile := kget Tile.init s.tiles t
def State.setTile (s : State) (t : Nat) (x : Tile) : State := { s with tiles := kput Tile.init s.tiles t x }
def State.modTile (s : State) (t : Nat) (f : Tile → Tile) : State := s.setTile t (f (s.tile t))
def State.die (s : State) (d : Nat) : Die := kget Die.init s.dies d
def State.setDie (s : State) (d : Nat) (x : Die) : State := { s with dies := kput Die.init s.dies d x }
def State.core (s : State) (c : Nat) : Core := kget Core.init s.cores c
def State.setCore (s : State) (c : Nat) (x : Core) : State := { s with cores := kput Core.init s.cores c x }
def State.thread (s : State) (k : Nat) : Thread := kget Thread.init s.threads k
def State.setThread (s : State) (k : Nat) (x : Thread) : State := { s with threads := kput Thread.init s.threads k x }
def State.modThread (s : State) (k : Nat) (f : Thread → Thread) : State := s.setThread k (f (s.thread k))
def State.seam (s : State) (l : Nat) : Seam := kget Seam.init s.seams l
def State.setSeam (s : State) (l : Nat) (x : Seam) : State := { s with seams := kput Seam.init s.seams l x }
def State.peg (s : State) (p : Nat) : Peg := kget Peg.init s.pegs p
def State.setPeg (s : State) (p : Nat) (x : Peg) : State := { s with pegs := kput Peg.init s.pegs p x }
def State.comp (s : State) (n : Nat) : Comp := kget Comp.init s.comps n
def State.setComp (s : State) (n : Nat) (x : Comp) : State := { s with comps := kput Comp.init s.comps n x }
def State.modComp (s : State) (n : Nat) (f : Comp → Comp) : State := s.setComp n (f (s.comp n))
def State.func (s : State) (f : Nat) : Func := kget Func.init s.funcs f
def State.setFunc (s : State) (f : Nat) (x : Func) : State := { s with funcs := kput Func.init s.funcs f x }
def State.modFunc (s : State) (f : Nat) (g : Func → Func) : State := s.setFunc f (g (s.func f))
def State.mbox (s : State) (n m : Nat) : MBox := kget MBox.init s.mboxes (64 * n + m)
def State.setMBox (s : State) (n m : Nat) (x : MBox) : State :=
  { s with mboxes := kput MBox.init s.mboxes (64 * n + m) x }
def State.modUpd (s : State) (n : Nat) (f : Upd → Upd) : State := s.modComp n fun c => { c with upd := f c.upd }

/-- Something sent outside. -/
def State.emit (s : State) (o : Output) : State := { s with out := o :: s.out }
def State.emits (s : State) (os : List Output) : State := os.foldl State.emit s

/-- A free value is taken: the counter moves on. -/
def State.tickFresh (s : State) : State := { s with fresh := s.fresh + 1 }
/-- A 256-bit draw of the root of trust's random generator. -/
def State.draw256 (s : State) : Nat := Config.random s.fresh % 2 ^ 256

/-! Span time (R7, R469, R470). -/

/-- Whole nanoseconds, 64 bits (R469). -/
def State.now (s : State) : Nat := s.time / 65536 % 2 ^ 64
/-- The 32-bit short stamp (R470). -/
def State.stamp (s : State) : Nat := s.now % 2 ^ 32

/-! Dictionary objects. -/

/-- The default of an object; of a constant whose table gives none, the value the device was made with (R399, R541). -/
def objDefault (key : Nat) : Nat :=
  match objRow key with
  | some r => (match r.dflt with
    | some d => d
    | none => if r.pers = 0 then Config.identity key % 256 ^ r.size else 0)
  | none => 0

def State.obj (s : State) (key : Nat) : Nat := kget (objDefault key) s.objs key
def State.setObj (s : State) (key v : Nat) : State := { s with objs := kput (objDefault key) s.objs key v }
/-- An object of compartment, port or session n. -/
def State.objC (s : State) (base n : Nat) : Nat := s.obj (objAt base n)
def State.setObjC (s : State) (base n v : Nat) : State := s.setObj (objAt base n) v
/-- A counter advanced. -/
def State.inc (s : State) (key : Nat) (by_ : Nat := 1) : State := s.setObj key (s.obj key + by_)
def State.incC (s : State) (base n : Nat) (by_ : Nat := 1) : State := s.inc (objAt base n) by_

/-! The fault log (R552) and the limits on logging. -/

/-- An entry logged: SEQ issued, the stored ceiling kept above it, the oldest entry overwritten when the log is full. -/
def State.logEntry (s : State) (code comp subject cause d0 d1 : Nat) : State :=
  let g := s.log
  let e : LogEntry := { code := code, comp := comp, mstate := s.mode.code, subject := subject, cause := cause,
                        time := s.time, seq := g.nextSeq, d0 := d0, d1 := d1 }
  let full := decide (g.entries.length ≥ 1024)
  let es := (if full then g.entries.drop 1 else g.entries) ++ [e]
  let s1 := { s with log := { g with entries := es, nextSeq := g.nextSeq + 1,
                                     ceiling := if g.nextSeq = g.ceiling then g.ceiling + 4096 else g.ceiling } }
  if full then s1.inc Obj.faultOverwritten else s1

/-- No compartment in a log entry. -/
def noComp : Nat := 0xFF

/-- A fault logged with its compartment (0xFF for none) and subject. -/
def State.fault (s : State) (code : Nat) (comp : Nat := noComp) (subject : Nat := 0) (cause : Nat := 0)
    (d0 : Nat := 0) (d1 : Nat := 0) : State := s.logEntry code comp subject cause d0 d1

/-- The measurement window of R32 the present instant lies in. -/
def State.window (s : State) : Nat := s.now / 2 ^ s.obj Obj.tileCadenceWindowLog2

/-- What is kept of a logging limited to the first in each measurement window: the code, and the compartment it names,
since the rules of the counters beside it are a compartment's own (R45, R250, R449, R506). -/
def winKey (code comp : Nat) : Nat := code + 65536 * (comp + 1)

/-- A fault logged for its first occurrence in each measurement window. -/
def State.faultOnce (s : State) (code : Nat) (comp : Nat := noComp) (subject : Nat := 0) (d0 : Nat := 0) : State :=
  if kget 0 s.log.lastWin (winKey code comp) = s.window + 1 then s
  else
    let s1 := s.logEntry code comp subject 0 d0 0
    { s1 with log := { s1.log with lastWin := kput 0 s1.log.lastWin (winKey code comp) (s.window + 1) } }

/-- A fault logged for its first occurrence since the clear of its family's first event (R195, R218, R282, R374). -/
def State.faultFirst (s : State) (n code : Nat) (subject d0 d1 : Nat := 0) : State :=
  if (s.comp n).logged.contains code then s
  else (s.modComp n fun c => { c with logged := c.logged ++ [code] }).fault code n subject 0 d0 d1
/-- The clear of a family's first event re-arms its logging. -/
def State.rearmLog (s : State) (n family : Nat) : State :=
  s.modComp n fun c => { c with logged := c.logged.filter fun k => decide (k / 256 ≠ family) }

/-! Tiles, blocks, ownership (R24, R25, R319). -/

def tileX (t : Nat) : Nat := t % 32
def tileY (t : Nat) : Nat := t / 32
def blockOf (t : Nat) : Nat := 4 * (tileY t / 8) + tileX t / 8
def dieOf (t : Nat) : Nat := 2 * (tileY t / 16) + tileX t / 16

/-- The geometry a compartment holds: its record, once it has left FREE (R319). -/
def State.geom (s : State) (n : Nat) : Nat := if (s.comp n).st = .free then 0 else s.objC Obj.compGeometry n
def State.blocks (s : State) (n : Nat) : Nat := fld (s.geom n) 15 0
def State.groups (s : State) (n : Nat) : Nat := fld (s.geom n) 63 16
def State.flashCh (s : State) (n : Nat) : Nat := fld (s.geom n) 95 64
def State.portsOf (s : State) (n : Nat) : Nat := fld (s.geom n) 127 96

/-- The compartment whose blocks hold a tile. -/
def State.compOfTile (s : State) (t : Nat) : Option Nat := firstBelow 8 fun n => (s.blocks n).testBit (blockOf t)
/-- The tiles of a compartment. -/
def State.tilesOf (s : State) (n : Nat) : List Nat :=
  (List.range 1024).filter fun t => (s.blocks n).testBit (blockOf t)
def State.compNo (s : State) (t : Nat) : Nat := (s.compOfTile t).getD noComp

def State.fenced (s : State) (t : Nat) : Bool := (s.obj Obj.tileArrayFenceMap).testBit t

/-- Whether the compartment of a tile executes: RUNNING, and the module in RUN or HOLDUP. -/
def State.running (s : State) (n : Nat) : Bool := (s.comp n).st = .running

/-! Interrupt causes (R508). -/

/-- The virtual function of a compartment exists while NumVFs exceeds it (R490). -/
def State.funcExists (s : State) (f : Nat) : Bool := f = 0 || decide (s.obj Obj.hostNumVfs ≥ f)

/-- One cause bit set on one function: a vector per new setting of an unmasked bit; held while the link is down (R509). -/
def State.raiseOn (s : State) (f b : Nat) : State :=
  let x := s.func f
  if x.cause.testBit b || !s.funcExists f then s
  else
    let y := { x with cause := x.cause + 2 ^ b }
    if x.mask.toNat.testBit b then
      if s.hostLink then (s.setFunc f y).emit (.msix f x.vector)
      else s.setFunc f { y with raised := y.raised ++ [b] }
    else s.setFunc f y

/-- A cause of a compartment: on the physical function and on that compartment's virtual function. -/
def State.raise (s : State) (b n : Nat) : State := (s.raiseOn 0 b).raiseOn (n + 1) b
/-- A device-wide cause: on every function alike. -/
def State.raiseAll (s : State) (b : Nat) : State := (List.range 9).foldl (fun a f => a.raiseOn f b) s

/-- The module enters a state. -/
def State.enterMode (s : State) (m : ModState) : State := { s with mode := m, modeAt := s.now }

/-- READY and RUN follow the compartments (R543): RUN while one is RUNNING. -/
def State.followComps (s : State) : State :=
  let any := (List.range 8).any fun n => s.running n
  if s.mode = .ready && any then s.enterMode .run else if s.mode = .run && !any then s.enterMode .ready else s

/-- A compartment enters a state; CAUSE bit 7 tells the host. -/
def State.setCState (s : State) (n : Nat) (st : CState) : State :=
  ((s.modComp n fun c => { c with st := st }).followComps).raise 7 n

/-! Tile-store bytes and poison (R54). -/

def State.tsRead (s : State) (t a n : Nat) : List Byte := readBytes (s.tile t).store a n

/-- The 64-byte words a range touches. -/
def wordsOf (a n : Nat) : List Nat := (List.range ((a + n + 63) / 64 - a / 64)).map (· + a / 64)

def State.tsPoisoned (s : State) (t a n : Nat) : Bool :=
  (wordsOf a n).any fun w => kget false (s.tile t).poison w

/-- The reservations a write to tile-store words ends (R138). -/
def State.breakResv (s : State) (t a n : Nat) : State :=
  let ws := wordsOf a n
  { s with threads := s.threads.map fun p =>
      if p.1 / 32 = t && (match p.2.resv with | some w => ws.contains w | none => false)
      then (p.1, { p.2 with resv := none }) else p }

/-- A write of tile-store bytes: a whole 64-byte word written clears its poison; reservations on the words end. -/
def State.tsWrite (s : State) (t a : Nat) (bs : List Byte) : State :=
  let n := bs.length
  let whole := (wordsOf a n).filter fun w => a ≤ 64 * w && 64 * w + 64 ≤ a + n
  let s1 := s.modTile t fun x =>
    { x with store := writeBytes x.store a bs, poison := whole.foldl (fun p w => kput false p w false) x.poison }
  if n = 0 then s else s1.breakResv t a n

/-- The tile-store size, 4 MiB (R2). -/
def tsBytes : Nat := 4194304
def inStore (a n : Nat) : Bool := a + n ≤ tsBytes

/-! Registers of a thread; x0 reads zero and discards writes. -/

def Thread.getX (t : Thread) (r : Nat) : W64 := if r = 0 then 0 else kget 0 t.x r
def Thread.setX (t : Thread) (r : Nat) (v : W64) : Thread := if r = 0 then t else { t with x := kput 0 t.x r v }
def Thread.getF (t : Thread) (r : Nat) : W32 := kget 0 t.f r
def Thread.setF (t : Thread) (r : Nat) (v : W32) : Thread := { t with f := kput 0 t.f r v }

/-! Pegs (R235-R245). -/

def State.pegOwned (s : State) (n p : Nat) : Bool := p < 16384 && (s.objC Obj.spanCompPegGroups n).testBit (p / 64)
def State.pegSeq (s : State) (n p : Nat) : Bool := (s.objC Obj.spanCompPegKind n).testBit (p / 64)

/-! Packets this module hands to its fabric switches (R293). -/

/-- A RESPONSE to a request of another module. -/
def State.respond (s : State) (n node tag status operand : Nat) (data : List Byte) : State :=
  let p : Packet :=
    { op := 0x20, lines := if data.isEmpty then 0 else 1, src := s.obj Obj.fabNode, dst := node,
      job := s.objC Obj.spanCompJobId n, addr := 0, tag := tag, status := status, operand := operand, data := data }
  { s with egress := s.egress ++ [⟨p, some n, none⟩] }

/-- What a RESPONSE to a peg operation carries: the value, and bit 64 where a wait was registered (R246). -/
def pegOperand (value : Nat) (registered : Bool) : Nat := value % 2 ^ 64 + b2n registered * 2 ^ 64

/-- An acquire by a thread removes every entry of its core's prefetch buffer (R159, R235). -/
def State.purge (s : State) (k : Nat) : State :=
  if (s.core (k / 8)).pref.isEmpty then s else s.setCore (k / 8) { s.core (k / 8) with pref := [] }

/-- A waiter is satisfied, which is an acquire: a local thread gets rd = 0 and is READY, a remote one gets its reply. -/
def State.wake (s : State) (w : Waiter) : State :=
  match w with
  | .local k _ => (s.purge k).modThread k fun t =>
      match t.waitPeg with
      | some p => { (t.setX p.rd 0) with st := .ready, waitPeg := none }
      | none => t
  | .remote c node tag _ =>
    (s.setObjC Obj.spanCompRemoteWaitersUsed c (s.objC Obj.spanCompRemoteWaitersUsed c - 1)).respond c node tag 0
      (pegOperand 0 false) []

def Waiter.amount : Waiter → Nat
  | .local _ n => n
  | .remote _ _ _ n => n

/-- Waiters of a counting peg served from the head for as long as the tokens last (R243). -/
def serveCount (v : Nat) : List Waiter → Nat × List Waiter × List Waiter
  | [] => (v, [], [])
  | w :: r =>
    if w.amount ≤ v then
      let (v', sat, rest) := serveCount (v - w.amount) r
      (v', w :: sat, rest)
    else (v, [], w :: r)

/-- Whether a sequence value has reached t (R242). -/
def seqReached (v t : Nat) : Bool := (v + 2 ^ 32 - t % 2 ^ 32) % 2 ^ 32 < 2 ^ 31

/-- The span time of an advance of a phase ring's peg is kept with the value it reached (R440). -/
def State.stampRing (s : State) (p v : Nat) : State :=
  match firstBelow 8 fun n => s.pegOwned n p && s.objC Obj.phaseCompRingPeg n = p && (s.comp n).st ≠ .forming with
  | some n => s.modComp n fun c => { c with stamps := c.stamps ++ [(v, s.now)] }
  | none => s

/-- A post of n: none where a counting peg would pass 2^31 - 1. -/
def State.pegAdd (s : State) (seq : Bool) (p n : Nat) : Option State :=
  let g := s.peg p
  if seq then
    let v := (g.value + n) % 2 ^ 32
    let sat := g.waiters.filter fun w => seqReached v w.amount
    let rest := g.waiters.filter fun w => !seqReached v w.amount
    some (sat.foldl State.wake ((s.setPeg p ⟨v, rest⟩).stampRing p v))
  else if g.value + n > 2 ^ 31 - 1 then none
  else
    let (v, sat, rest) := serveCount (g.value + n) g.waiters
    some (sat.foldl State.wake (s.setPeg p ⟨v, rest⟩))

/-- A post by an engine or unit: one token, or one advance; an overflow is counted and logged (R245). -/
def State.unitPost (s : State) (n p : Nat) : State :=
  match s.pegAdd (s.pegSeq n p) p 1 with
  | some s' => s'
  | none => (s.incC Obj.spanCompPegOverflows n).faultOnce 0x0703 n 0 p

/-- The units that act on each advance of a sequence peg (R573), numbered for `Comp.seen`. -/
def unitVerdict : Nat := 0
def unitPlumb : Nat := 1
def unitTally : Nat := 2
def unitBoundary : Nat := 3
def unitSnap : Nat := 4

/-- Advances of a unit's peg it has not yet acted on. -/
def State.advances (s : State) (n unit p : Nat) : Nat :=
  ((s.peg p).value + 2 ^ 32 - kget 0 (s.comp n).seen unit) % 2 ^ 32
/-- One advance acted on. -/
def State.actOn (s : State) (n unit : Nat) : State :=
  s.modComp n fun c => { c with seen := kput 0 c.seen unit ((kget 0 c.seen unit + 1) % 2 ^ 32) }

/-! The copy of a page into a checkpoint slot (R403, R412, R415). -/

/-- The entries of a byte or line map that lie in a page replaced by those of another map; w entries a page. -/
def splicePage {α : Type} (w p : Nat) (a b : List (Nat × α)) : List (Nat × α) :=
  (a.filter fun q => decide (q.1 / w < p)) ++ (b.filter fun q => decide (q.1 / w = p)) ++
    a.filter fun q => decide (p < q.1 / w)

/-- Page p as it stands goes into a slot: its bytes, its poison marks and its cleared ZERO bits. -/
def CkptSlot.take (k : CkptSlot) (c : Comp) (p : Nat) : CkptSlot :=
  let x := kget Page.init c.pages p
  { k with mem := splicePage 65536 p k.mem c.mem, poison := splicePage 1024 p k.poison c.poison,
           live := splicePage 1024 p k.live (x.live.map fun q => (p * 1024 + q.1, q.2)) }

/-- The copy of a CKPT_PENDING page of the dovetail in progress; its mark is cleared. -/
def State.copyPage (s : State) (n p : Nat) : State :=
  match (s.comp n).ckpt.dove with
  | none => s
  | some d => s.modComp n fun c =>
      { c with ckpt := { c.ckpt with slots := kmod CkptSlot.init c.ckpt.slots d.slot fun k => k.take c p },
               pages := kmod Page.init c.pages p fun x => { x with pending := false, ahead := none } }

/-- A copy-ahead that its writer does not see waiting. -/
def State.copyAhead (s : State) (n p : Nat) : State :=
  if (kget Page.init (s.comp n).pages p).pending then (s.copyPage n p).incC Obj.ckptCompCopyAheads n else s

/-! Answers. -/

/-- A next state. -/
def ok (s : State) : Host.Outcome State Fault Refusal := .next s
/-- The answer to a command, on the output list. -/
def State.reply (s : State) (st : Status) (fault : Nat := 0) (value : Nat := 0) : State :=
  s.emit (.reply st fault value)

/-- Whether a role acts as the module management role does: Management, or Host which has its rights (R514). -/
def Role.manages : Role → Bool
  | .management => true
  | .host => true
  | _ => false
/-- Whether a role may write the writable objects of compartment n (R514). -/
def Role.mayWriteComp (r : Role) (n : Nat) : Bool :=
  match r with
  | .management => true
  | .host => true
  | .compartment m => m.val = n
  | _ => false


/-! Writes of dictionary objects: the checks of R524 steps 3, 4 and 7 that the object tables state. -/

/-- Objects a chapter keeps from the compartment role though they lie in its own block (R447). -/
def compRoleBarred (key : Nat) : Bool := key % 256 = 5 && 0x6020 ≤ key / 256 && key / 256 < 0x6028

/-- Whether a role may write an object (R514, R518, R519). -/
def roleWrites (r : Role) (row : ObjRow) (key : Nat) : Bool :=
  row.access ≠ 0 && row.pers ≠ 0 &&
    (match r with
     | .management => true
     | .host => decide (key ≠ Obj.rotSvnAdvance)
     | .compartment n => row.cvis = 2 && compOfKey key = some n.val && !compRoleBarred key
     | .observer => false
     | .fabricPeer => false)

/-- Whether the present state is one the access names (R518). -/
def State.stateAllows (s : State) (row : ObjRow) (key : Nat) : Bool :=
  if row.stKind = 0 then true
  else if row.stKind = 1 then row.stMask.testBit s.mode.code
  else row.stMask.testBit (s.comp ((compOfKey key).getD 0)).st.code

/-- The checks of a write in the order of R524, for a value already of the object's type and size. With the module OFF no
request reaches the engine, which has no power: nothing is written. -/
def State.checkWrite (s : State) (r : Role) (key v : Nat) : Status :=
  match objRow key with
  | none => .outOfRange
  | some row =>
    if s.mode = .off then .stateConflict
    else if !roleWrites r row key then .accessDenied
    else if !s.stateAllows row key then .stateConflict
    else if v ≥ 256 ^ row.size then .outOfRange
    else if (row.lo ≠ 0 || row.hi ≠ 0) && (v < row.lo || row.hi < v) then .outOfRange
    else .ok

/-- A write of true to a clearing object: false is refused with OUT_OF_RANGE. -/
def State.clearWrite (s : State) (r : Role) (key : Nat) (v : Bool) (f : State → State) : State :=
  match s.checkWrite r key (b2n v) with
  | .ok => if v then (f s).reply .ok else s.reply .outOfRange
  | st => s.reply st

end Sys2Proof.Machine
end

