-- ==== Sys2Proof/Machine/Hold.lean ====
section
/-! DEFINITION. Causes that hold a compartment (R325), and the fault records of the memory chapters whose logging is
limited to the first since a clear (R282, R374). -/

namespace Sys2Proof.Machine
open Sys2Proof

/-- The end of a run-ahead episode (R160): the saved registers and the pc of the stalled load are restored, and the
thread waits for it. -/
def Thread.rollback (h : Thread) : Thread :=
  match h.ra with
  | some r => { h with x := r.x, f := r.f, fcsr := r.fcsr, pc := r.pc, ra := none, st := .stalled }
  | none => h

/-! Phases (R437, R440, R484, R485). -/

/-- The bucket of a duration. -/
def phaseBucket (d : Nat) : Nat := if d = 0 then 0 else min 63 (Nat.log2 (d * d) - 20)

/-- A closing recorded. -/
def PhaseRec.add (r : PhaseRec) (d step at_ : Nat) : PhaseRec :=
  { count := r.count + 1, sum := min (2 ^ 64 - 1) (r.sum + d), minNs := min r.minNs d, maxNs := max r.maxNs d, last := d,
    step := step, endNs := at_,
    hist := kput 0 r.hist (phaseBucket d) (min (2 ^ 32 - 1) (kget 0 r.hist (phaseBucket d) + 1)) }

/-- The open phase closes at a stamp and another opens. -/
def State.nextPhase (s : State) (n p step at_ : Nat) : State :=
  let q := s.objC Obj.phaseCompCurrent n
  let d := at_ - s.objC Obj.phaseCompCurrentSince n
  let s1 := s.modComp n fun c =>
    { c with recs := kput PhaseRec.init c.recs q ((kget PhaseRec.init c.recs q).add d step at_), phOver := false }
  (s1.setObjC Obj.phaseCompCurrent n p).setObjC Obj.phaseCompCurrentSince n at_

/-- A phase closes now with no mark: the STEP its record takes is not stated, a free value (R442). -/
def State.closePhaseNow (s : State) (n p : Nat) : State :=
  s.tickFresh.nextPhase n p (Config.choice s.fresh % 2 ^ 64) s.now

/-- Entry to HELD (R151, R325, R442): every thread in run-ahead is rolled back and phase 255 opens; engines and threads
stop because the compartment no longer runs. -/
def State.enterHeld (s : State) (n : Nat) : State :=
  let bs := s.blocks n
  let back (q : Nat × Thread) : Nat × Thread :=
    if bs.testBit (blockOf (q.1 / 32)) then (q.1, q.2.rollback) else q
  (State.setCState { s with threads := s.threads.map back } n .held).closePhaseNow n 255

/-- A cause another chapter names (R325): a RUNNING compartment enters HELD with it; in FORMING and ATTESTED it is
recorded when none is; elsewhere it is only logged. -/
def State.holdComp (s : State) (n code : Nat) : State :=
  match (s.comp n).st with
  | .running => (s.setObjC Obj.compHoldCause n code).enterHeld n
  | .forming => if s.objC Obj.compHoldCause n = 0 then s.setObjC Obj.compHoldCause n code else s
  | .attested => if s.objC Obj.compHoldCause n = 0 then s.setObjC Obj.compHoldCause n code else s
  | _ => s

/-- An integrity fault (R374): SUBJECT the key range, DETAIL0 the span page, DETAIL1 the extent. 0x0B04-0x0B07 and
0x0B0B are always logged, the others for their first since the clear of integ.comp.first_event. -/
def State.integEvent (s : State) (n code range page d1 : Nat) : State :=
  let first := s.objC Obj.integCompFirstEvent n = 0
  let s1 := if first then s.setObjC Obj.integCompFirstEvent n
      (pack [(0, code), (16, range), (64, page), (128, s.stamp)]) else s
  if (0x0B04 ≤ code && code ≤ 0x0B07) || code = 0x0B0B then s1.fault code n range 0 page d1
  else s1.faultFirst n code range page d1

/-- A tier fault (R282): 0x0804, 0x0805, 0x0807, 0x0808 and 0x080A are always logged, the others for their first since
the clear of tier.comp.first_event. -/
def State.tierEvent (s : State) (n code obj page : Nat) : State :=
  let first := s.objC Obj.tierCompFirstEvent n = 0
  let s1 := if first then s.setObjC Obj.tierCompFirstEvent n
      (pack [(0, code), (16, obj), (64, page), (128, s.stamp)]) else s
  let always := [0x0804, 0x0805, 0x0807, 0x0808, 0x080A].contains code
  if always then s1.fault code n obj 0 page else s1.faultFirst n code obj page

/-- A QUOTA_BLOCKED outcome of the placement engine, counted, with its fault (R278, R279). -/
def State.quotaBlocked (s : State) (n obj page : Nat) : State :=
  (s.incC Obj.tierCompQuotaBlocked n).tierEvent n 0x0802 obj page

end Sys2Proof.Machine
end

