-- ==== Sys2Proof/Machine/Events.lean ====
section
/-! DEFINITION. Event counters of tiles and compartments (chapter 17, R479-R482), which the units of every chapter
advance as they work. -/

namespace Sys2Proof.Machine
open Sys2Proof

/-- Key of the OVF bitmap beside a tile's eight counters (R483). -/
def evOvf : Nat := 8

/-- Counter 0-7 of a tile advanced, modulo 2^48; a wrap sets its OVF bit (R482). -/
def Tile.count (y : Tile) (i k : Nat) : Tile :=
  let v := kget 0 y.events i + k
  let es := kput 0 y.events i (v % 2 ^ 48)
  { y with events := if v < 2 ^ 48 then es else kput 0 es evOvf (setBit (kget 0 es evOvf) i true) }

/-- Codes 0-7 of a compartment's tile counters (R481). -/
def State.tileSel (s : State) (n i : Nat) : Nat := fld (s.objC Obj.evCompTileSel n) (8 * i + 7) (8 * i)

/-- Key of aggregate counter j of compartment n: subindexes 1 to 64 of 0x6230 + n. -/
def aggKey (n j : Nat) : Nat := objAt Obj.evCompAgg n + j

/-- One aggregate counter advanced, saturating with SAT (R482): bytes 0-7 count, 8 code, 9 bit 0 SAT, 10-11 BLOCKS. -/
def State.aggCount (s : State) (n j k : Nat) : State :=
  let o := s.obj (aggKey n j)
  let c := o % 2 ^ 64 + k
  let rest := (o / 2 ^ 64) <<< 64
  if c < 2 ^ 64 then s.setObj (aggKey n j) (rest + c)
  else s.setObj (aggKey n j) (setBit rest 72 true + (2 ^ 64 - 1))

/-- The aggregate counters of compartment n that count a code, in a tile block or anywhere. -/
def State.aggsFor (s : State) (n code : Nat) (block : Option Nat) : List Nat :=
  (List.range 64).filter fun j =>
    let o := s.obj (aggKey n j)
    let mask := fld o 95 80
    fld o 71 64 = code && decide (kget 0 (s.comp n).aggFrom j = 0) &&
      (match block with
       | some b => mask = 0 || mask.testBit b
       | none => true)

/-- k occurrences of a tile event: counters count only while the compartment is RUNNING (R481). -/
def State.tileEvent (s : State) (t code k : Nat) : State :=
  match s.compOfTile t with
  | none => s
  | some n =>
    if k = 0 || !s.running n then s
    else
      let is := (List.range 8).filter fun i => s.tileSel n i = code && decide ((s.comp n).selFrom = 0)
      let s1 := if is.isEmpty then s else s.modTile t fun y => is.foldl (fun a i => a.count i k) y
      (s1.aggsFor n code (some (blockOf t))).foldl (fun a j => a.aggCount n j k) s1

/-- k occurrences of a compartment event. -/
def State.compEvent (s : State) (n code k : Nat) : State :=
  if k = 0 || !s.running n then s
  else (s.aggsFor n code none).foldl (fun a j => a.aggCount n j k) s

end Sys2Proof.Machine
end

