-- ==== Sys2Proof/Machine/Float.lean ====
section
/-! DEFINITION. IEEE 754 binary16, binary32 and binary64 numbers: exact arithmetic on integers, then one rounding
(R63, R75, R88, R114-R116, R129, R139). -/

namespace Sys2Proof.Machine

/-- A binary format: exponent bits and fraction bits. -/
structure Fmt where
  eb : Nat
  mb : Nat
  deriving DecidableEq, Repr

def f16 : Fmt := ⟨5, 10⟩
def f32 : Fmt := ⟨8, 23⟩
def f64 : Fmt := ⟨11, 52⟩

def Fmt.bias (f : Fmt) : Nat := 2 ^ (f.eb - 1) - 1
def Fmt.width (f : Fmt) : Nat := 1 + f.eb + f.mb
def Fmt.expMax (f : Fmt) : Nat := 2 ^ f.eb - 1
/-- Exponent of the last place of the smallest normal and of every subnormal. -/
def Fmt.qMin (f : Fmt) : Int := 1 - (f.bias : Int) - f.mb
def Fmt.infBits (f : Fmt) (neg : Bool) : Nat := b2n neg <<< (f.eb + f.mb) + f.expMax <<< f.mb
def Fmt.maxBits (f : Fmt) (neg : Bool) : Nat := b2n neg <<< (f.eb + f.mb) + (f.expMax <<< f.mb - 1)
/-- The canonical NaN: quiet, sign clear, no payload (R88, R129, R139). -/
def Fmt.nanBits (f : Fmt) : Nat := f.expMax <<< f.mb + 2 ^ (f.mb - 1)
def Fmt.signOf (f : Fmt) (b : Nat) : Bool := b.testBit (f.eb + f.mb)
def Fmt.expOf (f : Fmt) (b : Nat) : Nat := fld b (f.eb + f.mb - 1) f.mb
def Fmt.fracOf (f : Fmt) (b : Nat) : Nat := b % 2 ^ f.mb

/-- What a pattern stands for: a NaN, an infinity, or (-1)^neg * m * 2^e with e the exponent of its last place. -/
inductive FVal where
  | nan (signalling : Bool)
  | inf (neg : Bool)
  | fin (neg : Bool) (m : Nat) (e : Int)
  deriving DecidableEq, Repr

def unpackF (f : Fmt) (b : Nat) : FVal :=
  let x := f.expOf b
  let m := f.fracOf b
  if x = f.expMax then (if m = 0 then .inf (f.signOf b) else .nan (!m.testBit (f.mb - 1)))
  else if x = 0 then .fin (f.signOf b) m f.qMin
  else .fin (f.signOf b) (2 ^ f.mb + m) ((x : Int) - f.bias - f.mb)

def FVal.isNan : FVal → Bool
  | .nan _ => true
  | _ => false
def FVal.isSnan : FVal → Bool
  | .nan s => s
  | _ => false
def FVal.isInf : FVal → Bool
  | .inf _ => true
  | _ => false
def FVal.isFin : FVal → Bool
  | .fin .. => true
  | _ => false
def FVal.isZero : FVal → Bool
  | .fin _ m _ => m = 0
  | _ => false
def FVal.neg : FVal → Bool
  | .inf n => n
  | .fin n _ _ => n
  | .nan _ => false
def FVal.setNeg (v : FVal) (n : Bool) : FVal :=
  match v with
  | .inf _ => .inf n
  | .fin _ m e => .fin n m e
  | .nan s => .nan s

/-- A rounding: the four of R114, ties away (frm 100 of R139), stochastic with its 16-bit draw (R116). -/
inductive Rnd where
  | rne | rtz | rdn | rup | rmm
  | sr (draw : Nat)
  deriving DecidableEq, Repr

/-- A result with the events the engines and fflags report. -/
structure FRes where
  bits      : Nat
  invalid   : Bool := false
  divzero   : Bool := false
  overflow  : Bool := false
  underflow : Bool := false
  inexact   : Bool := false
  deriving DecidableEq, Repr

def bitLen (m : Nat) : Nat := if m = 0 then 0 else Nat.log2 m + 1

/-- Whether m * 2^-sh, cut to an integer, moves up by one, for the deterministic roundings. -/
def roundsUp (r : Rnd) (neg : Bool) (m sh : Nat) : Bool :=
  let q := m >>> sh
  let rem := m % 2 ^ sh
  match r with
  | .rne => decide (2 * rem > 2 ^ sh) || (decide (2 * rem = 2 ^ sh) && q % 2 == 1)
  | .rmm => decide (2 * rem ≥ 2 ^ sh) && decide (sh > 0)
  | .rtz => false
  | .rdn => neg && decide (rem ≠ 0)
  | .rup => !neg && decide (rem ≠ 0)
  | .sr _ => false

/-- m * 2^-sh rounded to an integer; the stochastic rule adds the top R bits of the draw to the R discarded bits kept
(at most 16) and truncates (R116). -/
def roundShift (r : Rnd) (neg : Bool) (m sh : Nat) : Nat :=
  match r with
  | .sr draw =>
    let cut := sh - 16
    let bitsLeft := sh - cut
    ((m >>> cut) + ((draw % 65536) >>> (16 - bitsLeft))) >>> bitsLeft
  | _ => (m >>> sh) + b2n (roundsUp r neg m sh)

/-- The exact value (-1)^neg * m * 2^e rounded into a format. Overflow follows IEEE 754 for the direction; the
stochastic rounding overflows to infinity when the rounded magnitude exceeds the largest finite value (R115). -/
def roundF (f : Fmt) (r : Rnd) (neg : Bool) (m : Nat) (e : Int) : FRes :=
  let sgn := b2n neg <<< (f.eb + f.mb)
  if m = 0 then { bits := sgn }
  else
    let top : Int := e + bitLen m - 1
    let q : Int := max (top - f.mb) f.qMin
    let sh := (q - e).toNat
    let exact := decide (q ≤ e) || decide (m % 2 ^ sh = 0)
    let k := if q ≤ e then m <<< (e - q).toNat else roundShift r neg m sh
    let q' := if k ≥ 2 ^ (f.mb + 1) then q + 1 else q
    let k' := if k ≥ 2 ^ (f.mb + 1) then k / 2 else k
    let be : Int := q' + f.mb + f.bias
    if k' ≥ 2 ^ f.mb && be ≥ f.expMax then
      let toInf := match r with
        | .rtz => false
        | .rdn => neg
        | .rup => !neg
        | _ => true
      { bits := if toInf then f.infBits neg else f.maxBits neg, overflow := true, inexact := true }
    else if k' < 2 ^ f.mb then
      { bits := sgn + k', underflow := !exact, inexact := !exact }
    else
      { bits := sgn + be.toNat <<< f.mb + (k' - 2 ^ f.mb), inexact := !exact,
        underflow := !exact && decide (be = 1) && decide (top - f.mb < f.qMin) &&
          (let q2 := top - f.mb
           let sh2 := (q2 - e).toNat
           decide (roundShift r neg m sh2 < 2 ^ (f.mb + 1))) }

def nanRes (f : Fmt) (invalid : Bool) : FRes := { bits := f.nanBits, invalid := invalid }

def snanAny (vs : List FVal) : Bool := vs.any FVal.isSnan

/-- Exact sum of two finite values, as a signed integer at the smaller exponent. -/
def addExact (n1 : Bool) (m1 : Nat) (e1 : Int) (n2 : Bool) (m2 : Nat) (e2 : Int) : Int × Int :=
  let e := min e1 e2
  let a : Int := (m1 <<< (e1 - e).toNat : Nat)
  let b : Int := (m2 <<< (e2 - e).toNat : Nat)
  ((if n1 then -a else a) + (if n2 then -b else b), e)

/-- A finite sum rounded; an exact zero sum of unlike signs is +0, or -0 when rounding toward -∞. -/
def roundSum (f : Fmt) (r : Rnd) (n1 n2 : Bool) (s : Int × Int) : FRes :=
  if s.1 = 0 then { bits := b2n (if n1 = n2 then n1 else r = .rdn) <<< (f.eb + f.mb) }
  else roundF f r (decide (s.1 < 0)) s.1.natAbs s.2

def addV (f : Fmt) (r : Rnd) (x y : FVal) : FRes :=
  match x, y with
  | .fin n1 m1 e1, .fin n2 m2 e2 => roundSum f r n1 n2 (addExact n1 m1 e1 n2 m2 e2)
  | .inf n1, .inf n2 => if n1 = n2 then { bits := f.infBits n1 } else nanRes f true
  | .inf n, .fin .. => { bits := f.infBits n }
  | .fin .., .inf n => { bits := f.infBits n }
  | a, b => nanRes f (snanAny [a, b])

def negV (v : FVal) : FVal := v.setNeg (!v.neg)

def mulV (f : Fmt) (r : Rnd) (x y : FVal) : FRes :=
  match x, y with
  | .fin n1 m1 e1, .fin n2 m2 e2 => roundF f r (n1 != n2) (m1 * m2) (e1 + e2)
  | .inf n1, .inf n2 => { bits := f.infBits (n1 != n2) }
  | .inf n1, .fin n2 m _ => if m = 0 then nanRes f true else { bits := f.infBits (n1 != n2) }
  | .fin n1 m _, .inf n2 => if m = 0 then nanRes f true else { bits := f.infBits (n1 != n2) }
  | a, b => nanRes f (snanAny [a, b])

/-- x * y + z with one rounding. -/
def fmaV (f : Fmt) (r : Rnd) (x y z : FVal) : FRes :=
  let prod : Option FVal := match x, y with
    | .fin n1 m1 e1, .fin n2 m2 e2 => some (.fin (n1 != n2) (m1 * m2) (e1 + e2))
    | .inf n1, .inf n2 => some (.inf (n1 != n2))
    | .inf n1, .fin n2 m _ => if m = 0 then none else some (.inf (n1 != n2))
    | .fin n1 m _, .inf n2 => if m = 0 then none else some (.inf (n1 != n2))
    | _, _ => some (.nan false)
  match prod with
  | none => nanRes f true
  | some p => if x.isNan || y.isNan || z.isNan then nanRes f (snanAny [x, y, z]) else addV f r p z

def divV (f : Fmt) (r : Rnd) (x y : FVal) : FRes :=
  match x, y with
  | .fin n1 m1 e1, .fin n2 m2 e2 =>
    let n := n1 != n2
    if m2 = 0 then (if m1 = 0 then nanRes f true else { bits := f.infBits n, divzero := true })
    else
      let sh := f.mb + 20 + bitLen m2
      let q := (m1 <<< sh) / m2
      let sticky := b2n (decide ((m1 <<< sh) % m2 ≠ 0))
      roundF f r n (2 * q + sticky) (e1 - e2 - sh - 1)
  | .inf _, .inf _ => nanRes f true
  | .inf n1, .fin n2 _ _ => { bits := f.infBits (n1 != n2) }
  | .fin n1 _ _, .inf n2 => { bits := b2n (n1 != n2) <<< (f.eb + f.mb) }
  | a, b => nanRes f (snanAny [a, b])

/-- Integer square root by bisection on the bits, from the highest of n. -/
def isqrtFrom (m : Nat) : Nat → Nat → Nat
  | 0, acc => acc
  | n + 1, acc => if (acc + 2 ^ n) * (acc + 2 ^ n) ≤ m then isqrtFrom m n (acc + 2 ^ n) else isqrtFrom m n acc

def isqrt (m : Nat) : Nat := isqrtFrom m (bitLen m / 2 + 1) 0

def sqrtV (f : Fmt) (r : Rnd) (x : FVal) : FRes :=
  match x with
  | .nan s => nanRes f s
  | .inf n => if n then nanRes f true else { bits := f.infBits false }
  | .fin n m e =>
    if m = 0 then { bits := b2n n <<< (f.eb + f.mb) }
    else if n then nanRes f true
    else
      let k := 2 * (f.mb + 20)
      let odd := (e % 2).toNat
      let mm := (m <<< odd) <<< k
      let q := isqrt mm
      let sticky := b2n (decide (q * q ≠ mm))
      roundF f r false (2 * q + sticky) ((e - odd - k) / 2 - 1)

/-- A value re-rounded into another format. -/
def cvtV (f : Fmt) (r : Rnd) (x : FVal) : FRes :=
  match x with
  | .nan s => nanRes f s
  | .inf n => { bits := f.infBits n }
  | .fin n m e => roundF f r n m e

/-- Three-way order of two values that are no NaN: x < y, x = y (zeros equal). -/
def ltV (x y : FVal) : Bool :=
  match x, y with
  | .fin n1 m1 e1, .fin n2 m2 e2 => decide ((addExact n1 m1 e1 (!n2) m2 e2).1 < 0)
  | .inf n1, .inf n2 => n1 && !n2
  | .inf n1, .fin .. => n1
  | .fin .., .inf n2 => !n2
  | _, _ => false

def eqV (x y : FVal) : Bool :=
  match x, y with
  | .fin n1 m1 e1, .fin n2 m2 e2 => decide ((addExact n1 m1 e1 (!n2) m2 e2).1 = 0)
  | .inf n1, .inf n2 => n1 == n2
  | _, _ => false

/-- minimum of IEEE 754-2019 with -0 < +0 (R110); a NaN gives a NaN. -/
def minV (f : Fmt) (a b : Nat) : FRes :=
  let x := unpackF f a
  let y := unpackF f b
  if x.isNan || y.isNan then nanRes f (snanAny [x, y])
  else if ltV x y then { bits := a } else if ltV y x then { bits := b }
  else { bits := if x.neg then a else b }

def maxV (f : Fmt) (a b : Nat) : FRes :=
  let x := unpackF f a
  let y := unpackF f b
  if x.isNan || y.isNan then nanRes f (snanAny [x, y])
  else if ltV x y then { bits := b } else if ltV y x then { bits := a }
  else { bits := if x.neg then b else a }

/-- A finite value rounded to an integer, with whether it was inexact. -/
def roundInt (r : Rnd) (neg : Bool) (m : Nat) (e : Int) : Int × Bool :=
  if e ≥ 0 then
    let v : Int := (m <<< e.toNat : Nat)
    (if neg then -v else v, false)
  else
    let sh := (-e).toNat
    let v : Int := (roundShift r neg m sh : Nat)
    (if neg then -v else v, decide (m % 2 ^ sh ≠ 0))

/-- An integer rounded into a format. -/
def ofInt (f : Fmt) (r : Rnd) (i : Int) : FRes := roundF f r (decide (i < 0)) i.natAbs 0

/-- A subnormal pattern replaced by the zero of its sign, and whether it was one (R75, R88). -/
def flushBits (f : Fmt) (b : Nat) : Nat × Bool :=
  if f.expOf b = 0 && f.fracOf b ≠ 0 then (b - f.fracOf b, true) else (b, false)

end Sys2Proof.Machine
end

