-- ==== Sys2Proof/Machine/Flags.lean ====
section
/-! DEFINITION. The flags an operation of an engine collects and its completion record reports (R82, R126). -/

namespace Sys2Proof.Machine

/-- Flags and counts of one matrix operation or vector chain. `top` is the largest real magnitude that saturated, as
(m, e) for m * 2^e (R178). -/
structure EFlags where
  invalid   : Bool := false
  overflow  : Bool := false
  divzero   : Bool := false
  flushed   : Bool := false
  nan       : Bool := false
  inf       : Bool := false
  kerfClamp : Bool := false
  sat       : Nat := 0
  kerfs     : Nat := 0
  draws     : Nat := 0
  top       : Option (Nat × Int) := none
  deriving DecidableEq, Repr

/-- The bits [22:16] that both records share, as far as each defines them: matrix (R82). -/
def EFlags.mxBits (g : EFlags) : Nat :=
  pack [(16, b2n g.invalid), (17, b2n g.overflow), (18, b2n (decide (g.sat ≠ 0))), (19, b2n g.flushed),
        (20, b2n g.nan), (21, b2n g.inf)]

/-- Bits [22:16] of the vector record (R126). -/
def EFlags.vxBits (g : EFlags) : Nat :=
  pack [(16, b2n g.invalid), (17, b2n g.overflow), (18, b2n (decide (g.sat ≠ 0))), (19, b2n g.divzero),
        (20, b2n g.nan), (21, b2n g.inf), (22, b2n g.kerfClamp)]

/-- A result's INVALID, DIVZERO and OVERFLOW merged in. -/
def EFlags.merge (g : EFlags) (r : FRes) : EFlags :=
  { g with invalid := g.invalid || r.invalid, overflow := g.overflow || r.overflow, divzero := g.divzero || r.divzero }

/-- Whether m1 * 2^e1 is larger than m2 * 2^e2. -/
def magLt (a b : Nat × Int) : Bool :=
  let e := min a.2 b.2
  decide (a.1 <<< (a.2 - e).toNat < b.1 <<< (b.2 - e).toNat)

/-- The larger of two magnitudes. -/
def magMax (a b : Nat × Int) : Nat × Int := if magLt a b then b else a

/-- One element saturated, of real magnitude v. -/
def EFlags.satAt (g : EFlags) (v : Nat × Int) : EFlags :=
  { g with sat := g.sat + 1, top := some (match g.top with | some t => magMax t v | none => v) }

/-- A result that is written out: NaN and infinity noted. -/
def EFlags.seen (g : EFlags) (v : FVal) : EFlags := { g with nan := g.nan || v.isNan, inf := g.inf || v.isInf }

end Sys2Proof.Machine
end

