-- ==== Sys2Proof/Machine/Keeper.lean ====
section
/-! DEFINITION. The scale keeper's table and the reports of the engines (chapter 06, R175-R183). -/

namespace Sys2Proof.Machine
open Sys2Proof

/-! The scale table: 4,096 entries of 16 bytes at num.comp.table_base, entries 0-3 the control record (R176, R183). -/

def State.tableAt (s : State) (n : Nat) : Nat := s.objC Obj.numCompTableBase n
def State.spanNat (s : State) (n addr len : Nat) : Nat := leNat (readBytes (s.comp n).mem addr len)
/-- A write of the keeper: a CKPT_PENDING page is copied ahead of it (R415). -/
def State.spanPut (s : State) (n addr len v : Nat) : State :=
  (s.copyAhead n (addr / 65536)).modComp n fun c =>
    { c with mem := writeBytes c.mem addr (leBytes len v),
             pages := kmod Page.init c.pages (addr / 65536) fun x => { x with epoch := c.ckpt.epoch } }
/-- The 64-byte control record as one number. -/
def State.control (s : State) (n : Nat) : Nat := s.spanNat n (s.tableAt n) 64
def State.setControl (s : State) (n v : Nat) : State := s.spanPut n (s.tableAt n) 64 v
/-- Tensor record i (R177). -/
def State.record (s : State) (n i : Nat) : Nat := s.spanNat n (s.tableAt n + 16 * i) 16
def State.setRecord (s : State) (n i v : Nat) : State := s.spanPut n (s.tableAt n + 16 * i) 16 v

def Ctl.lastStep (c : Nat) : Nat := fld c 63 0
def Ctl.lossLog2 (c : Nat) : Nat := fld c 71 64
def Ctl.lossPrev (c : Nat) : Nat := fld c 79 72
def Ctl.lastVerdict (c : Nat) : Nat := fld c 87 80
def Ctl.lastStatus (c : Nat) : Nat := fld c 103 88
def Ctl.cleanRun (c : Nat) : Nat := fld c 159 128
def Ctl.skipRun (c : Nat) : Nat := fld c 175 160
def Ctl.gradSat (c : Nat) : Nat := fld c 223 192
def Ctl.satOther (c : Nat) : Nat := fld c 255 224
def Ctl.skipsTotal (c : Nat) : Nat := fld c 319 256
def Ctl.halvings (c : Nat) : Nat := fld c 351 320
def Ctl.doublings (c : Nat) : Nat := fld c 383 352

/-- A field [hi:lo] of a record replaced. -/
def putFld (w hi lo v : Nat) : Nat := w - fld w hi lo <<< lo + (v % 2 ^ (hi + 1 - lo)) <<< lo

def Rec.coarse (r : Nat) : Int := sfld r 7 0
def Rec.kind (r : Nat) : Nat := fld r 15 8
def Rec.est (r : Nat) : Int := sfld r 31 16
def Rec.stepMax (r : Nat) : Nat := fld r 47 32
def Rec.valid (r : Nat) : Bool := bit r 48
def Rec.satCount (r : Nat) : Nat := fld r 95 64

/-- STEP_MAX with no observation. -/
def noObs : Nat := 0x8000

/-- ceil(256 * log2 (m * 2^e)) for m > 0 (R179, R181). -/
def log2x256 (m : Nat) (e : Int) : Int := 256 * e + bitLen (m ^ 256 - 1)

/-- The overshoot o of R181: the least o with v * 2^(-c) no more than 65504 * 2^o. -/
def overshoot (m : Nat) (e c : Int) : Int :=
  let k := e - c
  let a := if k ≥ 0 then m <<< k.toNat else m
  let b := if k ≥ 0 then 65504 else 65504 <<< (-k).toNat
  let o0 : Int := (bitLen a : Int) - bitLen b - 1
  let holds (o : Int) : Bool :=
    if o ≥ 0 then decide (a ≤ b <<< o.toNat) else decide (a <<< (-o).toNat ≤ b)
  if holds o0 then o0 else if holds (o0 + 1) then o0 + 1 else o0 + 2

def clampI (x lo hi : Int) : Int := if x < lo then lo else if hi < x then hi else x

/-- An estimate as its 16-bit field; one that does not fit has no stated value and is a free value. -/
def State.est16 (s : State) (i : Int) : Nat × State :=
  if -32768 < i && i < 32768 then (unsigned 16 i, s) else (Config.choice s.fresh % 65536, s.tickFresh)

/-- 0x0501, 0x0502 and 0x0506: the first since the clear copied to first_event; each logged for its first occurrence
since the clear (R194, R195). -/
def State.numEvent (s : State) (n code idx step : Nat) : State :=
  (if s.objC Obj.numCompFirstEvent n = 0 then
    s.setObjC Obj.numCompFirstEvent n (pack [(0, code), (16, idx), (64, step), (128, s.stamp)])
  else s).faultFirst n code idx

/-- A report of an engine to the keeper (R175, R178-R181): the index, the COARSE written, the largest finite magnitude
m, and the largest magnitude v before saturation. -/
def State.scaleReport (s : State) (n idx : Nat) (c : Int) (m v : Option (Nat × Int)) : State :=
  let r := s.record n idx
  let step := Ctl.lastStep (s.control n) + 1
  if idx < 4 || !Rec.valid r then (s.incC Obj.numCompUntracked n).numEvent n 0x0506 idx step
  else
    let (r1, s1) := match m with
      | none => (r, s)
      | some (k, e) =>
        let (o, s1) := s.est16 (log2x256 k e)
        let old := Rec.stepMax r
        (if old = noObs || decide (signed 16 old < signed 16 o) then putFld r 47 32 o else r, s1)
    match v with
    | none => s1.setRecord n idx r1
    | some (k, e) =>
      let o := max 1 (overshoot k e c)
      let want := max (Rec.coarse r1) (c + o + 1)
      let (est, s2) := s1.est16 (log2x256 k e)
      let cnt := if Rec.satCount r1 = 2 ^ 32 - 1 then Rec.satCount r1 else Rec.satCount r1 + 1
      let r2 := putFld (putFld (putFld (putFld (putFld (putFld r1 7 0 (unsigned 8 (clampI want (-128) 127))) 31 16 est)
        47 32 est) 49 49 1) 95 64 cnt) 127 96 (step % 2 ^ 32)
      let ct := s2.control n
      let s3 := (s2.setRecord n idx r2).setControl n
        (if Rec.kind r = 1 then putFld ct 223 192 (Ctl.gradSat ct + 1) else putFld ct 255 224 (Ctl.satOther ct + 1))
      let s4 := (s3.incC Obj.numCompSaturations n).numEvent n 0x0502 idx step
      if 127 < want then s4.fault 0x0507 n idx else s4

/-- What an engine reports for a tile it wrote: nothing unless bit 31 of the TENSOR_ID is set (R175, R178). -/
def State.reportTile (s : State) (n tensor : Nat) (c : Int) (m v : Option (Nat × Int)) : State :=
  if tensor.testBit 31 then s.scaleReport n (tensor % 4096) c m v else s

end Sys2Proof.Machine
end

