-- ==== Sys2Proof/Machine/Tiles.lean ====
section
/-! DEFINITION. The tile array and its cadence (chapter 02, R24-R62). -/

namespace Sys2Proof.Machine
open Sys2Proof

/-! Fencing (R53-R58). -/

/-- The waiters of a tile's threads leave the peg queues: the tile has lost its threads (R151). -/
def State.dropTileWaiters (s : State) (t : Nat) : State :=
  { s with pegs := (s.pegs.map fun p => (p.1, { p.2 with waiters := p.2.waiters.filter fun w =>
      match w with
      | .local k _ => decide (k / 32 ≠ t)
      | .remote .. => true })).filter fun p => decide (p.2 ≠ Peg.init) }

/-- A tile loses its threads and its cores' buffers. -/
def State.dropThreads (s : State) (t : Nat) : State :=
  let s1 := s.dropTileWaiters t
  { s1 with threads := s1.threads.filter (fun p => decide (p.1 / 32 ≠ t)),
            cores := s1.cores.filter (fun p => decide (p.1 / 4 ≠ t)) }

/-- The fencing sequence of R55: the bit, 0x0110 with the cause, the domain OFF with everything in the tile lost, and
the interrupt of R57. `since` keeps the time of the fence for step 5. -/
def State.fenceTile (s : State) (t cause : Nat) : State :=
  if s.fenced t then s
  else
    let c := s.compNo t
    let s1 := (s.setObj Obj.tileArrayFenceMap (setBit (s.obj Obj.tileArrayFenceMap) t true)).fault 0x0110 c t cause
    let s2 := (s1.dropThreads t).setTile t { Tile.init with since := s.now }
    if c = noComp then s2.raiseOn 0 0 else s2.raise 0 c

/-- A fault of a tile logged, then the tile fenced with that cause. -/
def State.fenceFor (s : State) (t code : Nat) : State :=
  if s.fenced t then s else (s.fault code (s.compNo t) t).fenceTile t code

/-- Two events within 2^36 ns (R53). -/
def within36 (now t0 : Nat) : Bool := now < t0 + 2 ^ 36

/-! Cadence (R31-R35). -/

/-- The guaranteed minimum at a voltage (mV) and temperature (tenths of °C) as a fraction in Mbeat/s, by the table of
R34 interpolated; below 45 °C the 45 °C column, none outside the table (R35). -/
def minCadence (mv : Nat) (deciC : Int) : Option (Nat × Nat) :=
  let t := if deciC < 450 then 450 else deciC.toNat
  if mv < 700 || 800 < mv || 1000 < t then none
  else
    let row (i : Nat) : List Nat :=
      if i = 0 then [1880, 1850, 1820, 1790] else if i = 1 then [2030, 2000, 1960, 1930] else [2200, 2160, 2120, 2090]
    let i := if mv < 750 then 0 else 1
    let fv := mv - 700 - 50 * i
    let j := if t < 650 then 0 else if t < 850 then 1 else 2
    let t0 := if j = 0 then 450 else if j = 1 then 650 else 850
    let w := if j = 2 then 150 else 200
    let at_ (a b : Nat) : Nat := ((row a).drop b).headD 0
    let left := at_ i j * (50 - fv) + at_ (i + 1) j * fv
    let right := at_ i (j + 1) * (50 - fv) + at_ (i + 1) (j + 1) * fv
    some (left * (w - (t - t0)) + right * (t - t0), 50 * w)

/-- One tile latches its count and reports its cadence; the third low window in a row fences it. -/
def State.latchCadence (s : State) (x : CadSample) : State :=
  let t := x.tile.val
  let y := s.tile t
  if y.dom ≠ .on || s.fenced t then s
  else
    let w := 2 ^ s.obj Obj.tileCadenceWindowLog2
    let cad := roundDiv (x.beats * 1000) w
    let low := match minCadence x.mv x.deciC with
      | none => false
      | some (n, d) => decide (cad * d < n)
    let run := if low then y.lowRun + 1 else 0
    let s1 := s.setTile t { y with sentinel := BitVec.ofNat 48 x.beats, cadence := cad, lowRun := run }
    if run ≥ 3 then s1.fenceFor t 0x0105 else s1

/-- CADENCE_WINDOW (R32): takes place once per window of 2^W ns. -/
def execCadenceWindow (samples : List CadSample) (s : State) : Host.Outcome State Fault Refusal :=
  if s.window ≤ s.windowAt then ok s
  else ok (samples.foldl State.latchCadence { s with windowAt := s.window })

/-! Boost (R36-R39). -/

/-- Powered tiles of a die: those whose domain is not OFF (R49). -/
def State.poweredOn (s : State) (d : Nat) : List Nat :=
  (s.tiles.filter fun p => dieOf p.1 = d && p.2.dom ≠ .off && p.1 < 1024).map (·.1)

/-- The conditions of R37 other than the hot-spot condition. The bevel governor grants the slope when no compartment of the
die has its slope cap below its draw (R456). -/
def State.boostHolds (s : State) (d : Nat) : Bool :=
  let ts := s.poweredOn d
  s.obj Obj.tileRailBoostEnable = 1 && !ts.isEmpty &&
    ts.all fun t =>
      match s.compOfTile t with
      | some n => s.objC Obj.tileCompMode n = 0 && s.objC Obj.tileCompBoostPermit n = 1 && (s.comp n).gov.slopeCap.isNone
      | none => false

/-- BOOST_ENTRY (R37, R38): the hottest hot spot at 85 °C or less, in tenths of °C. -/
def execBoostEntry (d : DieNo) (s : State) : Host.Outcome State Fault Refusal :=
  let x := s.die d.val
  if x.boost = .idle && s.boostHolds d.val && decide (x.hotSpot ≤ 850) then
    ok (s.setDie d.val { x with boost := .rising, stepAt := s.now })
  else ok s

/-- BOOST_RAIL_STEP (R38, R39): 5 mV, every 20 µs upward and in boost, every 5 µs downward. -/
def execBoostRailStep (d : DieNo) (lowest : Nat) (s : State) : Host.Outcome State Fault Refusal :=
  let x := s.die d.val
  let due (ns : Nat) : Bool := x.stepAt + ns ≤ s.now
  match x.boost with
  | .idle => ok s
  | .rising =>
    if !due 20000 then ok s
    else if 800 ≤ x.railMv || 2200 ≤ lowest then ok (s.setDie d.val { x with boost := .inBoost, stepAt := s.now })
    else ok (s.setDie d.val { x with railMv := x.railMv + 5, stepAt := s.now })
  | .inBoost =>
    if !due 20000 then ok s
    else if 2200 < lowest && 750 < x.railMv then
      ok (s.setDie d.val { x with railMv := x.railMv - 5, stepAt := s.now })
    else ok (s.setDie d.val { x with stepAt := s.now })
  | .falling =>
    if !due 5000 then ok s
    else if x.railMv ≤ 755 then ok (s.setDie d.val { x with railMv := 750, boost := .idle, stepAt := s.now })
    else ok (s.setDie d.val { x with railMv := x.railMv - 5, stepAt := s.now })

/-- BOOST_EXIT (R39): a condition of R37 other than the hot spot fails, or a hot spot reads 90 °C or more. -/
def execBoostExit (d : DieNo) (s : State) : Host.Outcome State Fault Refusal :=
  let x := s.die d.val
  if (x.boost = .rising || x.boost = .inBoost) && (!s.boostHolds d.val || decide (900 ≤ x.hotSpot)) then
    ok (s.setDie d.val { x with boost := .falling, stepAt := s.now })
  else ok s

/-! The pacer (R42-R45). -/

/-- The rate a compartment's pacer issues permits at, in Mbeat/s: the gate-mode rate, lowered by a cap; in glide mode
only a cap engages it (R41, R44, R449). -/
def State.pacerRate (s : State) (n : Nat) : Option Nat :=
  let cap := (s.comp n).cap
  if s.objC Obj.tileCompMode n = 1 then
    some (match cap with | some c => min c (s.objC Obj.tileCompPacerRate n) | none => s.objC Obj.tileCompPacerRate n)
  else cap

/-- One tile receives a permit, or discards it at the bank limit of 2; the deficit count of R45. -/
def State.permitTile (deficit : List Nat) (n : Nat) (s : State) (t : Nat) : State :=
  let y := s.tile t
  if y.dom ≠ .on then s
  else if y.permits < 2 then (s.setTile t { y with permits := y.permits + 1 }).tileEvent t 0x87 1
  else if deficit.contains t then ((s.incC Obj.tileCompDeficit n).tileEvent t 0x88 1).faultOnce 0x0106 n t
  else s

/-- PACER_PERMIT (R43): permit k is due k / rate after the pacer's start. -/
def execPacerPermit (c : CompNo) (deficit : List TileNo) (s : State) : Host.Outcome State Fault Refusal :=
  let x := s.comp c.val
  match s.pacerRate c.val with
  | none => ok s
  | some r =>
    if s.running c.val && (x.pacerNo + 1) * 1000 ≤ (s.now - x.pacerAt) * r then
      let s1 := s.setComp c.val { x with pacerNo := x.pacerNo + 1 }
      ok ((s1.tilesOf c.val).foldl (State.permitTile (deficit.map (·.val)) c.val) s1)
    else ok s

/-! Tile domains (R49-R53). -/

/-- No work issued and no request slot outstanding (R51). -/
def State.tileIdle (s : State) (t : Nat) : Bool :=
  let y := s.tile t
  y.mxQueue.isEmpty && y.mxRuns.isEmpty && y.vxQueue.isEmpty && y.vxRun.isNone && y.gx0.queue.isEmpty &&
    y.gx0.run.isNone && y.gx1.queue.isEmpty && y.gx1.run.isNone && y.slots.isEmpty && y.parked.isEmpty &&
    s.threads.all fun p => decide (p.1 / 32 ≠ t) || p.2.st = .idle || p.2.st = .waiting || p.2.st = .halted

/-- Work of a tile now: its idle time starts afresh. -/
def State.touch (s : State) (t : Nat) : State := s.modTile t fun y => { y with since := s.now }

/-- RETAIN_ENTRY (R51). -/
def execRetainEntry (t : TileNo) (s : State) : Host.Outcome State Fault Refusal :=
  let y := s.tile t.val
  if y.dom = .on && s.tileIdle t.val && y.since + s.obj Obj.tilePowerRetainIdleUs * 1000 ≤ s.now then
    ok (s.setTile t.val { y with dom := .retain })
  else ok s

/-- A tile in RETAIN returns to ON; any other state stays (R51). -/
def State.wakeTile (s : State) (t : Nat) : State :=
  if (s.tile t).dom = .retain then (s.modTile t fun y => { y with dom := .on, since := s.now }).tileEvent t 0x86 1 else s

/-- TILE_WAKE (R51). -/
def execTileWake (t : TileNo) (s : State) : Host.Outcome State Fault Refusal := ok (s.wakeTile t.val)

/-- TILE_HANDSHAKE_TIMEOUT (R53): a stage has not acknowledged for the watchdog's time. -/
def execTileHandshakeTimeout (t : TileNo) (waitedUs : Nat) (s : State) : Host.Outcome State Fault Refusal :=
  if s.obj Obj.tileWatchdogTimeoutUs ≤ waitedUs && (s.tile t.val).dom = .on then ok (s.fenceFor t.val 0x0102) else ok s

/-- TILE_POWER_FAIL (R53): a domain of a held block does not reach ON within 40 µs. -/
def execTilePowerFail (t : TileNo) (s : State) : Host.Outcome State Fault Refusal :=
  if (s.compOfTile t.val).isSome then ok (s.fenceFor t.val 0x0108) else ok s

/-- TILE_STORE_ERROR (R53, R54): words lie in bank word mod 16 (R152). -/
def execTileStoreError (t : TileNo) (word : Fin 65536) (uncorrectable : Bool) (s : State) :
    Host.Outcome State Fault Refusal :=
  let y := s.tile t.val
  if y.dom = .off then ok s
  else if uncorrectable then
    let bank := word.val % 16
    let again := match kget 0 y.ueTimes bank with
      | 0 => false
      | k + 1 => within36 s.now k
    let s1 := (s.setTile t.val { y with poison := kput false y.poison word.val true,
                                        ueTimes := kput 0 y.ueTimes bank (s.now + 1) }).fault 0x0103
                (s.compNo t.val) t.val
    ok (if again then s1.fenceTile t.val 0x0103 else s1)
  else
    let times := (y.ceTimes.filter fun t0 => within36 s.now t0) ++ [s.now]
    let s1 := s.setTile t.val { y with ceTimes := times }
    ok (if s.obj Obj.tileStoreCeThreshold ≤ times.length then s1.fenceFor t.val 0x0104 else s1)

/-- UNFENCE (R59): a write of tile.array.unfence; the self-test's outcome comes with it. -/
def execUnfence (r : Role) (tileNo : Nat) (passes : Bool) (s : State) : Host.Outcome State Fault Refusal :=
  match s.checkWrite r Obj.tileArrayUnfence tileNo with
  | .ok =>
    if 1023 < tileNo then ok (s.reply .outOfRange)
    else if !s.fenced tileNo then ok (s.reply .ok)
    else if passes then
      ok ((s.setObj Obj.tileArrayFenceMap (setBit (s.obj Obj.tileArrayFenceMap) tileNo false)).reply .ok)
    else ok ((s.fault 0x0101 noComp tileNo).reply .ok)
  | st => ok (s.reply st)

/-- SEAM_FRAME_RECEIVE (R60): a frame whose tag fails is replayed; a run of 8 fences the link. -/
def execSeamFrameReceive (l : LinkNo) (tagOk : Bool) (s : State) : Host.Outcome State Fault Refusal :=
  let x := s.seam l.val
  if (s.obj Obj.tileArrayLinkFenceMap).testBit l.val then ok s
  else if tagOk then ok (s.setSeam l.val { x with run := 0 })
  else
    let s1 := s.setSeam l.val { errors := x.errors + 1, run := x.run + 1 }
    if x.run + 1 ≥ 8 then
      ok ((s1.setObj Obj.tileArrayLinkFenceMap (setBit (s.obj Obj.tileArrayLinkFenceMap) l.val true)).fault 0x0107
        noComp l.val)
    else ok (s1.emit (.seamReplay l.val))

end Sys2Proof.Machine
end

