-- ==== Sys2Proof/Machine/Span.lean ====
section
/-! DEFINITION. Span memory as an access meets it at its owning location: translation and permission (R219-R226), the
placement of pages (R251-R260), the integrity units (R345-R368), and the accesses of every agent. -/

namespace Sys2Proof.Machine
open Sys2Proof

/-! Segments (R221, R224). -/

def Seg.kind (g : Nat) : Nat := fld g 7 0
def Seg.read (g : Nat) : Bool := bit g 8
def Seg.write (g : Nat) : Bool := bit g 9
def Seg.atomic (g : Nat) : Bool := bit g 10
def Seg.base (g : Nat) : Nat := fld g 71 32
def Seg.pages (g : Nat) : Nat := fld g 111 80
def Seg.homeFirst (g : Nat) : Nat := fld g 143 128
def Seg.homeCount (g : Nat) : Nat := fld g 159 144 + 1
def Seg.interleave (g : Nat) : Nat := fld g 164 160
def Seg.tileFirst (g : Nat) : Nat := fld g 185 176
def Seg.tileCount (g : Nat) : Nat := fld g 202 192

/-- The home module of a page of a segment (R224). -/
def Seg.home (g p : Nat) : Nat :=
  if Seg.kind g = 1 then Seg.homeFirst g + ((p - Seg.base g) >>> Seg.interleave g) % Seg.homeCount g
  else Seg.homeFirst g

def pageBytes : Nat := 65536
def pageOf (a : Nat) : Nat := a / 65536

def State.segOf (s : State) (n p : Nat) : Option Nat :=
  (s.comp n).segs.find? fun g => decide (Seg.base g ≤ p) && decide (p < Seg.base g + Seg.pages g)

/-- Whether a byte range lies in the compartment's span range. -/
def State.inSpan (s : State) (n a len : Nat) : Bool :=
  a + len ≤ 2 ^ 56 && (List.range (pageOf (a + len - 1) + 1 - pageOf a)).all fun i => (s.segOf n (pageOf a + i)).isSome

/-- Where a span address is performed: nowhere, a tile store of this module, a page homed here, or another module. -/
inductive Owner where
  | nowhere
  | tile (t off : Nat)
  | page (p off : Nat)
  | module (m : Nat)
  deriving DecidableEq, Repr

def State.owner (s : State) (n a : Nat) : Owner :=
  match s.segOf n (pageOf a) with
  | none => .nowhere
  | some g =>
    let i := pageOf a - Seg.base g
    let m := Seg.home g (pageOf a)
    if m ≠ s.objC Obj.spanCompModuleIndex n then .module m
    else if Seg.kind g = 2 then .tile (Seg.tileFirst g + i / 64) (i % 64 * 65536 + a % 65536)
    else .page (pageOf a) (a % 65536)

/-! Objects, policies and key ranges (R254, R255, R345, R347). -/

def Pol.home (w : Nat) : Nat := fld w 1 0
def Pol.lendable (w : Nat) : Bool := bit w 2
def Pol.flashOk (w : Nat) : Bool := bit w 3
def Pol.unit (w : Nat) : Bool := bit w 5
def Pol.readOnly (w : Nat) : Bool := bit w 6
def Pol.measured (w : Nat) : Bool := bit w 7
def Pol.promote (w : Nat) : Bool := bit w 8
def Pol.range (w : Nat) : Nat := fld w 13 10
/-- Whether a policy lets pages lie in a tier; HBM always (R255). -/
def Pol.permits (w tier : Nat) : Bool := tier = 0 || (tier = 1 && Pol.lendable w) || (tier = 2 && Pol.flashOk w)

def State.pobj (s : State) (n id : Nat) : Option PObj := kget none (s.comp n).pobjs id
def State.setPObj (s : State) (n id : Nat) (o : Option PObj) : State :=
  s.modComp n fun c => { c with pobjs := kput none c.pobjs id o }

/-- The object a page lies in: its number, 0 for none. -/
def State.objOf (s : State) (n p : Nat) : Nat :=
  match (s.comp n).pobjs.find? fun q => match q.2 with
    | some o => decide (o.base ≤ p) && decide (p < o.base + o.pages)
    | none => false with
  | some q => q.1
  | none => 0

def State.policyAt (s : State) (n p : Nat) : Nat :=
  match s.pobj n (s.objOf n p) with
  | some o => o.policy
  | none => s.objC Obj.tierCompDefaultPolicy n

def State.rangeAt (s : State) (n p : Nat) : Nat := Pol.range (s.policyAt n p)

def State.krDesc (s : State) (n r : Nat) : Nat := s.obj (objAt Obj.integKrDesc n + r)
def Kr.hbm (d : Nat) : Bool := bit d 0
def Kr.lent (d : Nat) : Bool := bit d 1
def Kr.flash (d : Nat) : Bool := bit d 2
def Kr.groupFirst (d : Nat) : Nat := fld d 15 8
def Kr.groupCount (d : Nat) : Nat := fld d 23 16
def Kr.flashFirst (d : Nat) : Nat := fld d 31 24
def Kr.flashCount (d : Nat) : Nat := fld d 39 32
def Kr.leaseMax (d : Nat) : Nat := fld d 63 48

/-- The contributor whose entry names a key range (R331, R371). -/
def State.contribOf (s : State) (n r : Nat) : Option Nat :=
  firstBelow 8 fun i => (fld (kget 0 (s.comp n).contribs i) 23 8).testBit r

/-! Guarded pages (R176, R196-R199, R223). -/

/-- Entry i of the layer table, 128 bytes (R198). -/
def State.layer (s : State) (n i : Nat) : Nat := s.spanNat n (s.objC Obj.updCompLayerTable n + 128 * i) 128

def Lay.tag (l : Nat) : Nat := fld l 15 0
def Lay.valid (l : Nat) : Bool := bit l 16
def Lay.rows (l : Nat) : Nat := fld l 63 32
def Lay.cols (l : Nat) : Nat := fld l 95 64
def Lay.ownerFirst (l : Nat) : Nat := fld l 105 96
def Lay.ownerCount (l : Nat) : Nat := fld l 122 112
def Lay.stageOff (l : Nat) : Nat := fld l 159 128
def Lay.statOff (l : Nat) : Nat := fld l 191 160
def Lay.wBase (l : Nat) : Nat := fld l 247 192
def Lay.mBase (l : Nat) : Nat := fld l 311 256
def Lay.kBase (l : Nat) : Nat := fld l 375 320
def Lay.rsBase (l : Nat) : Nat := fld l 439 384
def Lay.csBase (l : Nat) : Nat := fld l 503 448
def Lay.lastCommit (l : Nat) : Nat := fld l 575 512
def Lay.noiseStep (l : Nat) : Nat := fld l 639 576
def Lay.torn (l : Nat) : Bool := bit l 640
/-- Engine tiles of a layer (R199). -/
def Lay.tiles (l : Nat) : Nat := ceilDiv (Lay.rows l) 128 * ceilDiv (Lay.cols l) 128
/-- The guarded ranges as (base, bytes) (R199). -/
def Lay.guarded (l : Nat) : List (Nat × Nat) :=
  [(Lay.wBase l, Lay.tiles l * 33792), (Lay.mBase l, Lay.tiles l * 33792), (Lay.kBase l, Lay.tiles l * 16384),
   (Lay.rsBase l, ceilDiv (Lay.rows l) 16384 * 33792), (Lay.csBase l, ceilDiv (Lay.cols l) 16384 * 33792)]

/-! Ledger entries (R388). -/

def Lg.obj (e : Nat) : Nat := fld e 15 0
def Lg.first (e : Nat) : Nat := fld e 63 32
def Lg.slots (e : Nat) : Nat := fld e 95 64
def Lg.addr (e : Nat) : Nat := fld e 191 128

/-- Ledger entry i as registered. -/
def State.ledgerEntry (s : State) (n i : Nat) : Nat := s.obj (objAt Obj.rotCompLedger n + i)

/-- Whether a page is one of those a byte range touches. -/
def pageIn (p a len : Nat) : Bool := 0 < len && pageOf a ≤ p && p ≤ pageOf (a + len - 1)

/-- Pages of the two tables, each from its accepted load onward. -/
def State.tablePage (s : State) (n p : Nat) : Bool :=
  ((s.comp n).upd.scaleLoaded && p = pageOf (s.tableAt n)) ||
  ((s.comp n).upd.layerLoaded && pageIn p (s.objC Obj.updCompLayerTable n) (128 * s.objC Obj.updCompLayerCount n))

/-- Pages of the guarded ranges of the layer table. -/
def State.layerPage (s : State) (n p : Nat) : Bool :=
  (s.comp n).upd.layerLoaded &&
    (List.range (s.objC Obj.updCompLayerCount n)).any fun i =>
      let l := s.layer n i
      Lay.valid l && (Lay.guarded l).any fun g => pageIn p g.1 g.2

/-- Pages of the registered ledgers (R388). -/
def State.ledgerPage (s : State) (n p : Nat) : Bool :=
  (List.range 16).any fun i =>
    let e := s.ledgerEntry n i
    Lg.obj e ≠ 0 && pageIn p (Lg.addr e) (48 * Lg.slots e)

/-- A page no job write may touch (R223, R388). -/
def State.guardedPage (s : State) (n p : Nat) : Bool :=
  s.tablePage n p || ((s.comp n).st ≠ .forming && (s.layerPage n p || s.ledgerPage n p))

/-- Who makes an access: a thread, a gather element, a host command of the job, or a unit of the module whose accesses
are not job accesses (R223). -/
inductive Agent where
  | thread | gather | host | unit
  deriving DecidableEq, Repr

def isWrite : AccKind → Bool
  | .read => false
  | _ => true

/-- The permission of R221, R223, R258 and R371. -/
def State.permits (s : State) (n : Nat) (ag : Agent) (k : AccKind) (p : Nat) : Bool :=
  match s.segOf n p with
  | none => false
  | some g =>
    if ag = .unit then true
    else
      (match k with
       | .read => Seg.read g
       | .write => Seg.write g
       | .amo _ => Seg.atomic g) &&
      (!(isWrite k) || (!s.guardedPage n p &&
        (Seg.kind g = 2 || (!Pol.readOnly (s.policyAt n p) && (s.contribOf n (s.rangeAt n p)).isNone))))

/-! Placement (R258, R259, R263, R278). -/

def State.spage (s : State) (n p : Nat) : Page := kget Page.init (s.comp n).pages p
def State.setPage (s : State) (n p : Nat) (x : Page) : State :=
  s.modComp n fun c => { c with pages := kput Page.init c.pages p x }

def PLoc.tier : PLoc → Nat
  | .hbm .. => 0
  | .lent .. => 1
  | .flash .. => 2
  | .nowhere => 3

/-- Every frame, lent frame and flash page charged, in transit included (R264). -/
def State.charged (s : State) (n : Nat) : List PLoc :=
  ((s.comp n).pages.flatMap fun q => [q.2.loc, q.2.dest]).filter fun l => l ≠ .nowhere
def State.chargedIn (s : State) (n tier : Nat) : Nat := ((s.charged n).filter fun l => l.tier = tier).length

/-- The first number not in use from a start, going round below a bound. -/
def freeIndex (used : List Nat) (bound : Nat) : Nat → Nat → Option Nat
  | 0, _ => none
  | fuel + 1, i => if used.contains (i % bound) then freeIndex used bound fuel (i + 1) else some (i % bound)

def framesPerGroup : Nat := 171349
def flashPerChannel : Nat := 7340032
def framesPerLease : Nat := 16384

/-- Leases of a key range that serve new pages: those under no reclaim notice. -/
def State.rangeLeases (s : State) (n r : Nat) : List Nat :=
  ((s.comp n).leases.filter fun q => match q.2 with
    | some l => l.range = some r && l.notice.isNone
    | none => false).map (·.1)

/-- Flash channels of a key range that may be written (R276, R347). -/
def State.rangeChannels (s : State) (n r : Nat) : List Nat :=
  let d := s.krDesc n r
  if Kr.flash d then
    ((List.range (Kr.flashCount d)).map (· + Kr.flashFirst d)).filter fun c =>
      !(s.obj Obj.tierFlashReadonlyMap).testBit c
  else []

/-- Whether the flash quota has room for one more page (R278). -/
def State.flashRoom (s : State) (n : Nat) : Bool :=
  s.chargedIn n 2 < s.objC Obj.tierCompFlashQuotaGib n * 16384

/-- Number of a location among those its tier offers the key range. -/
def State.slotNo (s : State) (n r : Nat) (l : PLoc) : Option Nat :=
  let d := s.krDesc n r
  match l with
  | .hbm g f => if Kr.groupFirst d ≤ g then some ((g - Kr.groupFirst d) * framesPerGroup + f) else none
  | .lent le f => ((s.rangeLeases n r).findIdx? (· = le)).map fun i => i * framesPerLease + f
  | .flash c i => ((s.rangeChannels n r).findIdx? (· = c)).map fun k => k * flashPerChannel + i
  | .nowhere => none

/-- A free frame of a tier for a key range; which one the engine takes is a free choice. -/
def State.freeFrame (s : State) (n r tier : Nat) : Option PLoc :=
  let d := s.krDesc n r
  let bound := if tier = 0 then (if Kr.hbm d then Kr.groupCount d * framesPerGroup else 0)
    else if tier = 1 then (s.rangeLeases n r).length * framesPerLease
    else if s.flashRoom n then (s.rangeChannels n r).length * flashPerChannel else 0
  let used := (s.charged n).filterMap fun l => if l.tier = tier then s.slotNo n r l else none
  if bound = 0 then none
  else (freeIndex used bound (used.length + 1) (Config.choice s.fresh % bound)).map fun i =>
    if tier = 0 then .hbm (Kr.groupFirst d + i / framesPerGroup) (i % framesPerGroup)
    else if tier = 1 then .lent ((s.rangeLeases n r).getD (i / framesPerLease) 0) (i % framesPerLease)
    else .flash ((s.rangeChannels n r).getD (i / flashPerChannel) 0) (i % flashPerChannel)

/-- Major values drawn for the 16 encryption pages of a page placed in a frame (R352). -/
def State.drawMajors (s : State) (n r : Nat) : List (Nat × Nat) × State :=
  let k := objAt Obj.integKrMajorsDrawn n + r
  let d := s.obj k
  ((List.range 16).map fun e => (e, d + 1 + e), s.setObj k (d + 16))

/-- Span-page bytes programmed into flash (R276). -/
def State.programmed (s : State) (n : Nat) (l : PLoc) : State :=
  if l.tier = 2 then (s.inc Obj.tierFlashBytesWritten 65536).compEvent n 0xC2 1 else s

/-- A page takes a location: fresh major values, minors zero (R352, R353). -/
def State.placePage (s : State) (n p : Nat) (l : PLoc) : State :=
  let (ms, s1) := s.tickFresh.drawMajors n (s.rangeAt n p)
  (s1.setPage n p { s1.spage n p with loc := l, dest := .nowhere, final := false, want := false, majors := ms,
                                      minors := [] }).programmed n l

/-- Cached translations and prefetched lines of a page are dropped (R159, R227). -/
def State.invalidate (s : State) (n p : Nat) : State :=
  { s with tiles := s.tiles.map (fun q =>
             if (s.blocks n).testBit (blockOf q.1) then (q.1, { q.2 with xlate := q.2.xlate.filter (· ≠ p) }) else q),
           cores := s.cores.map (fun q =>
             if (s.blocks n).testBit (blockOf (q.1 / 4))
             then (q.1, { q.2 with pref := q.2.pref.filter fun l => decide (l.line / 1024 ≠ p) }) else q) }

/-- The ownership step to a location (R229, R263 step 5): counted, cached copies invalidated. -/
def State.ownStep (s : State) (n p : Nat) (l : PLoc) : State :=
  (((s.invalidate n p).placePage n p l).incC Obj.tierCompMoves n).compEvent n 0xC0 1

/-- Whether an object is moving or pinned, which bars a pressure eviction (R259, R265). -/
def State.objFixed (s : State) (n p : Nat) : Bool :=
  match s.pobj n (s.objOf n p) with
  | some o => o.pinned || !o.moves.isEmpty
  | none => false

/-! Unverifiable pages and the metadata cache (R354-R358, R365-R367). -/

/-- The tree region of a page's location: kind, lease serial, number of its first leaf, leaves of the region (R355). -/
def State.region (s : State) (n r : Nat) (l : PLoc) : Nat × Nat × Nat × Nat :=
  let d := s.krDesc n r
  match l with
  | .hbm g f => (0, 0, ((g - Kr.groupFirst d) * framesPerGroup + f) * 16, Kr.groupCount d * framesPerGroup * 16)
  | .flash c i => (1, 0, ((c - Kr.flashFirst d) * flashPerChannel + i) * 16, Kr.flashCount d * flashPerChannel * 16)
  | .lent le f => (2, (match kget none (s.comp n).leases le with | some x => x.serial | none => 0), f * 16, 262144)
  | .nowhere => (0, 0, 0, 1)

/-- Smallest d with 8^d at least the number of leaves (R355). -/
def treeDepth (leaves : Nat) : Nat := (firstBelow 24 fun d => decide (leaves ≤ 8 ^ d)).getD 24

/-- The fault that made a leaf unverifiable. -/
def State.unverAt (s : State) (n r kind lease leaf : Nat) : Option Nat :=
  if (s.objC Obj.integCompUnverifiableRanges n).testBit r then some 0x0B0B
  else ((s.comp n).unvers.find? fun u =>
    u.range = r && u.kind = kind && u.lease = lease && u.index = leaf / 8 ^ u.level).map (·.code)

/-- Whether any encryption page of a span page is unverifiable, so that it is neither moved nor copied (R365). -/
def State.pageUnver (s : State) (n p : Nat) : Bool :=
  let l := (s.spage n p).loc
  let r := s.rangeAt n p
  let (kind, lease, leaf, _) := s.region n r l
  l ≠ .nowhere && (List.range 16).any fun e => (s.unverAt n r kind lease (leaf + e)).isSome

/-- A subtree becomes unverifiable: listed unless covered, or the whole range where the list of 256 is full; the
compartment is held (R365-R367). -/
def State.addUnver (s : State) (n : Nat) (u : Unver) (page : Nat) : State :=
  let s1 := s.integEvent n u.code u.range page (u.kind + u.level * 16 + u.index * 256)
  if (s.unverAt n u.range u.kind u.lease (u.index * 8 ^ u.level)).isSome &&
      ((s.objC Obj.integCompUnverifiableRanges n).testBit u.range ||
        (s.comp n).unvers.any fun v => v.range = u.range && v.kind = u.kind && v.lease = u.lease && u.level ≤ v.level &&
          v.index = u.index / 8 ^ (v.level - u.level)) then s1.holdComp n u.code
  else if ((s.comp n).unvers.filter fun v => v.range = u.range).length < 256 then
    (s1.modComp n fun c => { c with unvers := c.unvers ++ [u] }).holdComp n u.code
  else
    let m := s1.objC Obj.integCompUnverifiableRanges n
    ((s1.setObjC Obj.integCompUnverifiableRanges n (setBit m u.range true)).holdComp n u.code).integEvent n 0x0B0B
      u.range page (2 ^ 64 - 1)

def MetaEnt.weight (e : MetaEnt) : Nat := if e.level = 0 then 8 else 1
def MetaEnt.same (a b : MetaEnt) : Bool :=
  a.range = b.range && a.kind = b.kind && a.lease = b.lease && a.level = b.level && a.index = b.index
def MetaEnt.parentOf (a b : MetaEnt) : Bool :=
  a.range = b.range && a.kind = b.kind && a.lease = b.lease && a.level = b.level + 1 && a.index = b.index / 8

/-- The place of an entry's counter in its parent (R354). -/
def MetaEnt.ctr (e : MetaEnt) : Nat :=
  (((e.range * 4 + e.kind) * 2 ^ 32 + e.lease) * 16 + e.level) * 2 ^ 40 + e.index

/-- The least recently used entry without a cached child leaves a partition that holds more than 1 MiB; a dirty one
advances its parent's counter and makes the parent dirty (R356, R358). -/
def evictMeta : Nat → List MetaEnt → List (Nat × Nat) → List MetaEnt × List (Nat × Nat)
  | 0, es, cs => (es, cs)
  | fuel + 1, es, cs =>
    if (es.map MetaEnt.weight).sum ≤ 16384 then (es, cs)
    else match es.reverse.find? fun e => !es.any fun b => e.parentOf b with
      | none => (es, cs)
      | some v =>
        let rest := es.filter fun e => !e.same v
        if v.dirty then
          evictMeta fuel (rest.map fun e => if e.parentOf v then { e with dirty := true } else e)
            (kput 0 cs v.ctr (kget 0 cs v.ctr + 1))
        else evictMeta fuel rest cs

/-- The partition that caches a leaf's page block and nodes (R358). -/
def State.partition (s : State) (n : Nat) (l : PLoc) (leaf : Nat) : Nat :=
  match l with
  | .hbm g _ => g
  | _ =>
    let gs := bitsOf 48 (s.groups n)
    gs.getD (leaf % max 1 gs.length) 0

/-- The page block and ancestors of a leaf below the root, the block first. -/
def metaChain (r kind lease leaf depth : Nat) : List MetaEnt :=
  (List.range depth).map fun k => ⟨r, kind, lease, k, leaf / 8 ^ k, false⟩

/-- Levels of a leaf's chain that are not cached. -/
def State.missing (s : State) (n g : Nat) (chain : List MetaEnt) : List Nat :=
  (chain.filter fun e => !(kget [] (s.comp n).cache g).any fun x => x.same e).map (·.level)

/-- The chain is brought into the cache and becomes the most recently used; a write makes the block dirty. -/
def State.cacheChain (s : State) (n g : Nat) (chain : List MetaEnt) (write : Bool) : State :=
  let old := kget [] (s.comp n).cache g
  let front := chain.map fun e => match old.find? fun x => x.same e with
    | some x => { x with dirty := x.dirty || (write && e.level = 0) }
    | none => { e with dirty := write && e.level = 0 }
  let (es, cs) := evictMeta 32 (front ++ old.filter fun x => !chain.any fun e => x.same e) (s.comp n).ctrs
  s.modComp n fun c => { c with cache := kput [] c.cache g es, ctrs := cs }

/-! One access within one line at its owning location. -/

/-- The result of an access: done with the bytes read (for an AMO the old ones), refused with the code of its cause, or
held until its page is released. -/
inductive AccOut where
  | done (bytes : List Byte)
  | noPerm
  | denied
  | away (module : Nat)
  | fault (code : Nat)
  | wait
  deriving DecidableEq, Repr

/-- Causes reported as POISONED and as UNVERIFIABLE (R20, R362-R365). -/
def poisonCode (c : Nat) : Bool := [0x0103, 0x0B02, 0x0B03, 0x0B08, 0x0809].contains c
def unverCode (c : Nat) : Bool := [0x0B04, 0x0B05, 0x0B06, 0x0B07, 0x0B0B, 0x0805].contains c

/-- The value an AMO writes. -/
def amoCalc (op : AmoOp) (n old v : Nat) : Nat :=
  match op with
  | .swap => v
  | .add => (old + v) % 2 ^ n
  | .xor => old ^^^ v
  | .and => old &&& v
  | .or => old ||| v
  | .min => if signed n old < signed n v then old else v
  | .max => if signed n old < signed n v then v else old
  | .minu => min old v
  | .maxu => max old v

/-- The bytes an access leaves where it found `old`. -/
def accBytes (k : AccKind) (old data : List Byte) : List Byte :=
  match k with
  | .read => old
  | .write => data
  | .amo op => leBytes old.length (amoCalc op (8 * old.length) (leNat old) (leNat data % 2 ^ (8 * old.length)))

/-- A line is poisoned (R362, R277). -/
def State.poisonLine (s : State) (n r p line code : Nat) : State :=
  let s1 := if kget 0 (s.comp n).poison line = 0 then s.modComp n fun c => { c with poison := kput 0 c.poison line code }
    else s
  let s2 := if code = 0x0B02 then (s1.incC Obj.integCompTagFailures n).compEvent n 0xC7 1 else s1
  if code = 0x0809 then s2.tierEvent n 0x0809 (s.objOf n p) p else s2.integEvent n code r p 0

/-- A line write is sealed: MINOR + 1, or the whole encryption page anew where MINOR would pass 255 (R352, R360). A
flash page never wraps. -/
def State.seal (s : State) (n p line : Nat) : State :=
  let x := s.spage n p
  let r := s.rangeAt n p
  let e := line / 64
  if kget 0 x.minors line < 255 then s.setPage n p { x with minors := kmod 0 x.minors line (· + 1) }
  else if x.loc.tier = 2 then s
  else
    let k := objAt Obj.integKrMajorsDrawn n + r
    let s1 := (s.setObj k (s.obj k + 1)).setPage n p
      { x with majors := kput 0 x.majors e (s.obj k + 1), minors := x.minors.filter fun q => decide (q.1 / 64 ≠ e) }
    (((s1.incC Obj.integCompMinorWraps n).incC Obj.integCompReencryptLines n 64).compEvent n 0xC6 1).integEvent n 0x0B09
      r p 0

/-- The bytes of a write reach their line: sealed, ZERO cleared, a poison mark cleared by a whole line (R353, R364). -/
def State.commitLine (s : State) (n p off : Nat) (bs : List Byte) : State :=
  let line := off / 64
  let s1 := s.seal n p line
  let x := s1.spage n p
  let s2 := s1.setPage n p { x with live := kput false x.live line true, used := s.now,
                                    epoch := (s.comp n).ckpt.epoch }
  s2.modComp n fun c =>
    { c with mem := writeBytes c.mem (p * 65536 + off) bs,
             poison := if bs.length = 64 then kput 0 c.poison (p * 1024 + line) 0 else c.poison }

/-- Room in HBM for a page of a key range, a page evicted under pressure where there is none (R259). -/
def State.hbmRoom (s : State) (n p : Nat) : Option (PLoc × State) :=
  let r := s.rangeAt n p
  match s.freeFrame n r 0 with
  | some l => some (l, s)
  | none =>
    let alt (q : Nat) : Option PLoc :=
      let w := s.policyAt n q
      (if Pol.lendable w then s.freeFrame n (Pol.range w) 1 else none).orElse fun _ =>
        if Pol.flashOk w then s.freeFrame n (Pol.range w) 2 else none
    let cands := (s.comp n).pages.filter fun q =>
      q.2.loc.tier = 0 && q.1 ≠ p && s.rangeAt n q.1 = r && q.2.dest = .nowhere && !q.2.final && !s.objFixed n q.1 &&
        !s.pageUnver n q.1 && (alt q.1).isSome
    match cands.foldl (fun (b : Option (Nat × Page)) q => match b with
        | none => some q
        | some c => if q.2.used < c.2.used then some q else b) none with
    | none => none
    | some v =>
      match alt v.1 with
      | none => none
      | some l =>
        let s1 := s.ownStep n v.1 l
        (s1.freeFrame n r 0).map fun f => (f, s1)

/-- The frame a first write takes: the home tier, else the first of HBM, lent memory and flash that the policy permits
and that has room (R258). -/
def State.firstFrame (s : State) (n p : Nat) : Option (PLoc × State) :=
  let w := s.policyAt n p
  let r := Pol.range w
  let try_ (t : Nat) : Option (PLoc × State) :=
    if !Pol.permits w t then none else if t = 0 then s.hbmRoom n p else (s.freeFrame n r t).map fun l => (l, s)
  ((try_ (Pol.home w)).orElse fun _ => try_ 0).orElse fun _ => (try_ 1).orElse fun _ => try_ 2

/-- A write reaches a page in flash (R258): promoted to HBM, or moved to lent memory, or rewritten in flash, which
holds the write until the program completes. -/
def State.leaveFlash (s : State) (n p : Nat) : Option State :=
  let w := s.policyAt n p
  match s.hbmRoom n p with
  | some (l, s1) => some (s1.ownStep n p l)
  | none =>
    match if Pol.lendable w then s.freeFrame n (Pol.range w) 1 else none with
    | some l => some (s.ownStep n p l)
    | none => none

/-- What stands in the way of reading the metadata of a line, found now (R357, R365). -/
def metaFault (miss : List Nat) : Integ → Option (Nat × Nat)
  | .blockBad => if miss.contains 0 then some (0, 0x0B05) else none
  | .tagBad k => if miss.contains k.val then some (k.val, 0x0B07) else none
  | .nodeBad k => if k.val ≠ 0 && miss.contains k.val then some (k.val, 0x0B04) else none
  | _ => none

/-- The line's own verification (R357, R362, R277): the code that poisons it. -/
def lineFault (x : Page) (line : Nat) : Integ → Option Nat
  | .tagFails => if kget false x.live line then some 0x0B02 else none
  | .uncorrectable => if kget false x.live line then some 0x0B08 else none
  | .sector ls => if x.loc.tier = 2 && ls.any (·.val = line) then some 0x0809 else none
  | _ => none

/-- Every line a failing flash sector holds is poisoned (R277). -/
def State.poisonSector (s : State) (n r p : Nat) (tier : Nat) : Integ → State
  | .sector ls => if tier = 2 then ls.foldl (fun a l => a.poisonLine n r p (p * 1024 + l.val) 0x0809) s else s
  | _ => s

/-- An access within one line of a placed page: verified, then performed (R356-R365). -/
def State.placedAccess (s : State) (n : Nat) (k : AccKind) (p off len : Nat) (data : List Byte) (it : Integ) :
    AccOut × State :=
  let x := s.spage n p
  let r := s.rangeAt n p
  let line := off / 64
  let ln := p * 1024 + line
  let (kind, lease, leaf0, leaves) := s.region n r x.loc
  let leaf := leaf0 + line / 64
  match s.unverAt n r kind lease leaf with
  | some c => (.fault c, s)
  | none =>
    let g := s.partition n x.loc leaf
    let depth := treeDepth leaves
    let chain := metaChain r kind lease leaf depth
    let miss := s.missing n g chain
    let s1 := if it = .corrected && x.loc.tier = 0
      then (s.incC Obj.integCompCeCorrected n).inc Obj.integHbmCeTotal else s
    let s2 := if miss.isEmpty then (if k = .read then (s1.incC Obj.integCompCacheHits n).compEvent n 0xC4 1 else s1)
      else (s1.incC Obj.integCompCacheMisses n miss.length).compEvent n 0xC5 miss.length
    match metaFault miss it with
    | some (lvl, c) => (.fault c, s2.addUnver n ⟨r, kind, lease, lvl, leaf / 8 ^ lvl, c⟩ p)
    | none =>
      let whole := k = .write && len = 64
      let old := readBytes (s.comp n).mem (p * 65536 + off) len
      let s3 := s2.cacheChain n g chain (isWrite k)
      let bad := if whole then none else lineFault x line it
      let marked := kget 0 (s.comp n).poison ln
      if k = .read then
        match bad with
        | some c => (.fault c, (s3.poisonLine n r p ln c).poisonSector n r p x.loc.tier it)
        | none =>
          if marked ≠ 0 then (.fault marked, s3)
          else
            let ask := decide (x.loc.tier ≠ 0) && x.dest = .nowhere && Pol.promote (s.policyAt n p)
            let s4 := s3.setPage n p { x with used := s.now, want := x.want || ask }
            (.done old, s4.compEvent n (if x.loc.tier = 0 then 0xA4 else if x.loc.tier = 1 then 0xC3 else 0xC1) 1)
      else if !whole && (marked ≠ 0 || bad.isSome) then
        let s4 := s3.modComp n fun c => { c with poison := kput 0 c.poison ln (if marked ≠ 0 then marked else bad.getD 0) }
        (.fault 0x0B03, (s4.incC Obj.integCompPartialRefused n).integEvent n 0x0B03 r p 0)
      else (.done old, (s3.commitLine n p off (accBytes k old data)).compEvent n 0xA5 (b2n (x.loc.tier = 0)))

/-- An access at a page homed on this module. Writes are held while the page is in its final copy, is CKPT_PENDING or
is being rewritten in flash (R229, R258, R415). -/
def State.homeAccess (s : State) (n : Nat) (k : AccKind) (p off len : Nat) (data : List Byte) (it : Integ) :
    AccOut × State :=
  let x := s.spage n p
  if !(isWrite k) then
    if x.loc = .nowhere then (.done (List.replicate len 0), s) else s.placedAccess n k p off len data it
  else if x.pending then
    (.wait, if x.ahead.isSome then s else s.setPage n p { x with ahead := some s.now })
  else if x.final then (.wait, s)
  else if x.loc = .nowhere then
    match s.firstFrame n p with
    | none => (.fault 0x0802, s.quotaBlocked n (s.objOf n p) p)
    | some (l, s1) => (s1.placePage n p l).placedAccess n k p off len data .intact
  else if x.loc.tier = 2 && !s.pageUnver n p then
    match s.leaveFlash n p with
    | some s1 => s1.placedAccess n k p off len data it
    | none =>
      match s.freeFrame n (s.rangeAt n p) 2 with
      | some l => (.wait, s.tickFresh.setPage n p { x with dest := l, final := true })
      | none => (.fault 0x0802, s.quotaBlocked n (s.objOf n p) p)
  else s.placedAccess n k p off len data it

/-- An access to a tile store of this module through a window or a local address (R54, R57, R224, R225). -/
def State.storeAccess (s : State) (n : Nat) (k : AccKind) (t off len : Nat) (data : List Byte) : AccOut × State :=
  if !(s.blocks n).testBit (blockOf t) || t ≥ 1024 || !inStore off len then (.denied, s)
  else if s.fenced t then (.fault 0x0110, s)
  else
    let s1 := s.wakeTile t
    let old := s1.tsRead t off len
    match k with
    | .read => if s1.tsPoisoned t off len then (.fault 0x0103, s1) else (.done old, s1.touch t)
    | .write => (.done old, (s1.tsWrite t off data).touch t)
    | .amo _ => if s1.tsPoisoned t off len then (.fault 0x0103, s1)
        else (.done old, (s1.tsWrite t off (accBytes k old data)).touch t)

/-- An access of at most one line at a span address, at its owning location on this module. -/
def State.spanAccess (s : State) (n : Nat) (ag : Agent) (k : AccKind) (a len : Nat) (data : List Byte)
    (it : Integ := .intact) : AccOut × State :=
  if a + len > 2 ^ 56 || !s.permits n ag k (pageOf a) then (.noPerm, s)
  else match s.owner n a with
    | .nowhere => (.noPerm, s)
    | .module m => (.away m, s)
    | .tile t off => s.storeAccess n k t off len data
    | .page p off => s.homeAccess n k p off len data it

/-- A byte range cut at 64-byte lines: (address, bytes). -/
def lineParts : Nat → Nat → Nat → List (Nat × Nat)
  | 0, _, _ => []
  | fuel + 1, a, len =>
    if len = 0 then [] else
      let k := min len (64 - a % 64)
      (a, k) :: lineParts fuel (a + k) (len - k)

/-- A read of any length by line: the bytes, or what stopped it and where. -/
def State.spanRead (s : State) (n : Nat) (ag : Agent) (a len : Nat) : AccOut × Nat × State :=
  (lineParts (len / 64 + 2) a len).foldl (fun r q =>
    match r.1 with
    | .done bs => match r.2.2.spanAccess n ag .read q.1 q.2 [] with
      | (.done x, t) => (.done (bs ++ x), 0, t)
      | (o, t) => (o, q.1, t)
    | _ => r) (.done [], 0, s)

/-- A write of any length by line, in order, until one stops it. -/
def State.spanWrite (s : State) (n : Nat) (ag : Agent) (a : Nat) (bs : List Byte) : AccOut × Nat × State :=
  (lineParts (bs.length / 64 + 2) a bs.length).foldl (fun r q =>
    match r.1 with
    | .done _ => match r.2.2.spanAccess n ag .write q.1 q.2 ((bs.drop (q.1 - a)).take q.2) with
      | (.done _, t) => (.done [], 0, t)
      | (o, t) => (o, q.1, t)
    | _ => r) (.done [], 0, s)

/-- A unit's read of a range: the bytes where every line could be read. -/
def State.unitRead (s : State) (n a len : Nat) : Option (List Byte) × State :=
  match s.spanRead n .unit a len with
  | (.done bs, _, t) => (some bs, t)
  | (_, _, t) => (none, t)

/-! Look-ahead accesses (R169-R171). -/

def State.dropLa (s : State) (n : Nat) (why : Nat) : State :=
  let s1 := s.incC Obj.prepCompLaDropped n
  if why = 0 then s1 else s1.incC why n

/-- A look-ahead read of at most one line: its data, or dropped. It marks nothing and changes nothing but its own
counters and the metadata cache. -/
def State.lookAhead (s : State) (n a len : Nat) (it : Integ := .intact) : Option (List Byte) × State :=
  let s0 := s.incC Obj.prepCompLaIssued n
  match s.segOf n (pageOf a), s.owner n a with
  | some g, .page p off =>
    let x := s.spage n p
    let r := s.rangeAt n p
    if !Seg.read g then (none, s0.dropLa n 0)
    else if x.dest ≠ .nowhere || x.final then (none, s0.dropLa n Obj.prepCompLaDroppedMigrating)
    else if x.loc.tier ≠ 0 then (none, s0.dropLa n Obj.prepCompLaDroppedTier)
    else
      let (kind, lease, leaf0, leaves) := s.region n r x.loc
      let leaf := leaf0 + off / 4096
      let g := s.partition n x.loc leaf
      let chain := metaChain r kind lease leaf (treeDepth leaves)
      if (s.unverAt n r kind lease leaf).isSome || (metaFault (s.missing n g chain) it).isSome ||
          (lineFault x (off / 64) it).isSome || kget 0 (s.comp n).poison (a / 64) ≠ 0 then (none, s0.dropLa n 0)
      else (some (readBytes (s.comp n).mem a len), s0.cacheChain n g chain false)
  | none, _ => (none, s0.dropLa n 0)
  | _, _ => (none, s0.dropLa n Obj.prepCompLaDroppedTier)

/-! The translation buffer of a tile (R227). -/

/-- A tile looks a page up: a miss is counted and takes an entry; which of 1,024 it replaces is a free choice. -/
def State.translate (s : State) (n t p : Nat) : State :=
  let y := s.tile t
  if y.xlate.contains p then s
  else
    let (xs, s1) := if y.xlate.length < 1024 then (y.xlate, s)
      else (y.xlate.eraseIdx (Config.choice s.fresh % 1024), s.tickFresh)
    ((s1.modTile t fun y => { y with xlate := p :: xs }).incC Obj.spanCompXlateMisses n).compEvent n 0xA0 1

end Sys2Proof.Machine
end

