-- ==== Sys2Proof/Machine/Route.lean ====
section
/-! DEFINITION. Routes over the fabric (R287, R288, R308-R310, R321), the request slots of a tile (R153-R156), and the
completion of requests whose target cannot be reached (R231). -/

namespace Sys2Proof.Machine
open Sys2Proof

def State.port (s : State) (p : Nat) : Port := kget Port.init s.ports p
def State.setPort (s : State) (p : Nat) (x : Port) : State := { s with ports := kput Port.init s.ports p x }

/-! Topology (R288, R308, R309). -/

def State.topology (s : State) : Nat := s.obj Obj.fabTopology
def State.dim (s : State) (d : Nat) : Nat := fld (s.obj Obj.fabDims) (16 * d + 15) (16 * d)
def State.dimStride (s : State) (d : Nat) : Nat := ((List.range d).map s.dim).foldl (· * ·) 1
def State.coord (s : State) (node d : Nat) : Nat := node / s.dimStride d % s.dim d

/-- The fabric is configured (R288). -/
def State.fabConfigured (s : State) : Bool :=
  let node := s.obj Obj.fabNode
  s.obj Obj.fabSpanTag ≠ 0 &&
    (if s.topology = 2 then
      let g := s.obj Obj.fabDfGroup
      let h := s.obj Obj.fabDfGlobal
      let ng := s.obj Obj.fabDfGroups
      2 ≤ g && g ≤ 16 && 1 ≤ h && h ≤ 16 && 2 ≤ ng && (g * h) % (ng - 1) = 0 && decide (node < ng * g)
    else
      (List.range 4).all (fun d => 1 ≤ s.dim d && s.dim d ≤ 256) && (s.topology = 1 || s.dim 3 = 1) &&
        s.dimStride 4 ≤ 65536 && decide (node < s.dimStride 4))

/-- Direction of a torus port; in 3D directions 6 and 7 carry +d0 and -d0. -/
def State.portDir (s : State) (p : Nat) : Nat :=
  let k := p % 8
  if s.topology = 0 && k ≥ 6 then k - 6 else k

/-- The dragonfly link of a global port: the group it leads to, and the peer's module and port (R309). -/
def State.globalPeer (s : State) (node h : Nat) : Nat × Nat × Nat :=
  let gs := s.obj Obj.fabDfGroup
  let hs := s.obj Obj.fabDfGlobal
  let ng := s.obj Obj.fabDfGroups
  let l := node % gs * hs + h
  let j := l / (ng - 1)
  let m := l % (ng - 1)
  let l' := j * (ng - 1) + ng - 2 - m
  ((node / gs + 1 + m) % ng, l' / hs, l' % hs)

/-- The node and port the topology places on a port of this module; none where it places nothing. -/
def State.neighbour (s : State) (p : Nat) : Option (Nat × Nat) :=
  let node := s.obj Obj.fabNode
  if s.topology = 2 then
    let gs := s.obj Obj.fabDfGroup
    if p < gs - 1 then some (node / gs * gs + (node % gs + p + 1) % gs, gs - p - 2)
    else if 16 ≤ p && p < 16 + s.obj Obj.fabDfGlobal then
      let (g, i, h) := s.globalPeer node (p - 16)
      some (g * gs + i, 16 + h)
    else none
  else
    let k := s.portDir p
    let d := k / 2
    let n := s.dim d
    let c := s.coord node d
    let c' := if k % 2 = 0 then (c + 1) % n else (c + n - 1) % n
    some (node - c * s.dimStride d + c' * s.dimStride d, p ^^^ 1)

/-- UP ports among those of a mask that a test accepts. -/
def State.upWhere (s : State) (mask : Nat) (f : Nat → Bool) : List Nat :=
  (List.range 32).filter fun p => mask.testBit p && (s.port p).st = .up && f p

/-- UP ports a packet for a node may leave by (R308, R309). -/
def State.hops (s : State) (dst mask : Nat) : List Nat :=
  let node := s.obj Obj.fabNode
  if !s.fabConfigured then []
  else if s.topology = 2 then
    let gs := s.obj Obj.fabDfGroup
    let local_ (m : Nat → Bool) := s.upWhere mask fun p => p < gs - 1 && m ((node % gs + p + 1) % gs)
    if dst / gs = node / gs then local_ fun i => i = dst % gs
    else
      let leads (i h : Nat) : Bool := (s.globalPeer (node / gs * gs + i) h).1 = dst / gs
      match s.upWhere mask fun p => 16 ≤ p && p < 16 + s.obj Obj.fabDfGlobal && leads (node % gs) (p - 16) with
      | [] => local_ fun i => (List.range (s.obj Obj.fabDfGlobal)).any (leads i)
      | gp => gp
  else
    match (List.range 4).find? fun d => s.coord node d ≠ s.coord dst d with
    | none => []
    | some d =>
      let n := s.dim d
      let delta := (s.coord dst d + n - s.coord node d) % n
      let dir := if 2 * delta ≤ n then 2 * d else 2 * d + 1
      match s.upWhere mask fun p => s.portDir p = dir with
      | [] => s.upWhere mask fun p => s.portDir p = dir ^^^ 1
      | up => up

/-- The mask of ports a packet may leave by: those its compartment holds on the first hop, any for transit (R321). -/
def State.hopMask (s : State) (q : QPkt) : Nat :=
  match q.comp with
  | some n => s.portsOf n
  | none => 2 ^ 32 - 1

/-- The VC a packet takes on a port: the lower of its class's pair before the dateline or the global hop, the upper
after it (R295, R308, R309). -/
def State.vcOf (s : State) (q : QPkt) (p : Nat) : Nat :=
  let o := q.pkt.op
  let base := if o = 0x20 then 2 else if o = 0x10 || o = 0x12 || (o = 0x11 && q.pkt.lines ≤ 1) then 0
    else if o = 0x11 then 4 else 6
  match q.inPort with
  | none => base
  | some (ip, vc, _) =>
    if s.topology = 2 then base + b2n (vc % 2 = 1 || decide (16 ≤ ip))
    else
      let din := s.portDir ip ^^^ 1
      let dout := s.portDir p
      let d := din / 2
      let c := s.coord (s.obj Obj.fabNode) d
      let crossed := if din % 2 = 0 then decide (c = 0) else decide (c + 1 = s.dim d)
      base + b2n (decide (dout / 2 = d) && (vc % 2 = 1 || crossed))

/-! Node map (R289). -/

def State.nodeOf (s : State) (n m : Nat) : Option Nat := (s.comp n).nodes[m]?

/-- Whether a packet of a compartment can leave for a job module. -/
def State.reachable (s : State) (n m : Nat) : Bool :=
  match s.nodeOf n m with
  | some node => !(s.hops node (s.portsOf n)).isEmpty
  | none => false

/-! Request slots (R153-R156). -/

/-- The target of a request (R153, R252). -/
def State.targetOf (s : State) (n a : Nat) : Target :=
  match s.owner n a with
  | .tile t off => .bank t (off / 64 % 16)
  | .module m => .module m
  | .page p off =>
    (match (s.spage n p).loc with
     | .hbm g _ => .pseudo (8 * g + off / 64 / 32 % 8)
     | .lent l _ => .module (65536 + match kget none (s.comp n).leases l with | some x => x.node | none => 0)
     | _ => .module (s.objC Obj.spanCompModuleIndex n))
  | .nowhere => .module (s.objC Obj.spanCompModuleIndex n)

def State.slotAt (s : State) (t k : Nat) : Option Slot := kget none (s.tile t).slots k
def State.setSlot (s : State) (t k : Nat) (x : Option Slot) : State :=
  s.modTile t fun y => { y with slots := kput none y.slots k x }

/-- Slots of a tile that a target holds. -/
def slotsHeld (y : Tile) (tg : Target) : Nat :=
  (y.slots.filter fun q => match q.2 with | some x => decide (x.target = tg) | none => false).length

/-- The lowest free slot. -/
def freeSlot (y : Tile) : Option Nat := firstBelow 256 fun k => (kget none y.slots k).isNone

/-- Whether a request to a target may take a slot now (R154). -/
def State.slotOpen (s : State) (n t : Nat) (tg : Target) : Option Nat :=
  if slotsHeld (s.tile t) tg < s.objC Obj.prepCompSlotCap n then freeSlot (s.tile t) else none

/-- 0x0707 and 0x0708 (R231): counted and logged. -/
def State.lostAccess (s : State) (n code a : Nat) : State :=
  (s.incC (if code = 0x0707 then Obj.spanCompUnreachable else Obj.spanCompOutcomeUnknown) n).fault code n 0 0 (pageOf a)

/-- The packet of a request to a job module; a request slot's tag is 256 * tile + slot. -/
def State.requestPacket (s : State) (n t k m : Nat) (x : Slot) : QPkt :=
  let isPeg := match x.who with
    | .pegOp _ => true
    | _ => false
  let op := if isPeg then 0x13 else match x.kind with
    | .read => 0x10
    | .write => 0x11
    | .amo _ => 0x12
  let p : Packet :=
    { op := op, lines := if x.kind = .write then 1 else 0, src := s.obj Obj.fabNode, dst := (s.nodeOf n m).getD 0,
      job := s.objC Obj.spanCompJobId n, addr := if isPeg then 0 else x.addr, tag := 256 * t + k, status := 0,
      operand := if isPeg then x.addr else 0, data := x.data }
  ⟨p, some n, none⟩

/-- A request takes slot k: sent where its target is another job module, completed at once with 0x0707 where no route
leads there. -/
def State.takeSlot (s : State) (n t k : Nat) (r : Parked) (look : Bool) : State :=
  let x : Slot := { who := r.who, target := r.target, addr := r.addr, bytes := r.bytes, kind := r.kind, data := r.data,
                    lookAhead := look, issued := s.now, left := false, reply := none }
  match r.target with
  | .module m =>
    if m ≥ 65536 || m = s.objC Obj.spanCompModuleIndex n then s.setSlot t k (some x)
    else if s.reachable n m then
      let s1 := s.setSlot t k (some x)
      { s1 with egress := s1.egress ++ [s.requestPacket n t k m x] }
    else
      let rep : SpanReply := ⟨0x0707, []⟩
      (s.setSlot t k (some { x with reply := some rep })).lostAccess n 0x0707 r.addr
  | _ => s.setSlot t k (some x)

/-- A demand request: a slot, or parked under the cap (R154). The answer says whether it took a slot. -/
def State.request (s : State) (n t : Nat) (r : Parked) : Bool × State :=
  match s.slotOpen n t r.target with
  | some k => (true, s.takeSlot n t k r false)
  | none =>
    (false, ((s.modTile t fun y => { y with parked := y.parked ++ [r] }).incC Obj.prepCompCapStalls n).tileEvent t 0x63 1)

/-- A request slot whose reply is known: it waits for the delivery of its data or acknowledge. -/
def State.answerSlot (s : State) (t k fault : Nat) (data : List Byte) : State :=
  match s.slotAt t k with
  | some x =>
    let rep : SpanReply := ⟨fault, data⟩
    s.setSlot t k (some { x with reply := some rep })
  | none => s

end Sys2Proof.Machine
end

