-- ==== Sys2Proof/Machine/Tiers.lean ====
section
/-! DEFINITION. Memory tiers (chapter 09, R251-R282): placement objects and their ring, page moves, lending, flash and
quotas. -/

namespace Sys2Proof.Machine
open Sys2Proof

/-! Accesses of units, and accesses held at a page (R229, R263, R415). -/

/-- The status of a RESPONSE, or the fault of a slot, for the outcome of an access. -/
def AccOut.status : AccOut → Nat
  | .done _ => 0
  | .noPerm => 0x0405
  | .denied => 0x0702
  | .away _ => 0x0707
  | .fault c => c
  | .wait => 0

/-- The status with which a descriptor stops at an access (R166, R231). -/
def gxCode : AccOut → Nat
  | .done _ => 0
  | .fault c => if poisonCode c || unverCode c then 0x0409 else c
  | .away _ => 0x0707
  | _ => 0x0407

/-- A held line of a gather element that met a fault stops its descriptor. -/
def Gather.stopAt (g : Gather) (code elem span : Nat) : Gather :=
  match g.run with
  | some r => if r.status = 0 && code ≠ 0 then { g with run := some { r with status := code, faultIdx := elem, faultSpan := span } }
    else g
  | none => g

/-- A held line of a command met a fault, which its completion will carry. -/
def Func.lineFault (x : Func) (q code : Nat) : Func :=
  { x with pairs := kmod Pair.init x.pairs q fun y => match y.taken with
      | t :: rest => { y with taken := { t with code := if t.code = 0 then code else t.code } :: rest }
      | [] => y }

/-- The outcome of an access at an address reaches whoever made it. -/
def State.answer (s : State) (n : Nat) (src : AccSrc) (a : Nat) (o : AccOut) : State :=
  let bs := match o with | .done b => b | _ => []
  match src with
  | .slot t k => s.answerSlot t k o.status bs
  | .remote node tag => s.respond n node tag o.status 0 bs
  | .gather t eng i => s.modTile t fun y =>
      if eng then { y with gx1 := y.gx1.stopAt (gxCode o) i a } else { y with gx0 := y.gx0.stopAt (gxCode o) i a }
  | .host f q => if o.status = 0 then s else s.modFunc f fun x => x.lineFault q o.status
  | .unit => s

/-- An access that is performed now, or held at its page. -/
def State.performOrHold (s : State) (n : Nat) (src : AccSrc) (ag : Agent) (k : AccKind) (a len : Nat)
    (data : List Byte) (it : Integ := .intact) : State :=
  match s.spanAccess n ag k a len data it with
  | (.wait, t) => t.modComp n fun c => { c with held := c.held ++ [⟨src, a, k, data, s.now⟩] }
  | (o, t) => t.answer n src a o

/-- The held accesses of a page are performed in their order. -/
def State.release (s : State) (n p : Nat) : State :=
  let hs := (s.comp n).held.filter fun h => pageOf h.addr = p
  hs.foldl (fun a h => a.performOrHold n h.src .unit h.kind h.addr h.data.length h.data)
    (s.modComp n fun c => { c with held := c.held.filter fun h => pageOf h.addr ≠ p })

/-- A unit's write, line by line; a line homed elsewhere leaves as a WRITE packet. -/
def State.unitWrite (s : State) (n a : Nat) (bs : List Byte) : State :=
  (lineParts (bs.length / 64 + 2) a bs.length).foldl (fun s q =>
    let d := (bs.drop (q.1 - a)).take q.2
    match s.owner n q.1 with
    | .module m =>
      (match s.nodeOf n m with
       | some node =>
         let p : Packet := { op := 0x11, lines := 1, src := s.obj Obj.fabNode, dst := node,
                             job := s.objC Obj.spanCompJobId n, addr := q.1, tag := 2 ^ 31, status := 0, operand := 0,
                             data := d }
         { s with egress := s.egress ++ [⟨p, some n, none⟩] }
       | none => s)
    | _ => s.performOrHold n .unit .unit .write q.1 q.2 d) s

/-- A unit's read of bytes that may lie on another module, whose answer is then given. -/
def State.unitFetch (s : State) (n a len : Nat) (remote : Option SpanReply) : Option (List Byte) × State :=
  match s.spanRead n .unit a len with
  | (.done bs, _, t) => (some bs, t)
  | (.away _, _, t) =>
    (match remote with
     | some r => if r.fault = 0 then (some (padTo len r.data), t) else (none, t)
     | none => (none, t))
  | (_, _, t) => (none, t)

/-! The placement ring (R266-R268). -/

def Pe.kind (e : Nat) : Nat := fld e 7 0
def Pe.pin (e : Nat) : Bool := bit e 8
def Pe.pressure (e : Nat) : Bool := bit e 9
def Pe.obj (e : Nat) : Nat := fld e 27 16
def Pe.peg (e : Nat) : Nat := fld e 45 32
def Pe.pegEn (e : Nat) : Bool := bit e 47
def Pe.base (e : Nat) : Nat := fld e 103 64
def Pe.pages (e : Nat) : Nat := fld e 159 128
def Pe.policy (e : Nat) : Nat := fld e 191 160
def Pe.result (e : Nat) : Nat := fld e 247 192
def Pe.src (e : Nat) : Nat := fld e 311 256
def Pe.tsAddr (e : Nat) : Nat := fld e 351 320
def Pe.count (e : Nat) : Nat := fld e 383 352
def Pe.tile (e : Nat) : Nat := fld e 393 384
def Pe.ahead (e : Nat) : Nat := fld e 407 400

/-- The layout of an entry (R267, R5): reserved fields zero, a field of another KIND zero. -/
def Pe.sound (e : Nat) : Bool :=
  let k := Pe.kind e
  0x71 ≤ k && k ≤ 0x76 && fld e 15 10 = 0 && fld e 31 28 = 0 && !bit e 46 && fld e 63 48 = 0 && fld e 127 104 = 0 &&
    fld e 255 248 = 0 && fld e 319 312 = 0 && fld e 399 394 = 0 && fld e 511 408 = 0 && 1 ≤ Pe.obj e &&
    Pe.result e % 64 = 0 && (k = 0x72 || !Pe.pin e) && (k = 0x73 || !Pe.pressure e) &&
    (if k = 0x71 then decide (1 ≤ Pe.pages e) else Pe.base e = 0 && Pe.pages e = 0) &&
    (k = 0x71 || (if k = 0x73 then Pe.policy e = 1 || Pe.policy e = 2 else Pe.policy e = 0)) &&
    (if k = 0x75 then Pe.tsAddr e % 64 = 0 && 1 ≤ Pe.count e && Pe.count e ≤ 124 && decide (Pe.ahead e ≤ 16)
     else Pe.src e = 0 && Pe.tsAddr e = 0 && Pe.count e = 0 && Pe.tile e = 0 && Pe.ahead e = 0)

/-- Whether an entry's result record and peg are both valid. -/
def State.peReports (s : State) (n e : Nat) : Bool :=
  Pe.result e % 64 = 0 && s.inSpan n (Pe.result e) 64 && (!Pe.pegEn e || s.pegOwned n (Pe.peg e))

/-- An entry finishes: its record, then its peg (R266, R268). -/
def State.peFinish (s : State) (n e status : Nat) (deferred : Bool) (moved slots ahead at_ : Nat) : State :=
  let rec_ := pack [(0, status), (16, Pe.kind e), (24, b2n deferred), (32, Pe.obj e), (64, moved), (96, slots),
    (128, ahead), (160, s.stamp), (192, at_)]
  if s.peReports n e then
    let s1 := s.unitWrite n (Pe.result e) (leBytes 64 rec_)
    if Pe.pegEn e then s1.unitPost n (Pe.peg e) else s1
  else s

/-- A refusal with 0x0801. -/
def State.peRefuse (s : State) (n e : Nat) : State := (s.tierEvent n 0x0801 (Pe.obj e) 0).peFinish n e 0x0801 false 0 0 0 0

/-- The next entry of the ring, taken: its number, its bits; taken_peg advances (R209, R266). -/
def State.peTake (s : State) (n : Nat) (kinds : Nat → Bool) (remote : Option SpanReply) : Option (Nat × Nat × State) :=
  let c := s.comp n
  let posted := ((s.peg (s.objC Obj.tierCompRingPeg n)).value + 2 ^ 32 - c.pTaken % 2 ^ 32) % 2 ^ 32
  if !s.running n || posted = 0 || 64 ≤ c.pOpen.length then none
  else
    let a := s.objC Obj.tierCompRingAddr n + c.pTaken % max 1 (s.objC Obj.tierCompRingEntries n) * 64
    match s.unitFetch n a 64 remote with
    | (none, _) => none
    | (some bs, s1) =>
      let e := leNat bs
      if !kinds (Pe.kind e) then none
      else
        let s2 := s1.modComp n fun x => { x with pTaken := x.pTaken + 1, pNext := x.pNext + 1 }
        some (c.pNext, e, s2.unitPost n (s.objC Obj.tierCompTakenPeg n))

/-! Objects (R254-R257). -/

/-- A key range covers a policy's tiers (R256, R346). -/
def State.covers (s : State) (n w : Nat) : Bool :=
  let d := s.krDesc n (Pol.range w)
  (Pol.home w ≠ 0 || Kr.hbm d) && (!Pol.lendable w || Kr.lent d) && (!Pol.flashOk w || Kr.flash d)

/-- A policy word keeps R255 by itself. -/
def polForm (w : Nat) : Bool :=
  !bit w 4 && !bit w 9 && fld w 31 14 = 0 && Pol.home w ≠ 3 && (Pol.home w ≠ 1 || Pol.lendable w) &&
    (Pol.home w ≠ 2 || Pol.flashOk w) && (!Pol.measured w || (Pol.readOnly w && Pol.unit w))

/-- A policy word keeps R255 and R256. -/
def State.polSound (s : State) (n w : Nat) : Bool := polForm w && s.covers n w

/-- A run of pages lies inside one MEMORY segment. -/
def State.oneSegment (s : State) (n base pages : Nat) : Bool :=
  match s.segOf n base with
  | some g => Seg.kind g = 1 && decide (base + pages ≤ Seg.base g + Seg.pages g)
  | none => false

/-- Pages of an object that are placed here. -/
def State.objPages (s : State) (n : Nat) (o : PObj) : List (Nat × Page) :=
  (s.comp n).pages.filter fun q => decide (o.base ≤ q.1) && decide (q.1 < o.base + o.pages) && q.2.loc ≠ .nowhere

/-! Moves of objects (R262-R265). -/

/-- The tier a move takes a page to; none where the page need not move. -/
def State.moveTier (s : State) (n p : Nat) (m : MoveKind) : Option Nat :=
  let t := (s.spage n p).loc.tier
  let w := s.policyAt n p
  match m with
  | .promote _ => if t = 0 then none else some 0
  | .evict k => if t = k then none else some k
  | .policy => if Pol.permits w t then none else some (if Pol.home w = t then 0 else Pol.home w)
  | .evacuate _ => none

/-- Pages an object's running move has still to move. -/
def State.moveLeft (s : State) (n : Nat) (o : PObj) : List Nat :=
  match o.moves with
  | m :: _ => ((s.objPages n o).filter fun q => (s.moveTier n q.1 m.kind).isSome && !s.pageUnver n q.1).map (·.1)
  | [] => []

/-- The entries of a move finish; a move that stopped at a page says where. -/
def State.endEntries (s : State) (n status : Nat) (deferred : Bool) (m : Move) (at_ : Nat := 0) : State :=
  let es := (s.comp n).pOpen.filter fun e => m.entries.contains e.id
  let s1 := s.modComp n fun c => { c with pOpen := c.pOpen.filter fun e => !m.entries.contains e.id }
  es.foldl (fun a e => a.peFinish n e.raw status deferred m.moved 0 0 at_) s1

/-- Running moves with nothing left to move end, one after another. -/
def State.settle (s : State) (n id : Nat) : Nat → State
  | 0 => s
  | fuel + 1 =>
    match s.pobj n id with
    | some o =>
      (match o.moves with
       | m :: rest =>
         if (s.moveLeft n o).isEmpty then
           ((s.setPObj n id (some { o with moves := rest })).endEntries n 0 false m).settle n id fuel
         else s
       | [] => s)
    | none => s

/-- The outcome of a DEFINE: refused with 0x0801 or 0x0803, or applied. -/
def State.define (s : State) (n e : Nat) : Nat × State :=
  let id := Pe.obj e
  let w := Pe.policy e
  let clash := (s.comp n).pobjs.any fun q => match q.2 with
    | some o => q.1 ≠ id && overlaps (Pe.base e) (Pe.pages e) o.base o.pages
    | none => false
  if !Pe.sound e || Pe.kind e ≠ 0x71 || !s.polSound n w || !s.oneSegment n (Pe.base e) (Pe.pages e) || clash then (0x0801, s)
  else
    let fresh : PObj := { base := Pe.base e, pages := Pe.pages e, policy := w, pinned := false, deferred := none, moves := [] }
    match s.pobj n id with
    | none => (0, s.setPObj n id (some fresh))
    | some o =>
      if o.base ≠ Pe.base e || o.pages ≠ Pe.pages e then
        if o.pinned || !o.moves.isEmpty then (0x0803, s)
        else if (s.comp n).ckpt.set.any fun x => fld x 11 0 = id then (0x0801, s)
        else (0, s.setPObj n id (some fresh))
      else if (s.comp n).st ≠ .forming && ((Pol.readOnly o.policy && !Pol.readOnly w) ||
          (Pol.measured o.policy && !Pol.measured w)) then (0x0801, s)
      else
        let stray := (s.objPages n o).any fun q => !Pol.permits w q.2.loc.tier
        let ms := if stray then o.moves ++ [⟨.policy, [], 0⟩] else o.moves
        (0, (s.setPObj n id (some { o with policy := w, moves := ms })).settle n id 8)

/-- DEFINE_WRITE (R257). -/
def execDefineWrite (r : Role) (c : CompNo) (v : BitVec 512) (s : State) : Host.Outcome State Fault Refusal :=
  let n := c.val
  match s.checkWrite r (objAt Obj.tierCompDefineWrite n) v.toNat with
  | .ok =>
    let e := v.toNat
    if Pe.kind e ≠ 0x71 then ok (s.reply .stateConflict)
    else if Pe.result e ≠ 0 || Pe.peg e ≠ 0 || Pe.pegEn e then ok ((s.tierEvent n 0x0801 (Pe.obj e) 0).reply .outOfRange 0x0801)
    else match s.define n e with
      | (0, t) => ok (t.reply .ok)
      | (k, t) => ok ((t.tierEvent n k (Pe.obj e) 0).reply .outOfRange k)
  | st => ok (s.reply st)

/-- PLACE_DEFINE (R256): takes a DEFINE entry, or an entry of a reserved KIND, which is refused. -/
def execPlaceDefine (c : CompNo) (remote : Option SpanReply) (s : State) : Host.Outcome State Fault Refusal :=
  let n := c.val
  match s.peTake n (fun k => k = 0x71 || k < 0x71 || 0x76 < k) remote with
  | none => ok s
  | some (_, e, s1) =>
    match s1.define n e with
    | (0, t) => ok (t.peFinish n e 0 false 0 0 0 0)
    | (0x0801, t) => ok (t.peRefuse n e)
    | (k, t) => ok ((t.tierEvent n k (Pe.obj e) 0).peFinish n e k false 0 0 0 0)

/-- Two promotions, or two evictions to one tier. -/
def sameMove : MoveKind → MoveKind → Bool
  | .promote _, .promote _ => true
  | a, b => decide (a = b)

/-- A move queued: merged with a waiting one of the same kind, else last (R265). -/
def queueMove (ms : List Move) (k : MoveKind) (entry : Nat) : List Move :=
  match ms with
  | [] => [⟨k, [entry], 0⟩]
  | h :: rest =>
    if rest.any fun m => sameMove m.kind k then
      h :: rest.map fun m =>
        if sameMove m.kind k then
          { m with kind := if m.kind = .promote false then k else m.kind, entries := m.entries ++ [entry] }
        else m
    else (h :: rest) ++ [⟨k, [entry], 0⟩]

/-- The page in transit of an object is abandoned: it stays where it was, and writes held for it go on (R264). -/
def State.abandonPage (s : State) (n p : Nat) : State :=
  let x := s.spage n p
  (s.setPage n p { x with dest := .nowhere, final := false }).release n p

def State.abandonMoves (s : State) (n : Nat) (o : PObj) : State :=
  ((s.objPages n o).filter fun q => q.2.dest ≠ .nowhere).foldl (fun a q => a.abandonPage n q.1) s

/-- A pinned promotion is running or queued. -/
def pinsQueued (o : PObj) : Bool := o.moves.any fun m => match m.kind with | .promote true => true | _ => false

/-- An entry is opened and its move queued. -/
def State.openMove (s : State) (n : Nat) (q : Nat × Nat) (k : MoveKind) (f : PObj → PObj) : State :=
  let s1 := s.modComp n fun c => { c with pOpen := c.pOpen ++ [⟨q.1, q.2, 0⟩] }
  match s1.pobj n (Pe.obj q.2) with
  | some o =>
    let o1 := f o
    (s1.setPObj n (Pe.obj q.2) (some { o1 with moves := queueMove o1.moves k q.1 })).settle n (Pe.obj q.2) 8
  | none => s1

/-- PLACE_PROMOTE (R265). -/
def execPlacePromote (c : CompNo) (remote : Option SpanReply) (s : State) : Host.Outcome State Fault Refusal :=
  let n := c.val
  match s.peTake n (fun k => k = 0x72) remote with
  | none => ok s
  | some (id, e, s1) =>
    match s1.pobj n (Pe.obj e) with
    | none => ok (s1.peRefuse n e)
    | some o =>
      if !Pe.sound e || (Pe.pin e && Pol.home o.policy ≠ 0) then ok (s1.peRefuse n e)
      else if !Pe.pin e then ok (s1.openMove n (id, e) (.promote false) fun o => o)
      else
        match o.moves with
        | m :: rest =>
          (match m.kind with
           | .evict t =>
             let s2 := ((s1.setPObj n (Pe.obj e) (some { o with moves := rest, deferred := some t })).abandonMoves n o).endEntries
               n 0 true m
             ok (s2.openMove n (id, e) (.promote true) fun o => { o with pinned := true })
           | _ => ok (s1.openMove n (id, e) (.promote true) fun o => { o with pinned := true }))
        | [] => ok (s1.openMove n (id, e) (.promote true) fun o => { o with pinned := true })

/-- PLACE_EVICT (R265). -/
def execPlaceEvict (c : CompNo) (remote : Option SpanReply) (s : State) : Host.Outcome State Fault Refusal :=
  let n := c.val
  match s.peTake n (fun k => k = 0x73) remote with
  | none => ok s
  | some (id, e, s1) =>
    match s1.pobj n (Pe.obj e) with
    | none => ok (s1.peRefuse n e)
    | some o =>
      let t := fld (Pe.policy e) 1 0
      if !Pe.sound e || !Pol.permits o.policy t then ok (s1.peRefuse n e)
      else if o.pinned || pinsQueued o then
        if Pe.pressure e then ok ((s1.quotaBlocked n (Pe.obj e) 0).peFinish n e 0x0802 false 0 0 0 0)
        else ok ((s1.setPObj n (Pe.obj e) (some { o with deferred := some t })).peFinish n e 0 true 0 0 0 0)
      else ok (s1.openMove n (id, e) (.evict t) fun o => o)

/-- PLACE_UNPIN (R265). -/
def execPlaceUnpin (c : CompNo) (remote : Option SpanReply) (s : State) : Host.Outcome State Fault Refusal :=
  let n := c.val
  match s.peTake n (fun k => k = 0x74) remote with
  | none => ok s
  | some (_, e, s1) =>
    match s1.pobj n (Pe.obj e) with
    | none => ok (s1.peRefuse n e)
    | some o =>
      if !Pe.sound e then ok (s1.peRefuse n e)
      else
        let ms := match o.deferred with
          | some t => o.moves ++ [⟨.evict t, [], 0⟩]
          | none => o.moves
        ok (((s1.setPObj n (Pe.obj e) (some { o with pinned := false, deferred := none, moves := ms })).settle n (Pe.obj e)
          8).peFinish n e 0 false 0 0 0 0)

/-- PLACE_RETIRE (R265). -/
def execPlaceRetire (c : CompNo) (remote : Option SpanReply) (s : State) : Host.Outcome State Fault Refusal :=
  let n := c.val
  match s.peTake n (fun k => k = 0x76) remote with
  | none => ok s
  | some (_, e, s1) =>
    match s1.pobj n (Pe.obj e) with
    | none => ok (s1.peRefuse n e)
    | some o =>
      if !Pe.sound e then ok (s1.peRefuse n e)
      else if o.pinned || !o.moves.isEmpty then
        ok ((s1.tierEvent n 0x0803 (Pe.obj e) 0).peFinish n e 0x0803 false 0 0 0 0)
      else ok ((s1.setPObj n (Pe.obj e) none).peFinish n e 0 false 0 0 0 0)

/-! Streams (R261). -/

/-- A page asks for no promotion that it did not ask for before. -/
def State.keepWant (t s : State) (n p : Nat) : State := t.setPage n p { t.spage n p with want := (s.spage n p).want }

/-- The 33,792 bytes of a slot read as a demand access that never promotes, or the status and address that stop it. -/
def State.slotRead (s : State) (n a : Nat) (remote : Option SpanReply) : Except (Nat × Nat) (List Byte) × State :=
  let (o, at_, t0) := s.spanRead n .gather a slotBytes
  let t := (t0.keepWant s n (pageOf a)).keepWant s n (pageOf (a + slotBytes - 1))
  match o with
  | .done bs => (.ok bs, t)
  | .away _ =>
    (match remote with
     | some r => if r.fault = 0 then (.ok (padTo slotBytes r.data), t) else (.error (r.fault, at_), t)
     | none => (.error (0x0707, at_), t))
  | .fault c => (.error (if poisonCode c || unverCode c then 0x0409 else c, at_), t)
  | _ => (.error (0x0407, at_), t)

/-- One demand slot of a stream, written to the tile store; with `marks` its words carry poison until it is measured
(R389). -/
def State.streamSlot (s : State) (n e i : Nat) (marks : Bool) (remote : Option SpanReply) :
    Except (Nat × Nat) Unit × State :=
  let src := Pe.src e + i * slotBytes
  let t := Pe.tile e
  let dst := Pe.tsAddr e + i * slotBytes
  if s.fenced t then (.error (0x0110, src), s)
  else match s.slotRead n src remote with
    | (.error x, s1) => (.error x, s1)
    | (.ok bs, s1) =>
      if Hdr.invalid (leNat ((bs.drop headerAt).take 64)) then (.error (0x080B, src), s1)
      else
        let s2 := ((s1.wakeTile t).tsWrite t dst bs).touch t
        if marks then
          (.ok (), s2.modTile t fun y =>
            { y with poison := (wordsOf dst slotBytes).foldl (fun p w => kput false p w true) y.poison })
        else (.ok (), s2)

/-- Demand slots i, i + 1, ... of a stream until one stops it. -/
def State.streamFrom (s : State) (n e : Nat) (remote : List (Option SpanReply)) : Nat → Nat → Except (Nat × Nat) Unit × Nat × State
  | 0, i => (.ok (), i, s)
  | k + 1, i =>
    match s.streamSlot n e i false (remote.getD i none) with
    | (.ok _, s1) => s1.streamFrom n e remote k (i + 1)
    | (.error x, s1) => (.error x, i, s1)

/-- The look-ahead slots of a stream: each line loads its metadata, a slot not in HBM is dropped. -/
def State.streamAhead (s : State) (n e : Nat) : Nat × State :=
  (List.range (Pe.ahead e)).foldl (fun r j =>
    let a := Pe.src e + (Pe.count e + j) * slotBytes
    let (dropped, s1) := (lineParts 530 a slotBytes).foldl (fun q l =>
      match q.2.lookAhead n l.1 l.2 with
      | (some _, t) => (q.1, t)
      | (none, t) => (true, t)) (false, r.2)
    if dropped then (r.1 + 1, s1.incC Obj.tierCompAheadDropped n) else (r.1, s1)) (0, s)

/-- A stream ends. -/
def State.streamEnd (s : State) (n e : Nat) (r : Except (Nat × Nat) Unit) (done : Nat) : State :=
  match r with
  | .ok _ =>
    let (dropped, s1) := s.streamAhead n e
    s1.peFinish n e 0 false 0 done dropped 0
  | .error (c, at_) =>
    let s1 := if c = 0x080B then s.tierEvent n 0x080B (Pe.obj e) (pageOf at_) else s
    s1.peFinish n e c false 0 done 0 at_

/-- The object a stream reads must be the entry's, with UNIT = 1, and hold its demand slots. -/
def State.streamFits (s : State) (n e : Nat) (o : PObj) : Bool :=
  let last := Pe.src e + Pe.count e * slotBytes
  Pol.unit o.policy && o.base * 65536 ≤ Pe.src e && last ≤ (o.base + o.pages) * 65536 &&
    (s.blocks n).testBit (blockOf (Pe.tile e)) &&
    inStore (Pe.tsAddr e) (Pe.count e * slotBytes)

/-- PLACE_STREAM (R261): slots homed elsewhere come with the command. A MEASURED object's stream stays open: each slot
waits for its measurement (R389). -/
def execPlaceStream (c : CompNo) (remote : Option SpanReply) (slots : List (Option SpanReply)) (s : State) :
    Host.Outcome State Fault Refusal :=
  let n := c.val
  match s.peTake n (fun k => k = 0x75) remote with
  | none => ok s
  | some (id, e, s1) =>
    match s1.pobj n (Pe.obj e) with
    | none => ok (s1.peRefuse n e)
    | some o =>
      if !Pe.sound e || !s1.streamFits n e o then ok (s1.peRefuse n e)
      else if Pol.measured o.policy then
        match s1.streamSlot n e 0 true (slots.getD 0 none) with
        | (.ok _, s2) => ok (s2.modComp n fun c => { c with pOpen := c.pOpen ++ [⟨id, e, 0⟩] })
        | (.error x, s2) => ok (s2.streamEnd n e (.error x) 0)
      else
        let (r, done, s2) := s1.streamFrom n e slots (Pe.count e) 0
        ok (s2.streamEnd n e r done)

/-! Page moves (R229, R263, R264). -/

/-- The lease a page lies in is being reclaimed (R271). -/
def State.evacuating (s : State) (n p : Nat) : Bool :=
  match (s.spage n p).loc with
  | .lent l _ => (match kget none (s.comp n).leases l with | some x => x.notice.isSome | none => false)
  | _ => false

/-- Pages of an object lie in a reclaimed lease, so that its other moves wait (R265). -/
def State.objEvacuates (s : State) (n id : Nat) : Bool :=
  match s.pobj n id with
  | some o => (s.objPages n o).any fun q => s.evacuating n q.1
  | none => false

/-- The frame a page's move would take now: an evacuation first, else the running move of its object, else a promotion
on demand (R258, R265, R271). -/
def State.moveFrame (s : State) (n p : Nat) : Option (Option PLoc × State) :=
  let w := s.policyAt n p
  let r := Pol.range w
  let id := s.objOf n p
  let x := s.spage n p
  let into (t : Nat) : Option PLoc × State :=
    if t = 0 then (match s.hbmRoom n p with | some (l, s1) => (some l, s1) | none => (none, s))
    else (s.freeFrame n r t, s)
  if s.evacuating n p then
    some (match s.freeFrame n r 0 with
      | some l => (some l, s)
      | none => (if Pol.flashOk w then s.freeFrame n r 2 else none, s))
  else if s.objEvacuates n id then none
  else
    let asked := match s.pobj n id with
      | some o => (match o.moves with | m :: _ => s.moveTier n p m.kind | [] => none)
      | none => none
    match asked with
    | some t => some (into t)
    | none => if x.want && x.loc.tier ≠ 0 then some (into 0) else none

/-- A running move stops at a page: its entries finish with a status (R268, R279). -/
def State.stopMove (s : State) (n id status p : Nat) : State :=
  match s.pobj n id with
  | some o =>
    (match o.moves with
     | m :: rest => ((s.setPObj n id (some { o with moves := rest })).endEntries n status false m (p * 65536)).settle n id 8
     | [] => s)
  | none => s

/-- PAGE_MOVE_START (R263 steps 1-3): the destination reserved, prefetched lines of the page dropped (R159). Without
room the move stops with 0x0802 and the page stays. -/
def execPageMoveStart (c : CompNo) (page : BitVec 40) (s : State) : Host.Outcome State Fault Refusal :=
  let n := c.val
  let p := page.toNat
  let x := s.spage n p
  if x.loc = .nowhere || x.dest ≠ .nowhere || x.final || s.pageUnver n p then ok s
  else match s.moveFrame n p with
    | none => ok s
    | some (some l, s1) => ok ((s1.tickFresh.invalidate n p).setPage n p { x with dest := l })
    | some (none, s1) =>
      if s.evacuating n p then ok s
      else if x.want && (match s.pobj n (s.objOf n p) with | some o => o.moves.isEmpty | none => true) then
        ok (s1.setPage n p { x with want := false })
      else ok ((s1.quotaBlocked n (s.objOf n p) p).stopMove n (s.objOf n p) 0x0802 p)

/-- A page has moved: counted in the running move of its object, which may end with it; held writes go on. -/
def State.moved (s : State) (n p : Nat) (evac : Bool) : State :=
  let id := s.objOf n p
  let s1 := if evac then s.incC Obj.tierCompEvacuated n else s
  let s2 := match s1.pobj n id with
    | some o =>
      (match o.moves with
       | m :: rest => if evac then s1 else s1.setPObj n id (some { o with moves := { m with moved := m.moved + 1 } :: rest })
       | [] => s1)
    | none => s1
  (s2.settle n id 8).release n p

/-- PAGE_OWNERSHIP_STEP (R229, R263 steps 4-5): with the copy verified, the page takes its location; a flash
destination holds its writes from now until its program completes. A copy that does not verify is abandoned. -/
def execPageOwnershipStep (c : CompNo) (page : BitVec 40) (verifies : Bool) (s : State) :
    Host.Outcome State Fault Refusal :=
  let n := c.val
  let p := page.toNat
  let x := s.spage n p
  if x.dest = .nowhere || x.final then ok s
  else if !verifies || s.pageUnver n p then ok (s.abandonPage n p)
  else if x.dest.tier = 2 then ok (s.setPage n p { x with final := true })
  else
    let evac := s.evacuating n p
    ok ((s.ownStep n p x.dest).moved n p evac)

/-- FLASH_PROGRAM_DONE (R275): the program of a page in its final copy completes; the page is durable, and takes its
ownership step or, rewritten in place of itself, the write it held (R258). -/
def execFlashProgramDone (c : CompNo) (page : BitVec 40) (s : State) : Host.Outcome State Fault Refusal :=
  let n := c.val
  let p := page.toNat
  let x := s.spage n p
  if x.dest.tier ≠ 2 || !x.final then ok s
  else if x.loc.tier = 2 then
    let hs := (s.comp n).held.filter fun h => pageOf h.addr = p
    let s1 := (s.modComp n fun c => { c with held := c.held.filter fun h => pageOf h.addr ≠ p }).ownStep n p x.dest
    let s2 := s1.incC Obj.tierCompFlashRmw n
    ok (hs.foldl (fun a h =>
      match a.placedAccess n h.kind p (h.addr % 65536) h.data.length h.data .intact with
      | (o, t) => t.answer n h.src h.addr o) s2)
  else
    let evac := s.evacuating n p
    ok ((s.ownStep n p x.dest).moved n p evac)

/-! Lending (R269-R273). -/

/-- LEND_OFFER_WRITE (R269). -/
def execLendOfferWrite (r : Role) (v : W64) (s : State) : Host.Outcome State Fault Refusal :=
  match s.checkWrite r Obj.tierLendOffer v.toNat with
  | .ok =>
    if 2 ^ 48 ≤ v.toNat then ok (s.reply .outOfRange)
    else if (List.range 48).any fun g => v.toNat.testBit g && (List.range 8).any fun n => (s.groups n).testBit g then
      ok (s.reply .stateConflict)
    else ok ((s.setObj Obj.tierLendOffer v.toNat).reply .ok)
  | st => ok (s.reply st)

def State.leaseOut (s : State) (k : Nat) : Option LeaseOut := kget none s.leasesOut k
def State.setLeaseOut (s : State) (k : Nat) (x : Option LeaseOut) : State :=
  { s with leasesOut := kput none s.leasesOut k x }

/-- LEASE_REQUEST (R270 step 2): the lender grants a free lease or answers that none is free. A lease number is
10 * group + place; which free one is granted is a free choice. -/
def execLeaseRequest (node : BitVec 16) (job : W64) (comp : CompNo) (ckpt : Bool) (s : State) :
    Host.Outcome State Fault Refusal :=
  let offered := (bitsOf 48 (s.obj Obj.tierLendOffer)).filter fun g => !(List.range 8).any fun n => (s.groups n).testBit g
  let all := offered.flatMap fun g => (List.range 10).map fun i => 10 * g + i
  let free := all.filter fun k => (s.leaseOut k).isNone
  match free[Config.choice s.fresh % max 1 free.length]? with
  | none => ok (s.emit (.lease node.toNat 3 0 0))
  | some k =>
    let x : LeaseOut := { group := k / 10, slot := k % 10, node := node.toNat, job := job.toNat, comp := comp.val,
                          ckpt := ckpt, st := .granted, heard := s.now, mem := [] }
    ok ((s.tickFresh.setLeaseOut k (some x)).emit (.lease node.toNat 2 k 0))

/-- Lenders of a compartment (R281): fabric addresses, zero ends the list. -/
def State.lenders (s : State) (n : Nat) : List Nat :=
  ((List.range 16).map fun i => fld (s.objC Obj.tierCompLenders n) (32 * i + 31) (32 * i)).takeWhile (· ≠ 0)

/-- Leases held for key ranges, and for the checkpoint pool (R278). -/
def State.leasesHeld (s : State) (n : Nat) (ckpt : Bool) : Nat :=
  ((s.comp n).leases.filter fun q => match q.2 with | some l => decide (l.range.isNone = ckpt) | none => false).length

/-- Key of a lease of a lender. -/
def leaseKey (node lease : Nat) : Nat := node * 2 ^ 32 + lease

/-- LEASE_HEARTBEAT (R270 step 4): as lender, a heartbeat for a lease is heard and answered; as borrower, one is sent
and the lender's clears the run of misses. -/
def execLeaseHeartbeat (side : LeaseSide) (s : State) : Host.Outcome State Fault Refusal :=
  match side with
  | .lender k =>
    (match s.leaseOut k.toNat with
     | some x => ok ((s.setLeaseOut k.toNat (some { x with heard := s.now })).emit (.lease x.node 4 k.toNat 0))
     | none => ok s)
  | .borrower c node k =>
    let key := leaseKey node.toNat k.toNat
    (match kget none (s.comp c.val).leases key with
     | some l =>
       ok ((s.modComp c.val fun x => { x with leases := kput none x.leases key (some { l with missed := 0 }) }).emit
         (.lease node.toNat 4 k.toNat 0))
     | none => ok s)

/-- Pages owned in a lease, in transit included. -/
def State.inLease (s : State) (n key : Nat) : List Nat :=
  ((s.comp n).pages.filter fun q => [q.2.loc, q.2.dest].any fun l => match l with
    | .lent k _ => decide (k = key)
    | _ => false).map (·.1)

/-- A lease leaves the compartment: the root of its region goes, with all that hung on it (R370). -/
def State.dropLease (s : State) (n key : Nat) : State :=
  match kget none (s.comp n).leases key with
  | none => s
  | some l =>
    let mine (r k se : Nat) : Bool := l.range = some r && k = 2 && se = l.serial
    (s.modComp n fun x =>
      { x with leases := kput none x.leases key none,
               unvers := x.unvers.filter fun u => !mine u.range u.kind u.lease,
               cache := (x.cache.map fun q => (q.1, q.2.filter fun e => !mine e.range e.kind e.lease)).filter fun q =>
                 !q.2.isEmpty }).emit (.lease l.node 5 (key % 2 ^ 32) 0)

/-- LEASE_RELEASE (R270 step 5): the borrower releases an empty lease; the lender starts to scrub a released one. -/
def execLeaseRelease (side : LeaseSide) (s : State) : Host.Outcome State Fault Refusal :=
  match side with
  | .lender k =>
    (match s.leaseOut k.toNat with
     | some x => ok (s.setLeaseOut k.toNat (some { x with st := .scrubbing }))
     | none => ok s)
  | .borrower c node k =>
    let key := leaseKey node.toNat k.toNat
    if (s.inLease c.val key).isEmpty then ok (s.dropLease c.val key) else ok s

/-- LEASE_SCRUB_DONE (R270 step 6): frames and metadata are zero; the lease is free again. -/
def execLeaseScrubDone (lease : W32) (s : State) : Host.Outcome State Fault Refusal :=
  match s.leaseOut lease.toNat with
  | some x => if x.st = .scrubbing then ok (s.setLeaseOut lease.toNat none) else ok s
  | none => ok s

/-- The reclaim of a group (R271): the offer bit cleared, a notice with deadline D to the borrower of each lease. -/
def State.reclaimGroup (s : State) (g : Nat) : State :=
  let d := s.obj Obj.tierLendReclaimDeadlineMs
  let s1 := s.setObj Obj.tierLendOffer (setBit (s.obj Obj.tierLendOffer) g false)
  (s1.leasesOut.filter fun q => q.1 / 10 = g).foldl (fun a q =>
    match q.2 with
    | some x => if x.st = .granted then
        (a.setLeaseOut q.1 (some { x with st := .reclaiming (s.now + d * 1000000) })).emit (.lease x.node 6 q.1 d)
      else a
    | none => a) s1

/-- Every lease this module has lent is reclaimed, as HOLDUP, SERVICE and a reset do (R271). -/
def State.reclaimAll (s : State) : State :=
  (List.range 48).foldl (fun a g =>
    if (a.obj Obj.tierLendOffer).testBit g || a.leasesOut.any (fun q => q.1 / 10 = g) then a.reclaimGroup g else a) s

/-- RECLAIM (R271): a write of tier.lend.reclaim. -/
def execReclaim (r : Role) (group : Byte) (s : State) : Host.Outcome State Fault Refusal :=
  match s.checkWrite r Obj.tierLendReclaim group.toNat with
  | .ok => ok ((s.reclaimGroup group.toNat).reply .ok)
  | st => ok (s.reply st)

/-- A borrowed lease falls under a reclaim notice. -/
def State.notice (s : State) (n key dMs : Nat) : State :=
  match kget none (s.comp n).leases key with
  | some l =>
    if l.notice.isSome then s
    else s.modComp n fun x =>
      { x with leases := kput none x.leases key (some { l with notice := some (s.now + dMs * 1000000) }) }
  | none => s

/-- RECLAIM_NOTICE_RECEIVE (R271 steps 1-3): moves in progress of pages of the lease's objects give way. -/
def execReclaimNoticeReceive (c : CompNo) (node : BitVec 16) (lease : W32) (dMs : BitVec 16) (s : State) :
    Host.Outcome State Fault Refusal :=
  ok (s.notice c.val (leaseKey node.toNat lease.toNat) dMs.toNat)

/-- RECLAIM_DEADLINE (R271, R272): pages still in the lease hold the compartment; a checkpoint lease is released. -/
def execReclaimDeadline (c : CompNo) (node : BitVec 16) (lease : W32) (s : State) : Host.Outcome State Fault Refusal :=
  let n := c.val
  let key := leaseKey node.toNat lease.toNat
  match kget none (s.comp n).leases key with
  | some l =>
    (match l.notice with
     | some d =>
       if s.now < d then ok s
       else if l.range.isNone then ok (s.dropLease n key)
       else if (s.inLease n key).isEmpty then ok s
       else ok ((s.tierEvent n 0x0804 lease.toNat 0).holdComp n 0x0804)
     | none => ok s)
  | none => ok s

/-- The pages of a lost lease are unverifiable: its whole tree region (R272, R273). -/
def State.loseLease (s : State) (n key : Nat) : State :=
  match kget none (s.comp n).leases key with
  | some l =>
    (match l.range with
     | some r =>
       let u : Unver := ⟨r, 2, l.serial, 6, 0, 0x0805⟩
       if (s.inLease n key).isEmpty || (s.unverAt n r 2 l.serial 0) = some 0x0805 then s
       else if ((s.comp n).unvers.filter fun v => v.range = r).length < 256 then
         s.modComp n fun c => { c with unvers := c.unvers ++ [u] }
       else (s.setObjC Obj.integCompUnverifiableRanges n
         (setBit (s.objC Obj.integCompUnverifiableRanges n) r true)).integEvent n 0x0B0B r 0 (2 ^ 64 - 1)
     | none => s)
  | none => s

/-- FORCE_RELEASE (R272): on the lender a write of tier.lend.force_release starts the scrub at once; the borrower's
pages in the lease become unverifiable with 0x0805. -/
def execForceRelease (side : ForceSide) (s : State) : Host.Outcome State Fault Refusal :=
  match side with
  | .lender r lease =>
    (match s.checkWrite r Obj.tierLendForceRelease lease.toNat with
     | .ok =>
       (match s.leaseOut lease.toNat with
        | some x => ok ((s.setLeaseOut lease.toNat (some { x with st := .scrubbing })).reply .ok)
        | none => ok (s.reply .outOfRange))
     | st => ok (s.reply st))
  | .borrower c node lease =>
    let key := leaseKey node.toNat lease.toNat
    if (kget none (s.comp c.val).leases key).isNone then ok s
    else if (s.inLease c.val key).isEmpty then ok (s.dropLease c.val key)
    else ok (((s.tierEvent c.val 0x0805 lease.toNat 0).loseLease c.val key).holdComp c.val 0x0805)

/-- HEARTBEAT_MISS_LIMIT (R273): ten heartbeats of a reachable lender are missed in a row. -/
def execHeartbeatMissLimit (c : CompNo) (node : BitVec 16) (lease : W32) (s : State) :
    Host.Outcome State Fault Refusal :=
  let key := leaseKey node.toNat lease.toNat
  if (s.hops node.toNat (s.portsOf c.val)).isEmpty then ok s
  else ok (s.notice c.val key (s.obj Obj.tierLendReclaimDeadlineMs))

/-- The leases of a compartment from a lender that hold pages. -/
def State.leasesFrom (s : State) (n node : Nat) : List Nat :=
  ((s.comp n).leases.filter fun q => match q.2 with
    | some l => decide (l.node = node) && !(s.inLease n q.1).isEmpty
    | none => false).map (·.1)

/-- LENDER_ISOLATED (R273): a lender to which the fabric has had no route for D. -/
def execLenderIsolated (c : CompNo) (node : BitVec 16) (s : State) : Host.Outcome State Fault Refusal :=
  let n := c.val
  let keys := s.leasesFrom n node.toNat
  if keys.isEmpty || !(s.hops node.toNat (s.portsOf n)).isEmpty then ok s
  else
    let s1 := s.tierEvent n 0x0805 (keys.headD 0 % 2 ^ 32) 0
    ok ((keys.foldl (fun a k => a.loseLease n k) s1).holdComp n 0x0805)

/-- TIER_LEASE_ORPHANED (R273, R407): on the lender, no heartbeat for orphan_s. -/
def execTierLeaseOrphaned (lease : W32) (s : State) : Host.Outcome State Fault Refusal :=
  match s.leaseOut lease.toNat with
  | some x =>
    if x.st ≠ .scrubbing && x.heard + s.obj Obj.tierLendOrphanS * 1000000000 ≤ s.now then
      ok ((s.setLeaseOut lease.toNat (some { x with st := .scrubbing })).fault 0x080A noComp lease.toNat)
    else ok s
  | none => ok s

/-! Flash (R274-R277). -/

/-- Places of a flash channel in use by a compartment. -/
def State.flashUsed (s : State) (n ch : Nat) : List Nat :=
  (s.charged n).filterMap fun l => match l with
    | .flash c2 i => if c2 = ch then some i else none
    | _ => none

/-- FLASH_GC (R275): a page is relocated inside its channel. -/
def execFlashGc (c : CompNo) (page : BitVec 40) (s : State) : Host.Outcome State Fault Refusal :=
  let n := c.val
  let p := page.toNat
  let x := s.spage n p
  match x.loc with
  | .flash ch _ =>
    let used := s.flashUsed n ch
    if x.final || x.dest ≠ .nowhere || s.pageUnver n p || (s.obj Obj.tierFlashReadonlyMap).testBit ch then ok s
    else match freeIndex used flashPerChannel (used.length + 1) (Config.choice s.fresh % flashPerChannel) with
      | some i => ok (((s.invalidate n p).placePage n p (.flash ch i)).incC Obj.tierCompFlashGcPages n)
      | none => ok s
  | _ => ok s

/-- FLASH_BLOCK_RETIRE (R276): a block of a channel is replaced, which leaves the spare that the command reports. -/
def execFlashBlockRetire (ch : Fin 32) (sparePct : Fin 101) (s : State) : Host.Outcome State Fault Refusal :=
  let old := s.obj Obj.tierFlashSparePct
  let lo := 8 * ch.val
  let was := fld old (lo + 7) lo
  let n := (firstBelow 8 fun n => (s.flashCh n).testBit ch.val).getD noComp
  let s1 := s.setObj Obj.tierFlashSparePct (old - was * 2 ^ lo + sparePct.val * 2 ^ lo)
  let s2 := if sparePct.val < 25 && 25 ≤ was then s1.fault 0x0807 n ch.val else s1
  if sparePct.val = 0 && !(s.obj Obj.tierFlashReadonlyMap).testBit ch.val then
    ok ((s2.setObj Obj.tierFlashReadonlyMap (setBit (s.obj Obj.tierFlashReadonlyMap) ch.val true)).fault 0x0808 n ch.val)
  else ok s2

/-! Quotas and the clear (R278, R279, R281). -/

/-- QUOTA_WRITE (R279): a quota of lent memory, flash or the checkpoint pool. -/
def execQuotaWrite (r : Role) (c : CompNo) (which : Fin 3) (v : W32) (s : State) : Host.Outcome State Fault Refusal :=
  let n := c.val
  let key := objAt (if which = 0 then Obj.tierCompLentQuotaGib else if which = 1 then Obj.tierCompFlashQuotaGib
    else Obj.tierCompCkptQuotaGib) n
  match s.checkWrite r key v.toNat with
  | .ok =>
    let st := (s.comp n).st
    let charge := if which = 0 then s.leasesHeld n false else if which = 1 then ceilDiv (s.chargedIn n 2) 16384
      else s.leasesHeld n true
    if !Role.manages r then ok (s.reply .accessDenied)
    else if st = .free || st = .closing then ok (s.reply .stateConflict)
    else if which = 1 && 448 * popCount 32 (s.flashCh n) < v.toNat then ok (s.reply .outOfRange)
    else if v.toNat < charge then ok (s.reply .stateConflict)
    else ok ((s.setObj key v.toNat).reply .ok)
  | st => ok (s.reply st)

/-- TIER_EVENT_CLEAR (R281). -/
def execTierEventClear (r : Role) (c : CompNo) (v : Bool) (s : State) : Host.Outcome State Fault Refusal :=
  ok (s.clearWrite r (objAt Obj.tierCompEventClear c.val) v fun s => (s.setObjC Obj.tierCompFirstEvent c.val 0).rearmLog c.val 8)

end Sys2Proof.Machine
end

