-- ==== Sys2Proof/Machine/CompOps.lean ====
section
/-! DEFINITION. What creation, start, restore and teardown of a compartment share: contributors, seeds, threads, tiles,
pegs and key ranges (R118, R150, R240, R327, R331, R348, R422). -/

namespace Sys2Proof.Machine
open Sys2Proof

/-! Contributors (R331). -/

def State.contrib (s : State) (n i : Nat) : Nat := kget 0 (s.comp n).contribs i
/-- Bitmap of the VALID slots. -/
def State.contribValid (s : State) (n : Nat) : Nat :=
  (List.range 8).foldl (fun a i => a + b2n (bit (s.contrib n i) 7) * 2 ^ i) 0
/-- Whether some contributor's RANGES names a key range. -/
def State.contributed (s : State) (n r : Nat) : Bool := (s.contribOf n r).isSome

/-! Seeds, threads and tiles. -/

/-- The lane generators of a compartment are seeded (R118). -/
def State.reseed (s : State) (n : Nat) : State :=
  let seed := if s.objC Obj.vxCompSeedMode n = 1
    then leNat (shake256 32 (ascii "YVF-SR" ++ leBytes 8 ((s.comp n).jobSeed.getD 0))) else s.draw256
  let clear (q : Nat × Tile) : Nat × Tile :=
    if (s.blocks n).testBit (blockOf q.1) then (q.1, { q.2 with gens := [] }) else q
  ({ s.tickFresh with tiles := s.tiles.map clear }).modComp n fun c => { c with seed := seed }

/-- A tile's store, queues and slots emptied; its program store, domain and counters stay. -/
def Tile.emptied (y : Tile) : Tile :=
  { y with store := [], poison := [], accErr := none, vregErr := none, mxQueue := [], mxRuns := [], vxQueue := [],
           vxRun := none, gx0 := ⟨[], none⟩, gx1 := ⟨[], none⟩, slots := [], parked := [], xlate := [] }

/-- Every tile of a compartment changed. -/
def State.eachTile (s : State) (n : Nat) (f : Nat → Tile → Tile) : State :=
  (s.tilesOf n).foldl (fun a t => a.setTile t (f t (a.tile t))) s

/-- The threads and cores of a compartment are as never used. -/
def State.endThreads (s : State) (n : Nat) : State :=
  { s with threads := s.threads.filter fun q => !(s.blocks n).testBit (blockOf (q.1 / 32)),
           cores := s.cores.filter fun q => !(s.blocks n).testBit (blockOf (q.1 / 4)) }

/-- Thread 0 of each core of each tile in service starts at offset 0 (R150). -/
def State.startThreads (s : State) (n : Nat) : State :=
  ((s.tilesOf n).filter fun t => !s.fenced t).foldl (fun a t =>
    (List.range 4).foldl (fun b k =>
      let th : Thread := { (Thread.init.setX 10 (BitVec.ofNat 64 t)).setX 11 (BitVec.ofNat 64 k) with st := .ready }
      b.setThread (t * 32 + k * 8) th) a) s

/-! Pegs. -/

/-- Every peg of a compartment is 0 with no waiters, and every unit that counts a peg's advances starts at 0. -/
def State.clearPegs (s : State) (n : Nat) : State :=
  let s1 := { s with pegs := s.pegs.filter fun q => !s.pegOwned n q.1 }
  (s1.modComp n fun c =>
    { c with seen := [], pTaken := 0, phTaken := 0, stamps := [], upd := { c.upd with taken := 0 },
             pub := { c.pub with taken := 0 } }).setObjC Obj.spanCompRemoteWaitersUsed n 0

/-! Pacer caps. -/

/-- A pacer cap and with it the permit sequence change (R43, R449). -/
def State.setCap (s : State) (n : Nat) (cap : Option Nat) : State :=
  if (s.comp n).cap = cap then s
  else s.modComp n fun c => { c with cap := cap, pacerAt := s.now, pacerNo := 0 }

/-- The highest rate a pacer can be set to: the programmed rate in gate mode, the boost ceiling in glide mode. -/
def State.topRate (s : State) (n : Nat) : Nat :=
  if s.objC Obj.tileCompMode n = 1 then s.objC Obj.tileCompPacerRate n else 2200

/-- The power-limit factor in hundredths (R445). -/
def factorOf (level : Nat) : Nat := match level with
  | 0 => 100 | 1 => 85 | 2 => 70 | _ => 50

/-- The thermal cap of a level (R461). -/
def thermalCap (level : Nat) : Option Nat := if level = 2 then some 1200 else if 3 ≤ level then some 500 else none

/-- A pacer cap is the lowest of its caps (R449). -/
def State.recap (s : State) (n : Nat) : State :=
  let g := (s.comp n).gov
  let caps := [g.allotCap, g.slopeCap,
    if s.power.factor = 0 then none else some (factorOf s.power.factor * s.topRate n / 100),
    thermalCap (s.obj Obj.thermalStatus), if s.power.paused then some 0 else none]
  s.setCap n (caps.foldl (fun a c => match a, c with
    | some x, some y => some (min x y)
    | none, y => y
    | x, none => x) none)

/-! Key ranges. -/

/-- A key range formed anew (R348, R422): its pages freed, its trees empty, nothing unverifiable. -/
def State.reformRange (s : State) (n r : Nat) : State :=
  let mine (p : Nat) : Bool := s.rangeAt n p = r
  let s1 := s.modComp n fun c =>
    { c with mem := c.mem.filter fun q => !mine (pageOf q.1), poison := c.poison.filter fun q => !mine (q.1 / 1024),
             pages := c.pages.filter fun q => !mine q.1,
             held := c.held.filter fun h => !mine (pageOf h.addr),
             unvers := c.unvers.filter fun u => decide (u.range ≠ r),
             cache := (c.cache.map fun q => (q.1, q.2.filter fun e => decide (e.range ≠ r))).filter fun q => !q.2.isEmpty }
  (s1.setObjC Obj.integCompUnverifiableRanges n (setBit (s.objC Obj.integCompUnverifiableRanges n) r false)).setObj
    (objAt Obj.integKrMajorsDrawn n + r) 0

/-- A unit's messages to every job module: kind, and contents. -/
def State.postAll (s : State) (n kind : Nat) (data : List Nat) : State :=
  (s.comp n).nodes.foldl (fun a node => a.emit (.post kind node data)) s

end Sys2Proof.Machine
end

