-- ==== Sys2Proof/Machine/Ckpt.lean ====
section
/-! DEFINITION. Checkpoint and restore (chapter 14, R401-R425): the set, dovetails, copies in the pool, copy-ahead, and
restore. -/

namespace Sys2Proof.Machine
open Sys2Proof

/-! The set (R401, R402). -/

def Cs.obj (e : Nat) : Nat := fld e 11 0
def Cs.base (e : Nat) : Nat := fld e 55 16
def Cs.pages (e : Nat) : Nat := fld e 95 64
def Cs.policy (e : Nat) : Nat := fld e 127 96

/-- The DEFINE an entry acts as (R267, R401). -/
def Cs.define (e : Nat) : Nat :=
  pack [(0, 0x71), (16, Cs.obj e), (64, Cs.base e), (128, Cs.pages e), (160, Cs.policy e)]

/-- The action of ckpt.comp.set_write: refused with 0x0D01, or appended with its object defined. -/
def State.setWriteAct (s : State) (n e : Nat) : Status × State :=
  let set := (s.comp n).ckpt.set
  let bad := fld e 15 12 ≠ 0 || fld e 63 56 ≠ 0 || Cs.obj e = 0 || Cs.pages e = 0 ||
    set.any (fun x => overlaps (Cs.base x) (Cs.pages x) (Cs.base e) (Cs.pages e)) ||
    s.contributed n (Pol.range (Cs.policy e)) || decide (64 ≤ set.length)
  match s.define n (Cs.define e) with
  | (0, t) =>
    if bad then (.outOfRange, s.fault 0x0D01 n)
    else (.ok, t.modComp n fun c => { c with ckpt := { c.ckpt with set := c.ckpt.set ++ [e] } })
  | _ => (.outOfRange, s.fault 0x0D01 n)

/-- SET_WRITE (R401, R402). -/
def execSetWrite (r : Role) (c : CompNo) (v : BitVec 128) (s : State) : Host.Outcome State Fault Refusal :=
  match s.checkWrite r (objAt Obj.ckptCompSetWrite c.val) v.toNat with
  | .ok =>
    let (st, t) := s.setWriteAct c.val v.toNat
    ok (t.reply st (if st = .ok then 0 else 0x0D01))
  | st => ok (s.reply st)

def State.homedHere (s : State) (n p : Nat) : Bool :=
  match s.owner n (p * 65536) with
  | .page .. => true
  | _ => false

/-- Pages homed here that lie in the set, in page order within each entry. -/
def State.setPages (s : State) (n : Nat) : List Nat :=
  ((s.comp n).ckpt.set.flatMap fun e => (List.range (Cs.pages e)).map (· + Cs.base e)).filter (s.homedHere n)

/-- The length of this module's shard (R403-R405). -/
def State.shardBytes (s : State) (n : Nat) : Nat := 65536 + (s.setPages n).length * 65872

/-! Slots, copies and leases (R406, R409). -/

def State.modCkpt (s : State) (n : Nat) (f : Ckpt → Ckpt) : State := s.modComp n fun c => { c with ckpt := f c.ckpt }
def State.ckptSlot (s : State) (n k : Nat) : CkptSlot := kget CkptSlot.init (s.comp n).ckpt.slots k
def State.setCkptSlot (s : State) (n k : Nat) (x : CkptSlot) : State :=
  s.modCkpt n fun q => { q with slots := kput CkptSlot.init q.slots k x }

def State.copiesWanted (s : State) (n : Nat) : Nat := 1 + s.objC Obj.ckptCompMirrors n

/-- Leases a copy spans: the 8 MiB record region and the shard. -/
def State.leasesPerCopy (s : State) (n : Nat) : Nat := ceilDiv (8388608 + s.shardBytes n) (2 ^ 30)

/-- Checkpoint-pool leases of a lender that no copy uses and no notice names. -/
def State.poolFree (s : State) (n node : Nat) : List Nat :=
  let used := (s.comp n).ckpt.slots.flatMap fun q => q.2.copies.flatMap (·.leases)
  ((s.comp n).leases.filter fun q => match q.2 with
    | some l => l.range.isNone && l.node = node && l.notice.isNone && !used.contains q.1
    | none => false).map (·.1)

/-- One more copy of a slot, from the first lender in the list that holds none of it and has leases for it. -/
def State.addCopy (s : State) (n k : Nat) (whole : Bool) : Option State :=
  let x := s.ckptSlot n k
  let need := s.leasesPerCopy n
  if x.copies.length ≥ s.copiesWanted n || 16 < need then none
  else
    let nodes := (s.lenders n).map (· % 65536)
    match nodes.find? fun m => x.copies.all (·.node ≠ m) && decide (need ≤ (s.poolFree n m).length) with
    | some m => some (s.setCkptSlot n k { x with copies := x.copies ++ [⟨m, (s.poolFree n m).take need, whole⟩] })
    | none => none

/-- Copies added as far as leases go. -/
def State.fillCopies (s : State) (n k : Nat) (whole : Bool) : Nat → State
  | 0 => s
  | fuel + 1 =>
    match s.addCopy n k whole with
    | some t => t.fillCopies n k whole fuel
    | none => s

def State.copiesFull (s : State) (n k : Nat) : Bool := (s.ckptSlot n k).copies.length = s.copiesWanted n

/-- Copies of a slot that are lost and wait for their rebuild (R409). -/
def State.copiesLost (s : State) (n k : Nat) : Nat := ((s.comp n).ckpt.rebuilding.filter fun q => decide (q.1 = k)).length

/-- One more checkpoint lease is asked of the first lender in the list that holds no copy of a slot; none within quota
answers none (R406). -/
def State.askCopy (s : State) (n k : Nat) : Option State :=
  if s.objC Obj.tierCompCkptQuotaGib n ≤ s.leasesHeld n true then none
  else ((s.lenders n).find? fun a => (s.ckptSlot n k).copies.all (·.node ≠ a % 65536)).map fun a =>
    s.emit (.lease (a % 65536) 1 0 1)

/-! Abandoning (R413). -/

/-- The dovetail in progress is abandoned: marks cleared, held writes performed, the slot holds no step. -/
def State.abandonDovetail (s : State) (n code : Nat) (send : Bool) : State :=
  match (s.comp n).ckpt.dove with
  | none => s
  | some d =>
    let marked := ((s.comp n).pages.filter (·.2.pending)).map (·.1)
    let clear (p : Nat × Page) : Nat × Page := (p.1, { p.2 with pending := false, ahead := none })
    let s1 := s.modComp n fun c =>
      { c with pages := (c.pages.map clear).filter fun q => decide (q.2 ≠ Page.init),
               ckpt := { c.ckpt with dove := none, posts := c.ckpt.posts.filter fun p => decide (p.step ≠ d.step),
                                     slots := kmod CkptSlot.init c.ckpt.slots d.slot fun k => { k with step := none, record := [] } } }
    let s2 := (((s1.setObjC Obj.ckptCompLastStatus n 0x0D05).setObjC Obj.ckptCompInProgress n 0).incC
      Obj.ckptCompAbandoned n).fault code n 0 0 d.step
    let s3 := marked.foldl (fun a p => a.release n p) (s2.unitPost n (s.objC Obj.ckptCompCommitPeg n))
    if send then s3.postAll n 3 [d.step] else s3

/-- Leases of a key range. -/
def State.rangeHeld (s : State) (n r : Nat) : Nat :=
  ((s.comp n).leases.filter fun q => match q.2 with | some l => l.range = some r | none => false).length

/-! The dovetail (R410-R412). -/

/-- Posts of the dovetail's step from every job module are held: the record is written to every copy (R412 step 6). -/
def State.tryRecord (s : State) (n : Nat) : State :=
  match (s.comp n).ckpt.dove with
  | none => s
  | some d =>
    let mine := (s.comp n).ckpt.posts.filter fun p => decide (p.step = d.step)
    if d.posted && !d.record && decide (mine.length = s.objC Obj.spanCompJobModules n) then
      s.modCkpt n fun q =>
        { q with dove := some { d with record := true },
                 slots := kmod CkptSlot.init q.slots d.slot fun k => { k with record := mine } }
    else s

/-- The fabric address and first lease of each copy of a slot. -/
def State.copyLocs (s : State) (n k : Nat) : List (Nat × Nat) :=
  (s.ckptSlot n k).copies.map fun c => (s.obj Obj.fabSpanTag * 65536 + c.node, c.leases.headD 0 % 2 ^ 32)

/-- With every page copied the copies are whole; with every copy in place, the shard digest is computed and posted to every job module (R412
step 5). The digest covers salts and ciphertext, which no interface of this module shows: a free value. -/
def State.tryPosts (s : State) (n : Nat) : State :=
  match (s.comp n).ckpt.dove with
  | none => s
  | some d =>
    if d.posted || (s.comp n).pages.any (·.2.pending) then s
    else
      let whole (c : CkptCopy) : CkptCopy := { c with whole := true }
      let s0 := s.modCkpt n fun q =>
        { q with slots := kmod CkptSlot.init q.slots d.slot fun k => { k with copies := k.copies.map whole } }
      if !s0.copiesFull n d.slot then s0
      else
      let dg := Config.choice s.fresh % 2 ^ 384
      let me := s.objC Obj.spanCompModuleIndex n
      let p : ShardPost := ⟨me, d.step, dg, s.shardBytes n, s.copyLocs n d.slot⟩
      let s1 := s0.tickFresh.modCkpt n fun q =>
        { q with dove := some { d with posted := true }, posts := q.posts ++ [p],
                 slots := kmod CkptSlot.init q.slots d.slot fun k => { k with digest := dg } }
      (s1.postAll n 2 ([me, d.step, dg, p.bytes] ++ p.locs.flatMap fun l => [l.1, l.2])).tryRecord n

/-- The target slot of a dovetail: one that holds no step, else the one with the oldest (R412 step 1). -/
def State.targetSlot (s : State) (n : Nat) : Nat :=
  match firstBelow 3 fun k => (s.ckptSlot n k).step.isNone with
  | some k => k
  | none => (List.range 3).foldl (fun b k =>
      if (s.ckptSlot n k).step.getD 0 < (s.ckptSlot n b).step.getD 0 then k else b) 0

/-- The copies that the dovetail in progress still lacks: from the leases held, else one more lease is asked for; with none
to be had the dovetail is abandoned with 0x0D03 (R406). A lost copy waits for its rebuild (R416). -/
def State.seekCopies (s : State) (n : Nat) : State :=
  match (s.comp n).ckpt.dove with
  | none => s
  | some d =>
    if s.copiesLost n d.slot ≠ 0 then s.tryPosts n
    else
      let t := s.fillCopies n d.slot false 3
      if t.copiesFull n d.slot then t.tryPosts n
      else match t.askCopy n d.slot with
        | some u => u
        | none => t.abandonDovetail n 0x0D03 true

/-- Steps 1 to 3 of a dovetail, then the copies it needs (R406, R412). -/
def State.startDovetail (s : State) (n step : Nat) : State :=
  let k := s.targetSlot n
  let x := s.ckptSlot n k
  let due := (s.setPages n).filter fun p => x.step.isNone || decide (x.epoch < (s.spage n p).epoch)
  let pols := (s.comp n).ckpt.set.map fun e => (Cs.obj e, match s.pobj n (Cs.obj e) with
    | some o => o.policy
    | none => Cs.policy e)
  let part (c : CkptCopy) : CkptCopy := { c with whole := false }
  let y : CkptSlot := { x with step := none, epoch := (s.comp n).ckpt.epoch, record := [], pols := pols,
                               copies := x.copies.map part }
  let lost := (s.comp n).ckpt.rebuilding.filter fun q => x.step.isSome || decide (q.1 ≠ k)
  let s1 := s.modComp n fun c =>
    { c with pages := due.foldl (fun m p => kmod Page.init m p fun g => { g with pending := true, ahead := none }) c.pages,
             ckpt := { c.ckpt with epoch := c.ckpt.epoch + 1, lastBoundary := some step,
                                   dove := some ⟨step, k, s.now, false, false⟩, rebuilding := lost,
                                   slots := kput CkptSlot.init c.ckpt.slots k y } }
  let s2 := (s1.setObjC Obj.ckptCompInProgress n step).unitPost n (s.objC Obj.ckptCompArmedPeg n)
  s2.seekCopies n

/-- A lease of the pool has come: a dovetail that lacks copies takes it, or asks for more. -/
def State.seekGranted (s : State) (n : Nat) : State :=
  match (s.comp n).ckpt.dove with
  | some d => if d.posted || s.copiesFull n d.slot then s else s.seekCopies n
  | none => s

/-- LEASE_GRANT_RECEIVE (R270 step 3, R406): a lease granted for a key range, or for the checkpoint pool, is charged; with
every lender answering none, 0x0806, and a dovetail that waits for its copies is abandoned with 0x0D03. -/
def execLeaseGrantReceive (c : CompNo) (range : Option (Fin 16)) (granted : Option (BitVec 16 × W32)) (s : State) :
    Host.Outcome State Fault Refusal :=
  let n := c.val
  match granted with
  | none =>
    let s1 := (s.incC Obj.tierCompQuotaBlocked n).tierEvent n 0x0806 0 0
    let short := match (s.comp n).ckpt.dove with
      | some d => range.isNone && !s.copiesFull n d.slot
      | none => false
    ok (if short then s1.abandonDovetail n 0x0D03 true else s1)
  | some (node, lease) =>
    let quota := s.objC (if range.isNone then Obj.tierCompCkptQuotaGib else Obj.tierCompLentQuotaGib) n
    let listed := (s.lenders n).any fun a => decide (a % 65536 = node.toNat)
    let key := leaseKey node.toNat lease.toNat
    if !listed || quota ≤ s.leasesHeld n range.isNone || (kget none (s.comp n).leases key).isSome then ok s
    else match range with
      | none => ok ((s.modComp n fun x =>
          { x with leases := kput none x.leases key (some ⟨node.toNat, none, 0, none, 0⟩) }).seekGranted n)
      | some r =>
        let serial := kget 0 (s.comp n).serials r.val
        let inUse := s.rangeHeld n r.val
        if Kr.leaseMax (s.krDesc n r.val) ≤ inUse || 2 ^ 32 ≤ serial then ok (s.quotaBlocked n 0 0)
        else ok (s.modComp n fun x =>
          { x with leases := kput none x.leases key (some ⟨node.toNat, some r.val, serial, none, 0⟩),
                   serials := kput 0 x.serials r.val (serial + 1) })

/-- BOUNDARY_TAKE (R410, R411): one advance of boundary_peg; the line may lie on another module. -/
def execBoundaryTake (c : CompNo) (remote : Option SpanReply) (s : State) : Host.Outcome State Fault Refusal :=
  let n := c.val
  let k := (s.comp n).ckpt
  let live := (s.comp n).st = .running || (s.comp n).st = .held
  if !live || s.advances n unitBoundary (s.objC Obj.ckptCompBoundaryPeg n) = 0 || k.dove.isSome || s.mode = .holdup ||
      (s.comp n).closeAt.isSome then ok s
  else match s.unitFetch n (s.objC Obj.ckptCompBoundaryAddr n) 64 remote with
    | (none, _) => ok s
    | (some bs, s1) =>
      let w := leNat bs
      let step := fld w 63 0
      let s2 := s1.actOn n unitBoundary
      let old := match k.lastBoundary with
        | some b => decide (step ≤ b)
        | none => false
      if old || step ≠ Ctl.lastStep (s.control n) || w >>> 64 ≠ 0 || k.set.isEmpty then
        ok ((s2.fault 0x0D02 n 0 0 step).unitPost n (s.objC Obj.ckptCompArmedPeg n))
      else ok (s2.startDovetail n step)

/-- A page of the dovetail in progress is copied to every copy, unless it is unverifiable, which abandons it (R416). -/
def State.dovetailCopy (s : State) (n p : Nat) (d : Dovetail) : State :=
  let s1 := if s.copiesLost n d.slot = 0 then s.fillCopies n d.slot false 3 else s
  if s.pageUnver n p then s.abandonDovetail n 0x0D05 true
  else if (s1.ckptSlot n d.slot).copies.length + s1.copiesLost n d.slot < s1.copiesWanted n then s1
  else
    let s2 := match (s.spage n p).ahead with
      | some t => (((s1.incC Obj.ckptCompCopyAheads n).setObjC Obj.ckptCompAheadWaitMaxNs n
          (max (s.objC Obj.ckptCompAheadWaitMaxNs n) (s.now - t))).compEvent n 0xA7 1)
      | none => s1
    ((s2.copyPage n p).release n p).tryPosts n

/-- CKPT_PAGE_COPY (R412 step 4): the first pending page in page order, past those a copy-ahead will take. -/
def execCkptPageCopy (c : CompNo) (page : BitVec 40) (s : State) : Host.Outcome State Fault Refusal :=
  let n := c.val
  let p := page.toNat
  match (s.comp n).ckpt.dove with
  | some d =>
    if (s.spage n p).pending && (s.comp n).pages.all (fun q => decide (p ≤ q.1) || !q.2.pending || q.2.ahead.isSome) then
      ok (s.dovetailCopy n p d)
    else ok s
  | none => ok s

/-- SHARD_POST_RECEIVE (R412): kept for the dovetail in progress and the next step, else NOT_READY. -/
def execShardPostReceive (c : CompNo) (module : BitVec 16) (step : W64) (digest : BitVec 384) (bytes : W64)
    (locs : List (W32 × W32)) (s : State) : Host.Outcome State Fault Refusal :=
  let n := c.val
  let k := (s.comp n).ckpt
  let here := match k.dove with
    | some d => d.step
    | none => k.lastBoundary.getD 0
  let take := (k.dove.isSome && step.toNat = here) || step.toNat = here + 1
  if !take || s.objC Obj.spanCompJobModules n ≤ module.toNat then ok (s.reply .notReady)
  else
    let p : ShardPost := ⟨module.toNat, step.toNat, digest.toNat, bytes.toNat, locs.map fun l => (l.1.toNat, l.2.toNat)⟩
    let rest := k.posts.filter fun q => q.module ≠ p.module || q.step ≠ p.step
    ok (((s.modCkpt n fun q => { q with posts := rest ++ [p] }).tryRecord n).reply .ok)

/-- SHARD_POST_RETRY (R412): this module's post goes to a module again. -/
def execShardPostRetry (c : CompNo) (module : BitVec 16) (s : State) : Host.Outcome State Fault Refusal :=
  let n := c.val
  match (s.comp n).ckpt.dove, s.nodeOf n module.toNat with
  | some d, some node =>
    if !d.posted then ok s
    else
      let me := s.objC Obj.spanCompModuleIndex n
      ok (s.emit (.post 2 node ([me, d.step, (s.ckptSlot n d.slot).digest, s.shardBytes n] ++
        (s.copyLocs n d.slot).flatMap fun l => [l.1, l.2])))
  | _, _ => ok s

/-- DOVETAIL_COMMIT (R412 step 7). -/
def execDovetailCommit (c : CompNo) (s : State) : Host.Outcome State Fault Refusal :=
  let n := c.val
  match (s.comp n).ckpt.dove with
  | none => ok s
  | some d =>
    if !d.record then ok s
    else
      let hints := (s.copyLocs n d.slot).foldr (fun l a => l.1 + l.2 * 2 ^ 32 + a * 2 ^ 64) 0
      let s1 := s.modCkpt n fun q =>
        { q with dove := none, posts := q.posts.filter fun p => decide (d.step < p.step),
                 slots := kmod CkptSlot.init q.slots d.slot fun k => { k with step := some d.step } }
      let s2 := (((s1.setObjC Obj.ckptCompLastCommitted n d.step).setObjC Obj.ckptCompHints n hints).setObjC
        Obj.ckptCompLastStatus n 0).setObjC Obj.ckptCompInProgress n 0
      ok (s2.unitPost n (s.objC Obj.ckptCompCommitPeg n))

/-- DOVETAIL_TIMEOUT (R413). -/
def execDovetailTimeout (c : CompNo) (s : State) : Host.Outcome State Fault Refusal :=
  match (s.comp c.val).ckpt.dove with
  | some d =>
    if d.armedAt + s.objC Obj.ckptCompDovetailMs c.val * 1000000 ≤ s.now then ok (s.abandonDovetail c.val 0x0D05 true)
    else ok s
  | none => ok s

/-- ABANDON_POST_RECEIVE (R413). -/
def execAbandonPostReceive (c : CompNo) (step : W64) (s : State) : Host.Outcome State Fault Refusal :=
  match (s.comp c.val).ckpt.dove with
  | some d => if d.step = step.toNat then ok (s.abandonDovetail c.val 0x0D05 false) else ok s
  | none => ok s

/-- COPY_AHEAD_DONE (R415). -/
def execCopyAheadDone (c : CompNo) (page : BitVec 40) (s : State) : Host.Outcome State Fault Refusal :=
  let n := c.val
  let x := s.spage n page.toNat
  match (s.comp n).ckpt.dove with
  | some d => if x.pending && x.ahead.isSome then ok (s.dovetailCopy n page.toNat d) else ok s
  | none => ok s

/-- COPY_AHEAD_TIMEOUT (R415). -/
def execCopyAheadTimeout (c : CompNo) (page : BitVec 40) (s : State) : Host.Outcome State Fault Refusal :=
  let n := c.val
  match (s.spage n page.toNat).ahead with
  | some t =>
    if (s.spage n page.toNat).pending && t + s.obj Obj.ckptAheadTimeoutMs * 1000000 ≤ s.now then
      ok (s.abandonDovetail n 0x0D06 true)
    else ok s
  | none => ok s

/-- CKPT_HOLDUP_DEADLINE (R418). -/
def execCkptHoldupDeadline (c : CompNo) (s : State) : Host.Outcome State Fault Refusal :=
  let limit := s.obj Obj.holdupBudgetS * 1000000000 - s.obj Obj.ckptHoldupMarginMs * 1000000
  if s.mode = .holdup && s.modeAt + limit ≤ s.now then ok (s.abandonDovetail c.val 0x0D05 true) else ok s

/-! Lost copies (R409). -/

/-- A lease of a copy that is gone, under notice, or whose lender no route reaches. -/
def State.copyGone (s : State) (n : Nat) (x : CkptCopy) : Bool :=
  (s.hops x.node (s.portsOf n)).isEmpty || x.leases.any fun l => match kget none (s.comp n).leases l with
    | some q => q.notice.isSome
    | none => true

/-- CKPT_COPY_LOST (R409): the copy is dropped; it is rebuilt while another is left, else the slot holds no step. -/
def execCkptCopyLost (c : CompNo) (slot copy : Fin 3) (s : State) : Host.Outcome State Fault Refusal :=
  let n := c.val
  let k := slot.val
  let x := s.ckptSlot n k
  match x.copies[copy.val]? with
  | none => ok s
  | some y =>
    if !s.copyGone n y then ok s
    else
      let left := x.copies.eraseIdx copy.val
      let s1 := y.leases.foldl (fun a l => a.dropLease n l)
        ((s.setCkptSlot n k { x with copies := left }).fault 0x0D04 n 0 0 (x.step.getD 0))
      let mine := match (s.comp n).ckpt.dove with
        | some d => decide (d.slot = k)
        | none => false
      if left.isEmpty then
        let s2 := s1.setCkptSlot n k { x with copies := left, step := none, record := [] }
        ok (if mine then s2.abandonDovetail n 0x0D05 true else s2)
      else
        let s2 := s1.modCkpt n fun q => { q with rebuilding := q.rebuilding ++ [(k, copy.val)] }
        ok ((s2.askCopy n k).getD s2)

/-- CKPT_COPY_REBUILT (R409): a lost copy stands again in new leases, from a whole copy of the slot. -/
def execCkptCopyRebuilt (c : CompNo) (slot : Fin 3) (s : State) : Host.Outcome State Fault Refusal :=
  let n := c.val
  let k := slot.val
  if !((s.comp n).ckpt.rebuilding.any fun q => decide (q.1 = k)) || !((s.ckptSlot n k).copies.any (·.whole)) then ok s
  else match s.addCopy n k true with
    | none => ok s
    | some t =>
      let one (q : List (Nat × Nat)) : List (Nat × Nat) := q.eraseP fun z => decide (z.1 = k)
      ok (((t.modCkpt n fun q => { q with rebuilding := one q.rebuilding }).incC Obj.ckptCompCopiesRebuilt n).tryPosts n)

/-! Restore (R419-R423). -/

/-- restore_status: status, phase, step and RESTORE_ID (R424). -/
def State.restoreStatus (s : State) (n status phase step rid : Nat) : State :=
  s.setObjC Obj.ckptCompRestoreStatus n (pack [(0, status), (16, phase), (64, step), (128, rid)])

/-- A restore ends. -/
def State.finishRestore (s : State) (n code step : Nat) : State :=
  match (s.comp n).ckpt.rest with
  | none => s
  | some x =>
    let good := code = 0 || code = 0x0D0D
    let s1 := (s.modCkpt n fun q => { q with rest := none, badRestore := if good then false else q.badRestore || x.step.isSome
      }).restoreStatus n code (if good then 3 else 4) step x.rid
    if code = 0 then s1 else s1.fault code n 0 0 step

/-- The largest step common to every module's set, once all have arrived: its write pass begins with the job's key
ranges formed anew (R421, R422). -/
def State.chooseRestore (s : State) (n : Nat) : State :=
  match (s.comp n).ckpt.rest with
  | none => s
  | some x =>
    if x.step.isSome || x.sets.length < s.objC Obj.spanCompJobModules n then s
    else
      let common := x.mine.filter fun q => x.sets.all fun m => m.2.contains q
      match common.foldl (fun b q => max b q.1) 0, common.isEmpty with
      | _, true => s.finishRestore n (if x.shape then 0x0D07 else 0x0D08) 0
      | step, false =>
        let s1 := (s.modCkpt n fun q => { q with rest := some { x with step := some step } }).restoreStatus n 0 2 step x.rid
        ((List.range 16).filter fun r => !s.contributed n r).foldl (fun a r => a.reformRange n r) s1

/-- Every VALID contributor is KEYED and the job key installed (R323, R392). -/
def State.keysReady (s : State) (n : Nat) : Bool :=
  s.objC Obj.compContribKeyed n = s.contribValid n && s.objC Obj.rotCompJobKeyInstalled n = 1

/-- Some contributor's key range has an unverifiable subtree. -/
def State.contribUnver (s : State) (n : Nat) : Bool :=
  (List.range 16).any fun r => s.contributed n r &&
    ((s.objC Obj.integCompUnverifiableRanges n).testBit r || (s.comp n).unvers.any fun u => decide (u.range = r))

/-- What the records found say: restorable steps with their record digests, whether another shape was seen, and the
copies that differ (R421). -/
def State.judge (s : State) (n maxStep : Nat) (found : List RecFound) : List (Nat × Nat) × Bool × List (Nat × List Nat) :=
  found.foldl (fun b d =>
    let (mine, shape, bad) := b
    if !d.gmacOk || d.jobId.toNat ≠ s.objC Obj.spanCompJobId n then b
    else if d.mapId.toNat ≠ s.objC Obj.ckptCompMapId n || d.shards.toNat ≠ s.objC Obj.spanCompJobModules n then (mine, true, bad)
    else if maxStep ≠ 0 && maxStep < d.step.toNat then b
    else
      let k := d.copies.findIdx (· = true)
      let bad1 := if k = 0 then bad else bad ++ [(d.step.toNat, List.range k)]
      if k < d.copies.length && !mine.contains (d.step.toNat, d.digest.toNat) then
        (mine ++ [(d.step.toNat, d.digest.toNat)], shape, bad1)
      else (mine, shape, bad1)) ([], false, [])

/-- The action of a restore request that its state admits (R420, R421). -/
def State.restoreAct (s : State) (n v : Nat) (found : List RecFound) : Status × State :=
  let rid := fld v 63 0
  let maxStep := fld v 127 64
  let no (st : Status) : Status × State := (st, s.fault 0x0D0A n 0 0 maxStep)
  if (s.comp n).ckpt.rest.isSome then no .stateConflict
  else if rid = 0 || fld v 511 384 ≠ 0 then (.outOfRange, s)
  else if (s.comp n).st = .attested && !s.keysReady n then no .stateConflict
  else if (s.comp n).st = .held && s.contribUnver n then no .unverifiable
  else
    let (mine, shape, bad) := s.judge n maxStep found
    let me := s.objC Obj.spanCompModuleIndex n
    let x : Restore := { rid := rid, since := s.now, shape := shape, mine := mine, corrupt := bad, sets := [(me, mine)],
                         step := none }
    let count := bad.foldl (fun a q => a + q.2.length) 0
    let s1 := if count = 0 then s else (s.incC Obj.ckptCompCorruptCopies n count).faultOnce 0x0D0C n
    let s2 := (s1.modCkpt n fun q => { q with rest := some x }).restoreStatus n 0 1 0 rid
    (.ok, (s2.postAll n 5 ([rid, me] ++ mine.flatMap fun q => [q.1, q.2])).chooseRestore n)

/-- RESTORE_REQUEST (R420, R421). -/
def execRestoreRequest (r : Role) (c : CompNo) (v : BitVec 512) (found : List RecFound) (s : State) :
    Host.Outcome State Fault Refusal :=
  match s.checkWrite r (objAt Obj.ckptCompRestore c.val) v.toNat with
  | .ok =>
    let (st, t) := s.restoreAct c.val v.toNat found
    ok (t.reply st (if st = .ok || st = .outOfRange then 0 else 0x0D0A))
  | .stateConflict => ok ((s.fault 0x0D0A c.val).reply .stateConflict 0x0D0A)
  | st => ok (s.reply st)

/-- RESTORE_SET_RECEIVE (R421). -/
def execRestoreSetReceive (c : CompNo) (rid : W64) (module : BitVec 16) (set : List (W64 × BitVec 384)) (s : State) :
    Host.Outcome State Fault Refusal :=
  let n := c.val
  match (s.comp n).ckpt.rest with
  | none => ok s
  | some x =>
    if x.rid ≠ rid.toNat || x.step.isSome || s.objC Obj.spanCompJobModules n ≤ module.toNat ||
        x.sets.any (fun q => decide (q.1 = module.toNat)) then ok s
    else
      let y : Restore := { x with sets := x.sets ++ [(module.toNat, set.map fun q => (q.1.toNat, q.2.toNat))] }
      ok ((s.modCkpt n fun q => { q with rest := some y }).chooseRestore n)

/-- RESTORE_TIMEOUT (R421). -/
def execRestoreTimeout (c : CompNo) (s : State) : Host.Outcome State Fault Refusal :=
  match (s.comp c.val).ckpt.rest with
  | some x =>
    if x.step.isNone && x.since + s.obj Obj.ckptRestoreMs * 1000000 ≤ s.now then ok (s.finishRestore c.val 0x0D09 0)
    else ok s
  | none => ok s

/-- RESTORE_ABORT_POST (R423). -/
def execRestoreAbortPost (c : CompNo) (rid : W64) (s : State) : Host.Outcome State Fault Refusal :=
  match (s.comp c.val).ckpt.rest with
  | some x => if x.rid = rid.toNat then ok (s.finishRestore c.val 0x0D0E 0) else ok s
  | none => ok s

/-! The write pass (R422). -/

/-- A page of a shard: number, poisoned lines, lines that do not read as zero, bytes. -/
structure ShardPage where
  page   : Nat
  tagOk  : Bool
  poison : List Nat
  live   : List Nat
  data   : List (Nat × Byte)

def shardPageOf (r : ShardRec) : ShardPage :=
  let p := r.page.toNat
  { page := p, tagOk := r.tagOk, poison := bitsOf 1024 r.poison.toNat,
    live := (List.range 1024).filter fun l => !r.zero.toNat.testBit l,
    data := writeBytes [] (p * 65536) (padTo 65536 r.data) }

/-- The pages of a slot's shard that are not all zero. -/
def CkptSlot.pagesOf (k : CkptSlot) (ps : List Nat) : List ShardPage :=
  ps.map fun p =>
    { page := p, tagOk := true, poison := (k.poison.filter fun q => decide (q.1 / 1024 = p)).map (·.1 % 1024),
      live := (k.live.filter fun q => decide (q.1 / 1024 = p)).map (·.1 % 1024),
      data := k.mem.filter fun q => decide (q.1 / 65536 = p) }

/-- One page written as a first write; a page that reads as zero throughout takes no frame. A poison bit of a shard
keeps no fault code: its lines read with 0x0B02. The number is the fault that stops the pass, 0 for none. -/
def State.restorePage (s : State) (n : Nat) (x : ShardPage) : Nat × State :=
  if !x.tagOk then (0x0D08, s)
  else if x.poison.isEmpty && x.live.isEmpty then (0, s)
  else match s.firstFrame n x.page with
    | none => (0x0D0B, s)
    | some (l, s1) =>
      let s2 := s1.placePage n x.page l
      let g := s2.spage n x.page
      let s3 := s2.setPage n x.page { g with live := x.live.map fun l => (l, true), used := s.now,
                                             epoch := (s.comp n).ckpt.epoch }
      (0, s3.modComp n fun c =>
        { c with mem := splicePage 65536 x.page c.mem (x.data.filter fun q => decide (q.2 ≠ 0)),
                 poison := splicePage 1024 x.page c.poison (x.poison.map fun l => (x.page * 1024 + l, 0x0B02)) })

/-- Pages written in order until one stops the pass; those written stay. -/
def State.restorePages (s : State) (n : Nat) : List ShardPage → Nat × State
  | [] => (0, s)
  | x :: r =>
    match s.restorePage n x with
    | (0, t) => t.restorePages n r
    | e => e

/-- The policies of a shard header come into force. -/
def State.restorePols (s : State) (n : Nat) (pols : List (Nat × Nat)) : State :=
  pols.foldl (fun a q => match a.pobj n q.1 with
    | some o => a.setPObj n q.1 (some { o with policy := q.2, pinned := false, deferred := none, moves := [] })
    | none => a) s

/-- A shard copy of another module's leases is adopted: a slot for it, its leases charged (R422). -/
def State.adopt (s : State) (n step : Nat) (leases : List (BitVec 16 × W32)) : Except Nat State :=
  let keys := leases.map fun l => leaseKey l.1.toNat l.2.toNat
  if s.objC Obj.tierCompCkptQuotaGib n < s.leasesHeld n true + keys.length then .error 0x0D0B
  else
    let s1 := s.modComp n fun x =>
      { x with leases := leases.foldl (fun m l =>
          kput none m (leaseKey l.1.toNat l.2.toNat) (some ⟨l.1.toNat, none, 0, none, 0⟩)) x.leases }
    let node := match leases with
      | l :: _ => l.1.toNat
      | [] => 0
    let k := s.targetSlot n
    .ok (s1.setCkptSlot n k { CkptSlot.init with step := some step, copies := [⟨node, keys, true⟩],
                                                  pols := (s.ckptSlot n k).pols })

/-- The units after a restore of a step (R422). -/
def State.restoreUnits (s : State) (n step : Nat) : State :=
  let held := (s.comp n).st = .held
  let u : Upd := { Upd.init with scaleLoaded := (s.comp n).upd.scaleLoaded, layerLoaded := (s.comp n).upd.layerLoaded,
                                 noise := (s.comp n).upd.noise }
  let newer (q : Nat × CkptSlot) : Nat × CkptSlot :=
    if step < q.2.step.getD 0 then (q.1, { q.2 with step := none, record := [] }) else q
  let s1 := (s.clearPegs n).modComp n fun c =>
    { c with upd := u, tallies := [], tally := [],
             ckpt := { c.ckpt with slots := c.ckpt.slots.map newer, lastBoundary := some step, badRestore := false } }
  let s2 := (s1.setObjC Obj.compTallyStep n (step + 1)).reseed n
  if held then
    (((s2.eachTile n fun _ y => y.emptied).endThreads n).startThreads n).setObjC Obj.compHoldCause n 0x0A0B
  else s2.setObjC Obj.compHoldCause n 0

/-- The copies of a step's shard that were counted corrupt are dropped, and rebuilt as far as leases go. -/
def State.repair (s : State) (n step : Nat) (bad : List Nat) : Nat × State :=
  match firstBelow 3 fun k => (s.ckptSlot n k).step = some step with
  | none => (0, s)
  | some k =>
    let x := s.ckptSlot n k
    let keep := (x.copies.zipIdx.filter fun q => !bad.contains q.2).map (·.1)
    let s1 := (s.setCkptSlot n k { x with copies := keep }).fillCopies n k true (x.copies.length - keep.length)
    let got := (s1.ckptSlot n k).copies.length - keep.length
    (got, s1.incC Obj.ckptCompCopiesRebuilt n got)

/-- What the write pass reads: the copy it adopts, or this module's own slot of the step. -/
def State.restoreSource (s : State) (n step : Nat) (img : Option ShardImg) :
    Except Nat (State × List (Nat × Nat) × List ShardPage) :=
  match img with
  | some g =>
    (match s.adopt n step g.leases with
     | .ok t => .ok (t, g.pols.map (fun q => (q.1.toNat, q.2.toNat)), g.recs.map shardPageOf)
     | .error e => .error e)
  | none =>
    (match firstBelow 3 fun k => (s.ckptSlot n k).step = some step with
     | some k => .ok (s, (s.ckptSlot n k).pols, (s.ckptSlot n k).pagesOf (s.setPages n))
     | none => .error 0x0D08)

/-- RESTORE_WRITE_DONE (R422): the write pass, from this module's own slot or from a copy it adopts. -/
def execRestoreWriteDone (c : CompNo) (img : Option ShardImg) (s : State) : Host.Outcome State Fault Refusal :=
  let n := c.val
  match (s.comp n).ckpt.rest with
  | none => ok s
  | some x =>
    match x.step with
    | none => ok s
    | some step =>
      match s.restoreSource n step img with
      | .error e => ok (s.finishRestore n e step)
      | .ok (s1, pols, pages) =>
        match (s1.restorePols n pols).restorePages n pages with
        | (e + 1, s2) => ok (s2.finishRestore n (e + 1) step)
        | (0, s2) =>
          let (got, s3) := (s2.restoreUnits n step).repair n step ((x.corrupt.filter fun q => decide (q.1 = step)).flatMap (·.2))
          ok (s3.finishRestore n (if got = 0 then 0 else 0x0D0D) step)

end Sys2Proof.Machine
end

