-- ==== Sys2Proof/Machine/Threads.lean ====
section
/-! DEFINITION. What every instruction of a prep-core thread shares: the guard of an issue, the result register, the
program counter, exceptions and events (chapter 05, R134-R151). -/

namespace Sys2Proof.Machine
open Sys2Proof

/-- The beats of a tile at the pacer's rate need a permit: gate mode, or a cap that engages the pacer (R42, R449). -/
def State.gated (s : State) (n : Nat) : Bool := s.objC Obj.tileCompMode n = 1 || (s.comp n).cap.isSome

/-- Threaded mode (R149). -/
def State.threaded (s : State) (n : Nat) : Bool := s.objC Obj.prepCompLatencyMode n = 1

/-- Threads a core may run: 8, or T in resident mode (R149). -/
def State.threadsOf (s : State) (n : Nat) : Nat := if s.threaded n then 8 else s.objC Obj.prepCompResidentThreads n

/-- The compartment for which a thread can issue an instruction: RUNNING, its tile ON and with a permit where the
pacer gates it, the thread READY or in RUNAHEAD and still issuing. -/
def State.issuer (s : State) (t : ThreadId) : Option Nat :=
  match s.compOfTile t.tile.val with
  | none => none
  | some n =>
    let y := s.tile t.tile.val
    let th := s.thread t.key
    let may := match th.st with
      | .ready => true
      | .runahead => (match th.ra with | some r => r.issuing | none => false)
      | _ => false
    if s.running n && y.dom = .on && !s.fenced t.tile.val && may && (!s.gated n || y.permits ≠ 0) then some n else none

/-- Work of a tile now: its idle time starts afresh (R51). -/
def State.beatTouch (s : State) (k : Nat) : State := s.modTile k fun y => { y with since := s.now }

/-- One beat of a core given to a thread: the permit consumed, the core's beat counted, the thread the last issuer. -/
def State.beat (s : State) (t : ThreadId) (n : Nat) : State :=
  let s1 := if s.gated n then s.modTile t.tile.val fun y => { y with permits := y.permits - 1 } else s
  let c := s1.core t.coreKey
  ((s1.setCore t.coreKey { c with cycle := (c.cycle + 1) % 2 ^ 64, last := t.thr.val }).beatTouch t.tile.val).tileEvent
    t.tile.val 0x40 1

/-- An instruction of a thread retires: x[rd] written, the pc past it, instret counted; in run-ahead instret stays. -/
def State.retire (s : State) (t : ThreadId) (rd : Nat) (v : Nat) (len : Nat := 4) : State :=
  let s1 := s.modThread t.key fun h =>
    { (h.setX rd (BitVec.ofNat 64 v)) with pc := h.pc + BitVec.ofNat 64 len, instret := (h.instret + 1) % 2 ^ 64 }
  s1.tileEvent t.tile.val 0x41 1

/-- A thread halts with 0x040A: the first since the last clear is kept and logged with the original cause (R141, R172,
R173). -/
def State.haltThread (s : State) (t : ThreadId) (n code : Nat) : State :=
  let h := s.thread t.key
  let s1 := s.modThread t.key fun h => { h with st := .halted }
  if s.objC Obj.prepCompFirstFault n = 0 then
    (s1.setObjC Obj.prepCompFirstFault n (pack [(0, code), (16, t.tile.val), (32, t.core.val), (40, t.thr.val),
      (64, h.yepc.toNat), (128, h.ytval.toNat), (192, s.stamp)])).fault 0x040A n t.tile.val code
  else s1

/-- An exception or a diverting event: recorded and taken to yhandler, or the thread halts (R141). -/
def State.divert (s : State) (t : ThreadId) (n code tval : Nat) : State :=
  let h := s.thread t.key
  if h.inHandler then s.haltThread t n code
  else
    let s1 := s.modThread t.key fun h =>
      { h with ycause := BitVec.ofNat 64 code, yepc := h.pc, ytval := BitVec.ofNat 64 tval }
    if h.yhandler = 0 then s1.haltThread t n code
    else s1.modThread t.key fun h => { h with pc := h.yhandler, inHandler := true, st := .ready }

/-- An exception of an instruction: counted, then delivered; a code of R173 that reaches a handler is logged, one that
halts its thread stands in the entry of the halt. -/
def State.exception (s : State) (t : ThreadId) (n code tval : Nat) : State :=
  let s1 := ((s.incC Obj.prepCompThreadFaults n).tileEvent t.tile.val 0x48 1).divert t n code tval
  if 0x0401 ≤ code && code ≤ 0x0405 && (s1.thread t.key).st ≠ .halted then s1.fault code n t.tile.val else s1

/-- A thread in run-ahead waits for its load without issuing (R158). -/
def State.raStop (s : State) (t : ThreadId) : State :=
  s.modThread t.key fun h => { h with ra := h.ra.map fun r => { r with issuing := false } }

/-- A register of a run-ahead thread marked invalid, the pc past the instruction (R158). -/
def State.raSkip (s : State) (t : ThreadId) (rd : Nat) (len : Nat := 4) : State :=
  s.modThread t.key fun h =>
    { h with pc := h.pc + BitVec.ofNat 64 len,
             ra := h.ra.map fun r => { r with invX := if rd = 0 then r.invX else setBit r.invX rd true } }

/-- An instruction that run-ahead does not execute (R158): elsewhere it issues on its beat. -/
def State.issue (s : State) (t : ThreadId) (rd : Nat) (f : State → Nat → State) : State :=
  match s.issuer t with
  | none => s
  | some n =>
    let s1 := s.beat t n
    if (s.thread t.key).st = .runahead then s1.raSkip t rd else f s1 n

/-- The yevents bit of the thread that posted a work item, with the record that reports the event (R146): a thread that
has exited does not receive it. -/
def State.signal (s : State) (thread bitNo status recAddr : Nat) : State :=
  if (s.thread thread).st = .idle then s
  else s.modThread thread fun h =>
    { h with yevents := setBit h.yevents bitNo true, evRec := kput 0 h.evRec bitNo (recAddr * 65536 + status) }

/-- A thread that a full engine queue stalled tries its post again once an entry frees. -/
def State.unstall (s : State) (tile : Nat) (e : Engine) : State :=
  { s with threads := s.threads.map fun p =>
      if p.1 / 32 = tile && p.2.st = .stalled && p.2.stallOn = some e
      then (p.1, { p.2 with st := .ready, stallOn := none }) else p }

end Sys2Proof.Machine
end

