-- ==== Sys2Proof/Machine/Pegs.lean ====
section
/-! DEFINITION. Pegs and the segment table (chapter 08, R219-R250): the peg instructions, peg operations between
modules, and the writes of segments. -/

namespace Sys2Proof.Machine
open Sys2Proof

/-! Segments (R221, R222). -/

/-- A segment descriptor keeps R221 and R5. -/
def Seg.sound (g : Nat) : Bool :=
  let zero := fld g 31 11 = 0 && fld g 79 72 = 0 && fld g 127 112 = 0 && fld g 175 165 = 0 && fld g 191 186 = 0 &&
    fld g 255 203 = 0
  let kinds := (!Seg.atomic g || (Seg.read g && Seg.write g)) && 1 ≤ Seg.pages g
  zero && kinds &&
    (if Seg.kind g = 1 then decide (Seg.interleave g ≤ 20) && Seg.tileFirst g = 0 && Seg.tileCount g = 0
     else Seg.kind g = 2 && Seg.homeCount g = 1 && Seg.interleave g = 0 && 1 ≤ Seg.tileCount g &&
       decide (Seg.tileCount g ≤ 1024))

/-- A segment may be appended (R222). -/
def State.segFits (s : State) (n g : Nat) : Bool :=
  let segs := (s.comp n).segs
  Seg.sound g && decide (Seg.base g + Seg.pages g ≤ 2 ^ 40) &&
    !segs.any (fun h => overlaps (Seg.base g) (Seg.pages g) (Seg.base h) (Seg.pages h)) &&
    decide (Seg.homeFirst g + Seg.homeCount g - 1 < s.objC Obj.spanCompJobModules n) &&
    (Seg.kind g = 1 || (decide (Seg.pages g ≤ Seg.tileCount g * 64) &&
      decide (Seg.tileFirst g + Seg.tileCount g ≤ 1024))) && decide (segs.length < 256)

/-- SEG_WRITE (R222). -/
def execSegWrite (r : Role) (c : CompNo) (v : BitVec 256) (s : State) : Host.Outcome State Fault Refusal :=
  match s.checkWrite r (objAt Obj.spanCompSegWrite c.val) v.toNat with
  | .ok =>
    if s.segFits c.val v.toNat then
      ok ((s.modComp c.val fun x => { x with segs := x.segs ++ [v.toNat] }).reply .ok)
    else ok ((s.fault 0x0701 c.val).reply .outOfRange 0x0701)
  | st => ok (s.reply st)

/-- SEG_CLEAR (R249). -/
def execSegClear (r : Role) (c : CompNo) (v : Bool) (s : State) : Host.Outcome State Fault Refusal :=
  ok (s.clearWrite r (objAt Obj.spanCompSegClear c.val) v fun s => s.modComp c.val fun x => { x with segs := [] })

/-! Peg operations of a compartment on this module (R242-R245). -/

/-- The four operations. -/
inductive PegOut where
  | done (value : Nat)
  | wait
  | refused (code : Nat)
  deriving DecidableEq, Repr

def pegCode : PegOp → Nat
  | .post => 0 | .wait => 1 | .try_ => 2 | .read => 3

/-- rs2 in its range for the kind of the peg (R242). -/
def pegArgOk (op : PegOp) (seq : Bool) (v : Nat) : Bool :=
  match op with
  | .read => true
  | .post => 1 ≤ v && v < 2 ^ 31
  | _ => if seq then v < 2 ^ 32 else 1 ≤ v && v < 2 ^ 31

/-- An operation on a peg of this module, for compartment n; one that would wait changes nothing yet. -/
def State.pegPerform (s : State) (n : Nat) (op : PegOp) (p v : Nat) : PegOut × State :=
  if !s.pegOwned n p then
    (.refused 0x0705, (s.incC Obj.spanCompPegRefused n).faultOnce 0x0705 n 0 p)
  else if !pegArgOk op (s.pegSeq n p) v then
    (.refused 0x0704, (s.incC Obj.spanCompPegRefused n).faultOnce 0x0704 n 0 p)
  else
    let g := s.peg p
    let seq := s.pegSeq n p
    match op with
    | .read => (.done g.value, s)
    | .post =>
      (match s.pegAdd seq p v with
       | some t => (.done 0, t)
       | none => (.refused 0x0703, (s.incC Obj.spanCompPegOverflows n).faultOnce 0x0703 n 0 p))
    | _ =>
      if seq then (if seqReached g.value v then (.done 0, s) else (.wait, s))
      else if g.waiters.isEmpty && v ≤ g.value then (.done 0, s.setPeg p { g with value := g.value - v })
      else (.wait, s)

/-- The refusal of a handle (R241, R242). -/
def State.badHandle (s : State) (n : Nat) : State :=
  (s.incC Obj.spanCompPegRefused n).faultOnce 0x0704 n 0 0

/-- Stores of a thread not yet acknowledged hold back its release (R235, R246). -/
def State.storesOpen (s : State) (t : ThreadId) : Bool :=
  let y := s.tile t.tile.val
  (y.slots.any fun q => match q.2 with | some x => decide (x.who = .store t.key) | none => false) ||
    y.parked.any fun q => decide (q.who = .store t.key)

/-- A thread's peg operation, its beat given: performed at once on this module, or sent to another on one request
slot (R246). -/
def State.pegDo (s : State) (t : ThreadId) (n rd h v : Nat) (op : PegOp) : State :=
  if Hnd.bad h then (s.badHandle n).retire t rd 0x0704
  else if Hnd.remote h && Hnd.module h ≠ s.objC Obj.spanCompModuleIndex n then
    let q : Parked := { who := .pegOp t.key, target := .module (Hnd.module h), addr := Hnd.peg h * 4 + pegCode op,
                        bytes := 8, kind := .read, data := leBytes 8 v }
    let (got, s1) := (s.retire t 0 0).request n t.tile.val q
    (s1.compEvent n 0xA2 1).modThread t.key fun x =>
      { x with st := if got then .stalled else .parked, waitPeg := some ⟨rd, Hnd.peg h, some (Hnd.module h)⟩ }
  else
    let p := Hnd.peg h
    match (s.compEvent n 0xA1 1).pegPerform n op p v with
    | (.done x, s1) => (if op = .post then s1 else s1.purge t.key).retire t rd x
    | (.refused c, s1) => (s1.compEvent n 0xA3 1).retire t rd c
    | (.wait, s1) =>
      if op = .try_ then s1.retire t rd 1
      else
        let g := s1.peg p
        ((s1.setPeg p { g with waiters := g.waiters ++ [.local t.key v] }).retire t 0 0).modThread t.key fun x =>
          { x with st := .waiting, waitPeg := some ⟨rd, p, none⟩ }

/-- A peg instruction of a thread; a post waits for the thread's earlier stores (R235, R246). -/
def State.pegIssue (s : State) (t : ThreadId) (rd rs1 rs2 : Nat) (op : PegOp) : State :=
  if op = .post && (s.thread t.key).st ≠ .runahead && s.storesOpen t then s
  else s.issue t rd fun s n =>
    s.pegDo t n rd ((s.thread t.key).getX rs1).toNat ((s.thread t.key).getX rs2).toNat op

/-- PEG_POST (R242). -/
def execPegPost (t : ThreadId) (rd rs1 rs2 : Fin 32) (s : State) : Host.Outcome State Fault Refusal :=
  ok (s.pegIssue t rd.val rs1.val rs2.val .post)
/-- PEG_WAIT (R242). -/
def execPegWait (t : ThreadId) (rd rs1 rs2 : Fin 32) (s : State) : Host.Outcome State Fault Refusal :=
  ok (s.pegIssue t rd.val rs1.val rs2.val .wait)
/-- PEG_TRY (R242). -/
def execPegTry (t : ThreadId) (rd rs1 rs2 : Fin 32) (s : State) : Host.Outcome State Fault Refusal :=
  ok (s.pegIssue t rd.val rs1.val rs2.val .try_)
/-- PEG_READ (R242). -/
def execPegRead (t : ThreadId) (rd rs1 rs2 : Fin 32) (s : State) : Host.Outcome State Fault Refusal :=
  ok (s.pegIssue t rd.val rs1.val rs2.val .read)

/-! Peg operations between modules (R225, R246-R248). -/

/-- The compartment of a job (R225): one that has left FREE. -/
def State.compOfJob (s : State) (job : Nat) : Option Nat :=
  firstBelow 8 fun n => decide ((s.comp n).st ≠ .free) && s.objC Obj.spanCompJobId n = job

/-- A request that names a foreign job, tile or page (R225). -/
def State.remoteDenied (s : State) (node tag : Nat) (job : Nat) (page : Nat) : State :=
  let s1 := (s.inc Obj.spanRemoteDenied).fault 0x0702 ((s.compOfJob job).getD noComp) 0 0 page
  let p : Packet := { op := 0x20, lines := 0, src := s.obj Obj.fabNode, dst := node, job := job, addr := 0, tag := tag,
                      status := 0x0702, operand := 0, data := [] }
  { s1 with egress := s1.egress ++ [⟨p, none, none⟩] }

/-- REMOTE_PEG_OPERATION (R246): the operation of a job module arrives; a wait that cannot be satisfied is registered
while an entry is free (R247). -/
def execRemotePegOperation (node : BitVec 16) (tag : W32) (job : W64) (op : PegOp) (peg : Fin 16384) (rs2 : W64)
    (s : State) : Host.Outcome State Fault Refusal :=
  match s.compOfJob job.toNat with
  | none => ok (s.remoteDenied node.toNat tag.toNat job.toNat 0)
  | some n =>
    let reply (s : State) (st v : Nat) (reg : Bool) : State :=
      s.respond n node.toNat tag.toNat st (pegOperand v reg) []
    match s.pegPerform n op peg.val rs2.toNat with
    | (.done x, s1) => ok (reply s1 0 x false)
    | (.refused c, s1) => ok (reply s1 c 0 false)
    | (.wait, s1) =>
      if op = .try_ then ok (reply s1 0 1 false)
      else
        let used := s1.objC Obj.spanCompRemoteWaitersUsed n
        if 2048 ≤ used then ok (reply (s1.fault 0x0706 n 0 0 peg.val) 0x0706 0 false)
        else
          let g := s1.peg peg.val
          ok (reply ((s1.setPeg peg.val { g with waiters := g.waiters ++
            [.remote n node.toNat tag.toNat rs2.toNat] }).setObjC Obj.spanCompRemoteWaitersUsed n (used + 1)) 0 0 true)

/-- The slot of a thread's peg operation. -/
def State.pegSlot (s : State) (t : ThreadId) : Option (Nat × Slot) :=
  (s.tile t.tile.val).slots.findSome? fun q => match q.2 with
    | some x => if x.who = .pegOp t.key then some (q.1, x) else none
    | none => none

/-- A thread's remote peg operation ends with a value in rd. -/
def State.pegEnd (s : State) (k v : Nat) (acquire : Bool) : State :=
  let s1 := if acquire then s.purge k else s
  s1.modThread k fun x =>
    match x.waitPeg with
    | some w => { (x.setX w.rd (BitVec.ofNat 64 v)) with st := .ready, waitPeg := none }
    | none => x

/-- REMOTE_PEG_REPLY (R246): the reply to the operation in a thread's slot, or the satisfaction of its registered
wait. -/
def execRemotePegReply (t : ThreadId) (status : BitVec 16) (value : W64) (registered : Bool) (s : State) :
    Host.Outcome State Fault Refusal :=
  let k := t.key
  match s.pegSlot t with
  | some (i, x) =>
    let s1 := s.setSlot t.tile.val i none
    if status ≠ 0 then ok (s1.pegEnd k status.toNat false)
    else if registered then ok (s1.modThread k fun x => { x with st := .waiting })
    else ok (s1.pegEnd k value.toNat (x.addr % 4 ≠ 0 && !(x.addr % 4 = pegCode .try_ && value = 1)))
  | none =>
    let h := s.thread k
    if h.st = .waiting && (match h.waitPeg with | some w => w.remote.isSome | none => false) then
      ok (s.pegEnd k (if status = 0 then 0 else status.toNat) (status = 0))
    else ok s

/-- REMOTE_TIMEOUT (R231, R246): a request that left this module has had no reply for span.remote_timeout_ms. -/
def execRemoteTimeout (t : TileNo) (slot : Fin 256) (s : State) : Host.Outcome State Fault Refusal :=
  match s.slotAt t.val slot.val, s.compOfTile t.val with
  | some x, some n =>
    let far := match x.target with | .module m => m < 65536 | _ => false
    if !far || x.reply.isSome || !x.left || s.now < x.issued + s.obj Obj.spanRemoteTimeoutMs * 1000000 then ok s
    else
      let s1 := s.lostAccess n 0x0708 x.addr
      match x.who with
      | .pegOp k => ok ((s1.setSlot t.val slot.val none).pegEnd k 0x0708 false)
      | _ => ok (s1.answerSlot t.val slot.val 0x0708 [])
  | _, _ => ok s

end Sys2Proof.Machine
end

