-- ==== Sys2Proof/Machine/Fabric.lean ====
section
/-! DEFINITION. The span fabric (chapter 10, R283-R317): ports, link frames, credits, retry, audit, link keys, and the
loss of ports and packets. -/

namespace Sys2Proof.Machine
open Sys2Proof

/-! Frames and packets (R290, R293). -/

def Fh.type (h : Nat) : Nat := fld h 7 0
def Fh.flits (h : Nat) : Nat := fld h 13 8
def Fh.fseq (h : Nat) : Nat := fld h 27 16
def Fh.ack (h : Nat) : Nat := fld h 43 32
def Fh.vc (h : Nat) : Nat := fld h 50 48
def Fh.ctr (h : Nat) : Nat := fld h 95 64
def Fh.ret (h v : Nat) : Nat := fld h (128 + 16 * v + 15) (128 + 16 * v)

/-- FLITS in the range of a TYPE. -/
def Fh.flitsOk (ty n : Nat) : Bool :=
  match ty with
  | 1 => 1 ≤ n && n ≤ 32
  | 2 => n = 0
  | 3 => n = 4
  | 4 => n = 25
  | 5 => n = 0
  | 6 => n = 1
  | _ => false

/-- No reserved TYPE or field, FLITS in range, and the fields of DATA zero elsewhere. -/
def Fh.sound (h : Nat) : Bool :=
  Fh.flitsOk (Fh.type h) (Fh.flits h) && !bit h 15 && fld h 31 28 = 0 && fld h 47 44 = 0 && fld h 63 51 = 0 &&
    fld h 127 96 = 0 && (Fh.type h = 1 || (Fh.fseq h = 0 && Fh.vc h = 0))

/-- The packet of a header flit. -/
def rxPacket (r : RxPkt) : Packet :=
  let h := r.header.toNat
  { op := fld h 7 0, lines := fld h 12 8, src := fld h 31 16, dst := fld h 47 32, job := fld h 127 64,
    addr := fld h 183 128, tag := fld h 223 192, status := fld h 239 224, operand := fld h 511 256,
    data := padTo (64 * fld h 12 8) r.data }

/-- No reserved opcode or field, LINES in its range. -/
def rxSound (r : RxPkt) : Bool :=
  let h := r.header.toNat
  [0x10, 0x11, 0x12, 0x13, 0x20, 0x30, 0x31, 0x40, 0x41].contains (fld h 7 0) && fld h 12 8 ≤ 16 &&
    (fld h 7 0 ≠ 0x20 || fld h 12 8 ≤ 1) && fld h 15 13 = 0 && fld h 63 48 = 0 && fld h 191 184 = 0 && fld h 255 240 = 0

def Packet.flits (p : Packet) : Nat := 1 + p.lines

/-- The VC shares as one number, 16 bits each (R296). -/
def shareOf (shares v : Nat) : Nat := fld shares (16 * v + 15) (16 * v)
def sharesOk (shares : Nat) : Bool :=
  (List.range 8).all (fun v => 64 ≤ shareOf shares v) && ((List.range 8).map (shareOf shares)).foldl (· + ·) 0 = 8192

def State.modPort (s : State) (p : Nat) (f : Port → Port) : State := s.setPort p (f (s.port p))

/-- The fabric address (R287). -/
def State.fabAddr (s : State) : Nat := s.obj Obj.fabSpanTag * 65536 + s.obj Obj.fabNode

/-- A fabric fault with its port: 0x0902, 0x0903, 0x0908 and 0x090A always, the others for their first on the port in
each measurement window (R317). -/
def State.portFault (s : State) (p code : Nat) (comp : Nat := noComp) : State :=
  if [0x0902, 0x0903, 0x0908, 0x090A].contains code then s.fault code comp p
  else
    let key := code + 65536 * (p + 1)
    if kget 0 s.log.lastWin key = s.window + 1 then s
    else
      let s1 := s.fault code comp p
      { s1 with log := { s1.log with lastWin := kput 0 s1.log.lastWin key (s.window + 1) } }

/-! Frames sent. -/

/-- Cumulative credits returned per VC, as CREDIT_RET carries them. -/
def Port.creditRet (x : Port) : Nat :=
  (List.range 8).foldl (fun a v => a + (kget 0 x.retTx v % 65536) <<< (16 * v)) 0

/-- A sealed frame leaves: its header fields, one FRAME_CTR used. -/
def State.sendFrame (s : State) (p ty flits fseq vc : Nat) (body : List Nat) (data : List Byte) : State :=
  let x := s.port p
  (s.setPort p { x with ctrTx := x.ctrTx + 1 }).emit
    (.frame p ty ([flits, x.epoch % 2, fseq, x.expect, vc, x.ctrTx, x.creditRet] ++ body) data)

/-- The words of a packet as it goes out (R293). -/
def Packet.words (k : Packet) : List Nat :=
  [k.op, k.lines, k.src, k.dst, k.job, k.addr, k.tag, k.status, k.operand]

/-- A frame of the retry buffer as it is first sent or replayed: its own FRAME_CTR and epoch (R300). -/
def State.emitData (s : State) (p : Nat) (f : Frame) : State :=
  let x := s.port p
  s.emit (.frame p 1 ([f.flits, f.epoch % 2, f.fseq, x.expect, f.vc, f.ctr, x.creditRet] ++
    f.pkts.flatMap fun q => q.pkt.words) (f.pkts.flatMap fun q => q.pkt.data))

def State.sendLink (s : State) (p : Nat) : State := s.sendFrame p 2 0 0 0 [] []

/-- A REPLAY_REQ, at most one per round trip (R301). -/
def State.sendReplayReq (s : State) (p : Nat) : State :=
  let x := s.port p
  let may := match x.reqAt with
    | some t => decide (t + x.rtt ≤ s.now)
    | none => true
  if may then (s.setPort p { x with reqAt := some s.now }).sendFrame p 5 0 0 0 [] [] else s

/-! Loss of packets (R231, R248, R310). -/

/-- A request of this module that a packet carries completes with a fault. -/
def State.failOwn (s : State) (n : Nat) (k : Packet) (code : Nat) : State :=
  if k.tag < 2 ^ 18 && 0x10 ≤ k.op && k.op ≤ 0x13 then
    let t := k.tag / 256
    let i := k.tag % 256
    match s.slotAt t i with
    | some x =>
      if x.reply.isSome then s
      else
        let s1 := s.lostAccess n code x.addr
        (match x.who with
         | .pegOp key => (s1.setSlot t i none).pegEnd key code false
         | _ => s1.answerSlot t i code [])
    | none => s
  else s

/-- A transit packet is given back to its source with UNDELIVERED; a RESPONSE is not answered. -/
def State.returnTransit (s : State) (k : Packet) : State :=
  if k.op = 0x20 then s
  else
    let r : Packet := { op := 0x20, lines := 0, src := s.obj Obj.fabNode, dst := k.src, job := k.job, addr := k.addr,
                        tag := k.tag, status := 0xFFFF, operand := 0, data := [] }
    if (s.hops k.src (2 ^ 32 - 1)).isEmpty then s
    else { s with egress := s.egress ++ [⟨r, none, none⟩] }

/-- The receive buffer of a port lets the flits of a packet go: their credits are returned (R297). -/
def State.freeFlits (s : State) (q : QPkt) : State :=
  match q.inPort with
  | some (p, v, true) =>
    s.modPort p fun x => { x with retTx := kput 0 x.retTx v (kget 0 x.retTx v + q.pkt.flits) }
  | _ => s

/-- Packets with no port left to leave by: 0x0707 at this module, UNDELIVERED for transit, 0x090C (R310). -/
def State.reroute (s : State) (p : Nat) : State :=
  let lost := s.egress.filter fun q => (s.hops q.pkt.dst (s.hopMask q)).isEmpty
  let s1 := { s with egress := s.egress.filter fun q => !(s.hops q.pkt.dst (s.hopMask q)).isEmpty }
  lost.foldl (fun a q =>
    let b := (a.freeFlits q).portFault p 0x090C (q.comp.getD noComp)
    match q.comp with
    | some n => b.failOwn n q.pkt 0x0707
    | none => if q.inPort.isSome then b.returnTransit q.pkt else b) s1

/-- Remote waits of this module's threads at modules that can no longer be reached end with 0x0708 (R248). -/
def State.endRemoteWaits (s : State) : State :=
  let gone := s.threads.filter fun q =>
    decide (q.2.st = .waiting) && (match q.2.waitPeg, s.compOfTile (q.1 / 32) with
      | some w, some n => (match w.remote with
        | some m => !s.reachable n m
        | none => false)
      | _, _ => false)
  gone.foldl (fun a q =>
    (a.incC Obj.spanCompOutcomeUnknown ((s.compOfTile (q.1 / 32)).getD 0)).pegEnd q.1 0x0708 false) s

/-- The unacknowledged frames of a port that never comes back: never sent by another route (R310). -/
def State.dropRetry (s : State) (p : Nat) : State :=
  let fs := (s.port p).retry.flatMap (·.pkts)
  fs.foldl (fun a q =>
    match q.comp with
    | some n => a.failOwn n q.pkt 0x0708
    | none => if q.inPort.isSome then a.returnTransit q.pkt else a) (s.modPort p fun x => { x with retry := [] })

/-- Transit packets that came by a port no longer hold credits of its buffer. -/
def State.detach (s : State) (p : Nat) : State :=
  let f (q : QPkt) : QPkt := match q.inPort with
    | some (i, v, _) => if i = p then { q with inPort := some (i, v, false) } else q
    | none => q
  { s with egress := s.egress.map f }

/-- A port starts training afresh (R286): nothing of an earlier link is kept, of its time messages neither. -/
def State.startTraining (s : State) (p : Nat) : State :=
  let s1 := (s.detach p).setPort p { Port.init with st := .training, runs := (s.port p).runs }
  { s1 with clock := { s1.clock with ports := kerase s1.clock.ports p } }

/-- A port goes where its frames are lost: OFF or ISOLATED. -/
def State.dropPort (s : State) (p : Nat) (st : PortState) : State :=
  ((((s.detach p).modPort p fun x => { x with st := st, width := 0 }).dropRetry p).reroute p).endRemoteWaits

/-- A port becomes ISOLATED with a fault (R304, R307, R312). -/
def State.isolate (s : State) (p code : Nat) : State := (s.dropPort p .isolated).portFault p code

/-- A partner violation counted, with its fault where it has one (R312). -/
def State.violation (s : State) (p code : Nat) : State :=
  let s1 := s.incC Obj.fabPortViolations p
  if code = 0 then s1 else s1.portFault p code

/-- Runs of R304 and isolating violations of a port within the last 2^36 ns, this one included. -/
def State.runsOf (s : State) (p : Nat) : List Nat := s.now :: (s.port p).runs.filter fun t => decide (s.now < t + 2 ^ 36)

/-- An isolating violation. -/
def State.isolatingViolation (s : State) (p code : Nat) : State :=
  ((s.violation p 0).modPort p fun x => { x with runs := s.runsOf p }).isolate p code

/-- Step 1 of R304: the port is QUIESCED, its counts logged with 0x0903 and kept; the eighth run in 2^36 ns isolates
it (R312). How both ends' sums lie in the 64 bytes of last_mismatch is not stated: a free value. -/
def State.r304 (s : State) (p : Nat) : State :=
  let runs := s.runsOf p
  let x := s.port p
  let s1 := ((s.setObjC Obj.fabPortLastMismatch p (Config.choice s.fresh % 2 ^ 512)).tickFresh).fault 0x0903 noComp p 0
    (x.sumTx.foldl (fun a q => a + q.2) 0) (x.sumAcc.foldl (fun a q => a + q.2) 0)
  let s2 := s1.setPort p { x with runs := runs }
  if s.obj Obj.fabViolationLimit ≤ runs.length then s2.isolate p 0x0908
  else
    let y : Port := { x with st := .quiesced, runs := runs, recredit := true, gotCred := false, gotEncap := false,
                             sentEncap := false, frags := [], rekeying := false, trains := 0, cut := none }
    ((s1.setPort p y).reroute p).endRemoteWaits

/-- An audit mismatch. -/
def State.mismatch (s : State) (p : Nat) : State := ((s.violation p 0).incC Obj.fabPortMismatches p).r304 p

/-! Configuration (R288, R296, R316). -/

def fabConfigKey (which : Nat) : Nat :=
  match which with
  | 0 => Obj.fabTopology | 1 => Obj.fabDims | 2 => Obj.fabSpanTag | 3 => Obj.fabNode
  | 4 => Obj.fabDfGroup | 5 => Obj.fabDfGlobal | 6 => Obj.fabDfGroups | _ => Obj.fabVcCredits

/-- After a change of the set: ports that are not OFF go through QUIESCED to OFF, and every port trains under a
consistent set. -/
def State.fabRestart (s : State) : State :=
  let s1 := (List.range 32).foldl (fun a p => if (a.port p).st = .off then a else a.dropPort p .off) s
  if s1.fabConfigured then (List.range 32).foldl State.startTraining s1 else s1

/-- The action of a fabric parameter write that the checks of R524 accept. -/
def State.fabConfigAct (s : State) (which v : Nat) : Status × State :=
  let key := fabConfigKey which
  if which = 7 then (if sharesOk v then (.ok, s.setObj key v) else (.outOfRange, s))
  else
    let s1 := s.setObj key v
    if s.obj key = v then (.ok, s1) else (.ok, s1.fabRestart)

/-- FABRIC_CONFIG_WRITE (R288, R296). -/
def execFabricConfigWrite (r : Role) (which : Fin 8) (v : BitVec 128) (s : State) : Host.Outcome State Fault Refusal :=
  match s.checkWrite r (fabConfigKey which.val) v.toNat with
  | .ok =>
    let (st, t) := s.fabConfigAct which.val v.toNat
    ok (t.reply st)
  | st => ok (s.reply st)

/-- The action of fab.port_rearm: only an ISOLATED port can be trained again by it (R286). -/
def State.rearmAct (s : State) (p : Nat) : Status × State :=
  if (s.port p).st = .isolated && s.fabConfigured then (.ok, s.startTraining p) else (.stateConflict, s)

/-- PORT_REARM (R286). -/
def execPortRearm (r : Role) (v : Byte) (s : State) : Host.Outcome State Fault Refusal :=
  match s.checkWrite r Obj.fabPortRearm v.toNat with
  | .ok =>
    let (st, t) := s.rearmAct v.toNat
    ok (t.reply st)
  | st => ok (s.reply st)

/-! Training and keying (R284, R305-R307). -/

/-- A failed training attempt: retried, or the port ISOLATED after fab.retrain_limit in a row (R304, R317). -/
def State.trainFail (s : State) (p : Nat) : State :=
  let x := s.port p
  let s1 := (s.setPort p { x with st := .training, width := 0, trains := x.trains + 1, gotCred := false, gotEncap := false,
                                  sentEncap := false, frags := [] }).portFault p 0x0901
  if s.obj Obj.fabRetrainLimit ≤ x.trains + 1 then s1.isolate p 0x0908 else s1

/-- This end's CRED, sent on entry to KEYING and on repeats (R306). -/
def State.sendKeying (s : State) (p : Nat) : State :=
  let x := s.port p
  (s.setPort p { x with msgAt := s.now }).emit
    (.frame p 7 (if x.sentEncap then [2] else [1, s.fabAddr, p]) [])

/-- PORT_TRAIN (R284, R304 step 2): the lanes train at width 4 or 2, or fail. -/
def execPortTrain (p : PortNo) (lanes : Fin 5) (rtt : W32) (s : State) : Host.Outcome State Fault Refusal :=
  let x := s.port p.val
  let may := x.st = .training || (x.st = .quiesced && !x.gotEncap)
  if !may then ok s
  else if lanes = 4 || lanes = 2 then
    if x.recredit && x.epoch + 1 = 2 ^ 32 then ok (s.isolate p.val 0x090A)
    else
      let y : Port := { x with st := .keying, width := lanes.val, rtt := rtt.toNat, keyAt := s.now, gotCred := false,
                               gotEncap := false, sentEncap := false, frags := [] }
      let s1 := (s.setPort p.val y).sendKeying p.val
      ok (if lanes = 2 then s1.portFault p.val 0x090D else s1)
  else ok (s.trainFail p.val)

/-- The bytes of a message and the number of its fragments agree (R306). -/
def keyFits (f : KeyFrame) : Bool :=
  f.sound && f.frags.toNat = ceilDiv f.bytes.toNat 1984 && f.frag.toNat < f.frags.toNat &&
    ((f.msg = 1 && 31436 ≤ f.bytes.toNat) || (f.msg = 2 && f.bytes = 1568))

/-- The checks of the peer that let a port in to UP, as far as a credential says them (R307). -/
def State.peerFits (s : State) (p addr port : Nat) : Bool :=
  addr / 65536 = s.obj Obj.fabSpanTag && decide (s.neighbour p = some (addr % 65536, port))

/-- Both secrets are held: the link keys of the new epoch exist, and a LINK frame goes out under them. -/
def State.keyed (s : State) (p : Nat) : State :=
  let x := s.port p
  if x.gotEncap && x.sentEncap then
    let y : Port := { x with epoch := if x.recredit then x.epoch + 1 else 0, epochAt := s.now, ctrTx := 0, ctrRx := 0 }
    (s.setPort p y).sendLink p
  else s

/-- KEYING_FRAME_RECEIVE (R306): a fragment of the peer's CRED or ENCAP; the last one held completes the message. -/
def execKeyingFrameReceive (p : PortNo) (f : KeyFrame) (s : State) : Host.Outcome State Fault Refusal :=
  let x := s.port p.val
  if x.st = .up then ok (s.violation p.val 0x090E)
  else if x.st ≠ .keying then ok s
  else if !keyFits f then ok (s.violation p.val 0x090E)
  else if (if f.msg = 1 then x.gotCred else x.gotEncap || !x.gotCred) then ok s
  else
    let held := if x.frags.contains f.frag.toNat then x.frags else f.frag.toNat :: x.frags
    if held.length < f.frags.toNat then ok (s.setPort p.val { x with frags := held })
    else if f.msg = 1 then
      if !f.verifies then ok (s.isolatingViolation p.val 0x0902)
      else
        let y : Port := { x with frags := [], gotCred := true, sentEncap := true, peer := f.addr.toNat,
                                 peerPort := f.port.toNat }
        ok (((s.setPort p.val y).sendKeying p.val).keyed p.val)
    else ok ((s.setPort p.val { x with frags := [], gotEncap := true }).keyed p.val)

/-- KEYING_REPEAT (R306). -/
def execKeyingRepeat (p : PortNo) (s : State) : Host.Outcome State Fault Refusal :=
  let x := s.port p.val
  if x.st = .keying && x.msgAt + 1000000 ≤ s.now then ok (s.sendKeying p.val) else ok s

/-- KEYING_TIMEOUT (R306): 50 ms after entering KEYING. -/
def execKeyingTimeout (p : PortNo) (s : State) : Host.Outcome State Fault Refusal :=
  let x := s.port p.val
  if x.st = .keying && x.keyAt + 50000000 ≤ s.now then ok (s.trainFail p.val) else ok s

/-- Credits and sums of a link start anew (R297, R304 step 5). -/
def Port.recreditTo (x : Port) (own peer : Nat) : Port :=
  { x with share := own, peerShare := peer, avail := (List.range 8).map (fun v => (v, shareOf peer v)),
           retTx := [], retRx := [], sumTx := [], sumAcc := [] }

/-- The first sealed frame that verifies ends the exchange (R306, R307): the port is admitted to UP, or goes on to its
RECREDIT (R304 step 5), or is isolated. -/
def State.letIn (s : State) (p : Nat) : State :=
  let x := s.port p
  if !s.peerFits p x.peer x.peerPort then s.isolatingViolation p 0x0902
  else if x.recredit then
    let s1 := (s.detach p).setPort p { x with st := .quiesced, trains := 0 }
    s1.sendFrame p 6 1 0 0 [x.expect, s.obj Obj.fabVcCredits] []
  else
    let c := s.obj Obj.fabVcCredits
    let y : Port := { x with st := .up, trains := 0, auditAt := s.now, auditFlits := 0, auditNo := 0, heardAt := s.now, reqs := 0 }
    s.setPort p (y.recreditTo c c)

/-! Frames received (R290-R292, R299, R312). -/

/-- Whether ACK_SEQ or CREDIT_RET is ahead of what this end has sent. -/
def Port.ahead (x : Port) (h : Nat) : Bool :=
  let d := (Fh.ack h + 4096 - x.acked) % 4096
  (d < 2048 && decide ((x.nextSeq + 4096 - x.acked) % 4096 < d)) ||
    (List.range 8).any fun v =>
      let e := (Fh.ret h v + 65536 - kget 0 x.retRx v % 65536) % 65536
      e < 32768 && decide (kget 0 x.sumTx v < kget 0 x.retRx v + e)

/-- The cumulative fields of a header are taken where they are later than those stored (R292). -/
def Port.take (x : Port) (h : Nat) : Port :=
  let d := (Fh.ack h + 4096 - x.acked) % 4096
  let out := (x.nextSeq + 4096 - x.acked) % 4096
  let y : Port := if d < 2048 && d ≤ out then
      { x with acked := Fh.ack h,
               retry := x.retry.filter fun f => decide (d < (f.fseq + 4096 - x.acked) % 4096 + f.flits) }
    else x
  (List.range 8).foldl (fun y v =>
    let e := (Fh.ret h v + 65536 - kget 0 y.retRx v % 65536) % 65536
    if e < 32768 && kget 0 y.retRx v + e ≤ kget 0 y.sumTx v then
      { y with retRx := kput 0 y.retRx v (kget 0 y.retRx v + e), avail := kput 0 y.avail v (kget 0 y.avail v + e) }
    else y) y

/-- What every sealed frame passes first: its tag, its header, and the cumulative fields. True where the frame is then
handled by its type. -/
def State.frameIn (s : State) (p ty : Nat) (f : RxFrame) : Bool × State :=
  let x := s.port p
  let h := f.header.toNat
  if x.st ≠ .up then (false, s)
  else if !f.tagOk then
    let s1 := (s.incC Obj.fabPortTagFailures p).violation p 0x0905
    (false, (s1.modPort p fun y => { y with discard := true }).sendReplayReq p)
  else if !Fh.sound h || Fh.type h ≠ ty then
    let s1 := s.violation p 0x090E
    (false, if Fh.type h = 1 then s1.sendReplayReq p else s1)
  else
    let s1 := s.setPort p { x.take h with ctrRx := Fh.ctr h + 1 }
    if x.ahead h then (false, (s1.violation p 0x0907).r304 p) else (true, s1)

/-- LINK_FRAME_RECEIVE (R292, R306, R307). -/
def execLinkFrameReceive (p : PortNo) (f : RxFrame) (s : State) : Host.Outcome State Fault Refusal :=
  let x := s.port p.val
  if x.st = .keying then
    if x.gotEncap && x.sentEncap && f.tagOk then ok (s.letIn p.val)
    else if f.tagOk then ok s
    else ok (s.incC Obj.fabPortTagFailures p.val)
  else ok (s.frameIn p.val 2 f).2

/-! DATA frames (R297-R300). -/

/-- A packet of the egress list may leave by a port: the port is one of its hops and none has more free credit on the
packet's VC (R308). -/
def State.goesBy (s : State) (q : QPkt) (p : Nat) : Bool :=
  let hs := s.hops q.pkt.dst (s.hopMask q)
  let free (i : Nat) : Nat := kget 0 (s.port i).avail (s.vcOf q i)
  hs.contains p && hs.all fun i => free i ≤ free p

/-- Packets a VC of a port could frame, oldest first. -/
def State.queued (s : State) (p v : Nat) : List QPkt := s.egress.filter fun q => s.vcOf q p = v && s.goesBy q p

def flitSum (qs : List QPkt) : Nat := qs.foldl (fun a q => a + q.pkt.flits) 0

/-- A VC holds both a frame and credit (R298). -/
def State.canSend (s : State) (p v : Nat) : Bool :=
  match s.queued p v with
  | q :: _ => decide (q.pkt.flits ≤ kget 0 (s.port p).avail v)
  | [] => false

/-- Flits in the retry buffer. -/
def Port.window (x : Port) : Nat := x.retry.foldl (fun a f => a + f.flits) 0

/-- Credits charged and sums advanced for a frame as it is first sent, or sent anew after a re-credit. -/
def Port.charge (x : Port) (v n : Nat) : Port :=
  { x with avail := kput 0 x.avail v (kget 0 x.avail v - n), sumTx := kput 0 x.sumTx v (kget 0 x.sumTx v + n),
           auditFlits := x.auditFlits + n, ctrTx := x.ctrTx + 1 }

/-- The requests a packet carries have left this module (R231). -/
def State.markLeft (s : State) (q : QPkt) : State :=
  if q.comp.isSome && q.pkt.tag < 2 ^ 18 && 0x10 ≤ q.pkt.op && q.pkt.op ≤ 0x13 then
    match s.slotAt (q.pkt.tag / 256) (q.pkt.tag % 256) with
    | some x => s.setSlot (q.pkt.tag / 256) (q.pkt.tag % 256) (some { x with left := true })
    | none => s
  else s

/-- A compartment's lines sent (R316, R481). -/
def State.countOut (s : State) (q : QPkt) : State :=
  match q.comp with
  | some n => (s.incC Obj.fabCompLinesOut n q.pkt.lines).compEvent n 0xE0 q.pkt.lines
  | none => s

/-- The first frame of the retry buffer that waits for its replay after a re-credit, sent under the new epoch where its
VC has the credit (R304 step 6). -/
def State.resend (s : State) (p : Nat) : Option State :=
  let x := s.port p
  match x.retry.find? fun f => !f.sent with
  | none => none
  | some f =>
    if kget 0 x.avail f.vc < f.flits then none
    else
      let g : Frame := { f with sent := true, ctr := x.ctrTx, epoch := x.epoch }
      let y := x.charge f.vc f.flits
      let z : Port := { y with retry := y.retry.map fun h => if h.fseq = f.fseq then g else h }
      some (((s.setPort p z).incC Obj.fabPortReplays p).emitData p g)

/-- DATA_FRAME_SEND (R297, R298, R300): the first `count` packets of a VC leave in one frame. -/
def execDataFrameSend (p : PortNo) (vc : Fin 8) (count : Fin 33) (s : State) : Host.Outcome State Fault Refusal :=
  let x := s.port p.val
  let v := vc.val
  if x.st ≠ .up then ok s
  else if 2 ^ 32 - 1 ≤ x.ctrTx then ok ((s.violation p.val 0x0909).r304 p.val)
  else if x.retry.any fun f => !f.sent then ok ((s.resend p.val).getD s)
  else
    let qs := (s.queued p.val v).take count.val
    let n := flitSum qs
    let turn := (List.range 8).find? fun i => s.canSend p.val ((x.lastVc + 1 + i) % 8)
    let due := turn = some ((v + 7 - x.lastVc % 8) % 8)
    if qs.length < count.val || count.val = 0 || 32 < n || kget 0 x.avail v < n || 2048 < x.window + n || !due then ok s
    else
      let f : Frame := { fseq := x.nextSeq, flits := n, vc := v, ctr := x.ctrTx, epoch := x.epoch, sent := true, pkts := qs }
      let y : Port := { x.charge v n with nextSeq := (x.nextSeq + n) % 4096, retry := x.retry ++ [f], lastVc := v }
      let s1 := { s.setPort p.val y with egress := s.egress.filter fun q => !qs.contains q }
      let s2 := qs.foldl (fun a q => ((a.freeFlits q).markLeft q).countOut q) s1
      ok ((s2.incC Obj.fabPortFramesTx p.val).emitData p.val f)

/-- A packet of an accepted frame: delivered, forwarded, or refused (R293, R310, R312). -/
def State.packetIn (s : State) (p v : Nat) (r : RxPkt) : State :=
  let k := rxPacket r
  let q : QPkt := ⟨k, none, some (p, v, true)⟩
  if !rxSound r then
    let rsp : Packet := { op := 0x20, lines := 0, src := s.obj Obj.fabNode, dst := k.src, job := k.job, addr := k.addr,
                          tag := k.tag, status := 0x090E, operand := 0, data := [] }
    let s1 := (s.violation p 0x090E).freeFlits q
    { s1 with egress := s1.egress ++ [⟨rsp, none, none⟩] }
  else if k.dst = s.obj Obj.fabNode then
    let s1 := s.freeFlits q
    (match if k.op ≤ 0x20 then s.compOfJob k.job else none with
     | some n => (s1.incC Obj.fabCompLinesIn n k.lines).compEvent n 0xE1 k.lines
     | none => s1)
  else if (s.hops k.dst (2 ^ 32 - 1)).isEmpty then ((s.freeFlits q).portFault p 0x090C).returnTransit k
  else { s with egress := s.egress ++ [q] }

/-- The flit check of the audit, once every flit before CUT is accepted (R303). -/
def State.checkCut (s : State) (p : Nat) : State :=
  let x := s.port p
  match x.cut with
  | none => s
  | some (c, tx) =>
    let d := (c + 4096 - x.expect) % 4096
    if 1 ≤ d && d < 2048 then s
    else
      let s1 := s.setPort p { x with cut := none }
      if (List.range 8).all fun v => kget 0 x.sumAcc v = tx.getD v 0 then s1.incC Obj.fabPortAudits p else s1.mismatch p

/-- DATA_FRAME_RECEIVE (R299, R312). -/
def execDataFrameReceive (p : PortNo) (f : RxFrame) (pkts : List RxPkt) (s : State) : Host.Outcome State Fault Refusal :=
  match s.frameIn p.val 1 f with
  | (false, t) => ok t
  | (true, t) =>
    let h := f.header.toNat
    let x := t.port p.val
    let d := (Fh.fseq h + 4096 - x.expect) % 4096
    let v := Fh.vc h
    let n := Fh.flits h
    if 2048 ≤ d then ok ((t.violation p.val 0).sendLink p.val)
    else if 1 ≤ d then
      if x.discard then ok t else ok ((t.violation p.val 0x0906).sendReplayReq p.val)
    else if shareOf x.share v < kget 0 x.sumAcc v - kget 0 x.retTx v + n then ok ((t.violation p.val 0x0907).r304 p.val)
    else
      let y : Port := { x with expect := (x.expect + n) % 4096, discard := false, reqAt := none,
                               sumAcc := kput 0 x.sumAcc v (kget 0 x.sumAcc v + n) }
      ok ((pkts.foldl (fun a r => a.packetIn p.val v r) (t.setPort p.val y)).checkCut p.val)

/-- REPLAY_REQ_RECEIVE (R300, R301): every buffered frame from ACK_SEQ is sent again, at most 16 times an epoch. -/
def execReplayReqReceive (p : PortNo) (f : RxFrame) (s : State) : Host.Outcome State Fault Refusal :=
  match s.frameIn p.val 5 f with
  | (false, t) => ok t
  | (true, t) =>
    let x := t.port p.val
    if 16 ≤ x.reqs then ok (t.violation p.val 0x0906)
    else
      let t1 := (t.setPort p.val { x with reqs := x.reqs + 1 }).incC Obj.fabPortReplays p.val
        (x.retry.filter (·.sent)).length
      ok ((x.retry.filter (·.sent)).foldl (fun a g => a.emitData p.val g) t1)

/-! Audit (R302, R303). -/

/-- AUDIT_EPOCH_END (R302). -/
def execAuditEpochEnd (p : PortNo) (s : State) : Host.Outcome State Fault Refusal :=
  let x := s.port p.val
  if x.st ≠ .up || (x.auditFlits < 2 ^ 20 && s.now < x.auditAt + 1000 * s.obj Obj.fabAuditUs) then ok s
  else
    let sums (m : List (Nat × Nat)) : List Nat := (List.range 8).map (kget 0 m)
    let y : Port := { x with auditAt := s.now, auditFlits := 0, auditNo := x.auditNo + 1, reqs := 0 }
    ok ((s.setPort p.val y).sendFrame p.val 3 4 0 0 ([x.nextSeq, x.auditNo] ++ sums x.sumTx ++ sums x.retTx ++ sums x.retRx) [])

/-- Sum v of a flit of an AUDIT frame. -/
def auditSum (w : BitVec 512) (v : Nat) : Nat := fld w.toNat (64 * v + 63) (64 * v)

/-- The local credit balance of R297, with the peer's shares. -/
def Port.balanced (x : Port) : Bool :=
  (List.range 8).all fun v => kget 0 x.avail v + kget 0 x.sumTx v - kget 0 x.retRx v = shareOf x.peerShare v

/-- AUDIT_FRAME_RECEIVE (R303). -/
def execAuditFrameReceive (p : PortNo) (f : RxFrame) (a : AuditBody) (s : State) : Host.Outcome State Fault Refusal :=
  match s.frameIn p.val 3 f with
  | (false, t) => ok t
  | (true, t) =>
    let x := t.port p.val
    let good := (List.range 8).all fun v => kget 0 x.retRx v = auditSum a.ret v
    let y : Port := { x with heardAt := s.now, cut := some (a.cut.toNat, (List.range 8).map (auditSum a.tx)) }
    if good && x.balanced then ok ((t.setPort p.val y).checkCut p.val) else ok ((t.setPort p.val y).mismatch p.val)

/-- AUDIT_ABSENT (R303): no AUDIT frame within three epoch lengths. -/
def execAuditAbsent (p : PortNo) (s : State) : Host.Outcome State Fault Refusal :=
  let x := s.port p.val
  if x.st = .up && x.heardAt + 3000 * s.obj Obj.fabAuditUs < s.now then ok (s.mismatch p.val) else ok s

/-- The retry buffer is replayed as far as credit goes. -/
def State.resendAll (s : State) (p : Nat) : Nat → State
  | 0 => s
  | fuel + 1 =>
    match s.resend p with
    | some t => t.resendAll p fuel
    | none => s

/-- RECREDIT_FRAME_RECEIVE (R304 steps 5-7). -/
def execRecreditFrameReceive (p : PortNo) (f : RxFrame) (next : BitVec 12) (shares : BitVec 128) (s : State) :
    Host.Outcome State Fault Refusal :=
  let x := s.port p.val
  let h := f.header.toNat
  if x.st ≠ .quiesced || !x.gotEncap then ok (s.frameIn p.val 6 f).2
  else if !f.tagOk then ok ((s.incC Obj.fabPortTagFailures p.val).violation p.val 0x0905)
  else if !Fh.sound h || Fh.type h ≠ 6 then ok (s.violation p.val 0x090E)
  else
    let d := (next.toNat + 4096 - x.acked) % 4096
    if (x.nextSeq + 4096 - x.acked) % 4096 < d then ok ((s.violation p.val 0x0907).r304 p.val)
    else
      let keep := x.retry.filter fun g => decide (d < (g.fseq + 4096 - x.acked) % 4096 + g.flits)
      let y : Port := { x with st := .up, recredit := false, acked := next.toNat, reqs := 0, auditAt := s.now,
                               auditFlits := 0, heardAt := s.now, discard := false, reqAt := none,
                               retry := keep.map fun g => { g with sent := false } }
      let s1 := s.setPort p.val (y.recreditTo (s.obj Obj.fabVcCredits) shares.toNat)
      ok (((s1.resendAll p.val keep.length).incC Obj.fabPortRecredits p.val).portFault p.val 0x0904)

/-! Rekeying (R305, R307). -/

/-- A new key epoch begins in both directions. -/
def State.newEpoch (s : State) (p : Nat) : State :=
  s.modPort p fun x => { x with epoch := x.epoch + 1, epochAt := s.now, ctrTx := 0, ctrRx := 0, rekeying := false }

/-- REKEY_START (R307). -/
def execRekeyStart (p : PortNo) (s : State) : Host.Outcome State Fault Refusal :=
  let x := s.port p.val
  let due := 2 ^ 32 - 2 ^ 24 ≤ x.ctrTx || 2 ^ 32 - 2 ^ 24 ≤ x.ctrRx || x.epochAt + s.obj Obj.fabRekeyS * 1000000000 ≤ s.now
  if x.st ≠ .up || x.rekeying || !due then ok s
  else if x.epoch + 1 = 2 ^ 32 then ok (s.isolatingViolation p.val 0x090A)
  else ok ((s.setPort p.val { x with rekeying := true }).sendFrame p.val 4 25 0 0 [x.epoch + 1] [])

/-- REKEY_FRAME_RECEIVE (R305, R307): an end that has not sent its own part sends it. -/
def execRekeyFrameReceive (p : PortNo) (f : RxFrame) (sound : Bool) (s : State) : Host.Outcome State Fault Refusal :=
  match s.frameIn p.val 4 f with
  | (false, t) => ok t
  | (true, t) =>
    let x := t.port p.val
    if !sound then ok ((t.violation p.val 0x0909).r304 p.val)
    else if x.epoch + 1 = 2 ^ 32 then ok (t.isolatingViolation p.val 0x090A)
    else if x.rekeying then ok (t.newEpoch p.val)
    else ok ((t.sendFrame p.val 4 25 0 0 [x.epoch + 1] []).newEpoch p.val)

/-! Lanes, and lost packets. -/

/-- LANE_LOCK_FAIL (R284): a trained port retrains at width 2, or goes down and keeps its unacknowledged frames. -/
def execLaneLockFail (p : PortNo) (retrained : Bool) (s : State) : Host.Outcome State Fault Refusal :=
  let x := s.port p.val
  if x.width = 0 then ok s
  else if x.width = 4 && retrained then ok ((s.setPort p.val { x with width := 2 }).portFault p.val 0x090D)
  else
    let y : Port := { x with recredit := x.recredit || x.st = .up }
    ok ((((s.setPort p.val y).trainFail p.val).reroute p.val).endRemoteWaits)

/-- UNDELIVERED_RECEIVE (R310): the request that a tag names completes with 0x0708. -/
def execUndeliveredReceive (tag : W32) (s : State) : Host.Outcome State Fault Refusal :=
  let t := tag.toNat / 256
  let i := tag.toNat % 256
  match s.compOfTile t, s.slotAt t i with
  | some n, some x =>
    let far := match x.target with
      | .module m => m < 65536
      | _ => false
    if !far || x.reply.isSome || 1024 ≤ t then ok s
    else
      let s1 := ((s.incC Obj.fabCompUndelivered n).compEvent n 0xE2 1).lostAccess n 0x0708 x.addr
      (match x.who with
       | .pegOp k => ok ((s1.setSlot t i none).pegEnd k 0x0708 false)
       | _ => ok (s1.answerSlot t i 0x0708 []))
  | _, _ => ok s

/-! Node maps (R289). -/

/-- The digest of a compartment's map, 2 bytes an entry. -/
def State.nodeMapDigest (s : State) (n : Nat) : Nat := digest48 ((s.comp n).nodes.flatMap (leBytes 2))

/-- The action of fab.comp.node_map_write: the entries that remain, at most 32, are appended unless the map would break
R289. -/
def State.nodeMapAct (s : State) (n v : Nat) : Status × State :=
  let nodes := (s.comp n).nodes
  let m := s.objC Obj.spanCompJobModules n
  let k := min 32 (m - nodes.length)
  let add := (List.range k).map fun i => fld v (16 * i + 15) (16 * i)
  let all := nodes ++ add
  let me := s.objC Obj.spanCompModuleIndex n
  let own := all.length ≤ me || all.getD me 0 = s.obj Obj.fabNode
  let twice := (List.range all.length).any fun i => (all.take i).contains (all.getD i 0)
  if m ≤ nodes.length || v >>> (16 * k) ≠ 0 || !own || twice then (.outOfRange, s.portFault 0 0x090B n)
  else (.ok, s.modComp n fun c => { c with nodes := all })

/-- NODE_MAP_WRITE (R289). -/
def execNodeMapWrite (r : Role) (c : CompNo) (v : BitVec 512) (s : State) : Host.Outcome State Fault Refusal :=
  match s.checkWrite r (objAt Obj.fabCompNodeMapWrite c.val) v.toNat with
  | .ok =>
    let (st, t) := s.nodeMapAct c.val v.toNat
    ok (t.reply st (if st = .ok then 0 else 0x090B))
  | st => ok (s.reply st)

/-- NODE_MAP_CLEAR (R316). -/
def execNodeMapClear (r : Role) (c : CompNo) (v : Bool) (s : State) : Host.Outcome State Fault Refusal :=
  ok (s.clearWrite r (objAt Obj.fabCompNodeMapClear c.val) v fun s => s.modComp c.val fun x => { x with nodes := [] })

end Sys2Proof.Machine
end

