-- ==== Sys2Proof/Machine/Clock.lean ====
section
/-! DEFINITION. Span time: the servo, IEEE 1588 on the management port, and time on the fabric (chapter 17,
R469-R478). -/

namespace Sys2Proof.Machine
open Sys2Proof

/-- The management port's number among the ports of IEEE 1588. -/
def mgmtPort : Nat := 32
/-- A second, and a nanosecond, in units of 2^-16 ns. -/
def secUnits : Nat := 65536000000000
def nsUnits : Nat := 65536

def State.ptpPort (s : State) (p : Nat) : PtpPort := kget PtpPort.init s.clock.ports p
def State.modPtp (s : State) (p : Nat) (f : PtpPort → PtpPort) : State :=
  { s with clock := { s.clock with ports := kmod PtpPort.init s.clock.ports p f } }

/-- A timestamp taken now: 1 ns on the management port, 0.75 ns on a fabric port (R474, R478). -/
def State.timestamp (s : State) (p : Nat) : Nat :=
  let q := if p = mgmtPort then nsUnits else 49152
  s.time / q * q

/-- The code of a port in time.source (R476). -/
def sourceCode (p : Nat) : Nat := if p = mgmtPort then 1 else 0x20 + p

/-- The port that is the source. -/
def State.sourcePort (s : State) : Option Nat :=
  let c := s.obj Obj.timeSource
  if c = 1 then some mgmtPort else if 0x20 ≤ c then some (c - 0x20) else none

/-- The mean of the delays kept, none before one is accepted. -/
def PtpPort.delay (x : PtpPort) : Option Int :=
  if x.delays.isEmpty then none else some (x.delays.foldl (· + ·) 0 / x.delays.length)

/-! Messages received. -/

/-- Fields of the OPERAND of a PTP packet (R477), its bit 0 being bit 256 of the packet. -/
def Pp.msg (o : Nat) : Nat := fld o 7 0
def Pp.seq (o : Nat) : Nat := fld o 23 8
def Pp.ts (o : Nat) : Nat := fld o 111 32

/-- A reserved MSG, a reserved field that is not zero, or a TS where the table requires 0 (R477). -/
def Pp.bad (o : Nat) : Bool :=
  decide (4 < Pp.msg o) || fld o 31 24 ≠ 0 || (Pp.ts o ≠ 0 && (Pp.msg o = 0 || Pp.msg o = 2 || Pp.msg o = 4))

/-- The dataset of an ANNOUNCE, from bit 368 of the packet on (R477). -/
def Pp.dataset (w : Nat) : Dataset :=
  { prio1 := fld w 119 112, cls := fld w 87 80, accuracy := fld w 95 88, variance := fld w 111 96, prio2 := fld w 127 120,
    gm := fld w 79 16, steps := fld w 15 0, utc := fld w 143 128 }

/-- An accepted message: its port, sequence identifier, time, whether a one-step SYNC, announce interval and dataset. -/
structure PtpMsg where
  port     : Nat
  seq      : Nat
  ts       : Nat
  oneStep  : Bool
  interval : Nat
  ds       : Dataset
  deriving DecidableEq, Repr

/-- An interval of 2^k seconds. -/
def logSeconds (k : Int) : Nat := if 0 ≤ k then secUnits * 2 ^ k.toNat else secUnits / 2 ^ (-k).toNat

/-- Acceptance of a message of a kind (R475, R477): at most 64 a second on the management port, malformed ones dropped. -/
def State.ptpIn (s : State) (kind : Nat) (x : PtpIn) : Option PtpMsg × State :=
  if s.mode = .off then (none, s)
  else match x with
  | .mgmt sound seq ts oneStep li ds =>
    let recent := s.clock.mgmt.filter fun t => decide (s.time < t + secUnits)
    if !sound || decide (64 ≤ recent.length) then (none, (s.inc Obj.timePtpDropped).faultOnce 0x0F06)
    else (some ⟨mgmtPort, seq.toNat, ts.toNat, oneStep, logSeconds li, Pp.dataset ds.toNat⟩,
      { s with clock := { s.clock with mgmt := recent ++ [s.time] } })
  | .fabric p op =>
    let o := op.toNat
    if (s.port p.val).st ≠ .up then (none, s)
    else if Pp.bad o then (none, (s.violation p.val 0).faultOnce 0x0F07 noComp p.val)
    else if Pp.msg o ≠ kind then (none, s)
    else (some ⟨p.val, Pp.seq o, Pp.ts o, false, secUnits, Pp.dataset (fld o 255 112)⟩, s)

/-! The source (R472, R476). -/

/-- A port qualifies: an ANNOUNCE not older than three intervals, of another clock than this module's; a fabric port UP with fewer than
16 measurements discarded in a row. -/
def State.qualifies (s : State) (p : Nat) : Bool :=
  let x := s.ptpPort p
  (match x.heard with
   | some d => decide (d.gm ≠ s.obj Obj.timeClockId)
   | none => false) &&
  decide (s.time < x.heardAt + 3 * x.interval) &&
    (p = mgmtPort || ((s.port p).st = .up && decide (x.bad < 16)))

/-- The order of the best master clock algorithm: priority 1, class, accuracy, variance, priority 2, grandmaster, then
steps removed, the management port, the lower port. -/
def Dataset.rank (d : Dataset) (p : Nat) : List Nat :=
  [d.prio1, d.cls, d.accuracy, d.variance, d.prio2, d.gm, d.steps, if p = mgmtPort then 0 else p + 1]

def rankLess : List Nat → List Nat → Bool
  | a :: r, b :: q => if a = b then rankLess r q else decide (a < b)
  | _, _ => false

/-- The best port that qualifies. -/
def State.bestSource (s : State) : Option Nat :=
  (List.range 33).foldl (fun best p =>
    if !s.qualifies p then best
    else match (s.ptpPort p).heard, best with
      | some d, some b =>
        (match (s.ptpPort b).heard with
         | some e => if rankLess (d.rank p) (e.rank b) then some p else best
         | none => some p)
      | some _, none => some p
      | none, _ => best) none

/-- What the source's dataset gives the objects. -/
def State.adoptDataset (s : State) (d : Dataset) : State :=
  ((s.setObj Obj.timeGmIdentity d.gm).setObj Obj.timeStepsRemoved ((d.steps + 1) % 65536)).setObj Obj.timeUtcOffsetS d.utc

/-- Selection (R476): a new source leads to ACQUIRE; none that qualifies leads from ACQUIRE and LOCKED to HOLDOVER. -/
def State.selectSource (s : State) : State :=
  match s.bestSource with
  | some p =>
    (match (s.ptpPort p).heard with
     | none => s
     | some d =>
       let s1 := s.adoptDataset d
       if s.obj Obj.timeSource = sourceCode p then s1
       else
         let s2 := (s1.setObj Obj.timeSource (sourceCode p)).setObj Obj.timeState 1
         { s2 with clock := { s2.clock with good := 0 } })
  | none =>
    if s.obj Obj.timeState = 1 || s.obj Obj.timeState = 2 then
      let s1 := ((s.setObj Obj.timeSource 0).setObj Obj.timeState 3).fault 0x0F02
      { s1 with clock := { s1.clock with lostAt := s1.time, good := 0 } }
    else s

/-! The servo (R471, R472). -/

/-- The increments slew_ppm admits: 1 ns more or less (R471). -/
def State.slewUnits (s : State) : Nat := s.obj Obj.timeSlewPpm * 65536 / 1000000

/-- The increment the servo sets: within slew_ppm of nominal, which value the spec leaves open. -/
def State.slew (s : State) : State :=
  let m := s.slewUnits
  let i := 65536 - m + Config.choice s.fresh % (2 * m + 1)
  let s1 := s.tickFresh.setObj Obj.timeFreqPpb (unsigned 32 (((i : Int) - 65536) * 1000000000 / 65536))
  { s1 with clock := { s1.clock with incr := i } }

/-- A step of the counter by an offset: the local times that the ports keep are moved with it, so that no interval of theirs
changes. -/
def State.stepTime (s : State) (off : Int) : State :=
  let mv (t : Nat) : Nat := ((t : Int) - off).toNat
  let port (q : Nat × PtpPort) : Nat × PtpPort :=
    (q.1, { q.2 with heardAt := mv q.2.heardAt, sync := q.2.sync.map fun z => (z.1, mv z.2),
                     pair := q.2.pair.map fun z => (z.1, mv z.2), req := q.2.req.map fun z => (z.1, mv z.2),
                     syncAt := q.2.syncAt.map mv, annAt := q.2.annAt.map mv, reqAt := q.2.reqAt.map mv })
  { s with time := unsigned 80 ((s.time : Int) - off),
           clock := { s.clock with mgmt := s.clock.mgmt.map mv, ports := s.clock.ports.map port } }

/-- An offset from the source, in 2^-16 ns: stepped when every compartment is FREE and it exceeds the threshold, else
slewed; 16 in a row within 100 ns lock (R471, R472). -/
def State.discipline (s : State) (off : Int) : State :=
  let near := decide (off.natAbs ≤ 100 * nsUnits)
  let good := if near then s.clock.good + 1 else 0
  let s1 : State := { s.setObj Obj.timeOffsetNs (unsigned 32 (off / nsUnits)) with clock := { s.clock with good := good } }
  let far := decide (s.obj Obj.timeStepThresholdNs * nsUnits < off.natAbs)
  let free := (List.range 8).all fun n => decide ((s.comp n).st = .free)
  let s2 := if far && free then (s1.stepTime off).fault 0x0F05
    else if far then s1.slew.fault 0x0F04
    else s1.slew
  if s.obj Obj.timeState = 1 && decide (16 ≤ good) then (s2.setObj Obj.timeState 2).fault 0x0F01 else s2

/-- An offset measured at a port: it counts where the port is the source and its delay is known. -/
def State.measure (s : State) (p t1 t2 : Nat) : State :=
  let s1 := s.modPtp p fun x => { x with pair := some (t1, t2), sync := none }
  match (s.ptpPort p).delay with
  | some d => if s.sourcePort = some p then s1.discipline ((t2 : Int) - t1 - d) else s1
  | none => s1

/-- PTP_SYNC (R474, R478). -/
def execPtpSync (x : PtpIn) (s : State) : Host.Outcome State Fault Refusal :=
  match s.ptpIn 0 x with
  | (none, t) => ok t
  | (some m, t) =>
    if m.oneStep then ok (t.measure m.port m.ts (t.timestamp m.port))
    else ok (t.modPtp m.port fun y => { y with sync := some (m.seq, t.timestamp m.port) })

/-- PTP_FOLLOW_UP (R472, R477): the egress time of the SYNC it follows. -/
def execPtpFollowUp (x : PtpIn) (s : State) : Host.Outcome State Fault Refusal :=
  match s.ptpIn 1 x with
  | (none, t) => ok t
  | (some m, t) =>
    match (t.ptpPort m.port).sync with
    | some (q, t2) => if q = m.seq then ok (t.measure m.port m.ts t2) else ok t
    | none => ok t

/-! Messages sent. -/

/-- A PTP packet leaves in a frame of its own on a control VC where link, credit and retry buffer allow it (R477). -/
def State.ptpFrame (s : State) (p o : Nat) : Option State :=
  let x := s.port p
  if x.st ≠ .up || decide (2 ^ 32 - 1 ≤ x.ctrTx) || (x.retry.any fun f => !f.sent) || kget 0 x.avail 6 = 0 ||
      decide (2048 < x.window + 1) then none
  else
    let k : Packet := { op := 0x40, lines := 0, src := s.obj Obj.fabNode, dst := x.peer % 65536, job := 0, addr := 0, tag := 0,
                        status := 0, operand := o, data := [] }
    let f : Frame := { fseq := x.nextSeq, flits := 1, vc := 6, ctr := x.ctrTx, epoch := x.epoch, sent := true,
                       pkts := [⟨k, none, none⟩] }
    let y : Port := { x.charge 6 1 with nextSeq := (x.nextSeq + 1) % 4096, retry := x.retry ++ [f] }
    some (((s.setPort p y).incC Obj.fabPortFramesTx p).emitData p f)

/-- PTP_DELAY_REQ (R478): answered with its ingress time on a fabric port; the management port is a slave only. -/
def execPtpDelayReq (x : PtpIn) (s : State) : Host.Outcome State Fault Refusal :=
  match s.ptpIn 2 x with
  | (none, t) => ok t
  | (some m, t) =>
    if m.port = mgmtPort then ok t
    else ok ((t.ptpFrame m.port (pack [(0, 3), (8, m.seq), (32, t.timestamp m.port)])).getD t)

/-- A delay measured: on a fabric port within 0-1,000 ns and within 10 ns of the filtered delay, else discarded (R478). -/
def State.takeDelay (s : State) (p : Nat) (d : Int) : State :=
  let x := s.ptpPort p
  let far := match x.delay with
    | some f => decide (10 * nsUnits < (d - f).natAbs)
    | none => false
  if p ≠ mgmtPort && (decide (d < 0) || decide (1000 * (nsUnits : Int) < d) || far) then
    let s1 := ((s.modPtp p fun y => { y with bad := y.bad + 1, req := none }).incC Obj.timePortRejected p).faultOnce 0x0F08 noComp p
    if s1.sourcePort = some p && !s1.qualifies p then s1.selectSource else s1
  else
    let ds := (x.delays ++ [d]).drop (x.delays.length + 1 - 16)
    let s1 := s.modPtp p fun y => { y with delays := ds, bad := 0, req := none }
    if p = mgmtPort then s1
    else s1.setObjC Obj.timePortDelayNs p (((s1.ptpPort p).delay.getD 0) / nsUnits).toNat

/-- PTP_DELAY_RESP (R478): ((t2 - t1) + (t4 - t3)) / 2. -/
def execPtpDelayResp (x : PtpIn) (s : State) : Host.Outcome State Fault Refusal :=
  match s.ptpIn 3 x with
  | (none, t) => ok t
  | (some m, t) =>
    match (t.ptpPort m.port).req, (t.ptpPort m.port).pair with
    | some (q, t3), some (t1, t2) =>
      if q ≠ m.seq then ok t else ok (t.takeDelay m.port ((((t2 : Int) - t1) + ((m.ts : Int) - t3)) / 2))
    | _, _ => ok t

/-- PTP_ANNOUNCE (R476). -/
def execPtpAnnounce (x : PtpIn) (s : State) : Host.Outcome State Fault Refusal :=
  match s.ptpIn 4 x with
  | (none, t) => ok t
  | (some m, t) =>
    ok (t.modPtp m.port fun y => { y with heard := some m.ds, heardAt := t.time, interval := m.interval }).selectSource

/-- A fabric port acts as a master: UP, and not the source (R476). -/
def State.isMaster (s : State) (p : Nat) : Bool := (s.port p).st = .up && s.sourcePort ≠ some p

/-- Whether a message that leaves every `gap` units is due. -/
def State.ptpDue (s : State) (last : Option Nat) (gap : Nat) : Bool :=
  match last with
  | some t => decide (t + gap ≤ s.time)
  | none => true

/-- PTP_SYNC_SEND (R476): SYNC and its FOLLOW_UP, 16 times a second. -/
def execPtpSyncSend (p : PortNo) (s : State) : Host.Outcome State Fault Refusal :=
  let x := s.ptpPort p.val
  if !s.isMaster p.val || !s.ptpDue x.syncAt (secUnits / 16) then ok s
  else match s.ptpFrame p.val (pack [(0, 0), (8, x.syncSeq)]) with
    | none => ok s
    | some s1 =>
      match s1.ptpFrame p.val (pack [(0, 1), (8, x.syncSeq), (32, s.timestamp p.val)]) with
      | none => ok s
      | some s2 => ok (s2.modPtp p.val fun y => { y with syncSeq := (y.syncSeq + 1) % 65536, syncAt := some s.time })

/-- The dataset a master port announces (R476): the source's one step further, or the module's own clock. -/
def State.announced (s : State) : Nat :=
  let lay (d : Dataset) : Nat :=
    pack [(112, d.steps), (128, d.gm), (192, d.cls), (200, d.accuracy), (208, d.variance), (224, d.prio1), (232, d.prio2),
          (240, d.utc)]
  let cls := if s.obj Obj.timeState = 3 then 7 else if s.obj Obj.timeState = 4 then 187 else Config.ownClock 0 % 256
  let own : Dataset :=
    { prio1 := s.obj Obj.timePriority1, cls := cls, accuracy := Config.ownClock 1 % 256, variance := Config.ownClock 2 % 65536,
      prio2 := s.obj Obj.timePriority2, gm := s.obj Obj.timeClockId, steps := 0, utc := s.obj Obj.timeUtcOffsetS }
  match s.sourcePort with
  | some p => (match (s.ptpPort p).heard with
    | some d => lay { d with steps := (d.steps + 1) % 65536 }
    | none => lay own)
  | none => lay own

/-- PTP_ANNOUNCE_SEND (R476): once a second. -/
def execPtpAnnounceSend (p : PortNo) (s : State) : Host.Outcome State Fault Refusal :=
  let x := s.ptpPort p.val
  if !s.isMaster p.val || !s.ptpDue x.annAt secUnits then ok s
  else match s.ptpFrame p.val (pack [(0, 4), (8, x.annSeq)] + s.announced) with
    | none => ok s
    | some s1 => ok (s1.modPtp p.val fun y => { y with annSeq := (y.annSeq + 1) % 65536, annAt := some s.time })

/-- PTP_DELAY_REQ_SEND (R474, R478): 8 times a second on a fabric port; on the management port as its master asks. -/
def execPtpDelayReqSend (p : Fin 33) (s : State) : Host.Outcome State Fault Refusal :=
  let x := s.ptpPort p.val
  let sent (t : State) : State := t.modPtp p.val fun y =>
    { y with req := some (y.reqSeq, s.timestamp p.val), reqSeq := (y.reqSeq + 1) % 65536, reqAt := some s.time }
  if s.mode = .off then ok s
  else if p.val = mgmtPort then
    if x.heard.isNone then ok s else ok (sent (s.emit (.ptp mgmtPort 2 [x.reqSeq])))
  else if !s.ptpDue x.reqAt (secUnits / 8) then ok s
  else match s.ptpFrame p.val (pack [(0, 2), (8, x.reqSeq)]) with
    | none => ok s
    | some s1 => ok (sent s1)

/-- TIME_SOURCE_LOST (R472, R474): the source qualifies no longer. -/
def execTimeSourceLost (s : State) : Host.Outcome State Fault Refusal :=
  match s.sourcePort with
  | some p => if s.mode = .off || s.qualifies p then ok s else ok s.selectSource
  | none => ok s

/-- Whole seconds in HOLDOVER; 0 in the other states (R487). -/
def State.holdoverSeconds (s : State) : Nat :=
  if s.obj Obj.timeState = 3 || s.obj Obj.timeState = 4 then (s.time - s.clock.lostAt) / secUnits else 0

/-- TIME_HOLDOVER_LIMIT (R472). -/
def execTimeHoldoverLimit (s : State) : Host.Outcome State Fault Refusal :=
  if s.mode = .off || s.obj Obj.timeState ≠ 3 || s.holdoverSeconds < s.obj Obj.timeHoldoverLimitS then ok s
  else ok ((s.setObj Obj.timeState 4).fault 0x0F03)

/-- time.port.role (R487). -/
def State.portRole (s : State) (p : Nat) : Nat :=
  if (s.port p).st ≠ .up then 0 else if s.sourcePort = some p then 1 else 2

end Sys2Proof.Machine
end

