-- ==== Sys2Proof/Machine/DictMsg.lean ====
section
/-! DEFINITION. Reply messages of the dictionary (R520-R522) and where they go: a dictionary mailbox (R537) or a Xiesk
session (R528, R531). -/

namespace Sys2Proof.Machine
open Sys2Proof

/-- Bytes up to the next multiple of eight. -/
def pad8 (bs : List Byte) : List Byte := bs ++ List.replicate ((8 - bs.length % 8) % 8) 0

/-- A message: header, then the entries (R520). -/
def message (kind msgId : Nat) (entries : List (List Byte)) : List Byte :=
  let body := entries.flatten
  ascii "XK" ++ leBytes 1 1 ++ leBytes 1 kind ++ leBytes 2 entries.length ++ leBytes 2 0 ++ leBytes 4 msgId ++
    leBytes 4 (16 + body.length) ++ body

/-- The compartment state an entry reports for an object, 0xFF for one of no compartment (R522). -/
def State.stateFor (s : State) (key : Nat) : Nat :=
  match compOfKey key with
  | some n => (s.comp n).st.code
  | none => 0xFF

/-- A reply entry (R522). -/
def State.replyEntry (s : State) (op key code fault total : Nat) (data : List Byte) : List Byte :=
  let type := match objRow key with
    | some r => r.type
    | none => 0
  pad8 (leBytes 1 op ++ leBytes 1 (key % 256) ++ leBytes 2 (key / 256) ++ leBytes 1 code ++ leBytes 1 type ++
    leBytes 1 s.mode.code ++ leBytes 1 (s.stateFor key) ++ leBytes 2 fault ++ leBytes 2 0 ++ leBytes 4 data.length ++
    leBytes 4 total ++ leBytes 4 0 ++ data)

/-- A vector of a function other than CAUSE_VECTOR; it waits while the link is down (R509). -/
def State.vector (s : State) (f v : Nat) : State :=
  if s.hostLink then s.emit (.msix f v) else s.modFunc f fun x => { x with raised := x.raised ++ [64 + v] }

/-- A mailbox's reply is written, MB_STATUS 2 set and MB_VECTOR raised; while the link is down it waits (R537). -/
def State.mailboxReply (s : State) (f : Nat) (msg : List Byte) : State :=
  let x := s.func f
  if x.mbStatus ≠ 1 then s
  else if !s.hostLink then s.setFunc f { x with mbHeld := msg }
  else ((s.emit (.hostWrite x.mbRepAddr.toNat msg)).setFunc f { x with mbStatus := 2, mbHeld := [], mbParts := [] }).vector f
    x.mbVector

/-- A mailbox's entry is answered; with the last one the reply is written. -/
def State.mailboxPart (s : State) (f pos : Nat) (e : List Byte) : State :=
  let x := s.func f
  if x.mbParts[pos]? ≠ some [] then s
  else
    let ps := x.mbParts.set pos e
    let s1 := s.setFunc f { x with mbParts := ps }
    if ps.any (·.isEmpty) then s1 else s1.mailboxReply f (message 1 x.mbMsgId ps)

def State.sess (s : State) (k : Nat) : Option Sess := kget none s.xiesk.sess k
def State.setSess (s : State) (k : Nat) (x : Option Sess) : State :=
  { s with xiesk := { s.xiesk with sess := kput none s.xiesk.sess k x } }

/-- A payload cut into segments of 1,192 bytes (R531). -/
def segments (bs : List Byte) : List (List Byte) :=
  (List.range (max 1 (ceilDiv bs.length 1192))).map fun i => (bs.drop (1192 * i)).take 1192

/-- A message to the client of a session, in DATA segments under the next counter; none once the session is gone. -/
def State.sessionSend (s : State) (k ident : Nat) (msg : List Byte) : State :=
  match s.sess k with
  | none => s
  | some x =>
    if x.ident ≠ ident then s
    else (s.setSess k (some { x with txNext := x.txNext + 1 })).emits
      ((segments msg).map fun p => .segment x.peer 4 ident p)

/-- A session ends (R534): its keys are discarded and a sealed CLOSE is sent. -/
def State.endSession (s : State) (k : Nat) : State :=
  match s.sess k with
  | none => s
  | some x => (s.emit (.segment x.peer 5 x.ident [])).setSess k none

/-- The answer to a held CLOSE goes to whoever asked (R326, R528). -/
def State.answerHeld (s : State) (n : Nat) (st : Status) (fault : Nat) : State :=
  let shown := if st = .ok then s.modComp n fun c => { c with st := .closing } else s
  let e := shown.replyEntry 2 (objAt Obj.compCommand n) st.code fault 1 []
  let s1 := s.modComp n fun c => { c with closeTo := none }
  match (s.comp n).closeTo with
  | none => s1.reply st fault
  | some (.mailbox f pos) => s1.mailboxPart f pos e
  | some (.session k ident msgId) => s1.sessionSend k ident (message 1 msgId [e])

/-! ACCEPT (R532 step 3): the identity key signs reports first. -/

/-- The contents of ACCEPT: SESSION, a nonce, the ciphertext to the client's key, rot.id_certs and the signature over T; the
ciphertext and the signature are free values. -/
def State.acceptBytes (s : State) (ident : Nat) : List Byte :=
  leBytes 4 ident ++ leBytes 32 s.draw256 ++ leBytes 1568 (Config.choice s.fresh % 256 ^ 1568) ++
    leBytes 131072 (s.obj Obj.rotIdCerts) ++ leBytes 29792 (Config.choice (s.fresh + 1) % 256 ^ 29792)

/-- ACCEPT is sent for a handshake; its session keys are free values. -/
def State.sendAccept (s : State) (ident peer : Nat) : State :=
  let s1 := s.emits ((segments (s.acceptBytes ident)).map fun p => .segment peer 2 ident p)
  let keys := Config.choice (s.fresh + 2) % 2 ^ 512
  { s1 with fresh := s.fresh + 3,
            xiesk := { s1.xiesk with hands := s1.xiesk.hands.map fun h =>
              if h.ident = ident then { h with accepted := true, keys := keys } else h } }

/-- Handshakes that wait for the identity key go on once no report does. -/
def State.acceptWaiting (s : State) : State :=
  if !s.rot.queue.isEmpty then s
  else (s.xiesk.hands.filter fun h => !h.accepted).foldl (fun a h => a.sendAccept h.ident h.source) s

end Sys2Proof.Machine
end

