-- ==== Sys2Proof/Machine/Gens.lean ====
section
/-! DEFINITION. Lane and noise generators and their seeds (R117, R118), and the stochastic draws. -/

namespace Sys2Proof.Machine
open Sys2Proof

/-- A state step of R117. -/
def LaneGen.mix (s : Nat) : Nat :=
  let z0 := s
  let z1 := ((z0 ^^^ (z0 >>> 30)) * 0xBF58476D1CE4E5B9) % 2 ^ 64
  let z2 := ((z1 ^^^ (z1 >>> 27)) * 0x94D049BB133111EB) % 2 ^ 64
  z2 ^^^ (z2 >>> 31)

/-- One 16-bit draw, low quarter first (R117). -/
def LaneGen.draw (g : LaneGen) : Nat × LaneGen :=
  let g1 : LaneGen :=
    if g.left = 0 then
      let s := (g.s + 0x9E3779B97F4A7C15) % 2 ^ 64
      { s := s, buf := LaneGen.mix s, left := 4 }
    else g
  (g1.buf % 65536, { g1 with buf := g1.buf / 65536, left := g1.left - 1 })

/-- The state a generator starts from: the first 8 bytes of SHAKE256(seed, t as UINT16, l as UINT8) (R118). -/
def laneSeed (seed t l : Nat) : LaneGen :=
  { s := leNat (shake256 8 (leBytes 32 seed ++ leBytes 2 t ++ leBytes 1 l)), buf := 0, left := 0 }

/-- Generator l of tile t. -/
def State.gen (s : State) (t l : Nat) : LaneGen :=
  match kget none (s.tile t).gens l with
  | some g => g
  | none => laneSeed ((s.compOfTile t).elim 0 fun n => (s.comp n).seed) t l

/-- A draw of a bank of generators kept beside the computation that uses it. -/
def drawAt (gs : List (Nat × Option LaneGen)) (seed t l : Nat) : Nat × List (Nat × Option LaneGen) :=
  let g := match kget none gs l with
    | some g => g
    | none => laneSeed seed t l
  let (d, g') := g.draw
  (d, kput none gs l (some g'))

end Sys2Proof.Machine
end

