-- ==== Sys2Proof/Machine/Sched.lean ====
section
/-! DEFINITION. The clip factor (R204) and the schedule engine (R206): binary64 arithmetic rounded to FP32. -/

namespace Sys2Proof.Machine
open Sys2Proof

/-! Binary64 patterns. -/

def d64 (b : Nat) : FVal := unpackF f64 b
def fadd64 (a b : Nat) : Nat := (addV f64 .rne (d64 a) (d64 b)).bits
def fsub64 (a b : Nat) : Nat := (addV f64 .rne (d64 a) (negV (d64 b))).bits
def fmul64 (a b : Nat) : Nat := (mulV f64 .rne (d64 a) (d64 b)).bits
def fdiv64 (a b : Nat) : Nat := (divV f64 .rne (d64 a) (d64 b)).bits
def nat64 (n : Nat) : Nat := (ofInt f64 .rne n).bits
/-- An FP32 pattern as binary64, and back, nearest even. -/
def wide64 (b : Nat) : Nat := (cvtV f64 .rne (unpackF f32 b)).bits
def narrow32 (b : Nat) : Nat := (cvtV f32 .rne (d64 b)).bits
def one32 : Nat := 0x3F800000
/-- A finite FP32 pattern. -/
def fin32 (b : Nat) : Bool := (unpackF f32 b).isFin

/-! The clip factor (R204). -/

/-- Smallest j with m * 2^e no more than 2^(j/16), and no less than 0. -/
def sixteenths (m : Nat) (e : Int) : Nat := (16 * e + bitLen (m ^ 16 - 1)).toNat

/-- 2^(-j/16) as FP32: the sixteenth root is cut at 64 fraction bits, the rest kept as a sticky bit. -/
def clipOf16 (j : Nat) : Nat :=
  let r := j % 16
  let q := isqrt (isqrt (isqrt (isqrt (2 ^ (16 - r) * 2 ^ (16 * 64)))))
  (roundF f32 .rne false (2 * q + b2n (decide (r ≠ 0))) (-66 - ((j / 16 : Nat) : Int))).bits

/-- The clip factor from NORM_SQ, S and the clip norm. -/
def clipFactor (tau normSq s : Nat) : Nat :=
  let root := (sqrtV f64 .rne (cvtV f64 .rne (unpackF f32 normSq) |>.bits |> d64)).bits
  let norm := d64 (fmul64 root ((1023 - s) <<< 52))
  let t := d64 (wide64 tau)
  if t.isZero || !norm.isFin || !ltV t norm then one32
  else match d64 (fdiv64 ((cvtV f64 .rne norm).bits) (wide64 tau)) with
    | .fin _ m e => clipOf16 (min (sixteenths m e) 65535)
    | _ => one32

/-! cos and sqrt within 1 ulp (R206): which admissible neighbour the engine answers is a fixed free choice. -/

/-- One of the binary64 values within 1 ulp of a positive magnitude whose truncation is b. -/
def nearUlp (fn arg b : Nat) (exact : Bool) : Nat :=
  if exact then (if b = 0 then 0 else b + Config.ulp fn arg % 3 - 1) else b + Config.ulp fn arg % 2

def sqrt64 (b : Nat) : Nat :=
  let r := sqrtV f64 .rtz (d64 b)
  if r.invalid || !(d64 r.bits).isFin then r.bits else nearUlp 0 b r.bits (!r.inexact)

/-- Fixed point with 256 fraction bits. -/
def fixOne : Int := 2 ^ 256

/-- Terms of the cosine series from term k on: t is (-1)^k y^(2k) / (2k)!. -/
def cosTerms (y2 : Int) : Nat → Nat → Int → Int
  | 0, _, _ => 0
  | fuel + 1, k, t => t + cosTerms y2 fuel (k + 1) (-(t * y2 / fixOne) / ((2 * k + 1) * (2 * k + 2)))

/-- cos of a non-negative binary64 value below 4. -/
def cos64 (b : Nat) : Nat :=
  match d64 b with
  | .fin _ m e =>
    if m = 0 then nearUlp 1 b (nat64 1) true
    else
      let y : Int := if e + 256 ≥ 0 then ((m <<< (e + 256).toNat : Nat) : Int) else ((m >>> (-(e + 256)).toNat : Nat) : Int)
      let c := cosTerms (y * y / fixOne) 80 0 fixOne
      let neg := decide (c < 0)
      let r := nearUlp 1 b (roundF f64 .rtz false c.natAbs (-256)).bits false
      if neg then r + 2 ^ 63 else r
  | _ => f64.nanBits

/-! The learning rate of a step (R206). -/

structure Sched where
  law       : Nat
  start     : Nat
  top       : Nat
  floorFrac : Nat
  warmup    : Nat
  cycle     : Nat
  cycleMult : Nat
  peakMult  : Nat
  restart   : Bool
  deriving DecidableEq, Repr

/-- The parameters of 0x2520+n.10-.18, the FP32 ones widened. -/
def State.sched (s : State) (n : Nat) : Sched :=
  { law := s.objC Obj.updCompSchedLaw n, start := wide64 (s.objC Obj.updCompSchedLrStart n),
    top := wide64 (s.objC Obj.updCompSchedLrPeak n), floorFrac := wide64 (s.objC Obj.updCompSchedFloorFrac n),
    warmup := s.objC Obj.updCompSchedWarmup n, cycle := s.objC Obj.updCompSchedCycle n,
    cycleMult := s.objC Obj.updCompSchedCycleMult n, peakMult := wide64 (s.objC Obj.updCompSchedPeakMult n),
    restart := s.objC Obj.updCompSchedRestart n ≠ 0 }

/-- The cycle a step lies in: none once the first has ended without a restart; else u, len and peak. -/
def Sched.walk (c : Sched) : Nat → Nat → Nat → Nat → Option (Nat × Nat × Nat)
  | 0, u, len, peak => some (u, len, peak)
  | fuel + 1, u, len, peak =>
    if u < len then some (u, len, peak)
    else if !c.restart then none
    else c.walk fuel (u - len) (min (len * c.cycleMult) (2 ^ 63)) (fmul64 peak c.peakMult)

/-- pi in binary64. -/
def pi64 : Nat := 0x400921FB54442D18

/-- peak * (floor_frac + (1 - floor_frac) * w). -/
def Sched.blend (c : Sched) (peak w : Nat) : Nat :=
  fmul64 peak (fadd64 c.floorFrac (fmul64 (fsub64 (nat64 1) c.floorFrac) w))

/-- lr(s) as FP32. -/
def Sched.lr (c : Sched) (step : Nat) : Nat :=
  let t := (step + 2 ^ 64 - 1) % 2 ^ 64
  if t < c.warmup then
    narrow32 (fadd64 c.start (fdiv64 (fmul64 (fsub64 c.top c.start) (nat64 t)) (nat64 c.warmup)))
  else
    let u := t - c.warmup
    let w := max c.warmup 1
    if c.law = 4 then narrow32 (fmul64 c.top (sqrt64 (fdiv64 (nat64 w) (nat64 (w + u)))))
    else match c.walk (u + 1) u c.cycle c.top with
      | none => narrow32 (fmul64 c.top c.floorFrac)
      | some (v, len, peak) =>
        let x := fdiv64 (nat64 v) (nat64 len)
        narrow32 (match c.law with
          | 0 => peak
          | 1 => c.blend peak (fsub64 (nat64 1) x)
          | 2 => c.blend peak (fdiv64 (fadd64 (nat64 1) (cos64 (fmul64 pi64 x))) (nat64 2))
          | _ => fmul64 peak (Config.pow c.floorFrac x % 2 ^ 64))

end Sys2Proof.Machine
end

