-- ==== Sys2Proof/Machine/Update.lean ====
section
/-! DEFINITION. The update unit (chapter 07, R196-R218): plumb and parameter lines, confirmations, the update ring, and
the commit copy. -/

namespace Sys2Proof.Machine
open Sys2Proof

/-! Confirmations (R205, R211). -/

def Conf.empty (step : Nat) : Conf := ⟨step, none, none, none⟩

/-- A confirmation with all three inputs. -/
def Conf.full (c : Conf) : Bool := c.verdict.isSome && c.normSq.isSome && c.tally.isSome

/-- The confirmations in order of step, with one more. -/
def insertConf (cs : List Conf) (x : Conf) : List Conf :=
  (cs.filter fun c => decide (c.step < x.step)) ++ x :: cs.filter fun c => decide (x.step < c.step)

/-- An input of step s arrives; a fifth step drops the oldest; the newest confirmed step is shown. -/
def State.confPut (s : State) (n step : Nat) (f : Conf → Conf) : State :=
  let u := (s.comp n).upd
  if u.dropped.contains step then s
  else
    let c := f ((u.confs.find? fun x => decide (x.step = step)).getD (Conf.empty step))
    let cs := insertConf u.confs c
    let old := (cs.take (cs.length - 4)).map (·.step)
    let s1 := s.modUpd n fun u => { u with confs := cs.drop (cs.length - 4), dropped := u.dropped ++ old }
    if c.full && !old.contains step && decide (s1.objC Obj.updCompLastConfirmed n < step) then
      s1.setObjC Obj.updCompLastConfirmed n step
    else s1

/-- The verdict and the plumb line of a step are both in: its clip factor predicts the next, whose parameter line is
due. -/
def State.joinLine (s : State) (n step : Nat) : State :=
  let u := (s.comp n).upd
  match kget (9, 0, 0) u.verds step, kget (2 ^ 64) u.norms step with
  | (v, used, next), norm =>
    if v = 9 || norm = 2 ^ 64 then s
    else
      let clip := if fin32 norm then clipFactor (s.objC Obj.updCompClipNorm n) norm used else u.predClip
      s.modUpd n fun u =>
        { u with verds := kput (9, 0, 0) u.verds step (9, 0, 0), norms := kput (2 ^ 64) u.norms step (2 ^ 64),
                 predClip := clip, lines := u.lines ++ [(step + 1, next, v, clip)] }

/-- The keeper hands a verdict over with the S its step used and the S of the next. -/
def State.handVerdict (s : State) (n step v used next : Nat) : State :=
  ((s.confPut n step fun c => { c with verdict := some (v, used) }).modUpd n fun u =>
    { u with verds := kput (9, 0, 0) u.verds step (v, used, next) }).joinLine n step

/-- The final tally of a step: credited examples, contributors that reach the minimum, and whether the sill is met. -/
def State.handTally (s : State) (n step credited met : Nat) (sill : Bool) : State :=
  s.confPut n step fun c => { c with tally := some (credited, met, sill) }

/-! Event record (R217, R218). -/

/-- 0x0609 and 0x0601 are always logged, the others for their first since the clear. -/
def State.updEvent (s : State) (n code tag step : Nat) (finish : Bool := true) (cause : Nat := 0) : State :=
  let s1 := if finish && s.objC Obj.updCompFirstEvent n = 0 then
      s.setObjC Obj.updCompFirstEvent n (pack [(0, code), (16, tag), (64, step), (128, s.stamp)])
    else s
  if code = 0x0609 || code = 0x0601 then s1.fault code n tag cause else s1.faultFirst n code tag

/-- UPD_EVENT_CLEAR (R217). -/
def execUpdEventClear (r : Role) (c : CompNo) (v : Bool) (s : State) : Host.Outcome State Fault Refusal :=
  ok (s.clearWrite r (objAt Obj.updCompEventClear c.val) v fun s =>
    (s.setObjC Obj.updCompFirstEvent c.val 0).rearmLog c.val 0x06)

/-! Plumb and parameter lines (R203, R205). -/

/-- Units go on in HELD; they stop with the compartment (R325). -/
def State.unitsRun (s : State) (n : Nat) : Bool := (s.comp n).st = .running || (s.comp n).st = .held

/-- PLUMB_LINE_ACCEPT (R203): one advance of plumb_peg. -/
def execPlumbLineAccept (c : CompNo) (remote : Option SpanReply) (s : State) : Host.Outcome State Fault Refusal :=
  let n := c.val
  if !s.unitsRun n || s.advances n unitPlumb (s.objC Obj.updCompPlumbPeg n) = 0 then ok s
  else
    let s1 := s.actOn n unitPlumb
    match s1.unitFetch n (s1.objC Obj.updCompPlumbAddr n) 64 remote with
    | (none, s2) => ok (s2.updEvent n 0x060A 0 0 false)
    | (some bs, s2) =>
      let l := leNat bs
      let step := fld l 63 0
      let norm := fld l 95 64
      if step = (s2.comp n).upd.lastPlumb + 1 && fld l 511 96 = 0 then
        let s3 := s2.modUpd n fun u => { u with lastPlumb := step, norms := kput (2 ^ 64) u.norms step norm }
        ok ((s3.confPut n step fun c => { c with normSq := some norm }).joinLine n step)
      else ok (s2.updEvent n 0x060A 0 step false)

/-- A parameter line of step s, written and announced. -/
def State.putLine (s : State) (n step used v clip : Nat) : State :=
  let l := pack [(0, step), (64, (s.sched n).lr step), (96, used), (104, v), (128, clip)]
  (s.unitWrite n (s.objC Obj.updCompParamAddr n) (leBytes 64 l)).unitPost n (s.objC Obj.updCompParamPeg n)

/-- The first line after RUNNING, for step LAST_STEP + 1, published at entry to RUNNING; the plumb lines are then
expected from that step. -/
def State.firstLine (s : State) (n : Nat) : State :=
  if (s.comp n).upd.first then
    let ct := s.control n
    (s.modUpd n fun u => { u with first := false, lastPlumb := Ctl.lastStep ct }).putLine n (Ctl.lastStep ct + 1)
      (Ctl.lossLog2 ct) 0 (s.comp n).upd.predClip
  else s

/-- PARAM_LINE_PUBLISH (R205). -/
def execParamLinePublish (c : CompNo) (s : State) : Host.Outcome State Fault Refusal :=
  let n := c.val
  match (s.comp n).upd.lines with
  | [] => ok s
  | (step, used, v, clip) :: rest =>
    if !s.unitsRun n then ok s
    else ok ((s.modUpd n fun u => { u with lines := rest }).putLine n step used v clip)

/-! Ring entries (R209, R210). -/

def Ue.kind (e : Nat) : Nat := fld e 7 0
def Ue.tag (e : Nat) : Nat := fld e 31 16
def Ue.peg (e : Nat) : Nat := fld e 45 32
def Ue.pegEn (e : Nat) : Bool := bit e 47
def Ue.step (e : Nat) : Nat := fld e 127 64
def Ue.lr (e : Nat) : Nat := fld e 159 128
def Ue.clip (e : Nat) : Nat := fld e 191 160
def Ue.sUsed (e : Nat) : Nat := fld e 199 192
def Ue.result (e : Nat) : Nat := fld e 279 224
def Ue.nzOff (e : Nat) : Nat := fld e 319 288
def Ue.commit (e : Nat) : Bool := Ue.kind e = 0x61

/-- The layer-table entry a tag names: its number and its bits. -/
def State.layerTagged (s : State) (n tag : Nat) : Option (Nat × Nat) :=
  (firstBelow (s.objC Obj.updCompLayerCount n) fun i =>
    let l := s.layer n i
    Lay.valid l && decide (Lay.tag l = tag)).map fun i => (i, s.layer n i)

/-- RESULT_ADDR and DONE_PEG are themselves valid. -/
def State.ueReports (s : State) (n e : Nat) : Bool :=
  Ue.result e % 64 = 0 && s.inSpan n (Ue.result e) 64 && (!Ue.pegEn e || s.pegOwned n (Ue.peg e))

/-- Staged tiles of a layer in its fullest owner tile. -/
def Lay.staged (l : Nat) : Nat := ceilDiv (Lay.tiles l) (max 1 (Lay.ownerCount l))

/-- The layout of an entry for a layer (R210). -/
def State.ueSound (s : State) (n e : Nat) : Bool :=
  (Ue.kind e = 0x61 || Ue.kind e = 0x62) && fld e 15 8 = 0 && !bit e 46 && fld e 63 48 = 0 && fld e 223 200 = 0 &&
    fld e 287 280 = 0 && fld e 511 320 = 0 && s.ueReports n e &&
    (match s.layerTagged n (Ue.tag e) with
     | none => false
     | some (_, l) =>
       if Ue.commit e then Ue.nzOff e = 0
       else Ue.lr e = 0 && Ue.clip e = 0 && Ue.sUsed e = 0 && Ue.nzOff e % 64 = 0 &&
         inStore (Ue.nzOff e) (Lay.staged l * 32768))

def State.confOf (s : State) (n step : Nat) : Option Conf :=
  (s.comp n).upd.confs.find? fun c => decide (c.step = step) && c.full

/-- The clip factor a confirmation holds. -/
def State.confClip (s : State) (n : Nat) (c : Conf) : Nat :=
  clipFactor (s.objC Obj.updCompClipNorm n) (c.normSq.getD 0) ((c.verdict.getD (0, 0)).2)

/-- The result record (R213). -/
def State.ueRecord (s : State) (n e status words : Nat) : Nat :=
  let base := pack [(0, status), (16, Ue.kind e), (32, Ue.tag e), (64, Ue.step e), (256, s.stamp), (288, words)]
  match s.confOf n (Ue.step e) with
  | none => base
  | some c =>
    let (v, used) := c.verdict.getD (0, 0)
    let (credited, met, _) := c.tally.getD (0, 0, false)
    base + pack [(24, v), (128, s.confClip n c), (160, (s.sched n).lr (Ue.step e)), (192, used), (200, met),
      (224, credited)]

/-- An entry finishes: counted, noted, its record written and its peg posted (R209, R212, R217). -/
def State.ueFinish (s : State) (n e status words : Nat) (cause : Nat := 0) : State :=
  let key := if status = 0x0604 then Obj.updCompMispredicts else if status = 0x0606 then Obj.updCompSillUnmet
    else Obj.updCompRefused
  let s1 := if status = 0 then s else (s.incC key n).updEvent n status (Ue.tag e) (Ue.step e) true cause
  if s.ueReports n e then
    let s2 := s1.unitWrite n (Ue.result e) (leBytes 64 (s1.ueRecord n e status words))
    if Ue.pegEn e then s2.unitPost n (Ue.peg e) else s2
  else s1

/-- An open entry ends. -/
def State.ueClose (s : State) (n : Nat) (x : UpdEntry) (status words : Nat) (cause : Nat := 0) : State :=
  (s.modUpd n fun u => { u with opened := u.opened.filter fun y => decide (y.id ≠ x.id) }).ueFinish n x.raw status words
    cause

def State.openEntry (s : State) (n id : Nat) : Option UpdEntry :=
  (s.comp n).upd.opened.find? fun x => decide (x.id = id)

/-- Whether another open commit names the layer and step of an entry. -/
def State.commitOpen (s : State) (n id e : Nat) : Bool :=
  (s.comp n).upd.opened.any fun x => decide (x.id ≠ id) && Ue.commit x.raw && decide (Ue.tag x.raw = Ue.tag e) &&
    decide (Ue.step x.raw = Ue.step e)

/-- UPD_RING_TAKE (R209, R210): the next entry is copied and taken_peg advances; an entry that breaks its layout, names a
step already committed or open, or a torn layer finishes at once (R212, R214, R215). -/
def execUpdRingTake (c : CompNo) (remote : Option SpanReply) (s : State) : Host.Outcome State Fault Refusal :=
  let n := c.val
  let u := (s.comp n).upd
  let posted := ((s.peg (s.objC Obj.updCompRingPeg n)).value + 2 ^ 32 - u.taken % 2 ^ 32) % 2 ^ 32
  if !s.running n || posted = 0 || 256 ≤ u.opened.length then ok s
  else
    match s.unitFetch n (s.objC Obj.updCompRingAddr n + u.taken % max 1 (s.objC Obj.updCompRingEntries n) * 64) 64 remote with
    | (none, s1) => ok s1
    | (some bs, s1) =>
      let e := leNat bs
      let s2 := (s1.modUpd n fun u => { u with taken := u.taken + 1, nextId := u.nextId + 1 }).unitPost n
        (s1.objC Obj.updCompTakenPeg n)
      let add (p : UpdPhase) : State := s2.modUpd n fun u => { u with opened := u.opened ++ [⟨u.nextId - 1, e, s2.now, 0, p⟩] }
      if !s2.ueSound n e then ok (s2.ueFinish n e 0x0602 0)
      else match s2.layerTagged n (Ue.tag e) with
        | none => ok (s2.ueFinish n e 0x0602 0)
        | some (_, l) =>
          if Ue.commit e then
            if Lay.torn l then ok (s2.ueFinish n e 0x0609 0)
            else if Ue.step e ≤ Lay.lastCommit l || s2.commitOpen n u.nextId e then ok (s2.ueFinish n e 0x0603 0)
            else ok (add .waiting)
          else if Ue.step e ≤ Lay.lastCommit l then ok (s2.ueFinish n e 0x0603 0)
          else ok (add .filling)

/-! Evaluation (R212). -/

/-- The staged slots of a layer as (tile, offset, tile row, tile column); statistics carry no tile place. -/
def Lay.slots (l : Nat) : List (Nat × Nat × Option (Nat × Nat)) :=
  let cols := max 1 (ceilDiv (Lay.cols l) 128)
  let oc := max 1 (Lay.ownerCount l)
  ((List.range (Lay.tiles l)).flatMap fun k =>
    let t := Lay.ownerFirst l + k % oc
    let a := Lay.stageOff l + k / oc * 83968
    [(t, a, some (k / cols, k % cols)), (t, a + 33792, some (k / cols, k % cols))]) ++
  (List.range (ceilDiv (Lay.rows l) 16384 + ceilDiv (Lay.cols l) 16384)).map fun i =>
    (Lay.ownerFirst l, Lay.statOff l + i * 33792, none)

/-- Why a tile-store range cannot be read: 0 when it can. -/
def State.stageFault (s : State) (t a len : Nat) : Nat :=
  if s.fenced t then 0x0110 else if s.tsPoisoned t a len then 0x0103 else 0

/-- The header check of a staged slot. -/
def State.stagedOk (s : State) (l : Nat) (q : Nat × Nat × Option (Nat × Nat)) : Bool :=
  let h := leNat (s.tsRead q.1 (q.2.1 + headerAt) 64)
  Hdr.layer h = Lay.tag l && Hdr.format h = 1 &&
    (match q.2.2 with
     | some (r, c) => Hdr.tileRow h = r && Hdr.tileCol h = c
     | none => true)

/-- What the checks of a confirmed commit answer: 0 to copy, else the status (R212). -/
def State.commitStatus (s : State) (n e l : Nat) (c : Conf) : Nat :=
  let (v, used) := c.verdict.getD (0, 0)
  if v ≠ 0 then 0x0603
  else if Ue.sUsed e ≠ used || Ue.lr e ≠ (s.sched n).lr (Ue.step e) then 0x0605
  else if !(c.tally.getD (0, 0, false)).2.2 then 0x0606
  else if s.objC Obj.updCompNoiseSigma n ≠ 0 && Lay.noiseStep l ≠ Ue.step e then 0x0608
  else if Ue.clip e ≠ s.confClip n c then 0x0604
  else match (Lay.slots l).find? fun q => s.stageFault q.1 (q.2.1 + headerAt) 64 ≠ 0 with
    | some q => s.stageFault q.1 (q.2.1 + headerAt) 64
    | none => if (Lay.slots l).all (s.stagedOk l) then 0 else 0x060B

/-- Nothing before the entry is open: the commits of its layer for an earlier step. -/
def State.commitFirst (s : State) (n e : Nat) : Bool :=
  !(s.comp n).upd.opened.any fun x => Ue.commit x.raw && decide (Ue.tag x.raw = Ue.tag e) &&
    decide (Ue.step x.raw < Ue.step e)

def State.stepDropped (s : State) (n step : Nat) : Bool := (s.comp n).upd.dropped.contains step

/-- UPD_COMMIT_EVALUATE (R212): once its step is confirmed or dropped. -/
def execUpdCommitEvaluate (c : CompNo) (entry : Nat) (s : State) : Host.Outcome State Fault Refusal :=
  let n := c.val
  match s.openEntry n entry with
  | none => ok s
  | some x =>
    let e := x.raw
    if !s.running n || !Ue.commit e || x.phase ≠ .waiting || !s.commitFirst n e then ok s
    else match s.layerTagged n (Ue.tag e) with
      | none => ok s
      | some (_, l) =>
        if Lay.torn l then ok (s.ueClose n x 0x0609 0)
        else if Ue.step e ≤ Lay.lastCommit l || s.stepDropped n (Ue.step e) then ok (s.ueClose n x 0x0603 0)
        else match s.confOf n (Ue.step e) with
          | none => ok s
          | some cf =>
            let st := s.commitStatus n e l cf
            if st = 0 then
              ok (s.modUpd n fun u =>
                { u with opened := u.opened.map fun y => if y.id = entry then { y with phase := .copying } else y })
            else
              let s1 := if (cf.verdict.getD (0, 0)).1 ≠ 0 then s.incC Obj.updCompSkippedCommits n else s
              ok (s1.ueClose n x st 0)

/-- UPD_CONFIRM_TIMEOUT (R212): the deadline has passed without a confirmation; time in HELD does not count. -/
def execUpdConfirmTimeout (c : CompNo) (entry : Nat) (s : State) : Host.Outcome State Fault Refusal :=
  let n := c.val
  match s.openEntry n entry with
  | none => ok s
  | some x =>
    if !s.running n || !Ue.commit x.raw || x.phase ≠ .waiting || !s.commitFirst n x.raw ||
        (s.confOf n (Ue.step x.raw)).isSome || s.stepDropped n (Ue.step x.raw) ||
        s.now - x.t0 - x.paused ≤ s.objC Obj.updCompCommitDeadlineUs n * 1000 then ok s
    else ok (s.ueClose n x 0x0607 0)

/-! The commit copy (R214). -/

/-- The pieces of a commit in the order of the copy: tile, store offset, span address, bytes. -/
def Lay.pieces (l : Nat) : List (Nat × Nat × Nat × Nat) :=
  let oc := max 1 (Lay.ownerCount l)
  let nr := ceilDiv (Lay.rows l) 16384
  ((List.range (Lay.tiles l)).flatMap fun k =>
    let t := Lay.ownerFirst l + k % oc
    let a := Lay.stageOff l + k / oc * 83968
    [(t, a, Lay.wBase l + k * 33792, 33792), (t, a + 33792, Lay.mBase l + k * 33792, 33792),
     (t, a + 67584, Lay.kBase l + k * 16384, 16384)]) ++
  ((List.range nr).map fun i => (Lay.ownerFirst l, Lay.statOff l + i * 33792, Lay.rsBase l + i * 33792, 33792)) ++
  (List.range (ceilDiv (Lay.cols l) 16384)).map fun i =>
    (Lay.ownerFirst l, Lay.statOff l + (nr + i) * 33792, Lay.csBase l + i * 33792, 33792)

/-- A commit's progress: words written and the fault that stopped it, 0 for none. -/
structure CopyRun where
  s     : State
  words : Nat
  fault : Nat

/-- One 64-byte word: its page's copy-ahead first, then the write, held where its page is in its final copy (R229,
R415). -/
def CopyRun.word (r : CopyRun) (n t off a : Nat) : CopyRun :=
  if r.fault ≠ 0 then r
  else
    let f := r.s.stageFault t off 64
    if f ≠ 0 then { r with fault := f }
    else
      let d := r.s.tsRead t off 64
      match r.s.owner n a with
      | .module _ => ⟨r.s.unitWrite n a d, r.words + 1, 0⟩
      | _ =>
        let s0 := r.s.copyAhead n (pageOf a)
        match s0.spanAccess n .unit .write a 64 d with
        | (.done _, s1) => ⟨s1, r.words + 1, 0⟩
        | (.wait, s1) =>
          ⟨s1.modComp n fun c => { c with held := c.held ++ [⟨.unit, a, .write, d, s1.now⟩] }, r.words + 1, 0⟩
        | (o, s1) => ⟨s1, r.words, o.status⟩

/-- The words of one piece. -/
def CopyRun.piece (r : CopyRun) (n : Nat) (p : Nat × Nat × Nat × Nat) : CopyRun :=
  (List.range (p.2.2.2 / 64)).foldl (fun r i => r.word n p.1 (p.2.1 + 64 * i) (p.2.2.1 + 64 * i)) r

/-- A field of a layer-table entry that the unit keeps: byte offset, bytes, value. -/
def State.putLayer (s : State) (n i off len v : Nat) : State :=
  s.spanPut n (s.objC Obj.updCompLayerTable n + 128 * i + off) len v

/-- UPD_COMMIT_COPY_DONE (R214): the copy of the staging ends; a fault after its first write tears the layer. -/
def execUpdCommitCopyDone (c : CompNo) (entry : Nat) (s : State) : Host.Outcome State Fault Refusal :=
  let n := c.val
  match s.openEntry n entry with
  | none => ok s
  | some x =>
    if !s.unitsRun n || x.phase ≠ .copying then ok s
    else match s.layerTagged n (Ue.tag x.raw) with
      | none => ok s
      | some (i, l) =>
        let r := (Lay.pieces l).foldl (fun r p => r.piece n p) (⟨s, 0, 0⟩ : CopyRun)
        if r.fault = 0 then
          ok (((((r.s.putLayer n i 64 8 (Ue.step x.raw)).incC Obj.updCompCommits n).compEvent n 0xE3 1)).ueClose n x 0
            r.words)
        else if r.words = 0 then ok (r.s.ueClose n x r.fault 0)
        else
          let s1 := (r.s.putLayer n i 80 1 1).ueClose n x 0x0609 r.words r.fault
          ok ((s1.fault r.fault n (Ue.tag x.raw)).holdComp n 0x0609)

/-! The noise fill (R208). -/

/-- A sample from twelve draws, as FP16: (2 * sum + 12) / 131072 - 6. -/
def noiseSample (g : LaneGen) : Nat × LaneGen :=
  let (sum, g1) := (List.range 12).foldl (fun (a : Nat × LaneGen) _ =>
    let (d, g) := a.2.draw
    (a.1 + d, g)) (0, g)
  let z : Int := 2 * sum + 12 - 786432
  ((roundF f16 .rne (decide (z < 0)) z.natAbs (-17)).bits, g1)

/-- The 16,384 samples of one layer tile. -/
def noiseTile (g : LaneGen) : List Byte × LaneGen :=
  let (xs, g1) := (List.range 16384).foldl (fun (a : List Nat × LaneGen) _ =>
    let (v, g) := noiseSample a.2
    (v :: a.1, g)) ([], g)
  (xs.reverse.flatMap fun v => leBytes 2 v, g1)

/-- The fill writes every layer tile's samples into its owner tile, or stops at a fenced one. -/
def State.fillNoise (s : State) (n l off : Nat) : Nat × State :=
  let oc := max 1 (Lay.ownerCount l)
  (List.range (Lay.tiles l)).foldl (fun (a : Nat × State) k =>
    let t := Lay.ownerFirst l + k % oc
    if a.1 ≠ 0 then a
    else if a.2.fenced t then (0x0110, a.2)
    else
      let (bs, g) := noiseTile (a.2.comp n).upd.noise
      (0, (((a.2.wakeTile t).tsWrite t (off + k / oc * 32768) bs).touch t).modUpd n fun u => { u with noise := g })) (0, s)

/-- NOISE_FILL_DONE (R208). -/
def execNoiseFillDone (c : CompNo) (entry : Nat) (s : State) : Host.Outcome State Fault Refusal :=
  let n := c.val
  match s.openEntry n entry with
  | none => ok s
  | some x =>
    if !s.running n || x.phase ≠ .filling then ok s
    else match s.layerTagged n (Ue.tag x.raw) with
      | none => ok s
      | some (i, l) =>
        match s.fillNoise n l (Ue.nzOff x.raw) with
        | (0, s1) => ok (((s1.putLayer n i 72 8 (Ue.step x.raw)).incC Obj.updCompNoiseFills n).ueClose n x 0 0)
        | (f, s1) => ok (s1.ueClose n x f 0)

/-- The deadlines of open entries leave out a time spent in HELD (R212, R216). -/
def State.pauseEntries (s : State) (n dt : Nat) : State :=
  s.modUpd n fun u => { u with opened := u.opened.map fun x => { x with paused := x.paused + dt } }

end Sys2Proof.Machine
end

