-- ==== Sys2Proof/Machine/Tables.lean ====
section
/-! DEFINITION. The tables a job loads while FORMING and the checks they pass: scale table (R177, R183), layer table
(R198, R199), mapping table (R426, R427) and phase plan (R438). -/

namespace Sys2Proof.Machine
open Sys2Proof

/-- Entry i of a table of entries of k bytes. -/
def entryAt (bs : List Byte) (k i : Nat) : Nat := leNat ((bs.drop (k * i)).take k)

/-! The scale table. -/

/-- The control record as loaded: S from 0 to 24, every counter zero, reserved fields zero. -/
def controlOk (c : Nat) : Bool :=
  Ctl.lossLog2 c ≤ 24 && Ctl.lossPrev c ≤ 24 && fld c 511 80 = 0

/-- A tensor record as loaded: no reserved KIND, reserved field zero. -/
def recordOk (r : Nat) : Bool := Rec.kind r ≤ 5 && fld r 63 50 = 0

/-- The scale table image (R177, R183). -/
def scaleImageOk (bs : List Byte) : Bool :=
  controlOk (leNat (bs.take 64)) && (List.range 4092).all fun i => recordOk (entryAt bs 16 (i + 4))

/-- The place of the scale table (R176). -/
def State.scalePlaceOk (s : State) (n base : Nat) : Bool := base % 65536 = 0 && s.inSpan n base 65536

/-! The layer table. -/

/-- Reserved fields of an entry; TORN is 0 when loaded. -/
def Lay.reserved (l : Nat) : Bool :=
  fld l 31 17 ≠ 0 || fld l 111 106 ≠ 0 || fld l 127 123 ≠ 0 || fld l 255 248 ≠ 0 || fld l 319 312 ≠ 0 ||
    fld l 383 376 ≠ 0 || fld l 447 440 ≠ 0 || fld l 511 504 ≠ 0 || fld l 1023 640 ≠ 0

/-- First and last page of a guarded range. -/
def pageRun (g : Nat × Nat) : Nat × Nat := (pageOf g.1, pageOf (g.1 + g.2 - 1) + 1 - pageOf g.1)

/-- No two runs of a list share a page. -/
def runsApart : List (Nat × Nat) → Bool
  | [] => true
  | r :: rest => rest.all (fun q => !overlaps r.1 r.2 q.1 q.2) && runsApart rest

/-- What a VALID entry must keep by itself (R198, R199). -/
def State.layerOk (s : State) (n l : Nat) : Bool :=
  1 ≤ Lay.rows l && Lay.rows l ≤ 1048576 && 1 ≤ Lay.cols l && Lay.cols l ≤ 1048576 && 1 ≤ Lay.ownerCount l &&
    Lay.ownerFirst l + Lay.ownerCount l ≤ 1024 && Lay.stageOff l % 64 = 0 && Lay.statOff l % 64 = 0 &&
    ((List.range (Lay.ownerCount l)).all fun i => (s.blocks n).testBit (blockOf (Lay.ownerFirst l + i))) &&
    inStore (Lay.stageOff l) (Lay.staged l * 83968) &&
    inStore (Lay.statOff l) ((ceilDiv (Lay.rows l) 16384 + ceilDiv (Lay.cols l) 16384) * 33792) &&
    (Lay.guarded l).all fun g => g.1 % 65536 = 0 && s.inSpan n g.1 g.2

/-- The layer table image (R198, R199). -/
def State.layerImageOk (s : State) (n count : Nat) (bs : List Byte) : Bool :=
  let es := (List.range count).map (entryAt bs 128)
  let vs := es.filter Lay.valid
  es.all (fun l => !Lay.reserved l) && vs.all (s.layerOk n) && runsApart ((vs.flatMap Lay.guarded).map pageRun) &&
    decide ((vs.map Lay.tag).eraseDups.length = vs.length)

/-- The place of the layer table (R197). -/
def State.layerPlaceOk (s : State) (n base count : Nat) : Bool :=
  1 ≤ count && count ≤ 1024 && base % 65536 = 0 && s.inSpan n base (128 * count)

/-! Mapping table and phase plan. -/

def Mp.id (e : Nat) : Nat := fld e 63 0
def Mp.role (e : Nat) : Nat := fld e 7 0
def Mp.modules (e : Nat) : Nat := fld e 95 64
def Mp.blocks (e : Nat) : Nat := fld e 111 96

/-- The mapping table image (R426, R427). -/
def State.mapImageOk (s : State) (n : Nat) (bs : List Byte) : Bool :=
  let es := (List.range 8).map (entryAt bs 16)
  let us := es.filter fun e => Mp.id e ≠ 0
  es.all (fun e => fld e 127 112 = 0) &&
    us.all (fun e => 1 ≤ Mp.role e && Mp.role e ≤ 4 && 1 ≤ Mp.modules e && Mp.modules e ≤ s.objC Obj.spanCompJobModules n &&
      Mp.blocks e &&& s.blocks n = Mp.blocks e) &&
    decide ((us.map Mp.id).eraseDups.length = us.length) && decide ((us.filter fun e => Mp.role e = 3).length ≤ 1)

/-- Mapping entry k as loaded. -/
def State.mapEntry (s : State) (n k : Nat) : Nat := s.obj (objAt Obj.phaseCompMap n + k)

def Pl.slot (e : Nat) : Nat := fld e 7 0
def Pl.valid (e : Nat) : Bool := bit e 8
def Pl.dense (e : Nat) : Bool := bit e 9
def Pl.watts (e : Nat) : Nat := fld e 31 16
def Pl.us (e : Nat) : Nat := fld e 63 32
def Pl.next (e : Nat) : Nat := fld e 71 64

/-- Plan entry p as loaded. -/
def State.planEntry (s : State) (n p : Nat) : Nat := fld (s.objC Obj.phaseCompPlan n) (128 * p + 127) (128 * p)

/-- The phase plan image (R438). -/
def State.planImageOk (s : State) (n : Nat) (bs : List Byte) : Bool :=
  let e (p : Nat) : Nat := entryAt bs 16 p
  !Pl.valid (e 0) && !Pl.valid (e 255) &&
    (List.range 256).all fun p =>
      fld (e p) 15 10 = 0 && fld (e p) 127 72 = 0 &&
        (!Pl.valid (e p) ||
          ((Pl.slot (e p) = 0xFF || (Pl.slot (e p) ≤ 7 && Mp.id (s.mapEntry n (Pl.slot (e p))) ≠ 0)) &&
            Pl.watts (e p) ≤ s.objC Obj.powerCompAllotW n && 1 ≤ Pl.us (e p) && 1 ≤ Pl.next (e p) &&
            Pl.next (e p) ≤ 254 && Pl.valid (e (Pl.next (e p)))))

/-- The action of a mapping-table load. -/
def State.loadMaps (s : State) (n : Nat) (bs : List Byte) : State :=
  let es := (List.range 8).map (entryAt bs 16)
  let s1 := (List.range 8).foldl (fun a k => a.setObj (objAt Obj.phaseCompMap n + k) (entryAt bs 16 k)) s
  s1.setObjC Obj.phaseCompMapCount n (es.filter fun e => Mp.id e ≠ 0).length

/-- The action of a phase-plan load. -/
def State.loadPlan (s : State) (n : Nat) (bs : List Byte) : State :=
  (s.setObjC Obj.phaseCompPlan n (leNat bs)).setObjC Obj.phaseCompPlanCount n
    ((List.range 256).filter fun p => Pl.valid (entryAt bs 16 p)).length

end Sys2Proof.Machine
end

