-- ==== Sys2Proof/Machine/Report.lean ====
section
/-! DEFINITION. The attestation report (R383-R386): its layout, TERMS, and the queue of signings. -/

namespace Sys2Proof.Machine
open Sys2Proof

/-! Ledger entries as registered and as measured (R388, R389). -/

def State.ledgerState (s : State) (n i : Nat) : Ledger := kget Ledger.init (s.comp n).ledgers i

/-- The 128 bytes of a ledger entry in the report. -/
def State.ledgerBytes (s : State) (n i : Nat) : List Byte :=
  let e := s.ledgerEntry n i
  let l := s.ledgerState n i
  leBytes 128 (pack [(0, Lg.obj e), (32, Lg.first e), (64, Lg.slots e), (128, l.verified), (192, l.digest), (576, l.run)])

/-! Fields of the report. -/

/-- SVN of the running images, classes 0-5, then 16 zero bytes. -/
def State.svnBytes (s : State) : List Byte := ((List.range 8).map fun c => leBytes 8 (kget 0 s.rot.svn c)).flatten

/-- Fields fixed for the boot: ID_DIGEST, MR, SVN, DELIVERY_EK. -/
def State.bootFields (s : State) : List Byte :=
  leBytes 48 (s.obj Obj.rotIdDigest) ++ leBytes 288 (s.obj Obj.rotMr) ++ s.svnBytes ++ leBytes 1568 (s.obj Obj.rotDeliveryEk)

/-- The schedule objects 0x2520+n.10-.18 packed in order, then zero. -/
def State.schedBytes (s : State) (n : Nat) : List Byte :=
  padTo 32 ([(Obj.updCompSchedLaw, 1), (Obj.updCompSchedLrStart, 4), (Obj.updCompSchedLrPeak, 4),
    (Obj.updCompSchedFloorFrac, 4), (Obj.updCompSchedWarmup, 4), (Obj.updCompSchedCycle, 4),
    (Obj.updCompSchedCycleMult, 1), (Obj.updCompSchedPeakMult, 4), (Obj.updCompSchedRestart, 1)].flatMap fun q =>
      leBytes q.2 (s.objC q.1 n))

/-- The segment table in order (R220). -/
def State.segDigest (s : State) (n : Nat) : Nat :=
  if (s.comp n).segs.isEmpty then 0 else digest48 ((s.comp n).segs.flatMap (leBytes 32))

/-- SHAKE256 over the unfenced tiles in tile order: tile number, then the digest of its program store. -/
def State.programDigest (s : State) (n : Nat) : Nat :=
  digest48 (((s.tilesOf n).filter fun t => !s.fenced t).flatMap fun t =>
    leBytes 2 t ++ leBytes 48 (digest48 (readBytes (s.tile t).prog 0 131072)))

/-- The digests taken at ATTEST of what later changes: programs, scale table, layer table. -/
def State.takeDigests (s : State) (n : Nat) : List Nat :=
  [s.programDigest n, digest48 (readBytes (s.comp n).mem (s.tableAt n) 65536),
   digest48 (readBytes (s.comp n).mem (s.objC Obj.updCompLayerTable n) (128 * s.objC Obj.updCompLayerCount n))]

/-- One field of the compartment part: its bytes and whether it is one of the Terms. -/
abbrev RepField := List Byte × Bool

/-- GEOMETRY to CONTRIB (offsets 2,224 to 3,743). -/
def State.termFields (s : State) (n : Nat) : List RepField :=
  let o (base k : Nat) : RepField := (leBytes k (s.objC base n), true)
  let z (k : Nat) : RepField := (List.replicate k 0, false)
  let dg (i : Nat) : RepField := (leBytes 48 ((s.comp n).digests.getD i 0), true)
  [(leBytes 32 (s.geom n), true), (leBytes 1 (s.comp n).st.code, false), (leBytes 1 (s.contribValid n), true),
   (leBytes 1 (s.objC Obj.compContribKeyed n), false), o Obj.compPolicy 1, o Obj.tileCompMode 1, o Obj.tileCompBoostPermit 1,
   o Obj.tileCompPacerRate 2, o Obj.prepCompLatencyMode 1, o Obj.prepCompResidentThreads 1, o Obj.prepCompSlotCap 1,
   o Obj.vxCompSeedMode 1, o Obj.compSillContrib 1, o Obj.compReleaseM 1, z 2, o Obj.compSillExamples 4, o Obj.compSillMin 4,
   o Obj.updCompClipNorm 4, o Obj.updCompNoiseSigma 4, o Obj.spanCompJobId 8, o Obj.spanCompJobModules 4,
   o Obj.spanCompModuleIndex 2, z 2, (s.schedBytes n, true),
   (leBytes 48 (if s.objC Obj.vxCompSeedMode n = 1 then digest48 (leBytes 8 ((s.comp n).jobSeed.getD 0)) else 0), true),
   (leBytes 48 (s.segDigest n), true), (leBytes 48 (s.nodeMapDigest n), true), dg 0, dg 1, dg 2,
   (leBytes 48 (s.comp n).loadDigest, true), o Obj.rotCompJobKeyCommit 48,
   ((List.range 8).flatMap fun i => leBytes 128 (s.contrib n i), true)]

/-- TERMS (R385). -/
def State.computeTerms (s : State) (n : Nat) : Nat :=
  digest48 (s.bootFields ++ ((s.termFields n).filter (·.2)).flatMap (·.1) ++
    (List.range 16).flatMap fun i =>
      let e := s.ledgerEntry n i
      leBytes 2 (Lg.obj e) ++ leBytes 4 (Lg.first e) ++ leBytes 4 (Lg.slots e) ++ leBytes 48 (s.ledgerState n i).digest)

/-- The bytes of a report that its signature covers (R384). -/
def State.reportBytes (s : State) (q : ReportReq) : List Byte :=
  let head := ascii "YVFR" ++ leBytes 2 1 ++ leBytes 1 (b2n q.comp.isSome) ++ leBytes 1 (q.comp.getD 0xFF) ++
    leBytes 4 (if q.comp.isSome then 35584 else 31968) ++ leBytes 4 0 ++ leBytes 8 (s.obj Obj.rotReportsSigned) ++
    leBytes 8 s.now ++ leBytes 32 q.nonce ++ s.bootFields ++ leBytes 128 (s.obj Obj.tileArrayFenceMap) ++
    leBytes 8 (s.obj Obj.tileArrayLinkFenceMap) ++ leBytes 1 s.mode.code ++ leBytes 7 0
  match q.comp with
  | none => head
  | some n =>
    head ++ leBytes 48 (s.objC Obj.rotCompTerms n) ++ ((s.termFields n).flatMap (·.1)) ++
      (List.range 16).flatMap (s.ledgerBytes n)

/-! The queue of signings (R383). -/

def State.modRot (s : State) (f : Rot → Rot) : State := { s with rot := f s.rot }

/-- The head of the queue starts: its content is taken now. -/
def State.startSigning (s : State) : State :=
  match s.rot.queue with
  | q :: _ => if s.rot.signing.isNone then s.modRot fun r => { r with signing := some (s.reportBytes q, s.now) } else s
  | [] => s

/-- A request joins the queue, at most 8 deep: none when it is full. -/
def State.queueReport (s : State) (q : ReportReq) : Option State :=
  if 8 ≤ s.rot.queue.length then none
  else some ((s.modRot fun r => { r with queue := r.queue ++ [q] }).startSigning)

/-- Requests of a compartment that is gone leave the queue. -/
def State.dropReports (s : State) (n : Nat) : State :=
  let keep := s.rot.queue.filter fun q => decide (q.comp ≠ some n)
  let headGone := match s.rot.queue with
    | q :: _ => decide (q.comp = some n)
    | [] => false
  (s.modRot fun r => { r with queue := keep, signing := if headGone then none else r.signing }).startSigning.acceptWaiting

/-- A report of a compartment or the module is being signed (R383). -/
def State.signingFor (s : State) (c : Option Nat) : Bool :=
  s.rot.signing.isSome && (match s.rot.queue with | q :: _ => decide (q.comp = c) | [] => false)

end Sys2Proof.Machine
end

