-- ==== Sys2Proof/Machine/Attest.lean ====
section
/-! DEFINITION. The conditions of ATTEST (R323, R572): every chapter's ATTESTED condition, each charged to an object,
with the fault code of its own where it has one. -/

namespace Sys2Proof.Machine
open Sys2Proof

/-- An unmet condition: the object charged and the condition's own fault code, 0 for none. -/
abbrev Unmet := Nat × Nat

/-- A condition that names an object of compartment n. -/
def need (n base : Nat) (holds : Bool) (code : Nat := 0) : List Unmet := if holds then [] else [(objAt base n, code)]

/-- A sequence peg of the compartment. -/
def State.seqPegOf (s : State) (n base : Nat) : Bool :=
  let p := s.objC base n
  s.pegOwned n p && s.pegSeq n p

/-- A 64-byte aligned span address of len bytes in the compartment's range. -/
def State.lineAt (s : State) (n base len : Nat) : Bool :=
  let a := s.objC base n
  a % 64 = 0 && s.inSpan n a len

/-- A ring size. -/
def ringSize (k : Nat) : Bool := [16, 32, 64, 128, 256, 512, 1024, 2048, 4096].contains k

/-- A ring at addr, entries, and its two pegs. -/
def State.ringUnmet (s : State) (n addr entries ring taken : Nat) : List Unmet :=
  need n addr (s.lineAt n addr (64 * s.objC entries n)) ++ need n entries (ringSize (s.objC entries n)) ++
    need n ring (s.seqPegOf n ring) ++ need n taken (s.seqPegOf n taken)

/-- Pegs that must be distinct; the higher-indexed of a pair is charged. -/
def State.pegsApart (s : State) (n : Nat) : List Nat → List Unmet
  | [] => []
  | b :: rest => (rest.flatMap fun q => need n q (decide (s.objC b n ≠ s.objC q n))) ++ s.pegsApart n rest

/-- R194, R500. -/
def State.numUnmet (s : State) (n : Nat) : List Unmet :=
  let u := (s.comp n).upd
  let sound := s.scalePlaceOk n (s.tableAt n) && scaleImageOk (readBytes (s.comp n).mem (s.tableAt n) 65536)
  need n Obj.numCompTableBase (u.scaleLoaded && sound) (if u.scaleLoaded then 0x0508 else 0) ++
    need n Obj.numCompVerdictAddr (s.lineAt n Obj.numCompVerdictAddr 64) ++
    need n Obj.numCompVerdictPeg (s.seqPegOf n Obj.numCompVerdictPeg) ++
    need n Obj.numCompScalePeg (s.seqPegOf n Obj.numCompScalePeg) ++
    s.pegsApart n [Obj.numCompVerdictPeg, Obj.numCompScalePeg]

/-- R217, R500. -/
def State.updUnmet (s : State) (n : Nat) : List Unmet :=
  let u := (s.comp n).upd
  let base := s.objC Obj.updCompLayerTable n
  let count := s.objC Obj.updCompLayerCount n
  let sound := s.layerPlaceOk n base count && s.layerImageOk n count (readBytes (s.comp n).mem base (128 * count))
  need n Obj.updCompLayerTable (u.layerLoaded && sound) (if u.layerLoaded then 0x0601 else 0) ++
    need n Obj.updCompLayerCount (1 ≤ count && decide (count ≤ 1024)) ++
    s.ringUnmet n Obj.updCompRingAddr Obj.updCompRingEntries Obj.updCompRingPeg Obj.updCompTakenPeg ++
    need n Obj.updCompPlumbAddr (s.lineAt n Obj.updCompPlumbAddr 64) ++
    need n Obj.updCompPlumbPeg (s.seqPegOf n Obj.updCompPlumbPeg) ++
    need n Obj.updCompParamAddr (s.lineAt n Obj.updCompParamAddr 64) ++
    need n Obj.updCompParamPeg (s.seqPegOf n Obj.updCompParamPeg)

/-- R249, R289, R281, R346. -/
def State.spanUnmet (s : State) (n : Nat) : List Unmet :=
  let jm := s.objC Obj.spanCompJobModules n
  let me := s.objC Obj.spanCompModuleIndex n
  let nodes := (s.comp n).nodes
  let pols := s.objC Obj.tierCompDefaultPolicy n :: (s.comp n).pobjs.filterMap fun q => q.2.map (·.policy)
  need n Obj.spanCompJobModules (1 ≤ jm && decide (jm ≤ 65536)) ++ need n Obj.spanCompModuleIndex (me < jm) ++
    need n Obj.spanCompSegCount (!(s.comp n).segs.isEmpty) ++
    need n Obj.fabCompNodeMapCount (nodes.length = jm && nodes[me]? = some (s.obj Obj.fabNode) &&
      decide (nodes.eraseDups.length = nodes.length)) ++
    s.ringUnmet n Obj.tierCompRingAddr Obj.tierCompRingEntries Obj.tierCompRingPeg Obj.tierCompTakenPeg ++
    need n Obj.tierCompDefaultPolicy (polForm (s.objC Obj.tierCompDefaultPolicy n)) ++
    pols.flatMap fun w => if s.covers n w then [] else [(objAt Obj.integKrDesc n + Pol.range w, 0)]

/-- Ports of a multi-module job (R321). -/
def State.portsOk (s : State) (n : Nat) : Bool :=
  let held (p : Nat) : Bool := (s.portsOf n).testBit p
  if s.objC Obj.spanCompJobModules n ≤ 1 then true
  else if s.topology = 2 then
    (List.range (s.obj Obj.fabDfGroup - 1)).all held && (List.range (s.obj Obj.fabDfGlobal)).all fun h => held (16 + h)
  else (List.range 8).all fun k =>
    s.dim (s.portDir k / 2) ≤ 1 || (List.range 4).any fun d => held (8 * d + k)

/-- R118, R321, R325, R334, R338, R342, R343, R392, R447. -/
def State.compUnmet (s : State) (n : Nat) : List Unmet :=
  let valid := popCount 8 (s.contribValid n)
  let sill := s.objC Obj.compSillContrib n
  let m := s.objC Obj.compReleaseM n
  let pol := s.objC Obj.compPolicy n
  let within (b : Nat) : Bool := 1 ≤ s.objC b n && s.objC b n < 2 ^ 31
  need n Obj.vxCompJobSeed (s.objC Obj.vxCompSeedMode n ≠ 1 || (s.comp n).jobSeed.isSome) ++
    need n Obj.compGeometry (s.portsOk n) ++ need n Obj.compHoldCause (s.objC Obj.compHoldCause n = 0) ++
    need n Obj.compPolicy (pol ≤ 1 && (pol = 0 ||
      (s.objC Obj.tileCompMode n = 1 && s.objC Obj.tileCompBoostPermit n = 0))) ++
    need n Obj.compSillContrib (1 ≤ sill && sill ≤ 8 && decide (sill ≤ valid)) ++
    need n Obj.compSillExamples (within Obj.compSillExamples) ++ need n Obj.compSillMin (within Obj.compSillMin) ++
    need n Obj.compTallyClosePeg (s.seqPegOf n Obj.compTallyClosePeg) ++
    need n Obj.compReleaseM (1 ≤ m && decide (m ≤ valid)) ++
    need n Obj.rotCompJobKeyCommit (s.objC Obj.rotCompJobKeyCommit n ≠ 0) ++
    need n Obj.powerCompAllotW (s.objC Obj.powerCompAllotW n ≠ 0)

/-- A ledger entry's object is MEASURED and its ledger lies in the span range (R388). -/
def State.ledgerOk (s : State) (n e : Nat) : Bool :=
  fld e 31 16 = 0 && fld e 127 96 = 0 &&
    (Lg.obj e = 0 ||
      (match s.pobj n (Lg.obj e) with
       | some o => Pol.measured o.policy && s.inSpan n (Lg.addr e) (48 * Lg.slots e)
       | none => false))

/-- R388: each entry is charged to its own subindex. -/
def State.ledgerUnmet (s : State) (n : Nat) : List Unmet :=
  (List.range 16).flatMap fun i =>
    if s.ledgerOk n (s.ledgerEntry n i) then [] else [(objAt Obj.rotCompLedger n + i, 0x0C09)]

/-- The set covers the scale table page and every page of the layer table, homed here (R402). -/
def State.setCovers (s : State) (n : Nat) : Bool :=
  let count := max 1 (s.objC Obj.updCompLayerCount n)
  let first := pageOf (s.objC Obj.updCompLayerTable n)
  let pages := pageOf (s.tableAt n) :: (List.range (pageOf (s.objC Obj.updCompLayerTable n + 128 * count - 1) + 1 - first)).map (· + first)
  pages.all fun p => (s.setPages n).contains p

/-- R402, R424, R428, with a set; R443; R512, with a publish ring. -/
def State.jobUnmet (s : State) (n : Nat) : List Unmet :=
  let ck := if (s.comp n).ckpt.set.isEmpty then [] else
    let m := s.objC Obj.ckptCompMirrors n
    let maps := (List.range 8).map (s.mapEntry n)
    need n Obj.ckptCompMapId (maps.any fun e => Mp.role e = 3 && Mp.id e = s.objC Obj.ckptCompMapId n) ++
      need n Obj.ckptCompMirrors (m = 1 || m = 2) ++ need n Obj.ckptCompSetCount (s.setCovers n) ++
      need n Obj.ckptCompBoundaryAddr (s.lineAt n Obj.ckptCompBoundaryAddr 64) ++
      ([Obj.ckptCompBoundaryPeg, Obj.ckptCompArmedPeg, Obj.ckptCompCommitPeg].flatMap fun b => need n b (s.seqPegOf n b)) ++
      s.pegsApart n [Obj.ckptCompBoundaryPeg, Obj.ckptCompArmedPeg, Obj.ckptCompCommitPeg]
  let pub := if s.objC Obj.hostCompPubRingAddr n = 0 then [] else
    need n Obj.hostCompPubRingEntries (ringSize (s.objC Obj.hostCompPubRingEntries n)) ++
      need n Obj.hostCompPubRingPeg (s.seqPegOf n Obj.hostCompPubRingPeg) ++
      need n Obj.hostCompPubTakenPeg (s.seqPegOf n Obj.hostCompPubTakenPeg) ++
      s.pegsApart n [Obj.hostCompPubRingPeg, Obj.hostCompPubTakenPeg]
  ck ++ s.ringUnmet n Obj.phaseCompRingAddr Obj.phaseCompRingEntries Obj.phaseCompRingPeg Obj.phaseCompTakenPeg ++
    s.pegsApart n [Obj.phaseCompRingPeg, Obj.phaseCompTakenPeg] ++ pub

/-- Every unmet condition of ATTEST. -/
def State.unmet (s : State) (n : Nat) : List Unmet :=
  s.compUnmet n ++ s.numUnmet n ++ s.updUnmet n ++ s.spanUnmet n ++ s.ledgerUnmet n ++ s.jobUnmet n

/-- The first unmet object: the lowest index, then subindex (R572). -/
def firstUnmet : List Unmet → Option Unmet
  | [] => none
  | u :: rest => match firstUnmet rest with
    | some v => if v.1 < u.1 then some v else some u
    | none => some u

end Sys2Proof.Machine
end

