-- ==== Sys2Proof/Machine/Comps.lean ====
section
/-! DEFINITION. Compartments (chapter 11): geometry and the commands of their life (R318-R327), contributors and keys
(R331-R333, R390-R392), the tally (R335-R337) and quorum release (R338-R340). -/

namespace Sys2Proof.Machine
open Sys2Proof

/-- The outcome of a command: status, fault code, value of its reply, and the state. -/
structure Done where
  st    : Status
  fault : Nat
  val   : Nat
  s     : State

/-- Its answer. -/
def Done.out (d : Done) : Host.Outcome State Fault Refusal := ok (d.s.reply d.st d.fault d.val)

/-- A command in a state that does not allow it (R323). -/
def State.badState (s : State) (n : Nat) : Done := ⟨.stateConflict, 0x0A02, (s.comp n).st.code, s.fault 0x0A02 n⟩

/-- Who may issue a command: management and the host any, the compartment's own function HOLD and RESUME (R322). -/
def mayCommand (r : Role) (n code : Nat) : Bool :=
  Role.manages r || ((match r with | .compartment m => decide (m.val = n) | _ => false) && (code = 4 || code = 5))

/-! Geometry and CREATE (R319, R320, R324). -/

/-- Die of a tile block (R25). -/
def dieOfBlock (b : Nat) : Nat := 2 * (b / 4 / 2) + b % 4 / 2

/-- A held unit lies on a die where the compartment holds no block. -/
def strayUnit (geo : Nat) : Bool :=
  let on (d : Nat) : Bool := (List.range 16).any fun b => geo.testBit b && dieOfBlock b = d
  ((List.range 48).any fun g => geo.testBit (16 + g) && !on (g / 12)) ||
    ((List.range 32).any fun c => geo.testBit (64 + c) && !on (c / 8)) ||
    (List.range 32).any fun p => geo.testBit (96 + p) && !on (p / 8)

/-- Units held by compartments other than n, as geometry bits. -/
def State.heldElsewhere (s : State) (n : Nat) : Nat :=
  (List.range 8).foldl (fun a m => if m = n then a else a ||| s.geom m % 2 ^ 128) 0

/-- A named channel group has leases out, which no compartment receives until they are released (R271). -/
def State.groupLent (s : State) (geo : Nat) : Bool :=
  s.leasesOut.any fun q => q.2.isSome && geo.testBit (16 + q.1 / 10)

/-- The geometry is refused: OUT_OF_RANGE or STATE_CONFLICT (R320). -/
def State.geometryBad (s : State) (n geo : Nat) : Option Status :=
  if geo % 2 ^ 16 = 0 || fld geo 63 16 = 0 || fld geo 255 128 ≠ 0 || strayUnit geo ||
      fld geo 63 16 &&& s.obj Obj.moduleGroupsFailed ≠ 0 || fld geo 95 64 &&& s.obj Obj.moduleFlashFailed ≠ 0 then some .outOfRange
  else if geo &&& s.heldElsewhere n ≠ 0 || fld geo 95 64 &&& s.obj Obj.compFlashErasing ≠ 0 || s.groupLent geo then
    some .stateConflict
  else none

/-- The compartment's objects take their reset values, geometry and allotment apart (R319, R324, R447). -/
def State.resetObjs (s : State) (n : Nat) : State :=
  { s with objs := s.objs.filter fun q =>
      decide (compOfKey q.1 ≠ some n) || q.1 = objAt Obj.compGeometry n || q.1 = objAt Obj.powerCompAllotW n }

/-- A tile that is switched ON and zeroed (R50): only its error history stays. -/
def Tile.fresh (y : Tile) (now : Nat) : Tile :=
  { Tile.init with dom := .on, since := now, sentinel := y.sentinel, cadence := y.cadence, lowRun := y.lowRun,
                   ueTimes := y.ueTimes, ceTimes := y.ceTimes }

/-- A tile that is switched OFF. -/
def Tile.dark (y : Tile) (now : Nat) : Tile := { y.fresh now with dom := .off }

/-- The compartment's tiles are ON and zeroed; a fenced tile stays OFF (R58). -/
def State.lightTiles (s : State) (n : Nat) : State :=
  s.eachTile n fun t y => if s.fenced t then y.dark s.now else y.fresh s.now

/-- CREATE: the tiles on, keys and seeds drawn, FORMING; the function's stream and the governed level stay. -/
def State.createAct (s : State) (n : Nat) : Done :=
  if (s.comp n).st ≠ .free || (s.mode ≠ .ready && s.mode ≠ .run) then s.badState n
  else
    let geo := s.objC Obj.compGeometry n
    match s.geometryBad n geo with
    | some st => ⟨st, 0x0A01, 0, s.fault 0x0A01 n⟩
    | none =>
      let noise : LaneGen := ⟨s.draw256 % 2 ^ 64, 0, 0⟩
      let old := s.comp n
      let c : Comp :=
        { Comp.init with st := .forming, upd := { Upd.init with noise := noise }, stream := old.stream, gov := old.gov }
      let s1 := ((s.tickFresh.resetObjs n).setComp n c).setCState n .forming
      ⟨.ok, 0, 0, ((s1.lightTiles n).reseed n)⟩

def execCompCreate (r : Role) (c : CompNo) (s : State) : Host.Outcome State Fault Refusal :=
  if mayCommand r c.val 1 then (s.createAct c.val).out else ok (s.reply .accessDenied)

/-! ATTEST (R323, R385, R388, R572). -/

/-- The ledger digests, from the span or as their readers found them. -/
def State.takeLedgers (s : State) (n : Nat) : State :=
  (List.range 16).foldl (fun a i =>
    let e := a.ledgerEntry n i
    if Lg.obj e = 0 then a
    else
      let (bs, a1) := a.unitRead n (Lg.addr e) (48 * Lg.slots e)
      let (d, a2) := match bs with
        | some x => (digest48 x, a1)
        | none => (Config.choice a1.fresh % 2 ^ 384, a1.tickFresh)
      a2.modComp n fun c => { c with ledgers := kput Ledger.init c.ledgers i ⟨0, d, 0⟩ }) s

def State.attestAct (s : State) (n : Nat) : Done :=
  if (s.comp n).st ≠ .forming then s.badState n
  else match firstUnmet (s.unmet n) with
    | some (key, code) =>
      let name := key / 256 + key % 256 * 65536
      let s1 := if code = 0 then s else s.fault code n
      ⟨.stateConflict, 0x0A03, name, s1.fault 0x0A03 n 0 code name⟩
    | none =>
      let q : ReportReq := ⟨some n, (s.comp n).nonce⟩
      if 8 ≤ s.rot.queue.length then ⟨.stateConflict, 0x0C06, (s.comp n).st.code, s.fault 0x0C06 n⟩
      else
        let s1 := if s.objC Obj.vxCompSeedMode n = 1 then s.reseed n else s
        let s2 := s1.takeLedgers n
        let s3 := s2.modComp n fun c => { c with digests := s2.takeDigests n }
        let s4 := (s3.setObjC Obj.rotCompTerms n (s3.computeTerms n)).setCState n .attested
        ⟨.ok, 0, 0, (s4.queueReport q).getD s4⟩

def execCompAttest (r : Role) (c : CompNo) (s : State) : Host.Outcome State Fault Refusal :=
  if mayCommand r c.val 2 then (s.attestAct c.val).out else ok (s.reply .accessDenied)

/-! START, HOLD, RESUME (R323, R325). -/

/-- What the first entry to RUNNING, and the first after a restore, sets up: the tally's slots and its step, the first
parameter line (R205, R335, R336). -/
def State.firstEntry (s : State) (n : Nat) : State :=
  if (s.comp n).upd.first then
    let step := Ctl.lastStep (s.control n) + 1
    let s1 := (s.setObjC Obj.compTallyStep n step).modComp n fun c =>
      { c with tallies := (List.range 4).map fun i => ⟨step + i, [], []⟩, tally := [], sent := [] }
    s1.firstLine n
  else s

/-- Entry to RUNNING: no hold cause, the pacer's permits counted from now under the present cap (R43, R47, R449). -/
def State.enterRunning (s : State) (n : Nat) : State :=
  (((s.setObjC Obj.compHoldCause n 0).modComp n fun c => { c with pacerAt := s.now, pacerNo := 0 }).recap n).setCState n .running

def State.startAct (s : State) (n : Nat) : Done :=
  let c := s.comp n
  if c.st ≠ .attested || s.mode = .holdup || s.mode = .fault || s.objC Obj.compHoldCause n ≠ 0 ||
      s.contribValid n &&& s.objC Obj.compContribKeyed n ≠ s.contribValid n || s.objC Obj.rotCompJobKeyInstalled n = 0 ||
      c.ckpt.rest.isSome || c.ckpt.badRestore then s.badState n
  else
    let s1 := (s.enterRunning n).startThreads n
    let s2 := (s1.setObjC Obj.phaseCompCurrent n 0).setObjC Obj.phaseCompCurrentSince n s.now
    ⟨.ok, 0, 0, s2.firstEntry n⟩

def execCompStart (r : Role) (c : CompNo) (s : State) : Host.Outcome State Fault Refusal :=
  if mayCommand r c.val 3 then (s.startAct c.val).out else ok (s.reply .accessDenied)

def State.holdAct (s : State) (n : Nat) : Done :=
  if (s.comp n).st ≠ .running then s.badState n
  else ⟨.ok, 0, 0, (s.fault 0x0A0B n).holdComp n 0x0A0B⟩

def execCompHold (r : Role) (c : CompNo) (s : State) : Host.Outcome State Fault Refusal :=
  if mayCommand r c.val 4 then (s.holdAct c.val).out else ok (s.reply .accessDenied)

/-- A page is still owned in a lease whose reclaim deadline has passed. -/
def State.inReclaimed (s : State) (n : Nat) : Bool :=
  (s.comp n).leases.any fun q => match q.2 with
    | some l => (match l.notice with | some d => decide (d ≤ s.now) && !(s.inLease n q.1).isEmpty | none => false)
    | none => false

/-- A release request ends with the stay in HELD (R340). -/
def State.endRelease (s : State) (n st : Nat) : State :=
  match (s.comp n).release with
  | some x =>
    if x.st = 1 || x.st = 2 then
      ((s.modComp n fun c => { c with release := some { x with st := st } }).raise 5 n)
    else s
  | none => s

def State.resumeAct (s : State) (n : Nat) : Done :=
  let c := s.comp n
  let cause := s.objC Obj.compHoldCause n
  if c.st ≠ .held || !(cause = 0x0A0B || (cause = 0x0804 && !s.inReclaimed n)) || c.ckpt.rest.isSome || c.ckpt.badRestore then
    s.badState n
  else
    let dt := s.now - s.objC Obj.phaseCompCurrentSince n
    let s1 := (((s.pauseEntries n dt).endRelease n 4).closePhaseNow n 0).enterRunning n
    ⟨.ok, 0, 0, s1.firstEntry n⟩

def execCompResume (r : Role) (c : CompNo) (s : State) : Host.Outcome State Fault Refusal :=
  if mayCommand r c.val 5 then (s.resumeAct c.val).out else ok (s.reply .accessDenied)

/-! CLOSE and teardown (R326, R327). -/

/-- An interface in CONFIG_LOCKED or RUN enters ERROR (R397). -/
def State.tdiError (s : State) (n : Nat) : State :=
  let st := s.objC Obj.rotCompTdiState n
  if st = 1 || st = 2 then (((s.setObjC Obj.rotCompTdiState n 3).fault 0x0C0D n).raise 4 n) else s

/-- The compartment-role sessions of a compartment close (R529). -/
def State.closeSessions (s : State) (n : Nat) : State :=
  let mine (x : Sess) : Bool := match x.role with
    | .compartment m => decide (m.val = n)
    | _ => false
  (List.range 8).foldl (fun a k => match a.sess k with
    | some x => if mine x then a.endSession k else a
    | none => a) s

/-- The restore in progress fails, and every job module is told (R423). -/
def State.failRestore (s : State) (n : Nat) : State :=
  match (s.comp n).ckpt.rest with
  | none => s
  | some x => (s.finishRestore n 0x0D0E 0).postAll n 4 [x.rid]

/-- Requests of the fabric that other modules hold registrations for: waiters on the compartment's pegs go (R240). -/
def State.dropPegs (s : State) (n : Nat) : State :=
  (s.clearPegs n).setObjC Obj.spanCompPegGroups n 0

/-- Steps 1-3 and 5 of teardown: engines and threads stopped, queues discarded, keys destroyed, leases released, pegs
cleared; the compartment is CLOSING. -/
def State.closing (s : State) (n : Nat) : State :=
  let s1 := (s.abandonDovetail n 0x0D05 true).failRestore n
  let s2 := if (s1.comp n).st = .running || (s1.comp n).st = .held then s1.closePhaseNow n 0 else s1
  let s3 := (((s2.endRelease n 4).tdiError n).closeSessions n).dropReports n
  let s4 := ((s3.eachTile n fun _ y => y.emptied).endThreads n).dropPegs n
  let s5 := (s4.comp n).leases.foldl (fun a q => a.dropLease n q.1) s4
  let s6 := s5.modComp n fun c =>
    { c with upd := { Upd.init with noise := ⟨0, 0, 0⟩ }, pobjs := [], pOpen := [], held := [], closeAt := none, seed := 0,
             jobSeed := none, pub := ⟨0, []⟩ }
  let s7 := ((s6.setObjC Obj.compContribKeyed n 0).setObjC Obj.rotCompJobKeyInstalled n 0).setCState n .closing
  { s7 with mboxes := s7.mboxes.filter fun q => decide (q.1 / 64 ≠ n),
            egress := s7.egress.filter fun q => decide (q.comp ≠ some n) }

/-- A CLOSE that is held is answered as executed. -/
def State.answerClose (s : State) (n : Nat) : State := if (s.comp n).closeAt.isSome then s.answerHeld n .ok 0 else s

def State.openState (s : State) (n : Nat) : Bool := (s.comp n).st ≠ .free && (s.comp n).st ≠ .closing

/-- CLOSE: none while it is held (R326). -/
def State.closeAct (s : State) (n : Nat) : Option Done × State :=
  if !s.openState n || (s.comp n).closeAt.isSome then (some (s.badState n), s)
  else if (s.comp n).ckpt.dove.isSome then (none, s.modComp n fun c => { c with closeAt := some s.now })
  else (some ⟨.ok, 0, 0, s.closing n⟩, s)

def execCompClose (r : Role) (c : CompNo) (s : State) : Host.Outcome State Fault Refusal :=
  if mayCommand r c.val 6 then
    match s.closeAct c.val with
    | (some d, _) => d.out
    | (none, t) => ok t
  else ok (s.reply .accessDenied)

def State.closeNowAct (s : State) (n : Nat) : Done :=
  if !s.openState n then s.badState n else ⟨.ok, 0, 0, (s.answerClose n).closing n⟩

def execCompCloseNow (r : Role) (c : CompNo) (s : State) : Host.Outcome State Fault Refusal :=
  if mayCommand r c.val 7 then (s.closeNowAct c.val).out else ok (s.reply .accessDenied)

/-- DEFERRED_CLOSE_EXECUTE (R326): the dovetail is committed or abandoned. -/
def execDeferredCloseExecute (c : CompNo) (s : State) : Host.Outcome State Fault Refusal :=
  let n := c.val
  if (s.comp n).closeAt.isSome && (s.comp n).ckpt.dove.isNone then ok ((s.answerClose n).closing n) else ok s

/-- CLOSE_DEFER_TIMEOUT (R326). -/
def execCloseDeferTimeout (c : CompNo) (s : State) : Host.Outcome State Fault Refusal :=
  let n := c.val
  match (s.comp n).closeAt with
  | none => ok s
  | some t =>
    if (s.comp n).ckpt.dove.isSome && t + s.obj Obj.compCloseDeferMs * 1000000 ≤ s.now then
      ok (((s.modComp n fun c => { c with closeAt := none }).fault 0x0A0C n).answerHeld n .stateConflict 0x0A0C)
    else ok s

/-- A compartment becomes FREE with its tiles OFF; geometry and allotment return to their defaults (R319, R327, R447). -/
def State.freeComp (s : State) (n : Nat) : State :=
  let s1 := s.eachTile n fun _ y => y.dark s.now
  ((((s1.endThreads n).setObjC Obj.compGeometry n 0).setObjC Obj.powerCompAllotW n 0).setComp n
    { Comp.init with st := (s1.comp n).st, stream := (s1.comp n).stream, gov := (s1.comp n).gov }).setCState n .free

/-- TEARDOWN_COMPLETE (R327 steps 4, 6 and 7): the held groups are zero, the compartment is FREE, and its flash channels
are being erased. -/
def execTeardownComplete (c : CompNo) (s : State) : Host.Outcome State Fault Refusal :=
  let n := c.val
  if (s.comp n).st ≠ .closing then ok s
  else
    let s1 := s.setObj Obj.compFlashErasing (s.obj Obj.compFlashErasing ||| s.flashCh n)
    ok (s1.freeComp n)

/-- FLASH_ERASE_DONE (R327 step 7). -/
def execFlashEraseDone (channel : PortNo) (s : State) : Host.Outcome State Fault Refusal :=
  ok (s.setObj Obj.compFlashErasing (setBit (s.obj Obj.compFlashErasing) channel.val false))

/-! Contributors and keys (R331-R333, R390-R392). -/

/-- CONTRIB_WRITE (R331, R332). -/
def State.contribAct (s : State) (n v : Nat) : Status × State :=
  let slot := v % 8
  let valid := bit v 7
  let ranges := fld v 23 8
  let other := (List.range 8).any fun i => i ≠ slot && fld (s.contrib n i) 23 8 &&& ranges ≠ 0
  if (valid && ranges = 0) || other || fld v 6 3 ≠ 0 || fld v 63 24 ≠ 0 || fld v 1023 832 ≠ 0 then
    (.outOfRange, s.fault 0x0A04 n slot)
  else (.ok, s.modComp n fun c => { c with contribs := kput 0 c.contribs slot (if valid then v else 0) })

def execContribWrite (r : Role) (c : CompNo) (v : BitVec 1024) (s : State) : Host.Outcome State Fault Refusal :=
  match s.checkWrite r (objAt Obj.compContribWrite c.val) v.toNat with
  | .ok =>
    let (st, t) := s.contribAct c.val v.toNat
    ok (t.reply st (if st = .ok then 0 else 0x0A04))
  | st => ok (s.reply st)

/-- A delivery refused: counted and, with a code, logged (R391). -/
def State.refuseKey (s : State) (n slot : Nat) (st : Status) (code : Nat) : Done :=
  let s1 := s.incC Obj.rotCompDeliveriesRefused n
  ⟨st, code, 0, if code = 0 then s1 else s1.fault code n slot⟩

/-- The commitment of a key: SHAKE256("YVF-KC" || key), 48 bytes. -/
def keyCommit (key : Nat) : Nat := digest48 (ascii "YVF-KC" ++ leBytes 32 key)

/-- The checks of R391 in their order; `opened` is the key that decapsulation and the tag yield. -/
def State.deliverAct (s : State) (n : Nat) (rec_ : List Byte) (opened : Option Nat) : Done :=
  let slot := leNat ((rec_.drop 8).take 1)
  let taken := if slot = 0xFF then decide (s.objC Obj.rotCompJobKeyInstalled n ≠ 0)
    else slot < 8 && (s.objC Obj.compContribKeyed n).testBit slot
  if (s.comp n).st ≠ .attested || taken then s.refuseKey n slot .stateConflict 0
  else if leNat (rec_.take 8) ≠ s.objC Obj.spanCompJobId n ||
      leNat ((rec_.drop 16).take 48) ≠ s.objC Obj.rotCompTerms n || leNat ((rec_.drop 9).take 7) ≠ 0 ||
      (slot ≠ 0xFF && (8 ≤ slot || !bit (s.contrib n slot) 7)) then s.refuseKey n slot .accessDenied 0x0C07
  else match opened with
    | none => s.refuseKey n slot .accessDenied 0x0C07
    | some key =>
      if slot = 0xFF then
        if keyCommit key = s.objC Obj.rotCompJobKeyCommit n then ⟨.ok, 0, 0, s.setObjC Obj.rotCompJobKeyInstalled n 1⟩
        else s.refuseKey n slot .accessDenied 0x0C08
      else if keyCommit key = fld (s.contrib n slot) 831 448 then
        ⟨.ok, 0, 0, s.setObjC Obj.compContribKeyed n (setBit (s.objC Obj.compContribKeyed n) slot true)⟩
      else s.refuseKey n slot .accessDenied 0x0A05

/-- KEY_DELIVER (R390, R391). -/
def execKeyDeliver (r : Role) (c : CompNo) (record : List Byte) (opened : Option (BitVec 256)) (s : State) :
    Host.Outcome State Fault Refusal :=
  match s.checkWrite r (objAt Obj.rotCompKeyDeliver c.val) (leNat (record.take 1680)) with
  | .ok => (s.deliverAct c.val (padTo 1680 record) (opened.map (·.toNat))).out
  | .stateConflict => (s.refuseKey c.val 0 .stateConflict 0).out
  | st => ok (s.reply st)

/-! The tally (R335-R337). -/

/-- The nine counts of the step being tallied. -/
def State.tallyCounts (s : State) (n : Nat) : List Nat := (List.range 9).map fun i => kget 0 (s.comp n).tally i

/-- TALLY_CLOSE (R335, R336): one advance of tally_close_peg. -/
def execTallyClose (c : CompNo) (s : State) : Host.Outcome State Fault Refusal :=
  let n := c.val
  if !s.unitsRun n || s.advances n unitTally (s.objC Obj.compTallyClosePeg n) = 0 then ok s
  else
    let step := s.objC Obj.compTallyStep n
    let counts := s.tallyCounts n
    let s1 := (s.actOn n unitTally).modComp n fun c => { c with tally := [], sent := c.sent ++ [(step, counts)] }
    ok ((s1.setObjC Obj.compTallyStep n (step + 1)).postAll n 1
      ([s.objC Obj.spanCompModuleIndex n, step] ++ counts))

/-- A tally with every module's post is final: its sums are shown and handed on, its slot freed for s + 4. -/
def State.finalTally (s : State) (n : Nat) (x : TallySlot) : State :=
  let sums := (List.range 9).map fun i => kget 0 x.sums i
  let credited := (sums.take 8).sum
  let met := ((sums.take 8).filter fun k => decide (s.objC Obj.compSillMin n ≤ k)).length
  let sill := s.objC Obj.compSillContrib n ≤ met && s.objC Obj.compSillExamples n ≤ credited
  let s1 := s.modComp n fun c =>
    { c with tallies := c.tallies.map fun y => if y.step = x.step then ⟨x.step + 4, [], []⟩ else y,
             sumsStep := max c.sumsStep x.step }
  let s2 := if (s.comp n).sumsStep ≤ x.step
    then s1.setObjC Obj.compTallySums n (pack ((List.range 9).map fun i => (32 * i, sums.getD i 0 % 2 ^ 32))) else s1
  s2.handTally n x.step credited met sill

/-- TALLY_POST_RECEIVE (R336, R337). -/
def execTallyPostReceive (c : CompNo) (module : BitVec 16) (step : W64) (counts : List W32) (s : State) :
    Host.Outcome State Fault Refusal :=
  let n := c.val
  let m := module.toNat
  if s.objC Obj.spanCompJobModules n ≤ m then ok s
  else if !s.unitsRun n then ok (s.reply .notReady)
  else match (s.comp n).tallies.find? fun x => decide (x.step = step.toNat) with
    | none => ok (s.reply .notReady)
    | some x =>
      if x.posted.contains m then ok ((s.faultOnce 0x0A07 n m).reply .ok)
      else
        let sums := (List.range 9).foldl (fun a i => kput 0 a i (kget 0 a i + (counts.getD i 0).toNat)) x.sums
        let y : TallySlot := { x with posted := x.posted ++ [m], sums := sums }
        let s1 := s.modComp n fun c => { c with tallies := c.tallies.map fun z => if z.step = x.step then y else z }
        let s2 := if y.posted.length = s.objC Obj.spanCompJobModules n then s1.finalTally n y else s1
        ok (s2.reply .ok)

/-- TALLY_POST_RETRY (R336): a refused post goes to its module again, until the compartment leaves RUNNING and HELD. -/
def execTallyPostRetry (c : CompNo) (module : BitVec 16) (step : W64) (s : State) : Host.Outcome State Fault Refusal :=
  let n := c.val
  match s.nodeOf n module.toNat, (s.comp n).sent.find? fun q => decide (q.1 = step.toNat) with
  | some node, some (k, counts) =>
    if s.unitsRun n then ok (s.emit (.post 1 node ([s.objC Obj.spanCompModuleIndex n, k] ++ counts))) else ok s
  | _, _ => ok s

/-! Quorum release (R338-R340). -/

/-- The pages of an object that this module homes, in page order. -/
def State.homedPages (s : State) (n : Nat) (o : PObj) : List Nat :=
  ((List.range o.pages).map (· + o.base)).filter (s.homedHere n)

/-- The action of comp.release_request. -/
def State.releaseAct (s : State) (n v : Nat) : Done :=
  let id := fld v 15 0
  if (match (s.comp n).release with | some x => decide (x.st = 1) | none => false) then
    ⟨.stateConflict, 0, (s.comp n).st.code, s⟩
  else match s.pobj n id with
    | none => ⟨.outOfRange, 0, 0, s⟩
    | some o =>
      if fld v 127 16 ≠ 0 then ⟨.outOfRange, 0, 0, s⟩
      else
        let d := digest48 ((s.homedPages n o).flatMap fun p => readBytes (s.comp n).mem (p * 65536) 65536)
        let x : Release := { obj := id, step := Ctl.lastStep (s.control n), nonce := fld v 383 128, digest := d,
                             since := s.now, slots := [], st := 1 }
        let s1 := s.setPObj n id (some { o with policy := o.policy ||| 64 })
        ⟨.ok, 0, 0, s1.modComp n fun c => { c with release := some x }⟩

/-- RELEASE_REQUEST (R338). -/
def execReleaseRequest (r : Role) (c : CompNo) (v : BitVec 384) (s : State) : Host.Outcome State Fault Refusal :=
  match s.checkWrite r (objAt Obj.compReleaseRequest c.val) v.toNat with
  | .ok => (s.releaseAct c.val v.toNat).out
  | st => ok (s.reply st)

/-- The action of comp.release_approve; `signed` is whether the signature verifies. -/
def State.approveAct (s : State) (n : Nat) (v : List Byte) (signed : Bool) : Done :=
  match (s.comp n).release with
  | none => ⟨.stateConflict, 0, (s.comp n).st.code, s⟩
  | some x =>
    if x.st ≠ 1 then ⟨.stateConflict, 0, (s.comp n).st.code, s⟩
    else
      let slot := leNat (v.take 1)
      let e := s.contrib n slot
      if leNat ((v.drop 1).take 31) ≠ 0 then ⟨.outOfRange, 0, 0, s⟩
      else if 8 ≤ slot || !bit e 7 || digest48 ((v.drop 32).take 64) ≠ fld e 447 64 || !signed || x.slots.contains slot then
        ⟨.accessDenied, 0x0A08, 0, s.fault 0x0A08 n slot⟩
      else
        let slots := x.slots ++ [slot]
        let full := decide (s.objC Obj.compReleaseM n ≤ slots.length)
        let s1 := s.modComp n fun c => { c with release := some { x with slots := slots, st := if full then 2 else 1 } }
        ⟨.ok, 0, 0, if full then (s1.fault 0x0A09 n).raise 5 n else s1⟩

/-- RELEASE_APPROVE (R339). -/
def execReleaseApprove (r : Role) (c : CompNo) (v : List Byte) (signed : Bool) (s : State) :
    Host.Outcome State Fault Refusal :=
  match s.checkWrite r (objAt Obj.compReleaseApprove c.val) 0 with
  | .ok => (s.approveAct c.val (padTo 29888 v) signed).out
  | st => ok (s.reply st)

/-- RELEASE_EXPIRED (R340). -/
def execReleaseExpired (c : CompNo) (s : State) : Host.Outcome State Fault Refusal :=
  let n := c.val
  match (s.comp n).release with
  | none => ok s
  | some x =>
    if x.st = 1 && x.since + s.objC Obj.compReleaseWindowS n * 1000000000 ≤ s.now then
      ok (((s.modComp n fun c => { c with release := some { x with st := 3 } }).fault 0x0A0A n).raise 5 n)
    else ok s

end Sys2Proof.Machine
end

