-- ==== Sys2Proof/Machine/Modes.lean ====
section
/-! DEFINITION. Module states (chapter 20, R543-R555): power, start-up, entry to FAULT, resets, the request watchdog,
firmware staging and the fault log's own commands; hold-up entry and exit (R464, R465). -/

namespace Sys2Proof.Machine
open Sys2Proof

/-! What is stored (R519, R552). -/

/-- The fault log is copied to the boot store. -/
def State.mirrorLog (s : State) : State := { s with log := { s.log with mirror := s.log.entries } }

/-- The persistent counters. -/
def counterKeys : List Nat :=
  [Obj.tierFlashBytesWritten, Obj.integHbmCeTotal, Obj.powerEnergyMj, Obj.bevelFillerMj, Obj.holdupCount, Obj.moduleBootCount,
   Obj.faultOverwritten]

/-- The persistent counters are stored. -/
def State.storeCounters (s : State) : State :=
  { s with stored := counterKeys.foldl (fun m k => kput 0 m k (s.obj k)) s.stored }

/-- Whether an object is of a persistence class: 0 constant, 1 persistent, 2 volatile. -/
def persClass (key : Nat) : Nat := match objRow key with
  | some r => r.pers
  | none => 2

/-! Domains and compartments that go without their own teardown. -/

/-- Every domain but the always-on and management-and-time ones switches OFF; a host link that was up is lost (R509). -/
def State.domainsOff (s : State) : State :=
  let s0 := if s.hostLink then (s.inc Obj.hostLinkDowns).fault 0x100E else s
  let s1 := { s0 with
    tiles := (s.tiles.map fun q => (q.1, q.2.dark s.now)).filter fun q => decide (q.2 ≠ Tile.init),
    dies := [], cores := [], threads := [], pegs := [], ports := [], egress := [], leasesOut := [], funcs := [], mboxes := [],
    hostLink := false, rot := { s0.rot with spdm := Spdm.init },
    power := { s0.power with valveOpen := true, paused := false } }
  [Obj.hostLinkWidth, Obj.hostLinkGts, Obj.hostFlitMode, Obj.hostNumVfs].foldl (fun a k => a.setObj k 0) s1

/-- The flash channels of a compartment keep blocks under keys that are gone (R546 step 4). -/
def State.leaveBlocks (s : State) (n : Nat) : State :=
  { s with flashOld := s.flashOld ||| s.flashCh n ||| s.obj Obj.compFlashErasing }

/-- Every compartment becomes FREE without scrubbing (R545). -/
def State.freeAll (s : State) : State :=
  (List.range 8).foldl (fun a n =>
    if (a.comp n).st = .free then a
    else (((a.leaveBlocks n).closeSessions n).dropReports n).freeComp n) s

/-! FAULT, OFF and STANDBY (R543, R545, R548). -/

/-- Entry to FAULT (R545); the caller has logged the fault. In OFF nothing happens; in FAULT the first cause stays. -/
def State.enterFault (s : State) (code : Nat) : State :=
  if s.mode = .off || s.mode = .fault then s
  else
    let s1 := ((s.setObj Obj.moduleFaultCause code).freeAll.domainsOff).mirrorLog
    let going := match s.going with
      | some (.resetModule k) => some (Going.resetModule k)
      | some (.resetFull k) => some (Going.resetFull k)
      | _ => none
    { (s1.enterMode .fault) with startPending := false, going := going }

/-- ATTN# (R560, R563): asserted while the module is in FAULT or SERVICE. -/
def State.attention (s : State) : Bool := s.mode = .fault || s.mode = .service

/-- A fault logged that puts the module into FAULT. -/
def State.failModule (s : State) (code : Nat) : State :=
  if s.mode = .off then s else (s.fault code).enterFault code

/-- The power stage stops: what is volatile is lost, counters and log resume from what was stored (R519, R548, R552). -/
def State.powerLoss (s : State) (mv : Nat) : State :=
  let kept := s.objs.filter fun q => decide (persClass q.1 = 1) && !counterKeys.contains q.1
  let old := (List.range 8).foldl (fun a n => if (s.comp n).st = .free then a else a ||| s.flashCh n)
    (s.flashOld ||| s.obj Obj.compFlashErasing)
  { State.reset with
    pending := s.pending, out := s.out, fresh := s.fresh, cleanEnd := s.cleanEnd,
    pins := { s.pins with inputMv := mv },
    objs := counterKeys.foldl (fun m k => kput (objDefault k) m k (kget 0 s.stored k)) kept,
    stored := s.stored, boot := s.boot, flashOld := old,
    log := { s.log with entries := s.log.mirror, nextSeq := s.log.ceiling, lastWin := [] } }

/-- Entry to VERIFY (R543, R547, R549): the boot ROM notes a previous boot that no requested reset ended. -/
def State.enterVerify (s : State) : State :=
  let s1 := (((s.enterMode .verify).inc Obj.moduleBootCount).setObj Obj.moduleGroupsFailed 0).setObj Obj.moduleFlashFailed 0
  let s2 := { (s1.setObj Obj.rotMr 0) with startPending := false, cleanEnd := false }
  if s.cleanEnd then s2 else (s2.setObj Obj.moduleLastReset 4).fault 0x120C

/-- VERIFY or BRINGUP gives way to a low input or the bus warning. -/
def State.abortBoot (s : State) (code : Nat) : State := ((s.fault code).domainsOff).enterMode .standby

/-! Hold-up (R464, R465). -/

/-- Entry to HOLDUP: logged, told to every function, the log and the counters stored, the leases lent reclaimed. -/
def State.enterHoldup (s : State) (code : Nat) : State :=
  let s1 := (((s.fault code).inc Obj.holdupCount).mirrorLog.storeCounters).enterMode .holdup
  (s1.raiseAll 2).reclaimAll

/-- What a failing supply does in the present state. -/
def State.supplyFails (s : State) (code : Nat) : State :=
  match s.mode with
  | .ready => s.enterHoldup code
  | .run => s.enterHoldup code
  | .verify => s.abortBoot code
  | .bringup => s.abortBoot code
  | _ => s

def State.setInput (s : State) (mv : Nat) : State :=
  if s.mode = .off then { s with pins := { s.pins with inputMv := mv } }
  else { s.setObj Obj.powerInputMv mv with pins := { s.pins with inputMv := mv } }

/-- INPUT_APPLIED (R519, R543): the input has held 44 V for 10 ms, which takes the module out of OFF. `bad` names the
persistent objects of which neither stored copy verifies. -/
def execInputApplied (mv : BitVec 16) (bad : List (BitVec 24)) (s : State) : Host.Outcome State Fault Refusal :=
  if mv.toNat < 44000 then ok s
  else if s.mode ≠ .off then ok (s.setInput mv.toNat)
  else
    let s1 := ((s.enterMode .standby).setInput mv.toNat).setObj Obj.holdupBusWarning (b2n s.pins.busWarn)
    ok (bad.foldl (fun a k =>
      if persClass k.toNat = 1 then (a.setObj k.toNat (objDefault k.toNat)).fault 0x1109 else a) s1)

/-- INPUT_LOW (R444): below 44 V for more than 1 ms. -/
def execInputLow (mv : BitVec 16) (s : State) : Host.Outcome State Fault Refusal :=
  if 44000 ≤ mv.toNat || s.mode = .off then ok s else ok ((s.setInput mv.toNat).supplyFails 0x0E01)

/-- INPUT_LOSS (R444): below 40 V for more than 100 µs. -/
def execInputLoss (mv : BitVec 16) (s : State) : Host.Outcome State Fault Refusal :=
  if 40000 ≤ mv.toNat || s.mode = .off then ok s else ok (s.powerLoss mv.toNat)

/-- INPUT_OVERVOLTAGE (R444): above 58 V for more than 10 ms. -/
def execInputOvervoltage (mv : BitVec 16) (s : State) : Host.Outcome State Fault Refusal :=
  if mv.toNat ≤ 58000 || s.mode = .off then ok s else ok ((s.setInput mv.toNat).failModule 0x0E05)

/-- BUS_WARN_ASSERT (R464, R561): the filtered line is asserted. -/
def execBusWarnAssert (s : State) : Host.Outcome State Fault Refusal :=
  if s.pins.busWarn then ok s
  else
    let s1 := { s with pins := { s.pins with busWarn := true } }
    if s.mode = .off then ok s1 else ok ((s1.setObj Obj.holdupBusWarning 1).supplyFails 0x0E02)

/-- Auto-start waits for nothing (R543, R561, R562). -/
def State.autoReady (s : State) : Bool :=
  s.mode = .standby && s.obj Obj.moduleAutoStart = 1 && decide (44000 ≤ s.pins.inputMv) && !s.pins.busWarn && !s.pins.resetLow

/-- BUS_WARN_DEASSERT (R544, R561): a pending START, or auto-start, proceeds. -/
def execBusWarnDeassert (s : State) : Host.Outcome State Fault Refusal :=
  let s1 := { s with pins := { s.pins with busWarn := false } }
  if s.mode = .off then ok s1
  else
    let s2 := s1.setObj Obj.holdupBusWarning 0
    if (s2.mode = .standby && s2.startPending) || s2.autoReady then ok s2.enterVerify else ok s2

/-- Every compartment's cap. -/
def State.recapAll (s : State) : State :=
  (List.range 8).foldl (fun a n => if (a.comp n).st = .free then a else a.recap n) s

/-- HOLDUP_PAUSE (R464 step 7): the budget is spent. -/
def execHoldupPause (s : State) : Host.Outcome State Fault Refusal :=
  if s.mode ≠ .holdup || s.power.paused || s.now < s.modeAt + s.obj Obj.holdupBudgetS * 1000000000 then ok s
  else ok ({ s.fault 0x0E04 with power := { s.power with paused := true } }.recapAll)

/-- HOLDUP_EXIT (R465): the input has stayed at or above 46 V for clear_ms with the bus warning deasserted. -/
def execHoldupExit (mv : BitVec 16) (s : State) : Host.Outcome State Fault Refusal :=
  if s.mode ≠ .holdup || mv.toNat < 46000 || 58000 < mv.toNat || s.pins.busWarn ||
      s.now < s.modeAt + s.obj Obj.holdupClearMs * 1000000 then ok s
  else
    let any := (List.range 8).any fun n => s.running n
    let s1 := ((s.setInput mv.toNat).fault 0x0E03).enterMode (if any then .run else .ready)
    ok (({ s1 with power := { s1.power with paused := false } }.recapAll).raiseAll 2)

/-! Resets (R548, R549). -/

/-- Step 3: CLOSE_NOW of every compartment, which becomes FREE; steps 4 and 7 of R327 are left to bring-up. -/
def State.closeAll (s : State) : State :=
  (List.range 8).foldl (fun a n =>
    let b := a.leaveBlocks n
    match (a.comp n).st with
    | .free => a
    | .closing => b.freeComp n
    | _ => (((b.answerClose n).closing n)).freeComp n) s

/-- Objects that a MODULE reset keeps though they are volatile. -/
def resetKeeps (key : Nat) : Bool := [0x11, 0x61, 0x7F].contains (key / 65536)

/-- Steps 3 to 5: the module enters the state of R548. -/
def State.finishReset (s : State) (full : Bool) : State :=
  let s1 := if s.mode = .fault then s else s.closeAll.domainsOff
  let keep (k : Nat) : Bool := decide (persClass k ≠ 2) || (!full && resetKeeps k)
  let s2 := { s1 with
    objs := s1.objs.filter (fun q => keep q.1), going := none, startPending := false, cleanEnd := true, fwStage := [],
    tiles := [], seams := [], rot := Rot.init, power := Power.init, flashOld := s1.flashOld ||| s1.obj Obj.compFlashErasing }
  let s3 := (s2.setObj Obj.moduleLastReset (if full then 3 else 2)).setObj Obj.holdupBusWarning (b2n s.pins.busWarn)
  if full then
    { (s3.enterMode .standby) with
      time := 0, modeAt := 0, windowAt := 0, clock := Clock.init, xiesk := Xiesk.init,
      log := { s3.log with entries := s3.log.mirror, lastWin := [] } }
  else s3.enterVerify

/-- The reclaim a command or reset waits for has ended. -/
def State.goOn (s : State) : State :=
  match s.going with
  | some (.resetModule _) => s.finishReset false
  | some (.resetFull _) => s.finishReset true
  | some .toService =>
    let s1 := { s with going := none }
    if s.mode = .ready && (List.range 8).all (fun n => (s.comp n).st = .free) then s1.enterMode .service else s1
  | some .toStandby =>
    let s1 := { s with going := none }
    if (s.mode = .ready || s.mode = .service) && (List.range 8).all (fun n => (s.comp n).st = .free) then
      s1.domainsOff.enterMode .standby
    else s1
  | none => s

/-- No lease this module lent is still out. -/
def State.leasesHome (s : State) : Bool := s.leasesOut.all fun q => match q.2 with
  | some x => decide (x.st = .scrubbing)
  | none => true

/-- A reclaim begins (R271), and what waits for it goes on at once when no lease is out. -/
def State.await (s : State) (g : Going) : State :=
  let s1 := { s.reclaimAll with going := some g, goingAt := s.now }
  if s1.leasesHome then s1.goOn else s1

/-- LENDER_RECLAIM_DEADLINE (R271): D has run out, or every lease has come home before it. -/
def execLenderReclaimDeadline (s : State) : Host.Outcome State Fault Refusal :=
  if s.going.isNone || (!s.leasesHome && decide (s.now < s.goingAt + s.obj Obj.tierLendReclaimDeadlineMs * 1000000)) then ok s
  else ok s.goOn

/-- A reset request (R549): one in progress absorbs it, or turns FULL. -/
def State.resetAct (s : State) (full : Bool) : State :=
  match s.going with
  | some (.resetModule k) => if full then { s with going := some (.resetFull k) } else s
  | some (.resetFull _) => s
  | _ =>
    let s1 := { ((s.fault 0x1208 noComp (if full then 3 else 2)).mirrorLog) with startPending := false }
    if s.mode = .fault then s1.finishReset full
    else s1.await (if full then .resetFull 2 else .resetModule 2)

/-! module.command (R544). -/

/-- The command codes and where each is allowed. -/
def State.cmdAllowed (s : State) (code : Nat) : Bool :=
  let empty := (List.range 8).all fun n => (s.comp n).st = .free
  match code with
  | 1 => s.mode = .standby && !s.pins.resetLow
  | 2 => s.mode = .ready && empty
  | 3 => s.mode = .service
  | 4 => (s.mode = .ready && empty) || s.mode = .service
  | _ => decide (s.mode ≠ .off)

/-- The action of a write of module.command that the checks of R524 accept. -/
def State.moduleAct (s : State) (code : Nat) : Done :=
  if code = 0 || 6 < code then ⟨.outOfRange, 0, 0, s⟩
  else if !s.cmdAllowed code then ⟨.stateConflict, 0x1201, s.mode.code, s.fault 0x1201⟩
  else match code with
    | 1 => ⟨.ok, 0, 0, if s.pins.busWarn then { s with startPending := true } else s.enterVerify⟩
    | 2 => ⟨.ok, 0, 0, s.await .toService⟩
    | 3 => ⟨.ok, 0, 0, s.enterMode .ready⟩
    | 4 => ⟨.ok, 0, 0, s.await .toStandby⟩
    | 5 => ⟨.ok, 0, 0, s.resetAct false⟩
    | _ => ⟨.ok, 0, 0, s.resetAct true⟩

def State.moduleCommand (s : State) (r : Role) (code : Nat) : Host.Outcome State Fault Refusal :=
  match s.checkWrite r Obj.moduleCommand code with
  | .ok => (s.moduleAct code).out
  | st => ok (s.reply st)

/-- MODULE_START (R544). -/
def execModuleStart (r : Role) (s : State) : Host.Outcome State Fault Refusal := s.moduleCommand r 1
/-- MODULE_SERVICE (R544). -/
def execModuleService (r : Role) (s : State) : Host.Outcome State Fault Refusal := s.moduleCommand r 2
/-- EXIT_SERVICE (R544). -/
def execExitService (r : Role) (s : State) : Host.Outcome State Fault Refusal := s.moduleCommand r 3
/-- MODULE_STANDBY (R544). -/
def execModuleStandby (r : Role) (s : State) : Host.Outcome State Fault Refusal := s.moduleCommand r 4
/-- RESET_MODULE (R544, R549). -/
def execResetModule (r : Role) (s : State) : Host.Outcome State Fault Refusal := s.moduleCommand r 5
/-- RESET_FULL (R544, R549). -/
def execResetFull (r : Role) (s : State) : Host.Outcome State Fault Refusal := s.moduleCommand r 6

/-- AUTO_START (R543). -/
def execAutoStart (s : State) : Host.Outcome State Fault Refusal := if s.autoReady then ok s.enterVerify else ok s

/-- RESET_PIN_ASSERT (R562): RESET# has been low for 10 ms, or is released. -/
def execResetPinAssert (low : Bool) (s : State) : Host.Outcome State Fault Refusal :=
  let s1 := { s with pins := { s.pins with resetLow := low } }
  if low && !s.pins.resetLow && decide (s.mode ≠ .off) then ok (s1.resetAct true) else ok s1

/-! Boot (R379-R381). -/

/-- The header a slot holds: that of a committed image, else what was read. -/
def State.slotHdr (s : State) (k : Nat) (x : FwSlot) : FwHdr :=
  match s.boot.find? fun q => decide (q.1 = k) with
  | some q => q.2
  | none => ⟨x.svn.toNat, x.digest.toNat⟩

/-- Blown bits of SVN_FUSE[c] (R379). -/
def State.svnFused (s : State) (c : Nat) : Nat := fld (s.obj Obj.rotSvnFused) (64 * c + 63) (64 * c)

/-- A slot of a class tried: 0 when it verifies, else the fault. -/
def State.trySlot (s : State) (c k : Nat) (x : FwSlot) : Nat :=
  if !x.intact then 0x0C01 else if (s.slotHdr (2 * c + k) x).svn < s.svnFused c then 0x0C03 else 0

/-- Measurement register c extended (R380). -/
def State.extendMr (s : State) (c cls svn digest : Nat) : State :=
  let mr := s.obj Obj.rotMr
  let v := digest48 (leBytes 48 (fld mr (384 * c + 383) (384 * c)) ++ leBytes 1 cls ++ leBytes 8 svn ++ leBytes 48 digest)
  s.setObj Obj.rotMr (putFld mr (384 * c + 383) (384 * c) v)

/-- One class booted from slot A, else B; false when both fail. -/
def State.bootClass (s : State) (c : Nat) (a b : FwSlot) : Bool × State :=
  let load (k : Nat) (x : FwSlot) (t : State) : State :=
    let h := s.slotHdr (2 * c + k) x
    let t1 := (t.extendMr c c h.svn h.digest).setObj Obj.rotBootSlot (setBit (t.obj Obj.rotBootSlot) c (decide (k = 1)))
    { t1 with rot := { t1.rot with svn := kput 0 t1.rot.svn c h.svn } }
  match s.trySlot c 0 a with
  | 0 => (true, load 0 a s)
  | f =>
    let s1 := s.fault f
    match s.trySlot c 1 b with
    | 0 => (true, load 1 b s1)
    | g => (false, s1.fault g)

/-- Every class in order. -/
def State.bootFrom (s : State) (slots : List (FwSlot × FwSlot)) : Nat → Nat → Bool × State
  | 0, _ => (true, s)
  | k + 1, c =>
    let x := slots.getD c (⟨false, 0, 0⟩, ⟨false, 0, 0⟩)
    match s.bootClass c x.1 x.2 with
    | (true, t) => t.bootFrom slots k (c + 1)
    | r => r

/-- VERIFY_PASS (R377, R379-R381): the fuses and the slots of each class as they are read. -/
def execVerifyPass (fuseOk : Bool) (slots : List (FwSlot × FwSlot)) (s : State) : Host.Outcome State Fault Refusal :=
  if s.mode ≠ .verify then ok s
  else if !fuseOk then ok (s.failModule 0x0C05)
  else
    match ((s.setObj Obj.rotMr 0).extendMr 0 0xFF 0 (Config.identity 0 % 2 ^ 384)).bootFrom slots 6 0 with
    | (true, t) => ok (t.enterMode .bringup)
    | (false, t) => ok (t.failModule 0x0C02)

/-- VERIFY_TIMEOUT (R543). -/
def execVerifyTimeout (s : State) : Host.Outcome State Fault Refusal :=
  if s.mode = .verify && decide (s.modeAt + 485000000 ≤ s.now) then ok (s.failModule 0x1202) else ok s

/-- BRINGUP_TIMEOUT (R543). -/
def execBringupTimeout (s : State) : Host.Outcome State Fault Refusal :=
  if s.mode = .bringup && decide (s.modeAt + 6000000000 ≤ s.now) then ok (s.failModule 0x1204) else ok s

/-- Units that fail training, and tiles that fail their self-test (R53, R546, R547). -/
def State.failUnits (s : State) (hbmStacks : List (Fin 12)) (flash : List (Fin 32)) (tiles : List TileNo) : State :=
  let s1 := hbmStacks.foldl (fun a k =>
    (a.setObj Obj.moduleGroupsFailed (a.obj Obj.moduleGroupsFailed ||| 15 * 16 ^ k.val)).fault 0x1205 noComp k.val) s
  let s2 := flash.foldl (fun a c =>
    (a.setObj Obj.moduleFlashFailed (a.obj Obj.moduleFlashFailed ||| 2 ^ c.val)).fault 0x1206 noComp c.val) s1
  tiles.foldl (fun a t => a.fenceFor t.val 0x0101) s2

/-- No tile block holds an unfenced tile, or no channel group remains (R547). -/
def State.unusable (s : State) : Bool :=
  s.obj Obj.tileArrayFenceMap % 2 ^ 1024 = 2 ^ 1024 - 1 || s.obj Obj.moduleGroupsFailed % 2 ^ 48 = 2 ^ 48 - 1

/-- BRINGUP_COMPLETE (R546, R547): steps 1 to 5 have ended; the delivery key pair is new. -/
def execBringupComplete (railsOk : Bool) (hbmStacks : List (Fin 12)) (flash : List (Fin 32)) (tiles : List TileNo)
    (spare : BitVec 256) (s : State) : Host.Outcome State Fault Refusal :=
  if s.mode ≠ .bringup then ok s
  else if !railsOk then ok (s.failModule 0x1203)
  else
    let s1 := (s.failUnits hbmStacks flash tiles).setObj Obj.tierFlashSparePct spare.toNat
    if s1.unusable then ok (s1.failModule 0x1207)
    else
      let s2 := { (s1.setObj Obj.compFlashErasing (s1.obj Obj.compFlashErasing ||| s1.flashOld)) with flashOld := 0 }
      let s3 := (s2.setObj Obj.rotDeliveryEk (Config.random s2.fresh % 2 ^ 12544)).tickFresh
      let s4 := s3.setObj Obj.moduleBringupMs ((s.now - s.modeAt) / 1000000)
      ok ((s4.enterMode .ready).fabRestart)

/-- ENTROPY_FAIL (R376). -/
def execEntropyFail (s : State) : Host.Outcome State Fault Refusal := ok (s.failModule 0x0C04)

/-! The request watchdog (R550). -/

def Target.subject : Target → Nat
  | .pseudo pc => pc
  | .bank t _ => t
  | .module m => m

/-- REQUEST_WATCHDOG (R550). -/
def execRequestWatchdog (t : TileNo) (slot : Fin 256) (s : State) : Host.Outcome State Fault Refusal :=
  match s.slotAt t.val slot.val with
  | some x =>
    let here := match x.target with
      | .module _ => false
      | _ => true
    if !here || x.reply.isSome || s.now < x.issued + s.obj Obj.moduleSlotWatchdogUs * 1000 then ok s
    else
      let n := s.compNo t.val
      let s1 := if n < 8 then s.lostAccess n 0x1209 x.addr else s
      let s2 := s1.faultOnce 0x1209 n x.target.subject
      match x.who with
      | .pegOp k => ok ((s2.setSlot t.val slot.val none).pegEnd k 0x1209 false)
      | _ => ok (s2.answerSlot t.val slot.val 0x1209 [])
  | none => ok s

/-! Firmware staging (R551). -/

/-- The action of module.fw_stage. -/
def State.stageAct (s : State) (v : List Byte) : Status × State :=
  let len := leNat (v.take 4)
  let off := leNat ((v.drop 4).take 4)
  let pad := leNat ((v.drop 8).take 8)
  let rest := v.drop (16 + len)
  if len = 0 || 32752 < len || pad ≠ 0 || rest.any (· ≠ 0) || off ≠ s.fwStage.length || 16777216 < off + len then (.outOfRange, s)
  else (.ok, { s with fwStage := s.fwStage ++ (v.drop 16).take len })

/-- FW_STAGE (R551). -/
def execFwStage (r : Role) (v : List Byte) (s : State) : Host.Outcome State Fault Refusal :=
  match s.checkWrite r Obj.moduleFwStage 0 with
  | .ok =>
    let (st, t) := s.stageAct (padTo 32768 v)
    ok (t.reply st)
  | st => ok (s.reply st)

/-- The staged image verifies under R379 for a class; `signed` says whether its key's digest and its signature do. -/
def State.imageOk (s : State) (cls : Nat) (signed : Bool) : Bool :=
  let b := s.fwStage
  let h (off n : Nat) : Nat := leNat ((b.drop off).take n)
  b.take 4 = ascii "YVFI" && h 4 1 = cls && h 5 3 = 0 && decide (s.svnFused cls ≤ h 8 8) && decide (h 8 8 ≤ 64) &&
    h 20 12 = 0 && h 144 16 = 0 && b.length = 160 + h 16 4 + 29792 &&
    digest48 ((b.drop 160).take (h 16 4)) = h 32 48 && signed

/-- The action of module.fw_commit: slot A goes to slot B, the staged image to slot A. -/
def State.commitFwAct (s : State) (cls : Nat) (signed : Bool) : Status × Nat × State :=
  if 5 < cls || !s.imageOk cls signed then (.outOfRange, 0x120A, { s.fault 0x120A with fwStage := [] })
  else
    let h : FwHdr := ⟨leNat ((s.fwStage.drop 8).take 8), leNat ((s.fwStage.drop 32).take 48)⟩
    let a := s.boot.find? fun q => decide (q.1 = 2 * cls)
    let rest := s.boot.filter fun q => decide (q.1 / 2 ≠ cls)
    let b := match a with
      | some q => [(2 * cls + 1, q.2)]
      | none => []
    (.ok, 0, { s.fault 0x120B with fwStage := [], boot := rest ++ [(2 * cls, h)] ++ b })

/-- FW_COMMIT (R551). -/
def execFwCommit (r : Role) (cls : Byte) (signed : Bool) (s : State) : Host.Outcome State Fault Refusal :=
  match s.checkWrite r Obj.moduleFwCommit cls.toNat with
  | .ok =>
    let (st, f, t) := s.commitFwAct cls.toNat signed
    ok (t.reply st f)
  | st => ok (s.reply st)

/-! The fault log (R552, R553). -/

/-- FAULT_CLEAR (R553). -/
def execFaultClear (r : Role) (v : Bool) (s : State) : Host.Outcome State Fault Refusal :=
  ok <| s.clearWrite r Obj.faultClear v fun s => { s with log := { s.log with entries := [], mirror := [] } }

/-- FAULT_LOG_MIRROR (R552). -/
def execFaultLogMirror (s : State) : Host.Outcome State Fault Refusal := if s.mode = .off then ok s else ok s.mirrorLog

/-- PERSISTENT_COUNTER_STORE (R519). -/
def execPersistentCounterStore (s : State) : Host.Outcome State Fault Refusal :=
  if s.mode = .off then ok s else ok s.storeCounters

end Sys2Proof.Machine
end

