-- ==== Sys2Proof/Machine/Monitor.lean ====
section
/-! DEFINITION. Event selection, snapshots and the phase timing records (chapter 17, R479-R485). -/

namespace Sys2Proof.Machine
open Sys2Proof

/-- Codes of the list: of tiles, of compartments, and those of the module (R479). -/
def tileCode (k : Nat) : Bool :=
  [(0x01, 0x09), (0x20, 0x27), (0x40, 0x49), (0x60, 0x67), (0x80, 0x88), (0xF0, 0xF3)].any fun q => q.1 ≤ k && k ≤ q.2
def compCode (k : Nat) : Bool := [(0xA0, 0xA7), (0xC0, 0xC7), (0xE0, 0xE4)].any fun q => q.1 ≤ k && k ≤ q.2

/-- A selection of codes (R480): ACCESS_DENIED for a module code asked by a compartment, OUT_OF_RANGE for a code that
may not be selected. -/
def selectStatus (r : Role) (codes : List Nat) (may : Nat → Bool) : Status :=
  if codes.any fun k => decide (0xF0 ≤ k) && !Role.manages r then .accessDenied
  else if codes.all fun k => k = 0 || may k then .ok else .outOfRange

/-- A selection refused (R480). -/
def State.selRefused (s : State) (n : Nat) (st : Status) : State := (s.faultOnce 0x0F09 n).reply st 0x0F09

/-- When a selection written now starts: the first multiple of 1,024 ns at least 2 µs later (R481). -/
def State.selStart (s : State) : Nat := ceilDiv (s.now + 2000) 1024 * 1024

/-- A write of tile_sel: the counters it names are zeroed and the codes stand from their start on (R481). -/
def State.tileSelAct (s : State) (r : Role) (n v : Nat) : Status × State :=
  match selectStatus r ((List.range 8).map fun i => fld v (8 * i + 7) (8 * i)) tileCode with
  | .ok =>
    let s1 := s.setObjC Obj.evCompTileSel n v
    let s2 := (s1.tilesOf n).foldl (fun a t => a.modTile t fun y =>
      { y with events := y.events.filter fun q => q.1 = evOvf }) s1
    (.ok, s2.modComp n fun c => { c with selFrom := s1.selStart })
  | st => (st, s)

/-- TILE_SEL_WRITE (R480, R481). -/
def execTileSelWrite (r : Role) (c : CompNo) (v : W64) (s : State) : Host.Outcome State Fault Refusal :=
  match s.checkWrite r (objAt Obj.evCompTileSel c.val) v.toNat with
  | .ok => (match s.tileSelAct r c.val v.toNat with
    | (.ok, t) => ok (t.reply .ok)
    | (st, t) => ok (t.selRefused c.val st))
  | st => ok (s.reply st)

/-- A write of aggregate counter j: its count zero, its code and BLOCKS taken; byte 9 and the reserved bytes are written
0 (R481, R487). -/
def State.aggAct (s : State) (r : Role) (n j v : Nat) : Status × State :=
  if fld v 79 72 ≠ 0 || fld v 127 96 ≠ 0 then (.outOfRange, s)
  else match selectStatus r [fld v 71 64] (fun k => tileCode k || compCode k) with
    | .ok => (.ok, (s.setObj (aggKey n j) (pack [(64, fld v 71 64), (80, fld v 95 80)])).modComp n fun c =>
        { c with aggFrom := kput 0 c.aggFrom j s.selStart })
    | st => (st, s)

/-- AGG_WRITE (R480, R481). -/
def execAggWrite (r : Role) (c : CompNo) (j : Fin 64) (v : BitVec 128) (s : State) : Host.Outcome State Fault Refusal :=
  match s.checkWrite r (aggKey c.val j.val) v.toNat with
  | .ok => (match s.aggAct r c.val j.val v.toNat with
    | (.ok, t) => ok (t.reply .ok)
    | (st, t) => ok (t.selRefused c.val st))
  | st => ok (s.reply st)

/-- EV_SELECT_EFFECT (R481): selections whose start has come count from now on. -/
def execEvSelectEffect (c : CompNo) (s : State) : Host.Outcome State Fault Refusal :=
  ok (s.modComp c.val fun x =>
    { x with selFrom := if x.selFrom ≤ s.now then 0 else x.selFrom,
             aggFrom := x.aggFrom.filter fun q => decide (s.now < q.2) })

/-! Snapshots (R483). -/

/-- The line of a tile. -/
def State.snapLine (s : State) (t : Nat) : Nat :=
  let es := (s.tile t).events
  let fenced := s.fenced t
  let counts := (List.range 8).foldl (fun a i => a + (kget 0 es i) <<< (48 * i)) 0
  (if fenced then 0 else counts) + pack [(384, t), (400, kget 0 es evOvf % 256), (408, b2n fenced)]

/-- Whether the buffer may take the snapshot: wholly in the span range, every page writable and none guarded. -/
def State.snapFits (s : State) (n a len : Nat) : Bool :=
  s.inSpan n a len &&
    (List.range (pageOf (a + len - 1) + 1 - pageOf a)).all fun i =>
      s.permits n .host .write (pageOf a + i) && !s.guardedPage n (pageOf a + i)

/-- A snapshot: latched now, written where the buffer takes it, the OVF bits it reports cleared, snap_done_peg advanced. -/
def State.snapshot (s : State) (n : Nat) : State :=
  let ts := s.tilesOf n
  let a := s.objC Obj.evCompSnapAddr n
  let len := 64 * (ts.length + 1)
  if !s.snapFits n a len then
    ((s.incC Obj.evCompSnapRefused n).faultOnce 0x0F0B n).unitPost n (s.objC Obj.evCompSnapDonePeg n)
  else
    let head := pack [(0, s.now), (64, ts.length), (128, s.objC Obj.evCompTileSel n)]
    let s1 := s.unitWrite n a (leBytes 64 head ++ ts.flatMap fun t => leBytes 64 (s.snapLine t))
    let s2 := ts.foldl (fun x t => x.modTile t fun y => { y with events := kput 0 y.events evOvf 0 }) s1
    (s2.incC Obj.evCompSnapshots n).unitPost n (s.objC Obj.evCompSnapDonePeg n)

/-- SNAP_REQ (R483, R573): an advance of snap_req_peg not yet acted on. -/
def execSnapReq (c : CompNo) (s : State) : Host.Outcome State Fault Refusal :=
  let n := c.val
  if (s.comp n).st = .free || s.advances n unitSnap (s.objC Obj.evCompSnapReqPeg n) = 0 then ok s
  else ok ((s.actOn n unitSnap).snapshot n)

/-- SNAP_NOW (R483). -/
def execSnapNow (r : Role) (c : CompNo) (v : Bool) (s : State) : Host.Outcome State Fault Refusal :=
  ok <| s.clearWrite r (objAt Obj.evCompSnapNow c.val) v fun t => t.snapshot c.val

/-- The records of a compartment zeroed, MIN_NS at its largest (R484). -/
def State.phaseClear (s : State) (n : Nat) : State := s.modComp n fun c => { c with recs := [] }

/-- PHASE_CLEAR (R484). -/
def execPhaseClear (r : Role) (c : CompNo) (v : Bool) (s : State) : Host.Outcome State Fault Refusal :=
  ok <| s.clearWrite r (objAt Obj.evCompPhaseClear c.val) v fun t => t.phaseClear c.val

/-- A phase record laid out (R484). -/
def PhaseRec.bytes (r : PhaseRec) : List Byte :=
  [r.count, r.sum, r.minNs, r.maxNs, r.last, r.step, r.endNs, 0].flatMap (leBytes 8) ++
    (List.range 64).flatMap fun b => leBytes 4 (kget 0 r.hist b)

end Sys2Proof.Machine
end

