-- ==== Sys2Proof/Machine/Phases.lean ====
section
/-! DEFINITION. Phase marks (chapter 15, R437-R442). -/

namespace Sys2Proof.Machine
open Sys2Proof

def Mk.phase (e : Nat) : Nat := fld e 15 8
def Mk.step (e : Nat) : Nat := fld e 127 64

/-- An entry is refused (R439). -/
def State.markRefused (s : State) (n e : Nat) : Bool :=
  fld e 7 0 ≠ 0x51 || fld e 63 16 ≠ 0 || fld e 511 128 ≠ 0 || Mk.phase e = 0 || Mk.phase e = 255 ||
    !Pl.valid (s.planEntry n (Mk.phase e))

/-- The stamp of entry i: the first advance that brought the ring's peg to i + 1 or beyond (R440). -/
def State.stampOf (s : State) (n i : Nat) : Nat :=
  match (s.comp n).stamps.find? fun q => seqReached q.1 (i + 1) with
  | some q => q.2
  | none => s.now

/-- PHASE_MARK_TAKE (R439, R440): the next entry of the phase ring, while RUNNING. -/
def execPhaseMarkTake (c : CompNo) (remote : Option SpanReply) (s : State) : Host.Outcome State Fault Refusal :=
  let n := c.val
  let i := (s.comp n).phTaken
  let posted := ((s.peg (s.objC Obj.phaseCompRingPeg n)).value + 2 ^ 32 - i % 2 ^ 32) % 2 ^ 32
  if !s.running n || posted = 0 then ok s
  else
    match s.unitFetch n (s.objC Obj.phaseCompRingAddr n + i % max 1 (s.objC Obj.phaseCompRingEntries n) * 64) 64 remote with
    | (none, s1) => ok s1
    | (some bs, s1) =>
      let e := leNat bs
      let at_ := s.stampOf n i
      let s2 := (s1.modComp n fun c =>
        { c with phTaken := i + 1, stamps := c.stamps.filter fun q => !seqReached (i + 1) q.1 }).unitPost n
          (s.objC Obj.phaseCompTakenPeg n)
      if s2.markRefused n e then ok (s2.incC Obj.phaseCompMarksRefused n)
      else ok (((s2.nextPhase n (Mk.phase e) (Mk.step e) at_).incC Obj.phaseCompMarks n).compEvent n 0xE4 1)

/-- PHASE_OVERRUN (R441): the open phase has lasted twice its PLAN_US. -/
def execPhaseOverrun (c : CompNo) (s : State) : Host.Outcome State Fault Refusal :=
  let n := c.val
  let p := s.objC Obj.phaseCompCurrent n
  let since := s.objC Obj.phaseCompCurrentSince n
  if !s.running n || p = 0 || p = 255 || (s.comp n).phOver || s.now < since + 2000 * Pl.us (s.planEntry n p) then ok s
  else ok ((s.modComp n fun c => { c with phOver := true }).incC Obj.phaseCompOverruns n)

end Sys2Proof.Machine
end

