-- ==== Sys2Proof/Machine/Rot.lean ====
section
/-! DEFINITION. The root of trust (chapter 13): SVN fuses (R382), report requests (R383), weights measured as they stream
(R389), and the host's SPDM, IDE_KM and TDISP messages (R393-R398). -/

namespace Sys2Proof.Machine
open Sys2Proof

/-! Fuses and reports. -/

/-- The action of rot.svn_advance (R382). -/
def State.svnAct (s : State) (cls : Nat) : Status × State :=
  let run := kget 0 s.rot.svn cls
  let blown := s.svnFused cls
  if 5 < cls || run ≤ blown || 64 < run then (.outOfRange, s)
  else (.ok, (s.setObj Obj.rotSvnFused (putFld (s.obj Obj.rotSvnFused) (64 * cls + 63) (64 * cls) run)).fault 0x0C0E)

/-- SVN_ADVANCE (R382). -/
def execSvnAdvance (r : Role) (cls : Byte) (s : State) : Host.Outcome State Fault Refusal :=
  match s.checkWrite r Obj.rotSvnAdvance cls.toNat with
  | .ok =>
    let (st, t) := s.svnAct cls.toNat
    ok (t.reply st)
  | st => ok (s.reply st)

/-- A request joins the queue of signings, or finds it full (R383). -/
def State.reportAct (s : State) (c : Option Nat) (nonce : Nat) : Done :=
  let asks (q : ReportReq) : Done := match s.queueReport q with
    | some t => ⟨.ok, 0, 0, t⟩
    | none => ⟨.stateConflict, 0x0C06, 0, s.fault 0x0C06 (c.getD noComp)⟩
  match c with
  | some n => if (s.comp n).st = .forming then ⟨.ok, 0, 0, s.modComp n fun x => { x with nonce := nonce }⟩
    else asks ⟨some n, nonce⟩
  | none => asks ⟨none, nonce⟩

/-- REPORT_REQUEST (R383). -/
def execReportRequest (r : Role) (c : CompNo) (nonce : BitVec 256) (s : State) : Host.Outcome State Fault Refusal :=
  match s.checkWrite r (objAt Obj.rotCompReportRequest c.val) nonce.toNat with
  | .ok => (s.reportAct (some c.val) nonce.toNat).out
  | st => ok (s.reply st)

/-- MODULE_REPORT_REQUEST (R383). -/
def execModuleReportRequest (r : Role) (nonce : BitVec 256) (s : State) : Host.Outcome State Fault Refusal :=
  match s.checkWrite r Obj.rotReportRequest nonce.toNat with
  | .ok => (s.reportAct none nonce.toNat).out
  | st => ok (s.reply st)

/-- REPORT_SIGNED (R383, R384): the signature of the head of the queue completes, and the next signing starts. -/
def execReportSigned (signature : List Byte) (s : State) : Host.Outcome State Fault Refusal :=
  match s.rot.signing, s.rot.queue with
  | some (body, _), q :: rest =>
    let v := leNat (body ++ padTo 29792 signature)
    let s1 := match q.comp with
      | some n => s.setObjC Obj.rotCompReport n v
      | none => s.setObj Obj.rotReport v
    ok (((s1.inc Obj.rotReportsSigned).modRot fun r => { r with queue := rest, signing := none }).startSigning.acceptWaiting)
  | _, _ => ok s

/-! Measurement (R389). -/

/-- The ledger entry that covers slot k of an object. -/
def State.covering (s : State) (n id k : Nat) : Option Nat :=
  firstBelow 16 fun i =>
    let e := s.ledgerEntry n i
    Lg.obj e ≠ 0 && Lg.obj e = id && decide (Lg.first e ≤ k) && decide (k < Lg.first e + Lg.slots e)

/-- A streamed slot that matched: its marks cleared, counted, the stream-order digest extended. -/
def State.slotMatched (s : State) (n t dst i k h : Nat) : State :=
  let s1 := s.modTile t fun y => { y with poison := (wordsOf dst slotBytes).foldl (fun p w => kput false p w false) y.poison }
  let l := s1.ledgerState n i
  let run := digest48 (leBytes 48 l.run ++ leBytes 4 k ++ leBytes 48 h)
  (s1.modComp n fun c => { c with ledgers := kput Ledger.init c.ledgers i { l with verified := l.verified + 1, run := run } }).incC
    Obj.rotCompSlotsVerified n

/-- A measured stream ends after k slots: its entry is no longer open. -/
def State.endSlots (s : State) (n entry e : Nat) (r : Except (Nat × Nat) Unit) (k : Nat) : State :=
  (s.modComp n fun c => { c with pOpen := c.pOpen.filter fun y => decide (y.id ≠ entry) }).streamEnd n e r k

/-- SLOT_MEASURE (R389): the digest of the slot that an open stream has waiting; the next slot and the ledger's digest may
lie on other modules. -/
def execSlotMeasure (c : CompNo) (entry : Nat) (next ledger : Option SpanReply) (s : State) :
    Host.Outcome State Fault Refusal :=
  let n := c.val
  match (s.comp n).pOpen.find? fun x => decide (x.id = entry) && decide (Pe.kind x.raw = 0x75) with
  | none => ok s
  | some x =>
    let e := x.raw
    match s.pobj n (Pe.obj e) with
    | none => ok (s.endSlots n entry e (.error (0x0C0A, Pe.src e)) x.done)
    | some o =>
      let t := Pe.tile e
      let at_ := Pe.src e + x.done * slotBytes
      let dst := Pe.tsAddr e + x.done * slotBytes
      let k := (at_ - o.base * 65536) / slotBytes
      let h := digest48 (s.tsRead t dst slotBytes)
      match s.covering n (Pe.obj e) k with
      | none => ok ((s.fault 0x0C0A n 0 0 k).endSlots n entry e (.error (0x0C0A, at_)) x.done)
      | some i =>
        let le := s.ledgerEntry n i
        match s.unitFetch n (Lg.addr le + 48 * (k - Lg.first le)) 48 ledger with
        | (some want, s1) =>
          if leNat want ≠ h then ok (((s1.fault 0x0C0B n 0 0 k).endSlots n entry e (.error (0x0C0B, at_)) x.done).holdComp n 0x0C0B)
          else
            let s2 := s1.slotMatched n t dst i k h
            if x.done + 1 < Pe.count e then
              match s2.streamSlot n e (x.done + 1) true next with
              | (.ok _, s3) => ok (s3.modComp n fun c =>
                  { c with pOpen := c.pOpen.map fun y => if y.id = entry then { y with done := y.done + 1 } else y })
              | (.error z, s3) => ok (s3.endSlots n entry e (.error z) (x.done + 1))
            else ok (s2.endSlots n entry e (.ok ()) (x.done + 1))
        | (none, s1) => ok (((s1.fault 0x0C0B n 0 0 k).endSlots n entry e (.error (0x0C0B, at_)) x.done).holdComp n 0x0C0B)

/-! SPDM (R393, R394, R398). Codes of requests and errors are those of the DMTF standard. -/

abbrev SessNoS := Option (Fin 4)

def State.modSpdm (s : State) (f : Spdm → Spdm) : State := s.modRot fun r => { r with spdm := f r.spdm }
def State.spdmSess (s : State) (k : Nat) : Option SpdmSess := kget none s.rot.spdm.sess k
def State.setSpdmSess (s : State) (k : Nat) (x : Option SpdmSess) : State :=
  s.modSpdm fun q => { q with sess := kput none q.sess k x }

/-- An ERROR response. -/
def State.spdmErr (s : State) (code : Nat) : State := s.emit (.spdm 0x7F [BitVec.ofNat 8 code])

/-- An error of R398 counted; the 64th of a session within 2^36 ns ends it and refuses PSK_EXCHANGE for 1 s. -/
def State.spdmFail (s : State) (sess : SessNoS) (code : Nat) : State :=
  let s1 := ((s.inc Obj.rotSpdmErrors).faultOnce 0x0C0C).spdmErr code
  match sess with
  | none => s1
  | some k => match s1.spdmSess k.val with
    | none => s1
    | some x =>
      let times := s1.now :: x.errors.filter fun t => decide (s1.now < t + 2 ^ 36)
      if 64 ≤ times.length then
        (s1.setSpdmSess k.val none).modSpdm fun q => { q with lockTo := some (s1.now + 1000000000) }
      else s1.setSpdmSess k.val (some { x with errors := times })

/-- A response; one above DataTransferSize is announced as large and read in chunks. -/
def State.spdmSay (s : State) (code : Nat) (data : List Byte := []) : State :=
  if 4096 < data.length then (s.modSpdm fun q => { q with large := data }).spdmErr 0x0F else s.emit (.spdm code data)

/-- A request that is well formed and in sequence has its effect; else ERROR InvalidRequest or UnexpectedRequest. -/
def State.spdmDo (s : State) (sess : SessNoS) (sound inOrder : Bool) (f : State → State) : Host.Outcome State Fault Refusal :=
  if !sound then ok (s.spdmFail sess 0x01) else if !inOrder then ok (s.spdmFail sess 0x04) else ok (f s)

/-- The connection is negotiated. -/
def State.spdmUp (s : State) : Bool := s.rot.spdm.phase = 3
/-- A message inside an established secured session. -/
def State.spdmSecured (s : State) (sess : SessNoS) : Bool :=
  match sess with
  | none => false
  | some k => (match s.spdmSess k.val with | some x => x.finished | none => false)

/-- GET_VERSION: SPDM 1.2 and 1.3. -/
def execGetVersion (sess : Option (Fin 4)) (sound : Bool) (s : State) : Host.Outcome State Fault Refusal :=
  s.spdmDo sess sound true fun s =>
    (s.modSpdm fun q => { q with phase := 1, proved := false, large := [] }).spdmSay 0x04 [0x12, 0x13]

/-- GET_CAPABILITIES: DataTransferSize 4,096 and MaxSPDMmsgSize 65,536. -/
def execGetCapabilities (sess : Option (Fin 4)) (sound : Bool) (s : State) : Host.Outcome State Fault Refusal :=
  s.spdmDo sess sound (s.rot.spdm.phase = 1) fun s =>
    (s.modSpdm fun q => { q with phase := 2 }).spdmSay 0x61 (leBytes 4 4096 ++ leBytes 4 65536)

/-- NEGOTIATE_ALGORITHMS. -/
def execNegotiateAlgorithms (sess : Option (Fin 4)) (sound : Bool) (s : State) : Host.Outcome State Fault Refusal :=
  s.spdmDo sess sound (s.rot.spdm.phase = 2) fun s => (s.modSpdm fun q => { q with phase := 3 }).spdmSay 0x63

/-- GET_DIGESTS: the base hash of the chain of slot 0. -/
def execGetDigests (sess : Option (Fin 4)) (sound : Bool) (s : State) : Host.Outcome State Fault Refusal :=
  s.spdmDo sess sound s.spdmUp fun s =>
    let v := s.obj Obj.rotIdCerts
    s.spdmSay 0x01 (sha3 (leBytes (v % 2 ^ 32) (v >>> 32)))

/-- GET_CERTIFICATE of slot 0: a part of the chain in rot.id_certs. -/
def execGetCertificate (sess : Option (Fin 4)) (sound : Bool) (slot : Byte) (off len : BitVec 16) (s : State) :
    Host.Outcome State Fault Refusal :=
  s.spdmDo sess (sound && slot = 0) s.spdmUp fun s =>
    let v := s.obj Obj.rotIdCerts
    let n := min len.toNat (v % 2 ^ 32 - off.toNat)
    s.spdmSay 0x02 (leBytes n (v >>> (32 + 8 * off.toNat)))

/-- The signature of a response is not formed: ERROR ResponseNotReady with RDTExponent 21. -/
def State.spdmLater (s : State) : State := s.emit (.spdm 0x7F [0x42, 21])

/-- CHALLENGE. -/
def execChallenge (sess : Option (Fin 4)) (sound ready : Bool) (s : State) : Host.Outcome State Fault Refusal :=
  s.spdmDo sess sound s.spdmUp fun s =>
    if !ready || s.rot.signing.isSome then s.spdmLater
    else (s.modSpdm fun q => { q with proved := true }).spdmSay 0x03

/-- The raw measurement block of an index (R393). -/
def State.measurement (s : State) (b : Nat) : Option (List Byte) :=
  if 1 ≤ b && b ≤ 6 then some (leBytes 48 (fld (s.obj Obj.rotMr) (384 * (b - 1) + 383) (384 * (b - 1))))
  else if b = 7 then some s.svnBytes
  else if b = 8 then some (leBytes 1568 (s.obj Obj.rotDeliveryEk))
  else if 0x10 ≤ b && b < 0x18 then
    let n := b - 0x10
    let st := (s.comp n).st
    some (leBytes 48 (if st = .attested || st = .running || st = .held then s.objC Obj.rotCompTerms n else 0))
  else none

/-- GET_MEASUREMENTS of one block, of their number (0) or of all of them (0xFF). -/
def execGetMeasurements (sess : Option (Fin 4)) (sound : Bool) (block : Byte) (signed ready : Bool) (s : State) :
    Host.Outcome State Fault Refusal :=
  let all := [1, 2, 3, 4, 5, 6, 7, 8] ++ (List.range 8).map (· + 0x10)
  let data := if block = 0 then some [BitVec.ofNat 8 all.length]
    else if block = 0xFF then some (all.flatMap fun b => (s.measurement b).getD [])
    else s.measurement block.toNat
  s.spdmDo sess (sound && data.isSome) s.spdmUp fun s =>
    if signed && (!ready || s.rot.signing.isSome) then s.spdmLater else s.spdmSay 0x60 (data.getD [])

/-- KEM_ENCAP (R394): after CHALLENGE; the hint that names the new PSK is drawn. -/
def execKemEncap (sess : Option (Fin 4)) (sound : Bool) (s : State) : Host.Outcome State Fault Refusal :=
  s.spdmDo sess sound (s.spdmUp && s.rot.spdm.proved) fun s =>
    let hint := Config.random s.fresh % 2 ^ 128
    (s.tickFresh.modSpdm fun q => { q with psks := q.psks ++ [hint] }).spdmSay 0x7E (leBytes 16 hint)

/-- PSK_EXCHANGE (R393, R394, R398): at most 4 sessions; refused as busy during the 1 s after a session was ended. -/
def execPskExchange (sess : Option (Fin 4)) (sound : Bool) (hint : BitVec 128) (s : State) : Host.Outcome State Fault Refusal :=
  s.spdmDo sess (sound && (s.rot.spdm.lockTo.isSome || s.rot.spdm.psks.contains hint.toNat)) s.spdmUp fun s =>
    if s.rot.spdm.lockTo.isSome then s.spdmErr 0x03
    else match firstBelow 4 fun k => (s.spdmSess k).isNone with
      | none => s.spdmErr 0x0A
      | some k =>
        ((s.modSpdm fun q => { q with psks := q.psks.filter (· ≠ hint.toNat) }).setSpdmSess k
          (some ⟨hint.toNat, false, 0, []⟩)).spdmSay 0x66 [BitVec.ofNat 8 k]

/-- PSK_FINISH. -/
def execPskFinish (sess : Option (Fin 4)) (sound : Bool) (s : State) : Host.Outcome State Fault Refusal :=
  let x := match sess with
    | some k => s.spdmSess k.val
    | none => none
  let k := match sess with
    | some k => k.val
    | none => 0
  s.spdmDo sess sound (match x with | some y => !y.finished | none => false) fun s =>
    (s.setSpdmSess k (x.map fun y => { y with finished := true })).spdmSay 0x67

/-- KEY_UPDATE. -/
def execKeyUpdate (sess : Option (Fin 4)) (sound : Bool) (s : State) : Host.Outcome State Fault Refusal :=
  s.spdmDo sess sound (s.spdmSecured sess) fun s =>
    match sess with
    | some k => (s.setSpdmSess k.val ((s.spdmSess k.val).map fun y => { y with updates := y.updates + 1 })).spdmSay 0x69
    | none => s

/-- HEARTBEAT. -/
def execSpdmHeartbeat (sess : Option (Fin 4)) (sound : Bool) (s : State) : Host.Outcome State Fault Refusal :=
  s.spdmDo sess sound (s.spdmSecured sess) fun s => s.spdmSay 0x68

/-- END_SESSION (R394): the session ends and its PSK is erased. -/
def execEndSession (sess : Option (Fin 4)) (sound : Bool) (s : State) : Host.Outcome State Fault Refusal :=
  s.spdmDo sess sound (s.spdmSecured sess) fun s =>
    match sess with
    | some k => (s.setSpdmSess k.val none).spdmSay 0x6C
    | none => s

/-- CHUNK_GET: a chunk of at most DataTransferSize bytes of the large response. -/
def execChunkGet (sess : Option (Fin 4)) (sound : Bool) (chunk : BitVec 16) (s : State) : Host.Outcome State Fault Refusal :=
  let data := s.rot.spdm.large
  let part := (data.drop (4096 * chunk.toNat)).take 4096
  s.spdmDo sess (sound && (data.isEmpty || !part.isEmpty)) (!data.isEmpty) fun s =>
    (s.modSpdm fun q => { q with large := if data.length ≤ 4096 * (chunk.toNat + 1) then [] else data }).emit (.spdm 0x06 part)

/-- SPDM_UNSUPPORTED_REQUEST (R393). -/
def execSpdmUnsupportedRequest (sess : Option (Fin 4)) (s : State) : Host.Outcome State Fault Refusal :=
  let _ := sess
  ok (s.spdmErr 0x07)

/-- SPDM_LOCKOUT_END (R398). -/
def execSpdmLockoutEnd (s : State) : Host.Outcome State Fault Refusal :=
  match s.rot.spdm.lockTo with
  | some t => if t ≤ s.now then ok (s.modSpdm fun q => { q with lockTo := none }) else ok s
  | none => ok s

/-! IDE_KM (R395). -/

def State.setStream (s : State) (n : Nat) (x : Stream) : State := s.modComp n fun c => { c with stream := x }

/-- KEY_PROG. -/
def execKeyProg (sess : Option (Fin 4)) (sound : Bool) (c : CompNo) (s : State) : Host.Outcome State Fault Refusal :=
  s.spdmDo sess sound (s.spdmSecured sess) fun s =>
    (if (s.comp c.val).stream = .insecure then s.setStream c.val .programmed else s).spdmSay 0x7E [3]

/-- K_SET_GO. -/
def execKSetGo (sess : Option (Fin 4)) (sound : Bool) (c : CompNo) (s : State) : Host.Outcome State Fault Refusal :=
  s.spdmDo sess sound (s.spdmSecured sess && (s.comp c.val).stream ≠ .insecure) fun s =>
    (s.setStream c.val .secure).spdmSay 0x7E [6]

/-- K_SET_STOP (R395, R397): the stream leaves Secure, which puts an admitted interface in ERROR. -/
def execKSetStop (sess : Option (Fin 4)) (sound : Bool) (c : CompNo) (s : State) : Host.Outcome State Fault Refusal :=
  s.spdmDo sess sound (s.spdmSecured sess && (s.comp c.val).stream = .secure) fun s =>
    ((s.setStream c.val .insecure).tdiError c.val).spdmSay 0x7E [6]

/-! TDISP (R396, R397). -/

def State.tdi (s : State) (n : Nat) : Nat := s.objC Obj.rotCompTdiState n

/-- LOCK_INTERFACE: only with the stream Secure and the compartment ATTESTED, RUNNING or HELD. -/
def execLockInterface (sess : Option (Fin 4)) (sound : Bool) (c : CompNo) (s : State) : Host.Outcome State Fault Refusal :=
  let n := c.val
  s.spdmDo sess sound (s.spdmSecured sess && s.tdi n = 0) fun s =>
    let st := (s.comp n).st
    if (s.comp n).stream = .secure && (st = .attested || st = .running || st = .held) then
      (s.setObjC Obj.rotCompTdiState n 1).spdmSay 0x7E [3]
    else s.spdmErr 0x01

/-- GET_DEVICE_INTERFACE_REPORT: the vendor-specific area carries TERMS. -/
def execGetDeviceInterfaceReport (sess : Option (Fin 4)) (sound : Bool) (c : CompNo) (s : State) :
    Host.Outcome State Fault Refusal :=
  let n := c.val
  s.spdmDo sess sound (s.spdmSecured sess && (s.tdi n = 1 || s.tdi n = 2)) fun s =>
    s.spdmSay 0x7E (4 :: leBytes 48 (s.objC Obj.rotCompTerms n))

/-- START_INTERFACE. -/
def execStartInterface (sess : Option (Fin 4)) (sound : Bool) (c : CompNo) (s : State) : Host.Outcome State Fault Refusal :=
  s.spdmDo sess sound (s.spdmSecured sess && s.tdi c.val = 1) fun s => (s.setObjC Obj.rotCompTdiState c.val 2).spdmSay 0x7E [6]

/-- STOP_INTERFACE. -/
def execStopInterface (sess : Option (Fin 4)) (sound : Bool) (c : CompNo) (s : State) : Host.Outcome State Fault Refusal :=
  s.spdmDo sess sound (s.spdmSecured sess) fun s => (s.setObjC Obj.rotCompTdiState c.val 0).spdmSay 0x7E [7]

/-- TDI_ERROR (R397): the function's configuration changes, or its stream leaves Secure. -/
def execTdiError (c : CompNo) (streamLost : Bool) (s : State) : Host.Outcome State Fault Refusal :=
  let s1 := if streamLost then s.setStream c.val .insecure else s
  ok (s1.tdiError c.val)

end Sys2Proof.Machine
end

