-- ==== Sys2Proof/Machine/Power.lean ====
section
/-! DEFINITION. Power input, cooling and load shaping (chapter 16): the power-limit factor (R445), allotments (R446, R447), the
bevel governor (R449-R456), the valve controller (R459, R460) and the thermal levels (R457, R461, R462). -/

namespace Sys2Proof.Machine
open Sys2Proof

/-! FP32 arithmetic of the controllers. -/

def v32 (b : Nat) : FVal := unpackF f32 b
def fadd32 (a b : Nat) : Nat := (addV f32 .rne (v32 a) (v32 b)).bits
def fsub32 (a b : Nat) : Nat := (addV f32 .rne (v32 a) (negV (v32 b))).bits
def fmul32 (a b : Nat) : Nat := (mulV f32 .rne (v32 a) (v32 b)).bits
def fdiv32 (a b : Nat) : Nat := (divV f32 .rne (v32 a) (v32 b)).bits
def flt32 (a b : Nat) : Bool := ltV (v32 a) (v32 b)
def fmax32 (a b : Nat) : Nat := if flt32 a b then b else a
def fmin32 (a b : Nat) : Nat := if flt32 b a then b else a
def fclamp32 (x lo hi : Nat) : Nat := if flt32 x lo then lo else if flt32 hi x then hi else x
/-- The quotient of an integer and a positive one, rounded once. -/
def ratio32 (a : Int) (b : Nat) : Nat := (divV f32 .rne (.fin (decide (a < 0)) a.natAbs 0) (.fin false b 0)).bits
/-- Whole thousandths of a value that is not negative. -/
def milli32 (b : Nat) : Nat :=
  match v32 b with
  | .fin false m e => if 0 ≤ e then 1000 * m * 2 ^ e.toNat else 1000 * m / 2 ^ (-e).toNat
  | _ => 0
def tenth32 : Nat := 0x3DCCCCCD

/-! The input power limit (R445). -/

/-- The power-limit factor changes level: one POWER_LIMIT event, delivered to every function alike (R445, R462). -/
def State.setFactor (s : State) (l : Nat) : State :=
  if l = s.power.factor then s
  else
    let s1 := { s with power := { s.power with factor := l, setAt := s.now, due := none } }
    ((s1.inc Obj.thermalEvents).raiseAll 3).recapAll

/-- The largest level not above the limit divided by the input, 3 (0.50) when there is none. -/
def dropLevel (limit watts : Nat) : Nat :=
  if 85 * watts ≤ 100 * limit then 1 else if 70 * watts ≤ 100 * limit then 2 else 3

/-- INPUT_POWER_SAMPLE (R445): a 1 ms average of the input power, with the common draw. -/
def execInputPowerSample (watts common : BitVec 16) (s : State) : Host.Outcome State Fault Refusal :=
  if s.mode = .off then ok s
  else
    let limit := s.obj Obj.powerInputLimitW
    let w := watts.toNat
    let s1 := (((s.setObj Obj.powerInputW w).setObj Obj.powerCommonW common.toNat).inc Obj.powerEnergyMj w)
    let p := s1.power
    let s2 := { s1 with power := { p with overP := p.overP || decide (limit < w), calm := p.calm && decide (10 * w < 9 * limit) } }
    if p.factor = 0 && decide (limit < w) then
      let l := dropLevel limit w
      let s3 := if p.due.isSome then s2 else s2.fault 0x0E06
      if p.setAt + 100000000 ≤ s.now then ok (s3.setFactor l)
      else ok { s3 with power := { s3.power with due := some (max l (p.due.getD 0)) } }
    else ok s2

/-- POWER_LIMIT_EVAL (R445): every 100 ms of span time. -/
def execPowerLimitEval (s : State) : Host.Outcome State Fault Refusal :=
  let p := s.power
  if s.mode = .off || s.now / 100000000 ≤ p.powerNo then ok s
  else
    let s1 := { s with power := { p with powerNo := s.now / 100000000, overP := false, calm := true, due := none } }
    match p.due with
    | some l => ok (s1.setFactor l)
    | none =>
      if p.overP then ok (if p.factor < 3 then (s1.fault 0x0E06).setFactor (p.factor + 1) else s1)
      else if p.calm then ok (s1.setFactor (p.factor - 1))
      else ok s1

/-! Allotments (R446, R447). -/

/-- power.allotable_w. -/
def State.allotable (s : State) : Nat := s.obj Obj.powerInputLimitW - 600
/-- The allotments of all eight compartments but one. -/
def State.allotted (s : State) (but : Nat) : Nat :=
  (List.range 8).foldl (fun a n => if n = but then a else a + s.objC Obj.powerCompAllotW n) 0

def State.inputLimitAct (s : State) (v : Nat) : Status × Nat × State :=
  if v - 600 < s.allotted 8 then (.stateConflict, 0x0E0F, s.fault 0x0E0F) else (.ok, 0, s.setObj Obj.powerInputLimitW v)

/-- INPUT_LIMIT_WRITE (R446). -/
def execInputLimitWrite (r : Role) (v : BitVec 16) (s : State) : Host.Outcome State Fault Refusal :=
  match s.checkWrite r Obj.powerInputLimitW v.toNat with
  | .ok =>
    let (st, f, t) := s.inputLimitAct v.toNat
    ok (t.reply st f)
  | st => ok (s.reply st)

def State.allotAct (s : State) (n v : Nat) : Status × Nat × State :=
  if s.allotable < s.allotted n + v then (.stateConflict, 0x0E0F, s.fault 0x0E0F n)
  else (.ok, 0, s.setObjC Obj.powerCompAllotW n v)

/-- ALLOT_WRITE (R447). -/
def execAllotWrite (r : Role) (c : CompNo) (v : BitVec 16) (s : State) : Host.Outcome State Fault Refusal :=
  match s.checkWrite r (objAt Obj.powerCompAllotW c.val) v.toNat with
  | .ok =>
    let (st, f, t) := s.allotAct c.val v.toNat
    ok (t.reply st f)
  | st => ok (s.reply st)

/-! The bevel governor (R450-R456). -/

/-- The allotment a compartment is held to, 200 W while none is written (R447). -/
def State.allotOf (s : State) (n : Nat) : Nat := if s.objC Obj.powerCompAllotW n = 0 then 200 else s.objC Obj.powerCompAllotW n

/-- A slope share in W/ms. -/
def State.slopeShare (s : State) (n limit : Nat) : Nat := ratio32 (limit * s.allotOf n) (max 1 s.allotable)

/-- The phases of the NEXT chain whose planned start lies within the horizon: (start in ns, PLAN_W). -/
def State.chain (s : State) (n until_ : Nat) : Nat → Nat → Nat → List (Nat × Nat)
  | 0, _, _ => []
  | k + 1, p, start =>
    if until_ < start then []
    else
      let e := s.planEntry n p
      (start, Pl.watts e) :: s.chain n until_ k (Pl.next e) (start + 1000 * Pl.us e)

/-- The plan shapes the level: an open phase 1-254 without overrun, outside HOLDUP (R452). -/
def State.planned (s : State) (n : Nat) : Bool :=
  let p := s.objC Obj.phaseCompCurrent n
  p ≠ 0 && p ≠ 255 && !(s.comp n).phOver && s.mode ≠ .holdup

def State.ahead (s : State) (n : Nat) : List (Nat × Nat) :=
  let h := s.obj Obj.bevelHorizonMs
  if h = 0 || !s.planned n then []
  else s.chain n (s.now + h * 1000000) 256 (s.objC Obj.phaseCompCurrent n) (s.objC Obj.phaseCompCurrentSince n)

/-- The level does not fall (R452). -/
def State.holds (s : State) (n g : Nat) : Bool := (s.ahead n).any fun q => !flt32 (ratio32 q.2 1) g

/-- The smallest level from which a rise at the share reaches each higher phase in time (R452). -/
def State.preramp (s : State) (n g share : Nat) : Nat :=
  ((s.ahead n).filter fun q => flt32 g (ratio32 q.2 1)).foldl (fun a q =>
    fmax32 a (fsub32 (ratio32 q.2 1) (fmul32 share (ratio32 ((q.1 - s.now : Nat) : Int) 1000000)))) 0

/-- A slot start of the module lies in the window that ends now (R455). -/
def State.slotStart (s : State) : Bool :=
  let w := s.now / 100000
  let slot := max 1 (s.obj Obj.rampSlotUs)
  let k := 100 * w / slot
  decide (w = 0 ∨ 100 * (w - 1) / slot ≠ k) && k % max 1 (s.obj Obj.rampSlots) = s.obj Obj.rampIndex

/-- Filler capacity in mW: 7.0 W at 2,000 Mbeat/s on each ON tile whose matrix engine holds no descriptor (R453). -/
def State.fillerRoom (s : State) (n : Nat) : Nat :=
  let gate := s.pacerRate n
  7 * ((s.tilesOf n).foldl (fun a t =>
    let y := s.tile t
    if y.dom = .on && !s.fenced t && y.mxQueue.isEmpty && y.mxRuns.isEmpty then a + (match gate with | some r => r | none => y.cadence)
    else a) 0) / 2

/-- The governed level of a window: the pseudocode of R451. Answers the level, whether a ramp runs, and filler short. -/
def State.level (s : State) (n want : Nat) : Nat × Bool × Bool :=
  let x := (s.comp n).gov
  let g := x.level
  let up := s.slopeShare n (s.obj Obj.bevelSlopeUp)
  let lo0 := fsub32 g (fmul32 (s.slopeShare n (s.obj Obj.bevelSlopeDn)) tenth32)
  let hi0 := fadd32 g (fmul32 up tenth32)
  let lo1 := if s.holds n g then fmax32 lo0 g else lo0
  let lo2 := fmin32 (fmax32 lo1 (s.preramp n g up)) hi0
  let far := flt32 (ratio32 (s.obj Obj.rampStepW) 1) (if flt32 want g then fsub32 g want else fsub32 want g)
  let free := x.ramping || s.slotStart || (s.mode = .holdup && flt32 want g)
  let (lo, hi) := if far && !free then (g, g) else (lo2, hi0)
  let top := ratio32 (s.allotOf n) 1
  let g1 := fmin32 (fclamp32 want lo hi) top
  let room := ratio32 (s.fillerRoom n) 1000
  let short := flt32 room (fmax32 (fsub32 g1 want) 0)
  let g2 := if short then fadd32 want room else g1
  (g2, (x.ramping || (far && free)) && g2 ≠ fmin32 want top, short)

/-- One window of a compartment whose work asks for `mw` milliwatts (R449, R451, R453). The rate at which work draws a given
power is not stated: the caps that bind take a free value. -/
def State.govern (s : State) (n mw : Nat) : State :=
  let want := ratio32 mw 1000
  let (g, ramping, short) := s.level n want
  let x := (s.comp n).gov
  let fill := milli32 (fmax32 (fsub32 g want) 0)
  let drawn := min mw (milli32 g) + fill
  let allot := 1000 * s.allotOf n
  let top := s.topRate n
  let binds := decide (allot < mw)
  let ac := if binds then some (Config.choice s.fresh % (min top ((s.comp n).cap.getD top) + 1))
    else match x.allotCap with
      | some c => if 20 * drawn < 19 * allot then (if top ≤ c + 10 then none else some (c + 10)) else some c
      | none => none
  let slow := flt32 g want
  let sc := if slow then some (Config.choice (s.fresh + 1) % (top + 1)) else none
  let full := decide (999 ≤ x.count)
  let y : Gov := { level := g, ramping := ramping, allotCap := ac, slopeCap := sc, filler := fill,
                   sum := if full then 0 else x.sum + drawn, count := if full then 0 else x.count + 1,
                   energy := (x.energy + drawn) % 10000, fillMj := (x.fillMj + fill) % 10000 }
  let s1 := { (s.modComp n fun c => { c with gov := y }) with fresh := s.fresh + 2 }
  let s2 := ((s1.incC Obj.powerCompEnergyMj n ((x.energy + drawn) / 10000)).incC Obj.powerCompFillerMj n
    ((x.fillMj + fill) / 10000)).inc Obj.bevelFillerMj ((x.fillMj + fill) / 10000)
  let s3 := if full then s2.setObjC Obj.powerCompDrawW n (roundDiv (x.sum + drawn) 1000000) else s2
  let s4 := if binds then (s3.incC Obj.powerCompThrottleWindows n).faultOnce 0x0E07 n else s3
  let s5 := if slow then s4.incC Obj.powerCompSlopeWindows n else s4
  let s6 := if short then (s5.inc Obj.bevelFillerShort).faultOnce 0x0E08 n else s5
  s6.recap n

/-- GOVERNOR_WINDOW (R448-R456): every 100 µs. What a compartment's work draws is not stated: a free value. -/
def execGovernorWindow (s : State) : Host.Outcome State Fault Refusal :=
  if s.mode = .off || s.now / 100000 ≤ s.power.windowNo then ok s
  else
    let s1 := { s with power := { s.power with windowNo := s.now / 100000 } }
    let s2 := (List.range 8).foldl (fun a n =>
      a.tickFresh.govern n (if (a.comp n).st = .free then 0 else Config.workDraw a.fresh)) s1
    let fill := (List.range 8).foldl (fun a n => a + (s2.comp n).gov.filler) 0
    ok (s2.setObj Obj.bevelFillerW (min 65535 (roundDiv fill 1000)))

/-! Sensors (R457). -/

/-- The valve/sensor domain is powered (R568). -/
def State.sensing (s : State) : Bool := s.mode ≠ .off && s.mode ≠ .standby && s.mode ≠ .fault

/-- The larger of a list of readings. -/
def hottest (xs : List Int) : Int := xs.foldl max (-1000)

/-- Sensors of a pair that differ by more than 2 K: the higher reading counts; else which of their values is taken is not
stated, a free value between them. -/
def pairReading (k : Nat) (a b : Int) : Int :=
  if 200 < (a - b).natAbs then max a b else min a b + (Config.choice k % ((a - b).natAbs + 1) : Nat)

/-- Flow setpoint in 0.01 L/min. -/
def Power.flowSet100 (p : Power) : Nat := roundDiv (milli32 p.flowSet) 10

/-- New readings are taken, with fault 0x0E0E for each pair that disagrees. -/
def State.takeSensors (s : State) (x : Sensors) : State :=
  let tIn := pairReading s.fresh x.inA x.inB
  let tOut := pairReading (s.fresh + 1) x.outA x.outB
  let p := s.power
  let p1 := { p with
    sense := x, tIn := tIn, tOut := tOut,
    slowAt := if x.flow < 100 then (if p.slowAt.isSome then p.slowAt else some s.now) else none,
    flowLow := p.flowLow && decide (2 * x.flow < p.flowSet100),
    inletBad := p.inletBad && (decide (tIn < 2300) || decide (4200 < tIn)) }
  let w (v : Int) : Nat := unsigned 16 v
  let s1 := { s with power := p1, fresh := s.fresh + 2 }
  let s2 := (List.range 4).foldl (fun a d => a.setDie d { a.die d with hotSpot := x.hot.getD d 0 }) s1
  let s3 := ((s2.setObj Obj.valveFlow (min 65535 x.flow)).setObj Obj.valvePosition (min 100 x.valve)).setObj Obj.valveCoolantC
    (pack [(0, w x.inA), (16, w x.inB), (32, w x.outA), (48, w x.outB)])
  let s4 := s3.setObj Obj.valveHotSpotC (pack ((List.range 4).map fun d => (16 * d, w (x.hot.getD d 0))))
  let s5 := if 200 < (x.inA - x.inB).natAbs then s4.fault 0x0E0E else s4
  if 200 < (x.outA - x.outB).natAbs then s5.fault 0x0E0E else s5

/-! Thermal levels (R460-R462). -/

/-- The highest level with a condition that holds, each threshold lowered by a margin in 0.1 K. -/
def State.thermalLevel (s : State) (m : Int) : Nat :=
  let p := s.power
  let h := hottest p.sense.hot
  let k := hottest p.sense.hbmStacks
  let slow := match p.slowAt with
    | some t => decide (t + 2000000000 ≤ s.now)
    | none => false
  if 1100 - m < h || 1050 - m < k || 7000 - 10 * m < p.tOut || slow then 3
  else if 1000 - m < h || 950 - m < k || 6500 - 10 * m < p.tOut || p.flowLow || p.inletBad then 2
  else if 900 - m < h || 850 - m < k || 6000 - 10 * m < p.tOut then 1
  else 0

/-- The module enters a thermal level. -/
def State.setThermal (s : State) (l : Nat) : State :=
  if l = s.obj Obj.thermalStatus then s
  else
    let s1 := { s.setObj Obj.thermalStatus l with
      power := { s.power with seenAt := s.now, emergAt := if l = 3 then s.now else s.power.emergAt,
                              valveOpen := decide (l = 3) } }
    let s2 := if 2 ≤ l then ((s1.fault (if l = 2 then 0x0E09 else 0x0E0A)).inc Obj.thermalEvents).raiseAll 3 else s1
    s2.recapAll

/-- THERMAL_EVAL (R461): every 100 ms. -/
def execThermalEval (x : Sensors) (s : State) : Host.Outcome State Fault Refusal :=
  if !s.sensing || s.now / 100000000 ≤ s.power.thermNo then ok s
  else
    let s1 := s.takeSensors x
    let s2 := { s1 with power := { s1.power with thermNo := s.now / 100000000 } }
    let cur := s2.obj Obj.thermalStatus
    let lvl := s2.thermalLevel 0
    if cur < lvl then ok (s2.setThermal lvl)
    else if cur ≤ s2.thermalLevel 30 then ok { s2 with power := { s2.power with seenAt := s2.now } }
    else if s2.power.seenAt + 100000000 ≤ s2.now then ok (s2.setThermal lvl)
    else ok s2

/-- THERMAL_EMERGENCY (R461). -/
def execThermalEmergency (x : Sensors) (s : State) : Host.Outcome State Fault Refusal :=
  if !s.sensing then ok s
  else
    let s1 := s.takeSensors x
    if s1.thermalLevel 0 = 3 then ok (s1.setThermal 3) else ok s1

/-- THERMAL_FAULT (R461). -/
def execThermalFault (x : Sensors) (s : State) : Host.Outcome State Fault Refusal :=
  if !s.sensing then ok s
  else
    let s1 := s.takeSensors x
    if (s1.obj Obj.thermalStatus = 3 && decide (s1.power.emergAt + 10000000000 ≤ s1.now)) || decide (1200 < hottest x.hot) then
      ok (s1.failModule 0x0E0B)
    else ok s1

/-- COOLANT_FLOW_LOW (R460): for 2 s below half the setpoint with the valve fully open. -/
def execCoolantFlowLow (x : Sensors) (s : State) : Host.Outcome State Fault Refusal :=
  if !s.sensing then ok s
  else
    let s1 := s.takeSensors x
    if s1.power.flowLow || s1.power.flowSet100 ≤ 2 * x.flow || x.valve < 100 then ok s1
    else
      let s2 : State := { s1.fault 0x0E0C with power := { s1.power with flowLow := true } }
      ok (if s2.obj Obj.thermalStatus < 2 then s2.setThermal 2 else s2)

/-- COOLANT_INLET_RANGE (R460): for 1 s outside 20-45 °C. -/
def execCoolantInletRange (x : Sensors) (s : State) : Host.Outcome State Fault Refusal :=
  if !s.sensing then ok s
  else
    let s1 := s.takeSensors x
    if s1.power.inletBad || (decide (2000 ≤ s1.power.tIn) && decide (s1.power.tIn ≤ 4500)) then ok s1
    else
      let s2 : State := { s1.fault 0x0E0D with power := { s1.power with inletBad := true } }
      ok (if s2.obj Obj.thermalStatus < 2 then s2.setThermal 2 else s2)

/-! The valve controller (R459, R460). -/

/-- planned_w: the governed level or the plan's figure; the accounted draw while the plan does not count. -/
def State.plannedW (s : State) (n t : Nat) : Nat :=
  let g := (s.comp n).gov
  if !(s.planned n || (s.mode = .holdup && s.objC Obj.phaseCompCurrent n ≠ 0 && s.objC Obj.phaseCompCurrent n ≠ 255 &&
      !(s.comp n).phOver)) then ratio32 (milli32 g.level) 1000
  else
    let e := s.planEntry n (s.objC Obj.phaseCompCurrent n)
    let ends := s.objC Obj.phaseCompCurrentSince n + 1000 * Pl.us e
    let w := if t < ends then Pl.watts e else max (Pl.watts e) (Pl.watts (s.planEntry n (Pl.next e)))
    fmax32 g.level (ratio32 w 1)

/-- VALVE_TICK (R459): every 10 ms, the pseudocode of the controller. -/
def execValveTick (x : Sensors) (s : State) : Host.Outcome State Fault Refusal :=
  if !s.sensing || s.now / 10000000 ≤ s.power.valveNo then ok s
  else
    let s1 := s.takeSensors x
    let p := s1.power
    let t := s1.now + s1.obj Obj.valveLeadMs * 1000000
    let pff := (List.range 8).foldl (fun a n => if (s1.comp n).st = .free then a else fadd32 a (s1.plannedW n t))
      (ratio32 (s1.obj Obj.powerCommonW) 1)
    let target := ratio32 (s1.obj Obj.valveTOutTargetC) 1
    let dt := fmax32 (fsub32 target (ratio32 p.tIn 100)) (ratio32 5 1)
    let fff := fdiv32 pff (fmul32 (ratio32 60 1) dt)
    let e := fmax32 (fsub32 (ratio32 (hottest x.hot) 10) (ratio32 (s1.obj Obj.valveTHotTargetC) 1)) (fsub32 (ratio32 p.tOut 100) target)
    let low := ratio32 15 10
    let high := ratio32 16 1
    let i := if flt32 low p.flowSet && flt32 p.flowSet high then
        fclamp32 (fadd32 p.integ (fmul32 (fmul32 (s1.obj Obj.valveKi) e) (ratio32 1 100))) (ratio32 (-4) 1) high
      else p.integ
    let f := fclamp32 (fadd32 (fadd32 fff (fmul32 (s1.obj Obj.valveKp) e)) i) low high
    let p1 := { p with valveNo := s1.now / 10000000, integ := i, flowSet := f, valveOpen := decide (s1.obj Obj.thermalStatus = 3) }
    ok ({ s1 with power := p1 }.setObj Obj.valveFlowSet p1.flowSet100)

end Sys2Proof.Machine
end

