-- ==== Sys2Proof/Machine/DictVal.lean ====
section
/-! DEFINITION. What each object of the dictionary reads as: the value kept for it, or what the state shows where the
object reports a part of the machine (R525), and who may read it (R514, R539). -/

namespace Sys2Proof.Machine
open Sys2Proof

/-- How many numbers below k a test accepts. -/
def countBelow (k : Nat) (p : Nat → Bool) : Nat := ((List.range k).filter p).length
/-- The bitmap of the numbers below k that a test accepts. -/
def mapBelow (k : Nat) (p : Nat → Bool) : Nat := (List.range k).foldl (fun a i => if p i then a + 2 ^ i else a) 0

/-! Faults (R552, R553). -/

/-- A log entry laid out. -/
def LogEntry.word (e : LogEntry) : Nat :=
  pack [(0, e.code % 65536), (16, e.comp % 256), (24, e.mstate), (32, e.subject % 65536), (48, e.cause % 65536),
        (64, e.time % 2 ^ 80), (192, e.seq % 2 ^ 64), (256, e.d0 % 2 ^ 64), (320, e.d1 % 2 ^ 64)]

def logWord (es : List LogEntry) : Nat := leNat (es.flatMap fun e => leBytes 64 e.word)

/-- Codes whose entries every compartment may see. -/
def deviceWide (code : Nat) : Bool :=
  (0x0E01 ≤ code && code ≤ 0x0E06) || (0x0E09 ≤ code && code ≤ 0x0E0B) || (0x0F01 ≤ code && code ≤ 0x0F05)

/-! Cadence (R32, R46). -/

/-- Cadences of the tiles that are ON among those a test accepts. -/
def State.cadences (s : State) (p : Nat → Bool) : List Nat :=
  ((List.range 1024).filter fun t => p t && (s.tile t).dom = .on).map fun t => (s.tile t).cadence

/-- The lowest of a list, 0 of none. -/
def lowest : List Nat → Nat
  | [] => 0
  | [a] => a
  | a :: r => min a (lowest r)

/-- tile.comp.cadence: in gate mode a compartment is shown its pacer rate (R46). -/
def State.cadenceFor (s : State) (r : Role) (n : Nat) : Nat :=
  match r with
  | .compartment _ => if s.objC Obj.tileCompMode n = 1 then s.objC Obj.tileCompPacerRate n
      else lowest (s.cadences fun t => (s.blocks n).testBit (blockOf t))
  | _ => lowest (s.cadences fun t => (s.blocks n).testBit (blockOf t))

/-! Units held (R319, R320). -/

/-- Units of a kind no compartment holds, among k. -/
def unheld (k : Nat) (units : Nat → Nat) (bad : Nat) : Nat :=
  mapBelow k fun i => !((List.range 8).any fun n => (units n).testBit i) && !bad.testBit i

/-- Encryption pages of a compartment that are unverifiable (R365, R373). -/
def State.unverPages (s : State) (n : Nat) : Nat :=
  (s.comp n).pages.foldl (fun a q =>
    let r := s.rangeAt n q.1
    let (kind, lease, leaf, _) := s.region n r q.2.loc
    if q.2.loc = .nowhere then a else a + countBelow 16 fun e => (s.unverAt n r kind lease (leaf + e)).isSome) 0

/-! Release (R338, R339). -/

/-- release_status laid out. -/
def Release.word (x : Release) : Nat :=
  pack [(0, x.st), (8, mapBelow 8 fun i => x.slots.contains i), (64, x.step % 2 ^ 64), (128, x.nonce % 2 ^ 256),
        (384, x.digest % 2 ^ 384)]

def releaseWord : Option Release → Nat
  | some x => x.word
  | none => 0

/-! Sessions (R541). -/

def roleCode : Role → Nat
  | .management => 1
  | .observer => 2
  | .compartment _ => 3
  | _ => 0

/-- The compartment of a Compartment role, else 0xFF. -/
def roleComp : Role → Nat
  | .compartment m => m.val
  | _ => 0xFF

/-- A number of a session slot, or what an unused slot shows. -/
def State.slotVal (s : State) (k d : Nat) (f : Sess → Nat) : Nat :=
  match s.sess k with
  | some x => f x
  | none => d

/-- The address formed from the MAC address in fe80::/64, as OCTET bytes in network order (R530). -/
def linkLocal (mac : Nat) : List Byte :=
  let m := leBytes 6 mac
  let b (i : Nat) : Byte := m.getD i 0
  [0xFE, 0x80] ++ List.replicate 6 0 ++ [b 0 ^^^ 2, b 1, b 2, 0xFF, 0xFE, b 3, b 4, b 5]

/-- sess.ipv6_addrs: the global address as set, else the one autoconfiguration formed, which nothing states. -/
def State.addresses (s : State) : Nat :=
  let g := s.obj Obj.sessIpv6Static
  leNat (linkLocal (s.obj Obj.sessMac) ++
    leBytes 16 (if g = 0 then Config.identity Obj.sessIpv6Addrs else g))

/-! The values. -/

/-- Objects that show a part of the state: compartment, port, die, session or nothing in `i`, subindex offset in `j`. -/
def shownTiles (s : State) (r : Role) (i j : Nat) : List (Nat × (Unit → Nat)) :=
  [ (Obj.tileArrayFenced, fun _ => countBelow 1024 s.fenced),
    (Obj.tileCadenceMin, fun _ => lowest (s.cadences fun _ => true)),
    (Obj.tileCadenceMean, fun _ =>
      let cs := s.cadences fun _ => true
      if cs.isEmpty then 0 else cs.foldl (· + ·) 0 / cs.length),
    (Obj.tileCadenceDieMin, fun _ => lowest (s.cadences fun t => dieOf t = j)),
    (Obj.tileRailSetpoint, fun _ => (s.die j).railMv),
    (Obj.tileCompCadence, fun _ => s.cadenceFor r i),
    (Obj.tileCompFenced, fun _ => (countBelow 1024 fun t => (s.blocks i).testBit (blockOf t) && s.fenced t) % 256),
    (Obj.tilePowerOnMap, fun _ => mapBelow 1024 fun t => (s.tile t).dom = .on),
    (Obj.tilePowerRetainMap, fun _ => mapBelow 1024 fun t => (s.tile t).dom = .retain),
    (Obj.numCompLossLog2, fun _ => if (s.comp i).upd.scaleLoaded then Ctl.lossLog2 (s.control i) else 0),
    (Obj.updCompOpenEntries, fun _ => (s.comp i).upd.opened.length) ]

def shownSpan (s : State) (i : Nat) : List (Nat × (Unit → Nat)) :=
  [ (Obj.spanPegGroupsFree, fun _ => countBelow 256 fun g => !((List.range 8).any fun n => (s.objC Obj.spanCompPegGroups n).testBit g)),
    (Obj.spanCompSegCount, fun _ => (s.comp i).segs.length),
    (Obj.spanCompSegDigest, fun _ => s.segDigest i),
    (Obj.tierLendLeasesOut, fun _ => (s.leasesOut.filter fun q => q.2.isSome).length),
    (Obj.tierFlashWearPct, fun _ => Config.choice (s.obj Obj.tierFlashBytesWritten) % 101),
    (Obj.tierCompHbmFramesUsed, fun _ => s.chargedIn i 0),
    (Obj.tierCompLentGibUsed, fun _ => s.leasesHeld i false),
    (Obj.tierCompFlashPagesUsed, fun _ => s.chargedIn i 2),
    (Obj.tierCompCkptGibUsed, fun _ => s.leasesHeld i true),
    (Obj.tierCompInTransit, fun _ => ((s.comp i).pages.filter fun q => decide (q.2.dest ≠ .nowhere)).length),
    (Obj.fabUpMap, fun _ => mapBelow 32 fun p => (s.port p).st = .up),
    (Obj.fabIsolatedMap, fun _ => mapBelow 32 fun p => (s.port p).st = .isolated),
    (Obj.fabCompNodeMapCount, fun _ => (s.comp i).nodes.length),
    (Obj.fabCompNodeMapDigest, fun _ => if (s.comp i).nodes.isEmpty then 0 else s.nodeMapDigest i),
    (Obj.fabPortState, fun _ => (s.port i).st.code),
    (Obj.fabPortWidth, fun _ => (s.port i).width),
    (Obj.fabPortPeer, fun _ => (s.port i).peer),
    (Obj.fabPortPeerPort, fun _ => (s.port i).peerPort),
    (Obj.fabPortRttNs, fun _ => (s.port i).rtt),
    (Obj.fabPortKeyEpoch, fun _ => (s.port i).epoch) ]

def shownComps (s : State) (i : Nat) : List (Nat × (Unit → Nat)) :=
  [ (Obj.compBlocksFree, fun _ => unheld 16 s.blocks 0),
    (Obj.compGroupsFree, fun _ => unheld 48 s.groups (s.obj Obj.moduleGroupsFailed)),
    (Obj.compFlashFree, fun _ => unheld 32 s.flashCh (s.obj Obj.moduleFlashFailed ||| s.obj Obj.compFlashErasing)),
    (Obj.compPortsFree, fun _ => unheld 32 s.portsOf 0),
    (Obj.compState, fun _ => (s.comp i).st.code),
    (Obj.compContribValid, fun _ => s.contribValid i),
    (Obj.compReleaseStatus, fun _ => releaseWord (s.comp i).release),
    (Obj.integCompUnverifiablePages, fun _ => s.unverPages i),
    (Obj.integCompPoisonedLines, fun _ => (s.comp i).poison.length),
    (Obj.rotSpdmSessions, fun _ => (s.rot.spdm.sess.filter fun q => q.2.isSome).length),
    (Obj.ckptCompSetCount, fun _ => (s.comp i).ckpt.set.length),
    (Obj.ckptCompPendingPages, fun _ => ((s.comp i).pages.filter fun q => q.2.pending).length),
    (Obj.powerAllotableW, fun _ => s.allotable),
    (Obj.holdupElapsedMs, fun _ => if s.mode = .holdup then (s.now - s.modeAt) / 1000000 else 0),
    (Obj.powerCompPacerCap, fun _ => (s.comp i).cap.getD (s.topRate i)),
    (Obj.timeNow, fun _ => s.time % 2 ^ 80),
    (Obj.timeHoldoverS, fun _ => s.holdoverSeconds),
    (Obj.timePortRole, fun _ => s.portRole i),
    (Obj.evCompPhaseRecords, fun _ => leNat ((List.range 256).flatMap fun p => (kget PhaseRec.init (s.comp i).recs p).bytes)),
    (Obj.hostCompMboxReady, fun _ => mapBelow 64 fun m => (s.mbox i m).ready),
    (Obj.sessOpen, fun _ => (s.xiesk.sess.filter fun q => q.2.isSome).length),
    (Obj.sessIpv6Addrs, fun _ => s.addresses),
    (Obj.sessCompSessions, fun _ => countBelow 8 fun k => s.slotVal k 0xFF (fun x => roleComp x.role) = i),
    (Obj.sessSlotRole, fun _ => s.slotVal i 0 fun x => roleCode x.role),
    (Obj.sessSlotComp, fun _ => s.slotVal i 0xFF fun x => roleComp x.role),
    (Obj.sessSlotPeer, fun _ => s.slotVal i 0 (·.peer)),
    (Obj.sessSlotCertDigest, fun _ => s.slotVal i 0 (·.cert)),
    (Obj.sessSlotOpened, fun _ => s.slotVal i 0 (·.opened)),
    (Obj.sessSlotMessages, fun _ => s.slotVal i 0 (·.messages)),
    (Obj.sessSlotAuthFailures, fun _ => s.slotVal i 0 (·.authFail)),
    (Obj.moduleState, fun _ => s.mode.code),
    (Obj.faultLog, fun _ => logWord s.log.entries),
    (Obj.faultNextSeq, fun _ => s.log.nextSeq),
    (Obj.faultCompLog, fun _ => logWord (s.log.entries.filter fun e => e.comp = i || deviceWide e.code)) ]


/-- The value of an object as a role reads it. -/
def State.dictValue (s : State) (r : Role) (row : ObjRow) (key : Nat) : Nat :=
  let i := key / 256 - row.base / 256
  let j := key % 256 - row.base % 256
  match (shownTiles s r i j ++ shownSpan s i ++ shownComps s i).find? fun q => q.1 = row.base with
  | some q => q.2 () % 256 ^ row.size
  | none => s.obj key % 256 ^ row.size

/-! Who may read (R514, R518, R539). -/

/-- The subset a fabric peer may read. -/
def fabricReads (row : ObjRow) (key : Nat) : Bool :=
  let ix := key / 256
  let sb := key % 256
  (ix = 0x1000 && row.cvis = 1) || (ix = 0x2000 && 1 ≤ sb && sb ≤ 4) || (ix = 0x3200 && (sb = 1 || sb = 2)) ||
    (ix = 0x4200 && (sb = 1 || sb = 2 || sb = 7)) || (ix = 0x6100 && 1 ≤ sb && sb ≤ 3) || (row.pers = 0 && row.cvis = 1)

def roleReads (r : Role) (row : ObjRow) (key : Nat) : Bool :=
  row.access ≠ 2 &&
    (match r with
     | .management => true
     | .host => true
     | .observer => true
     | .compartment n => row.cvis = 1 || (row.cvis = 2 && compOfKey key = some n.val)
     | .fabricPeer => fabricReads row key)

/-- A report that is being signed is not ready (R383, R529). -/
def State.notReady (s : State) (row : ObjRow) (key : Nat) : Bool :=
  (row.base = Obj.rotReport && s.signingFor none) || (row.base = Obj.rotCompReport && s.signingFor (compOfKey key))

end Sys2Proof.Machine
end

