-- ==== Sys2Proof/Machine/Integ.lean ====
section
/-! DEFINITION. The integrity units' own commands (chapter 12): key-range descriptors, an uncorrectable entry of the
metadata cache, and the clear of the first event. The integrity of accesses is in Machine/Span.lean. -/

namespace Sys2Proof.Machine
open Sys2Proof

/-- A descriptor keeps R345 and R5. -/
def Kr.sound (d : Nat) : Bool :=
  fld d 7 3 = 0 && fld d 47 40 = 0 && fld d 127 64 = 0 && Kr.groupFirst d < 48 && Kr.flashFirst d < 32 &&
    (Kr.hbm d = decide (Kr.groupCount d ≠ 0)) &&
    (Kr.flash d = decide (Kr.flashCount d ≠ 0)) && (Kr.lent d = decide (Kr.leaseMax d ≠ 0))

/-- A run of units as a list. -/
def runOf (first count : Nat) : List Nat := (List.range count).map (· + first)

/-- A descriptor may stand for range r (R346). -/
def State.krFits (s : State) (n r d : Nat) : Bool :=
  Kr.sound d && (runOf (Kr.groupFirst d) (Kr.groupCount d)).all (fun g => g < 48 && (s.groups n).testBit g) &&
    (runOf (Kr.flashFirst d) (Kr.flashCount d)).all (fun c => c < 32 && (s.flashCh n).testBit c) &&
    (List.range 16).all fun q =>
      let e := s.krDesc n q
      q = r || (!(Kr.hbm e && overlaps (Kr.groupFirst d) (Kr.groupCount d) (Kr.groupFirst e) (Kr.groupCount e)) &&
        !(Kr.flash e && overlaps (Kr.flashFirst d) (Kr.flashCount d) (Kr.flashFirst e) (Kr.flashCount e)))

/-- KR_DESC_WRITE (R346). -/
def execKrDescWrite (r : Role) (c : CompNo) (range : Fin 16) (v : BitVec 128) (s : State) :
    Host.Outcome State Fault Refusal :=
  let key := objAt Obj.integKrDesc c.val + range.val
  match s.checkWrite r key v.toNat with
  | .ok =>
    if s.krFits c.val range.val v.toNat then ok ((s.setObj key v.toNat).reply .ok)
    else ok ((s.integEvent c.val 0x0B01 range.val 0 0).reply .outOfRange 0x0B01)
  | st => ok (s.reply st)

/-- METACACHE_UNCORRECTABLE (R366): an entry of a partition of a compartment cannot be corrected; the entry is gone and
what it covered is unverifiable. -/
def execMetacacheUncorrectable (c : CompNo) (group : Fin 48) (entry : Nat) (s : State) :
    Host.Outcome State Fault Refusal :=
  let n := c.val
  let es := kget [] (s.comp n).cache group.val
  match es[entry]? with
  | none => ok s
  | some e =>
    let s1 := s.modComp n fun x => { x with cache := kput [] x.cache group.val (es.filter fun y => !y.same e) }
    ok (s1.addUnver n ⟨e.range, e.kind, e.lease, e.level, e.index, 0x0B06⟩ 0)

/-- INTEG_EVENT_CLEAR (R373). -/
def execIntegEventClear (r : Role) (c : CompNo) (v : Bool) (s : State) : Host.Outcome State Fault Refusal :=
  ok (s.clearWrite r (objAt Obj.integCompEventClear c.val) v fun s => (s.setObjC Obj.integCompFirstEvent c.val 0).rearmLog c.val 0x0B)

end Sys2Proof.Machine
end

