-- ==== Sys2Proof/Machine/Matrix.lean ====
section
/-! DEFINITION. The matrix engine (chapter 03, R63-R95). -/

namespace Sys2Proof.Machine
open Sys2Proof

/-! Post (R71, R72, R144). -/

/-- A slot of n bytes at an address lies wholly within the tile store. -/
def slotIn (a : Int) (n : Nat) : Bool := decide (0 ≤ a) && decide (a + n ≤ tsBytes)

/-- The checks of R72 on a descriptor. -/
def State.mxRefused (s : State) (n t d : Nat) : Bool :=
  let k := Mx.kTiles d
  Mx.reserved d || k = 0 || decide (4096 < k) ||
    Mx.aAddr d % 64 ≠ 0 || Mx.bAddr d % 64 ≠ 0 || Mx.dAddr d % 64 ≠ 0 || Mx.recAddr d % 64 ≠ 0 ||
    (Mx.init d = 1 && (Mx.cAddr d % 64 ≠ 0 || !slotIn (Mx.cAddr d) (Mx.opBytes d))) ||
    !slotIn (Mx.aTile d 0) (Mx.opBytes d) || !slotIn (Mx.aTile d (k - 1)) (Mx.opBytes d) ||
    !slotIn (Mx.bTile d 0) (Mx.opBytes d) || !slotIn (Mx.bTile d (k - 1)) (Mx.opBytes d) ||
    !slotIn (Mx.dAddr d) (Mx.dBytes d) || !inStore (Mx.recAddr d) 64 ||
    (Mx.pegEn d && !s.pegOwned n (Mx.peg d)) || s.fenced t

/-- What a post comes to: a result for rd, or a full queue (R143, R144). -/
inductive Posted where
  | done (s : State) (code : Nat)
  | full
  deriving DecidableEq, Repr

/-- MX.POST at a tile-store offset: checked, copied whole into the queue of 16, or refused with 0x0206; a poisoned
descriptor answers its reader 0x0103 (R54). -/
def State.mxPost (s : State) (t : ThreadId) (n off : Nat) : Posted :=
  let k := t.tile.val
  let d := if inStore off 64 then leNat (s.tsRead k off 64) else 0
  if 16 ≤ (s.tile k).mxQueue.length then .full
  else if inStore off 64 && s.tsPoisoned k off 64 then .done s 0x0103
  else if !inStore off 64 || s.mxRefused n k d then
    .done (((s.incC Obj.mxCompRefused n).tileEvent k 0x09 1).fault 0x0206 n k) 0x0206
  else .done ((s.modTile k fun y => { y with mxQueue := y.mxQueue ++ [⟨d, t.key⟩] }).tileEvent k 0x49 1) 0

/-- A post taken by its thread: rd written, or the thread STALLED until an entry frees (R29, R147). -/
def State.posted (s : State) (t : ThreadId) (rd : Nat) (e : Engine) (p : Posted) : State :=
  match p with
  | .done s' code => s'.retire t rd code
  | .full => s.modThread t.key fun h => { h with st := .stalled, stallOn := some e }

/-- MX_POST. -/
def execMxPost (t : ThreadId) (rd rs1 : Fin 32) (s : State) : Host.Outcome State Fault Refusal :=
  ok (s.issue t rd.val fun s1 n => s1.posted t rd.val .matrix (s1.mxPost t n ((s1.thread t.key).getX rs1.val).toNat))

/-! Operands (R63-R70, R73, R74). -/

/-- An operand tile as the engine reads it: its address, whether it is an FP32 pair, its header, its use. -/
structure Opnd where
  addr  : Nat
  fp32  : Bool
  hdr   : Nat
  trans : Bool
  deriving DecidableEq, Repr

def State.hdrAt (s : State) (t a : Nat) : Nat := leNat (s.tsRead t (a + headerAt) 64)

/-- Effective rows and columns (R74). -/
def Opnd.rows (o : Opnd) : Nat := if o.trans then Hdr.cols o.hdr else Hdr.rows o.hdr
def Opnd.cols (o : Opnd) : Nat := if o.trans then Hdr.rows o.hdr else Hdr.cols o.hdr

/-- Stored place of element (r, c) (R73). -/
def Opnd.place (o : Opnd) (r c : Nat) : Nat × Nat := if o.trans then (c, r) else (r, c)
def Opnd.elemAt (o : Opnd) (r c : Nat) : Nat := o.addr + elemOff o.fp32 (o.place r c).1 (o.place r c).2

/-- Raw bits of element (r, c); +0 outside the valid region. -/
def State.opElem (s : State) (t : Nat) (o : Opnd) (r c : Nat) : Nat :=
  if r < o.rows && c < o.cols then leNat (s.tsRead t (o.elemAt r c) (if o.fp32 then 4 else 2)) else 0

/-- The fine block element (r, c) lies in (R65). -/
def Opnd.block (o : Opnd) (r c : Nat) : Nat := fineBlock (Hdr.orient o.hdr) (o.place r c).1 (o.place r c).2
/-- Fine scale of element (r, c): a nibble of the plane (R65). -/
def State.opFine (s : State) (t : Nat) (o : Opnd) (r c : Nat) : Nat :=
  let i := o.block r c
  let b := leNat (s.tsRead t (o.addr + planeAt + i / 2) 1)
  if i % 2 = 0 then b % 16 else b / 16

/-- A raw element as an FP32 pattern with what reading it reports: FP16 widened exactly, FP32 subnormals read as zero,
a signalling NaN invalid (R75, R88). -/
def readElem (fp32 : Bool) (raw : Nat) (g : EFlags) : Nat × EFlags :=
  if fp32 then
    let (b, f) := flushBits f32 raw
    let v := unpackF f32 b
    (if v.isNan then f32.nanBits else b, { g with flushed := g.flushed || f, invalid := g.invalid || v.isSnan })
  else
    let v := unpackF f16 raw
    ((cvtV f32 .rne v).bits, { g with invalid := g.invalid || v.isSnan })

/-- An FP32 result flushed: flush() of R75. -/
def flushRes (r : FRes) (g : EFlags) : Nat × EFlags :=
  let (b, f) := flushBits f32 r.bits
  (b, { g.merge r with flushed := g.flushed || f })

def mxMul (a b : Nat) (g : EFlags) : Nat × EFlags := flushRes (mulV f32 .rne (unpackF f32 a) (unpackF f32 b)) g
def mxAdd (a b : Nat) (g : EFlags) : Nat × EFlags := flushRes (addV f32 .rne (unpackF f32 a) (unpackF f32 b)) g

/-- scale2 of R66: exact, infinity above the FP32 range, flushed below it. -/
def scale2 (v : Nat) (e : Int) (g : EFlags) : Nat × EFlags :=
  match unpackF f32 v with
  | .fin n m x =>
    if m ≠ 0 && x + e + bitLen m ≤ -126 then (b2n n <<< 31, { g with flushed := true })
    else
      let r := roundF f32 .rne n m (x + e)
      (r.bits, g.merge r)
  | _ => (v, g)

/-- The pairwise tree over 2^k values in place (R75). -/
def pairUp (f : Nat → Nat → EFlags → Nat × EFlags) : List Nat → EFlags → List Nat × EFlags
  | a :: b :: r, g =>
    let (x, g1) := f a b g
    let (xs, g2) := pairUp f r g1
    (x :: xs, g2)
  | xs, g => (xs, g)

def pairTree (f : Nat → Nat → EFlags → Nat × EFlags) : Nat → List Nat → EFlags → Nat × EFlags
  | 0, xs, g => (xs.headD 0, g)
  | k + 1, xs, g =>
    let (ys, g1) := pairUp f xs g
    pairTree f k ys g1

/-- A map that threads the flags. -/
def mapF {α β γ : Type} (f : α → γ → β × γ) : List α → γ → List β × γ
  | [], g => ([], g)
  | x :: r, g =>
    let (y, g1) := f x g
    let (ys, g2) := mapF f r g1
    (y :: ys, g2)

/-! Accumulation (R75, R86, R89). -/

/-- How an operation ends before its drain: a status, with its trap fields where R82 gives any. -/
structure MxStop where
  status : Nat
  cls    : Nat
  t      : Nat
  q      : Nat
  row    : Nat
  col    : Nat
  aVal   : Nat
  bVal   : Nat
  deriving DecidableEq, Repr

def stopPlain (status : Nat) : MxStop := ⟨status, 0, 0, 0, 0, 0, 0, 0⟩
/-- Poison at (t, q); which output element and operands met it no rule says, so the record takes free values. -/
def stopPoison (t q : Nat) : MxStop := ⟨0x0207, 4, t, q, 0, 0, 0, 0⟩

/-- Reading an operand slot: poison in its header, then R70, then FORMAT and orientation (R70, R73). role 0
is A, 1 is B, 2 is C; a C of MMA_FP16 may be an FP32 pair whose second slot must lie in the store (R72). -/
def State.openSlot (s : State) (t : Nat) (d kt role a : Nat) (trans : Bool) : MxStop ⊕ Opnd :=
  let h := s.hdrAt t a
  let pair := Hdr.format h = 2
  let fits :=
    (if role = 2 then Hdr.format h = 1 || pair else Hdr.format h = (if Mx.fp32 d then 2 else 1)) &&
      (!pair || (inStore a pairBytes && fld (s.hdrAt t (a + slotBytes)) 7 0 = 3)) &&
      (role = 2 || (Hdr.orient h != trans) = (role = 1))
  if s.tsPoisoned t (a + headerAt) 64 || (pair && s.tsPoisoned t (a + slotBytes + headerAt) 64) then .inl (stopPoison kt 0)
  else if Hdr.invalid h then .inl (stopPlain 0x0205)
  else if !fits then .inl (stopPlain 0x0204)
  else .inr { addr := a, fp32 := pair, hdr := h, trans := trans }

/-- Whether block q reads a poisoned word, of the data or of the fine-scale plane, of an A operand (rows of k in a row) or
a B operand. -/
def State.blockPoison (s : State) (t : Nat) (o : Opnd) (q : Nat) (isA : Bool) : Bool :=
  (List.range 128).any fun i => (List.range 32).any fun k =>
    let (r, c) := if isA then (i, 32 * q + k) else (32 * q + k, i)
    decide (r < o.rows) && decide (c < o.cols) &&
      (s.tsPoisoned t (o.elemAt r c) (if o.fp32 then 4 else 2) || s.tsPoisoned t (o.addr + planeAt + o.block r c / 2) 1)

/-- One block product of one output element: the 32 products, their tree, the scaling, the addition. -/
def State.mxBlock (s : State) (t : Nat) (a b : Opnd) (q i j : Nat) (acc : Nat) (g : EFlags) : Nat × EFlags :=
  let (ps, g1) := mapF (fun k g =>
    let (x, g) := readElem a.fp32 (s.opElem t a i (32 * q + k)) g
    let (y, g) := readElem b.fp32 (s.opElem t b (32 * q + k) j) g
    mxMul x y g) (List.range 32) g
  let (p, g2) := pairTree mxAdd 5 ps g1
  let e : Int := Hdr.coarse a.hdr + Hdr.coarse b.hdr - s.opFine t a i (32 * q) - s.opFine t b (32 * q) j
  let (x, g3) := scale2 p e g2
  mxAdd acc x g3

/-- Class and operands of a NaN event at block (t, q), element (i, j) (R89). -/
def State.mxTrap (s : State) (t : Nat) (a b : Opnd) (kt q i j : Nat) (before cRaw : Nat) : MxStop :=
  let pairs := (List.range 32).map fun k => (s.opElem t a i (32 * q + k), s.opElem t b (32 * q + k) j)
  let f := if a.fp32 then f32 else f16
  let val (x : Nat) : FVal := unpackF f x
  if (unpackF f32 before).isNan then ⟨0x0203, 3, 0, 0, i, j, cRaw, 0⟩
  else match pairs.find? fun p => (val p.1).isNan || (val p.2).isNan with
    | some p => ⟨0x0203, 3, kt, q, i, j, p.1, p.2⟩
    | none => match pairs.find? fun p => (val p.1).isInf || (val p.2).isInf with
      | some p => ⟨0x0202, 2, kt, q, i, j, p.1, p.2⟩
      | none =>
        let size (p : Nat × Nat) : Nat :=
          (mxMul (readElem a.fp32 p.1 {}).1 (readElem b.fp32 p.2 {}).1 {}).1 % 2 ^ 31
        let best := pairs.foldl (fun (m : Nat × Nat) p => if size m < size p then p else m) (pairs.headD (0, 0))
        ⟨0x0201, 1, kt, q, i, j, best.1, best.2⟩

/-- One block (t, q) over every output element, with the first NaN where a trap is armed. -/
def State.mxPass (s : State) (t : Nat) (a b : Opnd) (kt q rows cols : Nat) (armed : Bool) (cRaw : List Nat)
    (acc : List Nat) (g : EFlags) : (MxStop ⊕ List Nat) × EFlags :=
  let cells := (List.range (rows * cols)).zip (acc.zip (cRaw ++ List.replicate (rows * cols) 0))
  let (new, g1) := mapF (fun (x : Nat × (Nat × Nat)) g =>
    let (v, g') := s.mxBlock t a b q (x.1 / cols) (x.1 % cols) x.2.1 g
    ((v, x), g')) cells g
  let hit := if armed then new.find? fun x => (unpackF f32 x.1).isNan else none
  match hit with
  | some (_, (e, (before, raw))) => (.inl (s.mxTrap t a b kt q (e / cols) (e % cols) before raw), g1)
  | none => (.inr (new.map (·.1)), g1)

/-- The four blocks of a contraction tile; poison outranks a NaN event of the same block (R86). -/
def State.mxTileFold (s : State) (t : Nat) (a b : Opnd) (kt rows cols : Nat) (armed : Bool) (cRaw : List Nat) :
    List Nat → List Nat → EFlags → (MxStop ⊕ List Nat) × EFlags
  | [], acc, g => (.inr acc, g)
  | q :: qs, acc, g =>
    if s.blockPoison t a q true || s.blockPoison t b q false then (.inl (stopPoison kt q), g)
    else match s.mxPass t a b kt q rows cols armed cRaw acc g with
      | (.inl e, g1) => (.inl e, g1)
      | (.inr acc1, g1) => s.mxTileFold t a b kt rows cols armed cRaw qs acc1 g1

/-- The contraction tiles in order: each is read, checked and accumulated; the count of tiles accumulated beside. -/
def State.mxFold (s : State) (t d rows cols : Nat) (armed : Bool) (cRaw : List Nat) :
    List Nat → Nat → List Nat → EFlags → (MxStop ⊕ List Nat) × EFlags × Nat
  | [], done, acc, g => (.inr acc, g, done)
  | kt :: ks, done, acc, g =>
    match s.openSlot t d kt 0 (Mx.aTile d kt).toNat (Mx.transA d) with
    | .inl e => (.inl e, g, done)
    | .inr a => match s.openSlot t d kt 1 (Mx.bTile d kt).toNat (Mx.transB d) with
      | .inl e => (.inl e, g, done)
      | .inr b => match s.mxTileFold t a b kt rows cols armed cRaw [0, 1, 2, 3] acc g with
        | (.inl e, g1) => (.inl e, g1, done + 1)
        | (.inr acc1, g1) => s.mxFold t d rows cols armed cRaw ks (done + 1) acc1 g1

/-- The output's valid rows or columns: the smallest effective count among the A or B tiles (R74). -/
def State.mxExtent (s : State) (t d : Nat) (isA : Bool) : Nat :=
  (List.range (Mx.kTiles d)).foldl (fun m k =>
    let h := s.hdrAt t (if isA then Mx.aTile d k else Mx.bTile d k).toNat
    let v := if isA then (if Mx.transA d then Hdr.cols h else Hdr.rows h)
             else (if Mx.transB d then Hdr.rows h else Hdr.cols h)
    if 1 ≤ v then min m v else m) 128

/-- The whole accumulation of an operation: C first, then the tiles (R75). -/
def State.mxCompute (s : State) (n t d : Nat) : (MxStop ⊕ List Nat) × EFlags × Nat :=
  let rows := s.mxExtent t d true
  let cols := s.mxExtent t d false
  let armed := Mx.nanTrap d || s.objC Obj.mxCompTrapForce n = 1
  let ks := List.range (Mx.kTiles d)
  if Mx.init d = 0 then s.mxFold t d rows cols armed [] ks 0 (List.replicate (rows * cols) 0) {}
  else match s.openSlot t d 0 2 (Mx.cAddr d) false with
    | .inl e => (.inl e, {}, 0)
    | .inr c =>
      if (List.range 4).any fun q => s.blockPoison t c q true then (.inl (stopPoison 0 0), {}, 0)
      else
        let raw := (List.range (rows * cols)).map fun e => s.opElem t c (e / cols) (e % cols)
        let (acc, g) := mapF (fun (x : Nat × Nat) g =>
          let (v, g) := readElem c.fp32 x.2 g
          let (w, g) := scale2 v (Hdr.coarse c.hdr - s.opFine t c (x.1 / cols) (x.1 % cols)) g
          (w, g)) ((List.range (rows * cols)).zip raw) {}
        s.mxFold t d rows cols armed raw ks 0 acc g

/-! Records and completion (R81, R82, R90). -/

/-- Largest finite magnitude of FP32 patterns, as a pattern. -/
def absMax (acc : List Nat) : Nat :=
  acc.foldl (fun m v => if (unpackF f32 v).isFin then max m (v % 2 ^ 31) else m) 0

/-- ABSMAX of an operation that ends without a drain: no rule says what its accumulators then hold, a free value. -/
def State.openAbsMax (s : State) : Nat := Config.choice s.fresh % 2 ^ 31

/-- A pattern's real magnitude, none for zero and the non-finite. -/
def magOf (b : Nat) : Option (Nat × Int) :=
  match unpackF f32 b with
  | .fin _ m e => if m = 0 then none else some (m, e)
  | _ => none

/-- The completion record (R82). -/
def State.mxRecord (s : State) (t d : Nat) (g : EFlags) (status absmax : Nat) (e : Option MxStop) : Nat :=
  let trap : List (Nat × Nat) := match e with
    | none => []
    | some x =>
      if x.cls = 0 then []
      else
        let a := (Mx.aTile d x.t).toNat
        let b := (Mx.bTile d x.t).toNat
        let ha := s.hdrAt t a
        let hb := s.hdrAt t b
        let o := Config.choice s.fresh
        let p := decide (x.cls = 4)
        [(144, x.cls), (152, x.q), (160, x.t), (176, if p then fld o 38 32 else x.row), (183, if p then fld o 46 40 else x.col),
         (192, s.stamp), (224, a % 2 ^ 22), (256, b % 2 ^ 22), (288, Hdr.tensor ha), (320, Hdr.tensor hb),
         (352, Hdr.layer ha), (368, Hdr.layer hb), (384, if p then fld o 95 64 else x.aVal),
         (416, if p then fld o 127 96 else x.bVal)]
  pack ([(0, status), (32, g.sat % 2 ^ 32), (64, absmax), (96, Mx.opTag d), (128, Mx.opcode d), (136, Mx.acc d), (448, t)] ++ trap) +
    g.mxBits

/-- A trap counted, kept and logged for the first since the last clear (R90, R124). -/
def State.firstTrap (s : State) (n t status record traps first : Nat) : State :=
  let s1 := s.incC traps n
  if s1.objC first n = 0 then (s1.setObjC first n record).fault status n t else s1

/-- An operation ends: its record, its counters, its peg, its event (R81, R90, R94, R146). -/
def State.mxFinish (s : State) (n t : Nat) (x : MxDesc) (g : EFlags) (status record : Nat) : State :=
  let d := x.bits
  let s1 := (s.tsWrite t (Mx.recAddr d) (leBytes 64 record)).incC Obj.mxCompOps n
  let s2 := (s1.incC Obj.mxCompSaturated n g.sat).incC Obj.mxCompFlushed n (b2n g.flushed)
  let s3 :=
    if status = 0x0201 || status = 0x0202 || status = 0x0203 then
      (s2.firstTrap n t status record Obj.mxCompNanTraps Obj.mxCompFirstTrap).tileEvent t 0x08 1
    else if status ≠ 0 then s2.fault status n t
    else s2
  let s4 := ((s3.tileEvent t 0x02 1).tileEvent t 0x06 g.sat).tileEvent t 0x07 (b2n g.flushed)
  let s5 := if Mx.pegEn d then s4.unitPost n (Mx.peg d) else s4
  if status ≠ 0 then s5.signal x.poster 0 status (Mx.recAddr d) else s5

/-- Ranges an operation reads; C is a pair where its header says so (R72). -/
def State.mxReads (s : State) (t d : Nat) : List (Nat × Nat) :=
  ((List.range (Mx.kTiles d)).flatMap fun k =>
    [((Mx.aTile d k).toNat, Mx.opBytes d), ((Mx.bTile d k).toNat, Mx.opBytes d)]) ++
  (if Mx.init d = 1 then
    [(Mx.cAddr d, if Hdr.format (s.hdrAt t (Mx.cAddr d)) = 2 then pairBytes else Mx.opBytes d)] else [])

/-- Whether a drain still to come in tile t writes a slot the operation reads (R84). -/
def State.mxHeld (s : State) (t d : Nat) : Bool :=
  (s.tile t).mxRuns.any fun r =>
    (s.mxReads t d).any fun p => overlaps p.1 p.2 (Mx.dAddr r.desc.bits) (Mx.dBytes r.desc.bits)

/-- MX_OP_EXECUTE: the head of the queue, once its set is free and no earlier drain holds it, accumulates; a stop ends
it at once without a drain. -/
def execMxOpExecute (t : TileNo) (s : State) : Host.Outcome State Fault Refusal :=
  let k := t.val
  let y := s.tile k
  match s.compOfTile k, y.mxQueue with
  | some n, x :: rest =>
    let d := x.bits
    if !s.running n || y.dom ≠ .on || y.mxRuns.any (fun r => Mx.acc r.desc.bits = Mx.acc d) || s.mxHeld k d then
      ok s
    else
      let (res, g, tiles) := s.mxCompute n k d
      let beats := tiles * (if Mx.fp32 d then 512 else 128)
      let s1 := ((s.modTile k fun y => { y with mxQueue := rest, since := s.now }).unstall k .matrix).incC
        Obj.mxCompMacBeats n beats
      let s2 := s1.tileEvent k 0x01 beats
      match res with
      | .inl e => ok (s2.tickFresh.mxFinish n k x g e.status (s.mxRecord k d g e.status s.openAbsMax (some e)))
      | .inr acc =>
        let run : MxRun := { desc := x, acc := acc, rows := s.mxExtent k d true, cols := s.mxExtent k d false,
                             invalid := g.invalid, overflow := g.overflow, flushed := g.flushed }
        ok (s2.modTile k fun y => { y with mxRuns := y.mxRuns ++ [run] })
  | _, _ => ok s

/-! The drain (R78-R80). -/

/-- FINE of a block: the largest from 0 to 15 with m * 2^(FINE - c) below 2^15, else 0; 15 for a block of zeros. -/
def fineOf (m : Option (Nat × Int)) (c : Int) : Nat :=
  match m with
  | none => 15
  | some (k, e) =>
    -- m * 2^(F - c) < 2^15 exactly when e + F - c + bitLen k is at most 15
    let top : Int := 15 - (e - c + bitLen k)
    if top < 0 then 0 else if 15 < top then 15 else top.toNat

/-- A real element encoded as FP16 under a scale factor 2^sh: rounded, a finite value beyond 65,504 saturated and
counted with its real magnitude, an infinity kept, a NaN 0x7E00 (R78, R79). -/
def encode16 (r : Rnd) (v : FVal) (sh : Int) (g : EFlags) : Nat × EFlags :=
  match v with
  | .nan _ => (0x7E00, g)
  | .inf n => (f16.infBits n, g)
  | .fin n m e =>
    let res := roundF f16 r n m (e + sh)
    if res.overflow then (f16.maxBits n, g.satAt (m, e)) else (res.bits, g)

/-- The rounding of an element with its draw. -/
def rndWith (stoch : Bool) (draw : Nat) : Rnd := if stoch then .sr draw else .rne

/-- All 16,384 draws of a drain, element e from generator 64 + e mod 64 in increasing e (R80). -/
def drainDraws (gs : List (Nat × Option LaneGen)) (seed t : Nat) : List Nat × List (Nat × Option LaneGen) :=
  mapF (fun e gs => drawAt gs seed t (64 + e % 64)) (List.range 16384) gs

/-- Accumulator value (i, j) as it drains: +0 outside the output's valid region (R74). -/
def MxRun.at (r : MxRun) (i j : Nat) : Nat :=
  if i < r.rows && j < r.cols then ((r.acc.drop (i * r.cols + j)).headD 0) else 0

/-- The elements of fine block b along OUT_ORIENT (R65). -/
def blockCells (orient : Bool) (b : Nat) : List (Nat × Nat) :=
  (List.range 32).map fun k => if orient then (32 * (b / 128) + k, b % 128) else (b / 4, 32 * (b % 4) + k)

/-- The drain to an FP16 tile: every fine block of D encoded along OUT_ORIENT, then plane, header and padding (R78-R80). -/
def State.mxDrainFp16 (s : State) (t : Nat) (r : MxRun) (g : EFlags) (draws : List Nat) : State × EFlags :=
  let d := r.desc.bits
  let c : Int := sfld d 55 48
  let o := Mx.outOrient d
  let stoch := Mx.round d = 1
  let all := mapF (fun b g =>
    let cells := blockCells o b
    let m := magOf (absMax (cells.map fun p => r.at p.1 p.2))
    let fine := fineOf m c
    let (es, g) := mapF (fun (p : Nat × Nat) g =>
      let v := unpackF f32 (r.at p.1 p.2)
      let (w, g) := encode16 (rndWith stoch ((draws.drop (128 * p.1 + p.2)).headD 0)) v (fine - c) g
      ((elemOff false p.1 p.2, w), g.seen v)) cells g
    ((fine, es), g)) (List.range 512) g
  let bs := all.1
  let store := bs.foldl (fun st b => b.2.foldl (fun st e => writeBytes st (Mx.dAddr d + e.1) (leBytes 2 e.2)) st)
    (s.tile t).store
  let plane := (List.range 256).map fun i =>
    BitVec.ofNat 8 (((bs.drop (2 * i)).headD (0, [])).1 + 16 * ((bs.drop (2 * i + 1)).headD (0, [])).1)
  let hdr := Hdr.make 1 (Mx.outCoarse d) o (Mx.outTensor d) (Mx.outLayer d) r.rows r.cols (Mx.outTileRow d) (Mx.outTileCol d)
  let s1 := s.modTile t fun y => { y with store := store }
  ((s1.tsWrite t (Mx.dAddr d) (s1.tsRead t (Mx.dAddr d) planeAt)).tsWrite t (Mx.dAddr d + planeAt)
    (plane ++ leBytes 64 hdr ++ List.replicate 704 0), all.2)

/-- The drain to an FP32 pair: acc * 2^(-OUT_COARSE), flushed, every fine scale 0 (R69, R78). -/
def State.mxDrainFp32 (s : State) (t : Nat) (r : MxRun) (g : EFlags) : State × EFlags :=
  let d := r.desc.bits
  let c : Int := sfld d 55 48
  let all := mapF (fun e g =>
    let (w, g) := scale2 (r.at (e / 128) (e % 128)) (-c) g
    let (w, f) := flushBits f32 w
    (w, ({ g with flushed := g.flushed || f }).seen (unpackF f32 w))) (List.range 16384) g
  let half (k : Nat) : List Byte := ((all.1.drop (8192 * k)).take 8192).flatMap (leBytes 4)
  let hdr (f : Nat) : List Byte := leBytes 64 (Hdr.make f (Mx.outCoarse d) (Mx.outOrient d) (Mx.outTensor d)
    (Mx.outLayer d) r.rows r.cols (Mx.outTileRow d) (Mx.outTileCol d))
  let slot (f k : Nat) : List Byte := half k ++ List.replicate 256 0 ++ hdr f ++ List.replicate 704 0
  (s.tsWrite t (Mx.dAddr d) (slot 2 0 ++ slot 3 1), all.2)

/-- The drain of a set in the format and rounding of its descriptor (R78, R80). -/
def State.mxDrain (s : State) (n k : Nat) (r : MxRun) (g : EFlags) : State × EFlags :=
  let d := r.desc.bits
  if Mx.outFmt d = 1 then s.mxDrainFp32 k r g
  else if Mx.round d = 1 then
    let draws := drainDraws (s.tile k).gens (s.comp n).seed k
    (s.modTile k fun y => { y with gens := draws.2 }).mxDrainFp16 k r g draws.1
  else s.mxDrainFp16 k r g []

/-- MX_OP_COMPLETE (R81): the oldest accumulated set drains, the keeper is told, the record is written, the peg posted
and the set freed. -/
def execMxOpComplete (t : TileNo) (s : State) : Host.Outcome State Fault Refusal :=
  let k := t.val
  match s.compOfTile k, (s.tile k).mxRuns with
  | some n, r :: rest =>
    if !s.running n then ok s
    else
      let d := r.desc.bits
      let absm := absMax r.acc
      let g : EFlags := { invalid := r.invalid || r.acc.any fun v => (unpackF f32 v).isNan, overflow := r.overflow,
                          flushed := r.flushed }
      let s0 := s.modTile k fun y => { y with mxRuns := rest, since := s.now }
      let drained := s0.mxDrain n k r g
      let s1 := drained.1
      let g1 := drained.2
      let s2 := s1.reportTile n (Mx.outTensor d) (sfld d 55 48) (magOf absm) g1.top
      let s3 := s2.tileEvent k 0x05 (if Mx.outFmt d = 1 then 256 else 128)
      ok (s3.mxFinish n k r.desc g1 0 (s3.mxRecord k d g1 0 absm none))
  | _, _ => ok s

/-- MX_ACC_UNCORRECTABLE (R95): the operation that holds the set ends with 0x0208 without a drain; a second one in the
tile within 2^36 ns fences it. -/
def execMxAccUncorrectable (t : TileNo) (acc : Fin 8) (s : State) : Host.Outcome State Fault Refusal :=
  let k := t.val
  let y := s.tile k
  match s.compOfTile k, y.mxRuns.find? (fun r => Mx.acc r.desc.bits = acc.val) with
  | some n, some r =>
    let again := match y.accErr with
      | some t0 => within36 s.now t0
      | none => false
    let g : EFlags := { invalid := r.invalid, overflow := r.overflow, flushed := r.flushed }
    let s1 := s.modTile k fun y => { y with mxRuns := y.mxRuns.filter (fun q => Mx.acc q.desc.bits ≠ acc.val),
                                            accErr := some s.now }
    let s2 := s1.tickFresh.mxFinish n k r.desc g 0x0208 (s1.mxRecord k r.desc.bits g 0x0208 s.openAbsMax none)
    ok (if again then s2.fenceTile k 0x0208 else s2)
  | _, _ => ok s

/-- MX_TRAP_CLEAR (R90): a write of mx.comp.trap_clear. -/
def execMxTrapClear (r : Role) (c : CompNo) (v : Bool) (s : State) : Host.Outcome State Fault Refusal :=
  ok (s.clearWrite r (objAt Obj.mxCompTrapClear c.val) v fun s => s.setObjC Obj.mxCompFirstTrap c.val 0)

end Sys2Proof.Machine
end

