-- ==== Sys2Proof/Machine/Numerics.lean ====
section
/-! DEFINITION. The scale keeper's own commands (chapter 06): the verdict of a step and the clear of the first event.
Reports of the engines are in Machine/Keeper.lean. -/

namespace Sys2Proof.Machine
open Sys2Proof

/-- A valid record when a verdict is applied (R179). -/
def State.decayRecord (s : State) (n i : Nat) : State :=
  let r := s.record n i
  if !Rec.valid r then s
  else
    let clear (r : Nat) : Nat := putFld (putFld r 47 32 noObs) 49 49 0
    if Rec.stepMax r = noObs then (if bit r 49 then s.setRecord n i (clear r) else s)
    else
      let (est, s1) := s.est16 (max (signed 16 (Rec.stepMax r)) (Rec.est r - s.objC Obj.numCompEstDecay n))
      let r1 := putFld r 31 16 est
      let r2 := if Rec.kind r = 2 then r1
        else putFld r1 7 0 (unsigned 8 (clampI ((signed 16 est + 255) / 256 - 14) (-128) 127))
      s1.setRecord n i (clear r2)

/-- The verdict rule on the control record: the new record, and whether 0x0503 and 0x0504 are raised (R185). -/
def applyVerdict (ct step v herringbone limit : Nat) : Nat × Bool × Bool :=
  let S := Ctl.lossLog2 ct
  let c0 := putFld (putFld (putFld (putFld (putFld (putFld ct 79 72 S) 223 192 0) 255 224 0) 63 0 step) 87 80 v) 103 88 0
  if v = 0 then
    let run := Ctl.cleanRun ct + 1
    let c1 := putFld (putFld c0 175 160 0) 159 128 (if run = herringbone then 0 else run)
    if run = herringbone && S < 24 then (putFld (putFld c1 71 64 (S + 1)) 383 352 (Ctl.doublings ct + 1), false, false)
    else (c1, false, false)
  else
    let skip := Ctl.skipRun ct + 1
    let c1 := putFld (putFld (putFld c0 159 128 0) 175 160 skip) 319 256 (Ctl.skipsTotal ct + 1)
    if v = 1 && S > 0 then (putFld (putFld c1 71 64 (S - 1)) 351 320 (Ctl.halvings ct + 1), false, skip = limit)
    else (c1, v = 1, skip = limit)

/-- VERDICT_APPLY (R185): one advance of verdict_peg. -/
def execVerdictApply (c : CompNo) (remote : Option SpanReply) (s : State) : Host.Outcome State Fault Refusal :=
  let n := c.val
  if !s.unitsRun n || s.advances n unitVerdict (s.objC Obj.numCompVerdictPeg n) = 0 then ok s
  else
    let (bs, s1) := (s.actOn n unitVerdict).unitFetch n (s.objC Obj.numCompVerdictAddr n) 64 remote
    let l := leNat (bs.getD [])
    let step := fld l 63 0
    let v := fld l 71 64
    let ct := s1.control n
    let post (s : State) : State := s.unitPost n (s.objC Obj.numCompScalePeg n)
    if bs.isNone || step ≠ Ctl.lastStep ct + 1 || 2 < v || fld l 127 72 ≠ 0 || fld l 511 192 ≠ 0 then
      ok (post (((s1.setControl n (putFld ct 103 88 0x0505)).incC Obj.numCompVerdictsRefused n).fault 0x0505 n))
    else
      let (c1, floor, limit) := applyVerdict ct step v (s1.objC Obj.numCompHerringbone n) (s1.objC Obj.numCompSkipLimit n)
      let s2 := ((List.range 4092).foldl (fun a i => a.decayRecord n (i + 4)) s1).setControl n c1
      let s3 := if v = 0 then s2 else (s2.incC Obj.numCompStepsSkipped n).numEvent n 0x0501 0 step
      let s4 := if floor then s3.fault 0x0503 n else s3
      let s5 := if limit then (s4.fault 0x0504 n).raise 1 n else s4
      ok ((post s5).handVerdict n step v (Ctl.lossLog2 ct) (Ctl.lossLog2 c1))

/-- NUM_EVENT_CLEAR (R194). -/
def execNumEventClear (r : Role) (c : CompNo) (v : Bool) (s : State) : Host.Outcome State Fault Refusal :=
  ok (s.clearWrite r (objAt Obj.numCompEventClear c.val) v fun s =>
    (s.setObjC Obj.numCompFirstEvent c.val 0).rearmLog c.val 0x05)

end Sys2Proof.Machine
end

