-- ==== Sys2Proof/Machine/Gather.lean ====
section
/-! DEFINITION. The gather engines (chapter 05, R161-R168) and the tally they report to (R165, R335). -/

namespace Sys2Proof.Machine
open Sys2Proof

def Tile.gx (y : Tile) (eng : Bool) : Gather := if eng then y.gx1 else y.gx0
def State.setGx (s : State) (t : Nat) (eng : Bool) (g : Gather) : State :=
  s.modTile t fun y => if eng then { y with gx1 := g } else { y with gx0 := g }

/-! Post (R163). -/

/-- Distance between tile-store elements; 0 means packed (R161). -/
def Gx.tsStep (d : Nat) : Int := if Gx.tsStride d = 0 then Gx.elemBytes d else Gx.tsStride d
/-- Bytes of an index. -/
def Gx.idxBytes (d : Nat) : Nat := if Gx.idx64 d then 8 else 4
/-- Tile-store address of element i: of its ring slot in ring mode (R162, R164). -/
def Gx.tsOf (d i : Nat) : Int :=
  Gx.tsAddr d + ((if Gx.ring d then i % max 1 (Gx.ringSlots d) else i : Nat) : Int) * Gx.tsStep d

/-- A signed address and a length lie within the tile store. -/
def inStoreI (a : Int) (n : Nat) : Bool := decide (0 ≤ a) && decide (a + n ≤ tsBytes)

/-- The checks of R163. -/
def State.gxRefused (s : State) (n t d : Nat) : Bool :=
  let m := Gx.mode d
  let e := Gx.elemBytes d
  let cnt := Gx.count d
  let last := if Gx.ring d then Gx.ringSlots d - 1 else cnt - 1
  let tags := if Gx.ring d then Gx.ringSlots d else cnt
  Gx.reserved d || cnt = 0 || e = 0 || e % 8 ≠ 0 || decide (65536 < e) ||
    (Gx.ring d && m ≠ 1) || (if Gx.ring d then Gx.window d = 0 || decide (512 < Gx.window d) || Gx.ringSlots d = 0
      else Gx.window d ≠ 0) ||
    (m ≠ 0 && Gx.idxLimit d = 0) ||
    Gx.tsAddr d % 8 ≠ 0 || Gx.tsStride d % 8 ≠ 0 || Gx.spanBase d % 8 ≠ 0 || Gx.recAddr d % 64 ≠ 0 ||
    !inStoreI (Gx.tsAddr d) e || !inStoreI (Gx.tsAddr d + (last : Int) * Gx.tsStep d) e ||
    (m ≠ 0 && !inStore (Gx.idxAddr d) (cnt * Gx.idxBytes d)) ||
    (Gx.tagEn d && !inStore (Gx.tagAddr d) tags) || !inStore (Gx.recAddr d) 64 ||
    (Gx.tagEn d && (m = 2 || (m = 0 && Gx.dir d))) ||
    (Gx.pegEn d && !s.pegOwned n (Gx.peg d)) ||
    (Gx.ring d && (!s.pegOwned n (Gx.consPeg d) || !s.pegOwned n (Gx.prodPeg d))) || s.fenced t

/-- GX.POST at a tile-store offset: checked, copied whole into the queue of 8, or refused with 0x0406; a poisoned
descriptor answers its reader 0x0103 (R54). -/
def State.gxPost (s : State) (t : ThreadId) (n off : Nat) (eng : Bool) : Posted :=
  let k := t.tile.val
  let g := (s.tile k).gx eng
  let d := if inStore off 64 then leNat (s.tsRead k off 64) else 0
  if 8 ≤ g.queue.length then .full
  else if inStore off 64 && s.tsPoisoned k off 64 then .done s 0x0103
  else if !inStore off 64 || s.gxRefused n k d then .done ((s.incC Obj.prepCompGxRefused n).fault 0x0406 n k) 0x0406
  else .done ((s.setGx k eng { g with queue := g.queue ++ [⟨d, t.key⟩] }).tileEvent k 0x49 1) 0

/-- GX_POST. -/
def execGxPost (t : ThreadId) (rd rs1 rs2 : Fin 32) (s : State) : Host.Outcome State Fault Refusal :=
  ok (s.issue t rd.val fun s1 n =>
    let h := s1.thread t.key
    let eng := (h.getX rs2.val).toNat % 2 = 1
    s1.posted t rd.val (if eng then .gather1 else .gather0) (s1.gxPost t n (h.getX rs1.val).toNat eng))

/-! Elements (R162-R166). -/

/-- The tally unit counts an example for a contributor 0-7, or as mixed (key 8) (R165, R335). -/
def State.tallyAdd (s : State) (n key : Nat) : State :=
  let s1 := if key = 8 then s.incC Obj.compMixedExamples n else s
  s1.modComp n fun c => { c with tally := kput 0 c.tally key (kget 0 c.tally key + 1) }

/-- The span address of element i, or the code that stops it with the span address the record names: an index out of
range names its own row, a poisoned index none the spec states, a free value. -/
def State.gxSpan (s : State) (t d i : Nat) : Except (Nat × Nat) Int :=
  if Gx.mode d = 0 then .ok (Gx.spanBase d + (i : Int) * signed 32 (Gx.spanStride d))
  else
    let a := Gx.idxAddr d + i * Gx.idxBytes d
    if s.tsPoisoned t a (Gx.idxBytes d) then .error (0x0409, Config.choice s.fresh % 2 ^ 56)
    else
      let idx := leNat (s.tsRead t a (Gx.idxBytes d))
      let row : Int := Gx.spanBase d + (idx : Int) * (Gx.spanStride d : Nat)
      if Gx.idxLimit d ≤ idx then .error (0x0408, unsigned 56 row) else .ok row

/-- What one element came to. -/
inductive ElemOut where
  | done
  | pause
  | stop (code span : Nat)
  deriving DecidableEq, Repr

/-- The lines of an element are read, those of a home elsewhere from the reply that came for it. -/
def State.gxRead (s : State) (n a len : Nat) (remote : Option SpanReply) (bad : Option Integ) : AccOut × Nat × State :=
  (lineParts (len / 64 + 2) a len).foldl (fun r q =>
    match r.1 with
    | .done bs =>
      (match r.2.2.spanAccess n .gather .read q.1 q.2 [] (if q.1 = a then bad.getD .intact else .intact) with
       | (.done x, st) => (.done (bs ++ x), 0, st)
       | (.away m, st) =>
         (match remote with
          | some p => if p.fault = 0 then (.done (bs ++ slice p.data (q.1 - a) q.2), 0, st) else (.fault p.fault, q.1, st)
          | none => (.away m, q.1, st))
       | (o, st) => (o, q.1, st))
    | _ => r) (.done [], 0, s)

/-- The lines of an element are written; those of a home elsewhere leave as packets, and those of a page that holds its
writes are held there (R229, R258, R415). -/
def State.gxWrite (s : State) (n a : Nat) (bs : List Byte) (bad : Option Integ) (src : AccSrc) : AccOut × Nat × State :=
  (lineParts (bs.length / 64 + 2) a bs.length).foldl (fun r q =>
    match r.1 with
    | .done _ =>
      let d := (bs.drop (q.1 - a)).take q.2
      (match r.2.2.spanAccess n .gather .write q.1 q.2 d (if q.1 = a then bad.getD .intact else .intact) with
       | (.done _, st) => (.done [], 0, st)
       | (.wait, st) => (.done [], 0, st.modComp n fun c => { c with held := c.held ++ [⟨src, q.1, .write, d, st.now⟩] })
       | (.away m, st) =>
         if st.reachable n m then (.done [], 0, (st.unitWrite n q.1 d).compEvent n 0xE0 1)
         else (.fault 0x0707, q.1, st.lostAccess n 0x0707 q.1)
       | (o, st) => (o, q.1, st))
    | _ => r) (.done [], 0, s)

/-- The contributor of the key range that serves an address: 0-7, or 0xFF (R165). -/
def State.tagOf (s : State) (n a : Nat) : Nat := (s.contribOf n (s.rangeAt n (pageOf a))).getD 0xFF

/-- An element written to its place, its tag to the stream, its example reported when complete. -/
def State.gxLand (s : State) (n t : Nat) (d i a : Nat) (bs : List Byte) (run : GxRun) : GxRun × State :=
  let s1 := s.tsWrite t (Gx.tsOf d i).toNat bs
  let tag := s.tagOf n a
  let s2 := if Gx.tagEn d then
      s1.tsWrite t (Gx.tagAddr d + if Gx.ring d then i % max 1 (Gx.ringSlots d) else i) [BitVec.ofNat 8 tag] else s1
  let s3 := if Gx.ring d then s2.unitPost n (Gx.prodPeg d) else s2
  let s4 := s3.tileEvent t 0x60 1
  let r1 : GxRun := { run with next := i + 1, staged := run.staged.filter fun x => x.elem ≠ i }
  if Gx.exampleLen d = 0 then (r1, s4)
  else
    let seen := run.seen ++ [tag]
    if seen.length < Gx.exampleLen d then ({ r1 with seen := seen }, s4)
    else
      let same := seen.all fun x => x = seen.headD 0
      if same && seen.headD 0 = 0xFF then ({ r1 with seen := [] }, s4)
      else ({ r1 with seen := [], examples := run.examples + 1, mixed := run.mixed || !same },
        s4.tallyAdd n (if same then seen.headD 0 else 8))

/-- One demand element. -/
def State.gxElem (s : State) (n t : Nat) (eng : Bool) (run : GxRun) (remote : List (Nat × SpanReply)) (bad : Option (Nat × Integ)) :
    ElemOut × GxRun × State :=
  let d := run.desc.bits
  let i := run.next
  match s.gxSpan t d i with
  | .error (c, at_) => (.stop c at_, run, s.tickFresh)
  | .ok ai =>
    if ai < 0 || (2 ^ 56 : Int) < ai + Gx.elemBytes d then (.stop 0x0407 (unsigned 56 ai), run, s)
    else
      let a := ai.toNat
      let len := Gx.elemBytes d
      let hurt := match bad with | some (k, it) => if k = i then some it else none | none => none
      let rep := (remote.find? fun q => q.1 = i).map (·.2)
      let out := Gx.mode d = 2 || (Gx.mode d = 0 && Gx.dir d)
      let ts := (Gx.tsOf d i).toNat
      let s0 := s.translate n t (pageOf a)
      if out then
        if s0.tsPoisoned t ts len then (.stop 0x0409 a, run, s0)
        else match s0.gxWrite n a (s0.tsRead t ts len) hurt (.gather t eng i) with
          | (.done _, _, s1) =>
            (.done, { run with next := i + 1 }, (s1.tileEvent t 0x60 1).tileEvent t 0x67 (ceilDiv len 64))
          | (o, at_, s1) => (.stop (gxCode o) at_, run, s1)
      else match run.staged.find? fun x => x.elem = i with
        | some x =>
          let (r1, s1) := s0.gxLand n t d i a x.data run
          (.done, r1, s1)
        | none =>
          match s0.gxRead n a len rep hurt with
          | (.done bs, _, s1) =>
            let (r1, s2) := (s1.tileEvent t 0x66 (ceilDiv len 64)).gxLand n t d i a bs run
            (.done, r1, s2)
          | (.wait, _, s1) => (.pause, run, s1)
          | (.away m, at_, s1) =>
            if s1.reachable n m then (.pause, run, s1) else (.stop 0x0707 at_, run, s1.lostAccess n 0x0707 at_)
          | (o, at_, s1) => (.stop (gxCode o) at_, run, s1)

/-- Elements that may be written now: all, or in ring mode those below the consumer's count plus the ring's slots. -/
def State.gxLimit (s : State) (d : Nat) : Nat :=
  if Gx.ring d then min (Gx.count d) ((s.peg (Gx.consPeg d)).value + Gx.ringSlots d) else Gx.count d

/-- Demand elements in order until the limit, a pause or a stop. -/
def State.gxRun (s : State) (n t : Nat) (eng : Bool) (run : GxRun) (remote : List (Nat × SpanReply)) (bad : Option (Nat × Integ)) :
    Nat → GxRun × State
  | 0 => (run, s)
  | fuel + 1 =>
    if s.gxLimit run.desc.bits ≤ run.next || run.status ≠ 0 then (run, s)
    else match s.gxElem n t eng run remote bad with
      | (.done, r, s1) => s1.gxRun n t eng r remote bad fuel
      | (.pause, r, s1) => (r, s1)
      | (.stop c at_, r, s1) => ({ r with status := c, faultIdx := run.next, faultSpan := at_ }, s1)

/-- The look-ahead window of ring mode: each element is fetched once, or dropped (R156, R164, R169). -/
def State.gxWindow (s : State) (n t : Nat) (run : GxRun) : GxRun × State :=
  let d := run.desc.bits
  let len := Gx.elemBytes d
  let w := if 32768 < len then 0 else min (Gx.window d) (32768 / len)
  if !Gx.ring d || run.status ≠ 0 then (run, s)
  else
    let first := max (s.gxLimit d) run.laNext
    let past := min (s.gxLimit d + w) (Gx.count d)
    (List.range (past - first)).foldl (fun r j =>
      let i := first + j
      match r.2.gxSpan t d i with
        | .error _ => ({ r.1 with laIssued := r.1.laIssued + 1, laDropped := r.1.laDropped + 1 },
            (((r.2.incC Obj.prepCompLaIssued n).dropLa n 0).tileEvent t 0x64 1).tileEvent t 0x65 1)
        | .ok ai =>
          let (bs, s1) := (lineParts (len / 64 + 2) ai.toNat len).foldl (fun q l =>
            match q.1 with
            | none => q
            | some b => match q.2.lookAhead n l.1 l.2 with
              | (some x, st) => (some (b ++ x), st)
              | (none, st) => (none, st)) (if ai < 0 then none else some [], r.2)
          let s2 := s1.tileEvent t 0x64 1
          match bs with
          | some b => ({ r.1 with laIssued := r.1.laIssued + 1,
                                  staged := r.1.staged ++ [⟨i, b, s.tagOf n ai.toNat⟩] }, s2)
          | none => ({ r.1 with laIssued := r.1.laIssued + 1, laDropped := r.1.laDropped + 1 }, s2.tileEvent t 0x65 1))
      ({ run with laNext := max first past }, s)

def State.gxGo (s : State) (n t : Nat) (eng : Bool) (run : GxRun) (remote : List (Nat × SpanReply))
    (bad : Option (Nat × Integ)) : State :=
  let (r1, s1) := s.gxRun n t eng run remote bad (Gx.count run.desc.bits)
  let (r2, s2) := s1.gxWindow n t r1
  (s2.setGx t eng { (s2.tile t).gx eng with run := some r2 }).beatTouch t

/-- The compartment whose engines of a tile may work. -/
def State.engineComp (s : State) (t : Nat) : Option Nat :=
  match s.compOfTile t with
  | some n => if s.running n && (s.tile t).dom = .on && !s.fenced t then some n else none
  | none => none

/-- GX_DESC_EXECUTE (R162): the next descriptor of the engine starts, or one paused outside ring mode goes on. -/
def execGxDescExecute (t : TileNo) (eng : Bool) (remote : List (Nat × SpanReply)) (bad : Option (Nat × Integ))
    (s : State) : Host.Outcome State Fault Refusal :=
  let k := t.val
  let g := (s.tile k).gx eng
  match s.engineComp k with
  | none => ok s
  | some n =>
    match g.run, g.queue with
    | some r, _ => ok (s.gxGo n k eng r remote bad)
    | none, d :: rest =>
      let r : GxRun := { desc := d, next := 0, staged := [], laNext := 0, laIssued := 0, laDropped := 0, examples := 0, mixed := false,
                         seen := [], status := 0, faultIdx := 0, faultSpan := 0 }
      let s1 := (s.setGx k eng { queue := rest, run := some r }).unstall k (if eng then .gather1 else .gather0)
      ok (s1.gxGo n k eng r remote bad)
    | none, [] => ok s

/-- GX_RING_ADVANCE (R164): the consumer has advanced, so staged and demand elements are written and the window moves. -/
def execGxRingAdvance (t : TileNo) (eng : Bool) (remote : List (Nat × SpanReply)) (bad : Option (Nat × Integ))
    (s : State) : Host.Outcome State Fault Refusal :=
  match s.engineComp t.val, ((s.tile t.val).gx eng).run with
  | some n, some r => if Gx.ring r.desc.bits then ok (s.gxGo n t.val eng r remote bad) else ok s
  | _, _ => ok s

/-- The record of R168. -/
def gxRecord (r : GxRun) (stamp t : Nat) : Nat :=
  pack [(0, r.status), (16, b2n r.mixed), (32, r.next), (64, r.laIssued), (96, r.laDropped), (128, Gx.opTag r.desc.bits),
        (160, stamp), (192, r.faultSpan), (256, r.faultIdx), (288, r.examples), (320, t)]

/-- Lines of a descriptor's elements are held at their pages. -/
def State.gxHeld (s : State) (n t : Nat) (eng : Bool) : Bool :=
  (s.comp n).held.any fun h => match h.src with
    | .gather k e _ => k = t && e = eng
    | _ => false

/-- GX_COMPLETE (R167): with no write of its own held (R235), the record, the peg, and the event to the posting thread when the
status is not 0 (R146). -/
def execGxComplete (t : TileNo) (eng : Bool) (s : State) : Host.Outcome State Fault Refusal :=
  let k := t.val
  let g := (s.tile k).gx eng
  match s.engineComp k, g.run with
  | some n, some r =>
    let d := r.desc.bits
    if (r.next < Gx.count d && r.status = 0) || s.gxHeld n k eng then ok s
    else
      let s1 := (s.setGx k eng { g with run := none }).tsWrite k (Gx.recAddr d) (leBytes 64 (gxRecord r s.stamp k))
      let s2 := if Gx.pegEn d then s1.unitPost n (Gx.peg d) else s1
      let s3 := if r.status ≠ 0 then s2.signal r.desc.poster (if eng then 3 else 2) r.status (Gx.recAddr d) else s2
      ok ((if r.status = 0x0407 || r.status = 0x0408 || r.status = 0x0409 then s3.fault r.status n k else s3).tileEvent k
        0x61 1)
  | _, _ => ok s

end Sys2Proof.Machine
end

