-- ==== Sys2Proof/Machine/Riscv.lean ====
section
/-! DEFINITION. RV64IMAFC with Zicsr and Zifencei as the prep cores run it (R134-R140): the expansion of compressed
instructions, and what each instruction does to a thread's own registers, as one effect. -/

namespace Sys2Proof.Machine
open Sys2Proof

def Thread.xr (t : Thread) (r : Nat) : Nat := if r = 0 then 0 else (kget 0 t.x r).toNat
def Thread.fr (t : Thread) (r : Nat) : Nat := (kget 0 t.f r).toNat

/-- A value sign-extended from n bits to 64. -/
def sext (n w : Nat) : Nat := unsigned 64 (signed n w)

/-! Compressed instructions (C extension). -/

def encI (op rd f3 rs1 imm : Nat) : Nat := pack [(0, op), (7, rd), (12, f3), (15, rs1), (20, imm % 4096)]
def encR (op rd f3 rs1 rs2 f7 : Nat) : Nat := pack [(0, op), (7, rd), (12, f3), (15, rs1), (20, rs2), (25, f7)]
def encS (op f3 rs1 rs2 imm : Nat) : Nat :=
  pack [(0, op), (7, imm % 32), (12, f3), (15, rs1), (20, rs2), (25, imm / 32 % 128)]
def encB (f3 rs1 rs2 imm : Nat) : Nat :=
  pack [(0, 0x63), (7, fld imm 11 11), (8, fld imm 4 1), (12, f3), (15, rs1), (20, rs2), (25, fld imm 10 5),
        (31, fld imm 12 12)]
def encJ (rd imm : Nat) : Nat :=
  pack [(0, 0x6F), (7, rd), (12, fld imm 19 12), (20, fld imm 11 11), (21, fld imm 10 1), (31, fld imm 20 20)]

/-- An immediate gathered from (low bit of the immediate, high bit, low bit of the instruction). -/
def gather (c : Nat) (fs : List (Nat × Nat × Nat)) : Nat := pack (fs.map fun f => (f.1, fld c f.2.1 f.2.2))

def expandQ0 (c : Nat) : Option Nat :=
  let rd := 8 + fld c 4 2
  let rs1 := 8 + fld c 9 7
  let w := gather c [(2, 6, 6), (3, 12, 10), (6, 5, 5)]
  let d := gather c [(3, 12, 10), (6, 6, 5)]
  match fld c 15 13 with
  | 0 =>
    let imm := gather c [(2, 6, 6), (3, 5, 5), (4, 12, 11), (6, 10, 7)]
    if imm = 0 then none else some (encI 0x13 rd 0 2 imm)
  | 2 => some (encI 0x03 rd 2 rs1 w)
  | 3 => some (encI 0x03 rd 3 rs1 d)
  | 6 => some (encS 0x23 2 rs1 rd w)
  | 7 => some (encS 0x23 3 rs1 rd d)
  | _ => none

def expandQ1 (c : Nat) : Option Nat :=
  let rd := fld c 11 7
  let imm6 := sext 6 (gather c [(0, 6, 2), (5, 12, 12)])
  let sh := gather c [(0, 6, 2), (5, 12, 12)]
  let r1 := 8 + fld c 9 7
  let r2 := 8 + fld c 4 2
  match fld c 15 13 with
  | 0 => some (encI 0x13 rd 0 rd imm6)
  | 1 => if rd = 0 then none else some (encI 0x1B rd 0 rd imm6)
  | 2 => some (encI 0x13 rd 0 0 imm6)
  | 3 =>
    if rd = 2 then
      let imm := gather c [(4, 6, 6), (5, 2, 2), (6, 5, 5), (7, 4, 3), (9, 12, 12)]
      if imm = 0 then none else some (encI 0x13 2 0 2 (sext 10 imm))
    else if imm6 = 0 then none
    else some (pack [(0, 0x37), (7, rd), (12, imm6 % 2 ^ 20)])
  | 4 =>
    (match fld c 11 10 with
     | 0 => some (encI 0x13 r1 5 r1 sh)
     | 1 => some (encI 0x13 r1 5 r1 (sh + 0x400))
     | 2 => some (encI 0x13 r1 7 r1 imm6)
     | _ =>
       (match bit c 12, fld c 6 5 with
        | false, 0 => some (encR 0x33 r1 0 r1 r2 0x20)
        | false, 1 => some (encR 0x33 r1 4 r1 r2 0)
        | false, 2 => some (encR 0x33 r1 6 r1 r2 0)
        | false, _ => some (encR 0x33 r1 7 r1 r2 0)
        | true, 0 => some (encR 0x3B r1 0 r1 r2 0x20)
        | true, 1 => some (encR 0x3B r1 0 r1 r2 0)
        | true, _ => none))
  | 5 => some (encJ 0 (sext 12 (gather c [(1, 5, 3), (4, 11, 11), (5, 2, 2), (6, 7, 7), (7, 6, 6), (8, 10, 9), (10, 8, 8),
      (11, 12, 12)])))
  | k =>
    let imm := sext 9 (gather c [(1, 4, 3), (3, 11, 10), (5, 2, 2), (6, 6, 5), (8, 12, 12)])
    some (encB (k - 6) r1 0 imm)

def expandQ2 (c : Nat) : Option Nat :=
  let rd := fld c 11 7
  let rs2 := fld c 6 2
  match fld c 15 13 with
  | 0 => some (encI 0x13 rd 1 rd (gather c [(0, 6, 2), (5, 12, 12)]))
  | 2 => if rd = 0 then none else some (encI 0x03 rd 2 2 (gather c [(2, 6, 4), (5, 12, 12), (6, 3, 2)]))
  | 3 => if rd = 0 then none else some (encI 0x03 rd 3 2 (gather c [(3, 6, 5), (5, 12, 12), (6, 4, 2)]))
  | 4 =>
    if !bit c 12 then
      if rs2 = 0 then (if rd = 0 then none else some (encI 0x67 0 0 rd 0)) else some (encR 0x33 rd 0 0 rs2 0)
    else if rs2 = 0 then (if rd = 0 then some 0x00100073 else some (encI 0x67 1 0 rd 0))
    else some (encR 0x33 rd 0 rd rs2 0)
  | 6 => some (encS 0x23 2 2 rs2 (gather c [(2, 12, 9), (6, 8, 7)]))
  | 7 => some (encS 0x23 3 2 rs2 (gather c [(3, 12, 10), (6, 9, 7)]))
  | _ => none

/-- A 16-bit instruction as the 32-bit one it stands for; none where it is illegal here (D is absent). -/
def expand (c : Nat) : Option Nat :=
  match c % 4 with
  | 0 => expandQ0 c
  | 1 => expandQ1 c
  | 2 => expandQ2 c
  | _ => none

/-! Integer arithmetic (I and M extensions). -/

/-- funct3 operation of OP and OP-IMM on n-bit operands; `alt` is bit 30. -/
def aluOp (n f3 : Nat) (alt : Bool) (a b : Nat) : Nat :=
  let m := 2 ^ n
  let sh := b % n
  match f3 with
  | 0 => if alt then (a + m - b % m) % m else (a + b) % m
  | 1 => (a <<< sh) % m
  | 2 => b2n (decide (signed n a < signed n b))
  | 3 => b2n (decide (a % m < b % m))
  | 4 => (a ^^^ b) % m
  | 5 => if alt then unsigned n (signed n a >>> sh) else (a % m) >>> sh
  | 6 => (a ||| b) % m
  | _ => (a &&& b) % m

/-- funct3 operation of the M extension on n-bit operands, division corners as the extension defines them. -/
def mulOp (n f3 : Nat) (a b : Nat) : Nat :=
  let m := 2 ^ n
  let sa := signed n a
  let sb := signed n b
  match f3 with
  | 0 => (a * b) % m
  | 1 => unsigned n ((sa * sb) >>> n)
  | 2 => unsigned n ((sa * ((b % m : Nat) : Int)) >>> n)
  | 3 => ((a % m) * (b % m)) >>> n % m
  | 4 => if b % m = 0 then m - 1 else unsigned n (Int.tdiv sa sb)
  | 5 => if b % m = 0 then m - 1 else (a % m) / (b % m)
  | 6 => if b % m = 0 then a % m else unsigned n (Int.tmod sa sb)
  | _ => if b % m = 0 then a % m else (a % m) % (b % m)

def branchTaken (f3 a b : Nat) : Option Bool :=
  match f3 with
  | 0 => some (a = b)
  | 1 => some (a ≠ b)
  | 4 => some (decide (signed 64 a < signed 64 b))
  | 5 => some (decide (signed 64 b ≤ signed 64 a))
  | 6 => some (decide (a < b))
  | 7 => some (decide (b ≤ a))
  | _ => none

/-! Single-precision arithmetic (F extension, R139). -/

/-- fflags NV DZ OF UF NX, bits 4 to 0. -/
def FRes.flags (r : FRes) : Nat :=
  pack [(0, b2n r.inexact), (1, b2n r.underflow), (2, b2n r.overflow), (3, b2n r.divzero), (4, b2n r.invalid)]

/-- The rounding an rm field names, through frm where it is dynamic; reserved values are illegal. -/
def rmOf (rm frm : Nat) : Option Rnd :=
  match if rm = 7 then frm else rm with
  | 0 => some .rne
  | 1 => some .rtz
  | 2 => some .rdn
  | 3 => some .rup
  | 4 => some .rmm
  | _ => none

/-- FCLASS.S. -/
def fclass (b : Nat) : Nat :=
  match unpackF f32 b with
  | .inf true => 1
  | .inf false => 128
  | .nan true => 256
  | .nan false => 512
  | .fin n m _ =>
    if m = 0 then (if n then 8 else 16)
    else if f32.expOf b = 0 then (if n then 4 else 32) else if n then 2 else 64

/-- FMIN.S and FMAX.S: one NaN gives the other operand, two give the canonical NaN. -/
def fminmax (mx : Bool) (a b : Nat) : FRes :=
  let x := unpackF f32 a
  let y := unpackF f32 b
  let nv := snanAny [x, y]
  if x.isNan && y.isNan then { bits := f32.nanBits, invalid := nv }
  else if x.isNan then { bits := b, invalid := nv }
  else if y.isNan then { bits := a, invalid := nv }
  else if mx then maxV f32 a b else minV f32 a b

/-- FCVT from binary32 to an integer of n bits: the value and flags. -/
def fToInt (r : Rnd) (n : Nat) (sgn : Bool) (b : Nat) : Nat × Nat :=
  let lo : Int := if sgn then -(2 ^ (n - 1) : Int) else 0
  let hi : Int := if sgn then 2 ^ (n - 1) - 1 else 2 ^ n - 1
  let put (i : Int) : Nat := if n = 32 then sext 32 (unsigned 32 i) else unsigned 64 i
  match unpackF f32 b with
  | .nan _ => (put hi, 16)
  | .inf neg => (put (if neg then lo else hi), 16)
  | .fin neg m e =>
    let (i, ix) := roundInt r neg m e
    if i < lo then (put lo, 16) else if hi < i then (put hi, 16) else (put i, b2n ix)

/-! One instruction. -/

/-- What an instruction does: to its registers and pc alone, or an access or operation the tile performs. -/
inductive RvEff where
  | wx (rd v : Nat)
  | wxFlags (rd v flags : Nat)
  | wf (rd v flags : Nat)
  | jump (rd target : Nat)
  | branch (taken : Bool) (target : Nat) (backward : Bool)
  | load (rd addr log2 : Nat) (uns float : Bool)
  | store (addr log2 data : Nat)
  | amo (op : AmoOp) (rd addr : Nat) (wide : Bool) (data : Nat) (aq rl : Bool)
  | lr (rd addr : Nat) (wide aq : Bool)
  | sc (rd addr : Nat) (wide : Bool) (data : Nat) (rl : Bool)
  | fence (pred succ : Nat)
  | csr (rd num f3 src : Nat) (writes : Bool)
  | dispatch (f3 f7 rd rs1 rs2 : Nat)
  | trap
  | illegal
  deriving DecidableEq, Repr

def immI (i : Nat) : Nat := sext 12 (fld i 31 20)
def immS (i : Nat) : Nat := sext 12 (fld i 31 25 * 32 + fld i 11 7)
def immB (i : Nat) : Nat := sext 13 (pack [(1, fld i 11 8), (5, fld i 30 25), (11, fld i 7 7), (12, fld i 31 31)])
def immU (i : Nat) : Nat := sext 32 (fld i 31 12 * 4096)
def immJ (i : Nat) : Nat := sext 21 (pack [(1, fld i 30 21), (11, fld i 20 20), (12, fld i 19 12), (20, fld i 31 31)])
def add64 (a b : Nat) : Nat := (a + b) % 2 ^ 64

def amoOf (f5 : Nat) : Option AmoOp :=
  match f5 with
  | 0 => some .add
  | 1 => some .swap
  | 4 => some .xor
  | 8 => some .or
  | 12 => some .and
  | 16 => some .min
  | 20 => some .max
  | 24 => some .minu
  | 28 => some .maxu
  | _ => none

/-- OP-FP (opcode 1010011), single precision only. -/
def rvFp (t : Thread) (i : Nat) : RvEff :=
  let rd := fld i 11 7
  let a := t.fr (fld i 19 15)
  let b := t.fr (fld i 24 20)
  let k := fld i 24 20
  let f3 := fld i 14 12
  let x := unpackF f32 a
  let y := unpackF f32 b
  let rnd (g : Rnd → RvEff) : RvEff := match rmOf f3 (fld t.fcsr 7 5) with
    | some r => g r
    | none => .illegal
  let put (r : FRes) : RvEff := .wf rd r.bits r.flags
  match fld i 31 25 with
  | 0x00 => rnd fun r => put (addV f32 r x y)
  | 0x04 => rnd fun r => put (addV f32 r x (negV y))
  | 0x08 => rnd fun r => put (mulV f32 r x y)
  | 0x0C => rnd fun r => put (divV f32 r x y)
  | 0x2C => if k ≠ 0 then .illegal else rnd fun r => put (sqrtV f32 r x)
  | 0x10 =>
    let s := b / 2 ^ 31
    let m := a % 2 ^ 31
    (match f3 with
     | 0 => .wf rd (s * 2 ^ 31 + m) 0
     | 1 => .wf rd ((1 - s) * 2 ^ 31 + m) 0
     | 2 => .wf rd (((a / 2 ^ 31) ^^^ s) * 2 ^ 31 + m) 0
     | _ => .illegal)
  | 0x14 => if f3 = 0 then put (fminmax false a b) else if f3 = 1 then put (fminmax true a b) else .illegal
  | 0x50 =>
    let un := x.isNan || y.isNan
    (match f3 with
     | 2 => .wxFlags rd (b2n (!un && eqV x y)) (16 * b2n (snanAny [x, y]))
     | 1 => .wxFlags rd (b2n (!un && ltV x y)) (16 * b2n un)
     | 0 => .wxFlags rd (b2n (!un && (ltV x y || eqV x y))) (16 * b2n un)
     | _ => .illegal)
  | 0x60 => rnd fun r =>
    if 3 < k then .illegal
    else
      let (v, fl) := fToInt r (if k < 2 then 32 else 64) (k % 2 = 0) a
      .wxFlags rd v fl
  | 0x68 => rnd fun r =>
    let v := t.xr (fld i 19 15)
    (match k with
     | 0 => put (ofInt f32 r (signed 32 v))
     | 1 => put (ofInt f32 r (v % 2 ^ 32 : Nat))
     | 2 => put (ofInt f32 r (signed 64 v))
     | 3 => put (ofInt f32 r (v : Nat))
     | _ => .illegal)
  | 0x70 => if k ≠ 0 then .illegal else if f3 = 0 then .wx rd (sext 32 a) else if f3 = 1 then .wx rd (fclass a) else .illegal
  | 0x78 => if k ≠ 0 || f3 ≠ 0 then .illegal else .wf rd (t.xr (fld i 19 15) % 2 ^ 32) 0
  | _ => .illegal

/-- SYSTEM (opcode 1110011): ECALL, EBREAK and the CSR instructions. -/
def rvSystem (t : Thread) (i : Nat) : RvEff :=
  let f3 := fld i 14 12
  let rs1 := fld i 19 15
  if f3 = 0 then (if i = 0x73 || i = 0x00100073 then .trap else .illegal)
  else if f3 = 4 then .illegal
  else .csr (fld i 11 7) (fld i 31 20) (f3 % 4) (if f3 < 4 then t.xr rs1 else rs1) (f3 % 4 = 1 || rs1 ≠ 0)

/-- The effect of a 32-bit instruction at pc of length len, on a thread's registers as they stand. -/
def rvEff (t : Thread) (i len : Nat) : RvEff :=
  let rd := fld i 11 7
  let f3 := fld i 14 12
  let f7 := fld i 31 25
  let a := t.xr (fld i 19 15)
  let b := t.xr (fld i 24 20)
  let pc := t.pc.toNat
  let w (v : Nat) : RvEff := .wx rd v
  match i % 128 with
  | 0x37 => w (immU i)
  | 0x17 => w (add64 pc (immU i))
  | 0x6F => .jump rd (add64 pc (immJ i))
  | 0x67 => if f3 = 0 then .jump rd (add64 a (immI i) / 2 * 2) else .illegal
  | 0x63 =>
    (match branchTaken f3 a b with
     | some k => .branch k (if k then add64 pc (immB i) else add64 pc len) (bit i 31)
     | none => .illegal)
  | 0x03 => if f3 = 7 then .illegal else .load rd (add64 a (immI i)) (f3 % 4) (decide (4 ≤ f3)) false
  | 0x07 => if f3 = 2 then .load rd (add64 a (immI i)) 2 true true else .illegal
  | 0x23 => if f3 < 4 then .store (add64 a (immS i)) f3 (b % 2 ^ (8 * 2 ^ f3)) else .illegal
  | 0x27 => if f3 = 2 then .store (add64 a (immS i)) 2 (t.fr (fld i 24 20)) else .illegal
  | 0x13 =>
    if f3 = 1 then (if fld i 31 26 = 0 then w (aluOp 64 1 false a (fld i 25 20)) else .illegal)
    else if f3 = 5 then
      (if fld i 31 26 = 0 then w (aluOp 64 5 false a (fld i 25 20))
       else if fld i 31 26 = 0x10 then w (aluOp 64 5 true a (fld i 25 20)) else .illegal)
    else w (aluOp 64 f3 false a (immI i))
  | 0x1B =>
    let w32 (v : Nat) : RvEff := w (sext 32 v)
    if f3 = 0 then w32 (aluOp 32 0 false a (immI i))
    else if f3 = 1 && f7 = 0 then w32 (aluOp 32 1 false a (fld i 24 20))
    else if f3 = 5 && f7 = 0 then w32 (aluOp 32 5 false a (fld i 24 20))
    else if f3 = 5 && f7 = 0x20 then w32 (aluOp 32 5 true a (fld i 24 20))
    else .illegal
  | 0x33 =>
    if f7 = 1 then w (mulOp 64 f3 a b)
    else if f7 = 0 then w (aluOp 64 f3 false a b)
    else if f7 = 0x20 && (f3 = 0 || f3 = 5) then w (aluOp 64 f3 true a b)
    else .illegal
  | 0x3B =>
    if f7 = 1 && (f3 = 0 || 4 ≤ f3) then w (sext 32 (mulOp 32 f3 a b))
    else if f7 = 0 && (f3 = 0 || f3 = 1 || f3 = 5) then w (sext 32 (aluOp 32 f3 false a b))
    else if f7 = 0x20 && (f3 = 0 || f3 = 5) then w (sext 32 (aluOp 32 f3 true a b))
    else .illegal
  | 0x0F => if f3 = 0 then .fence (fld i 27 24) (fld i 23 20) else if f3 = 1 then .fence 3 3 else .illegal
  | 0x2F =>
    let wide := f3 = 3
    if f3 ≠ 2 && f3 ≠ 3 then .illegal
    else if fld i 31 27 = 2 then (if fld i 24 20 = 0 then .lr rd a wide (bit i 26) else .illegal)
    else if fld i 31 27 = 3 then .sc rd a wide b (bit i 25)
    else (match amoOf (fld i 31 27) with
      | some op => .amo op rd a wide b (bit i 26) (bit i 25)
      | none => .illegal)
  | 0x43 => rvFma t i false false
  | 0x47 => rvFma t i false true
  | 0x4B => rvFma t i true false
  | 0x4F => rvFma t i true true
  | 0x53 => rvFp t i
  | 0x73 => rvSystem t i
  | 0x0B => .dispatch f3 f7 rd (fld i 19 15) (fld i 24 20)
  | _ => .illegal
where
  /-- FMADD, FMSUB, FNMSUB, FNMADD. -/
  rvFma (t : Thread) (i : Nat) (negProd negAdd : Bool) : RvEff :=
    let x := unpackF f32 (t.fr (fld i 19 15))
    let y := unpackF f32 (t.fr (fld i 24 20))
    let z := unpackF f32 (t.fr (fld i 31 27))
    if fld i 26 25 ≠ 0 then .illegal
    else match rmOf (fld i 14 12) (fld t.fcsr 7 5) with
      | none => .illegal
      | some r =>
        let v := fmaV f32 r (if negProd then negV x else x) y (if negAdd then negV z else z)
        .wf (fld i 11 7) v.bits v.flags

/-- Integer and float registers an instruction reads, for the invalid marks of run-ahead (R158). -/
def rvReads (i : Nat) : List Nat × List Nat :=
  let r1 := fld i 19 15
  let r2 := fld i 24 20
  match i % 128 with
  | 0x37 => ([], [])
  | 0x17 => ([], [])
  | 0x6F => ([], [])
  | 0x67 => ([r1], [])
  | 0x03 => ([r1], [])
  | 0x07 => ([r1], [])
  | 0x13 => ([r1], [])
  | 0x1B => ([r1], [])
  | 0x27 => ([r1], [r2])
  | 0x43 => ([], [r1, r2, fld i 31 27])
  | 0x47 => ([], [r1, r2, fld i 31 27])
  | 0x4B => ([], [r1, r2, fld i 31 27])
  | 0x4F => ([], [r1, r2, fld i 31 27])
  | 0x53 =>
    let f7 := fld i 31 25
    if f7 = 0x68 || f7 = 0x78 then ([r1], [])
    else if f7 = 0x2C || f7 = 0x60 || f7 = 0x70 then ([], [r1]) else ([], [r1, r2])
  | _ => ([r1, r2], [])

/-- Whether the destination is a float register. -/
def rvWritesF (i : Nat) : Bool :=
  let o := i % 128
  o = 0x07 || o = 0x43 || o = 0x47 || o = 0x4B || o = 0x4F ||
    (o = 0x53 && (let f7 := fld i 31 25; f7 ≠ 0x50 && f7 ≠ 0x60 && f7 ≠ 0x70))

end Sys2Proof.Machine
end

