-- ==== Sys2Proof/Machine/VxTypes.lean ====
section
/-! DEFINITION. The vector engine's element types, operations and conversions on one lane (chapter 04, R98, R101,
R108, R110-R115, R121). A lane value is its raw bits; SFP16 is the stored value in [15:0] and E in [24:16]. -/

namespace Sys2Proof.Machine
open Sys2Proof

/-! Element types (R101). -/

def tFP32 : Nat := 0
def tFP16 : Nat := 1
def tSFP16 : Nat := 2
def tINT32 : Nat := 3
def tINT16 : Nat := 4
def tINT8 : Nat := 5
def tUINT8 : Nat := 6
def tKINT8 : Nat := 7
def tBOOL : Nat := 8

def isFlt (ty : Nat) : Bool := ty = tFP32 || ty = tFP16
def isNumeric (ty : Nat) : Bool := isFlt ty || (3 ≤ ty && ty ≤ 6)
def isInt (ty : Nat) : Bool := 3 ≤ ty && ty ≤ 6
def tyWidth (ty : Nat) : Nat :=
  if ty = tFP32 || ty = tINT32 then 32 else if ty = tFP16 || ty = tINT16 then 16 else if ty = tSFP16 then 25
  else if ty = tBOOL then 1 else 8
/-- Bytes of an element in a LINEAR stream; BOOL counts 1 for one packed byte. -/
def tyBytes (ty : Nat) : Nat := if ty = tBOOL then 1 else tyWidth ty / 8
def tyFmt (ty : Nat) : Fmt := if ty = tFP32 then f32 else f16
def tySigned (ty : Nat) : Bool := ty ≠ tUINT8 && ty ≠ tBOOL

/-- The raw count of an integer, KINT8 or BOOL value. -/
def vInt (ty raw : Nat) : Int := if tySigned ty then signed (tyWidth ty) raw else (raw % 2 ^ tyWidth ty : Nat)

/-- The real value of a lane (R64, R101, R113). -/
def vReal (ty raw : Nat) : FVal :=
  if isFlt ty then unpackF (tyFmt ty) raw
  else if ty = tSFP16 then
    match unpackF f16 (raw % 65536) with
    | .fin n m e => .fin n m (e + sfld raw 24 16)
    | v => v
  else
    let i := vInt ty raw
    .fin (decide (i < 0)) i.natAbs (if ty = tKINT8 then -8 else 0)

def vIsNan (ty raw : Nat) : Bool := (vReal ty raw).isNan
def vIsInf (ty raw : Nat) : Bool := (vReal ty raw).isInf

/-- The canonical NaN of a type (R129). -/
def vNan (ty : Nat) : Nat := (tyFmt ty).nanBits

/-- A value as it is read into the engine: canonical NaN, a signalling one invalid (R129). -/
def vRead (ty raw : Nat) (g : EFlags) : Nat × EFlags :=
  let v := vReal ty raw
  if v.isNan then
    ((if ty = tSFP16 then raw - raw % 65536 + f16.nanBits else vNan ty), { g with invalid := g.invalid || v.isSnan })
  else (raw, g)

/-! Integer results (R115). -/

def tyLo (ty : Nat) : Int := if tySigned ty then -(2 ^ (tyWidth ty - 1) : Int) else 0
def tyHi (ty : Nat) : Int := if tySigned ty then 2 ^ (tyWidth ty - 1) - 1 else 2 ^ tyWidth ty - 1

/-- An integer brought into its type: wrapped, or saturated and counted. -/
def vFix (ty : Nat) (sat : Bool) (i : Int) (g : EFlags) : Nat × EFlags :=
  if tyLo ty ≤ i && i ≤ tyHi ty then (unsigned (tyWidth ty) i, g)
  else if sat then (unsigned (tyWidth ty) (if i < 0 then tyLo ty else tyHi ty), { g with sat := g.sat + 1 })
  else (unsigned (tyWidth ty) i, g)

/-- A float result with SAT: an overflow becomes the largest finite and is counted, else sets OVERFLOW (R115). -/
def vFloat (ty : Nat) (sat : Bool) (r : FRes) (g : EFlags) : Nat × EFlags :=
  let f := tyFmt ty
  if r.overflow && sat then (f.maxBits (f.signOf r.bits), { g with sat := g.sat + 1, invalid := g.invalid || r.invalid })
  else (r.bits, g.merge r)

/-- The rounding of a stage or stream (R114). -/
def rndOf (rnd draw : Nat) : Rnd :=
  if rnd = 1 then .rtz else if rnd = 2 then .rdn else if rnd = 3 then .rup else if rnd = 4 then .sr draw else .rne

/-! EXP2, LOG2, RCP, RSQRT (R111). -/

/-- 2^(2^-i) for i = 1..64 in 80-bit fixed point, by repeated square roots. -/
def expRoots : Nat → Nat → List Nat
  | 0, _ => []
  | n + 1, c =>
    let r := isqrt (c <<< 80)
    r :: expRoots n r

/-- 2^(f / 2^64) in 80-bit fixed point, for f below 2^64. -/
def exp2Fix (f : Nat) : Nat :=
  ((expRoots 64 (2 ^ 81)).zip (List.range 64)).foldl
    (fun a p => if f.testBit (63 - p.2) then (a * p.1) >>> 80 else a) (2 ^ 80)

/-- The 64 fractional bits of log2 y, y in [1, 2) in 80-bit fixed point, by repeated squaring. -/
def log2Fix : Nat → Nat → Nat → Nat
  | 0, _, acc => acc
  | n + 1, y, acc =>
    let y2 := (y * y) >>> 80
    if y2 ≥ 2 ^ 81 then log2Fix n (y2 / 2) (2 * acc + 1) else log2Fix n y2 (2 * acc)

/-- A magnitude q * 2^e, with sticky telling whether more follows below q, truncated into a format. -/
def truncTo (f : Fmt) (q : Nat) (sticky : Bool) (e : Int) : FRes := roundF f .rtz false (2 * q + b2n sticky) (e - 1)

/-- The truncation of the exact result of a function, and whether it is exact: op 0x14 EXP2, 0x15 LOG2, 0x16 RCP,
0x17 RSQRT of (-1)^neg * m * 2^e, m not 0; the sign of the result beside. -/
def funcTrunc (f : Fmt) (op : Nat) (neg : Bool) (m : Nat) (e : Int) : FRes × Bool × Bool :=
  if op = 0x14 then
    if e ≥ 0 || m % 2 ^ (-e).toNat = 0 then
      let i : Int := if e ≥ 0 then (m <<< (min e.toNat 16) : Nat) else (m >>> (-e).toNat : Nat)
      let i := clampI (if neg then -i else i) (-100000) 100000
      (truncTo f 1 false i, true, false)
    else
      let k := (-e).toNat
      let ip : Int := (m >>> k : Nat)
      let fr := m % 2 ^ k
      let fx := if k ≤ 64 then fr <<< (64 - k) else max 1 (fr >>> (k - 64))
      let (ip, fx) := if neg then (-ip - 1, 2 ^ 64 - fx) else (ip, fx)
      (truncTo f (exp2Fix fx) true (clampI ip (-100000) 100000 - 80), false, false)
  else if op = 0x15 then
    let l : Int := e + bitLen m - 1
    let y := m <<< (81 - bitLen m)
    let v : Int := l * 2 ^ 64 + log2Fix 64 y 0
    let exact := decide (m = 2 ^ (bitLen m - 1))
    let mag := if exact || 0 ≤ v then v.natAbs else v.natAbs - 1
    (truncTo f mag (!exact) (-64), exact, decide (v < 0))
  else if op = 0x16 then
    let sh := 2 * bitLen m + f.mb + 20
    let q := 2 ^ sh / m
    (truncTo f q (decide (2 ^ sh % m ≠ 0)) (-e - sh), false, neg)
  else
    let odd := (e % 2).toNat
    let mm := m <<< odd
    let sh := 2 * (bitLen mm + f.mb + 20)
    let z := 2 ^ sh / mm
    let q := isqrt z
    (truncTo f q (decide (q * q * mm ≠ 2 ^ sh)) (-(e - odd) / 2 - (sh / 2 : Nat)), false, false)
where
  clampI (x lo hi : Int) : Int := if x < lo then lo else if hi < x then hi else x

/-- A result that an error bound leaves open: the truncation moved by one of the places the bound admits, as the free
value chooses; never past the largest finite pattern nor below zero. -/
def openUlp (f : Fmt) (op draw : Nat) (t : FRes) : Nat :=
  let up :=
    if f = f32 && (op = 0x14 || op = 0x15) then t.bits + draw % 4 - 1
    else if t.inexact then t.bits + draw % 2
    else t.bits + draw % 3 - 1
  min up (f.maxBits false)

/-- One of EXP2, LOG2, RCP, RSQRT on a lane, `free` a free value (R111, R129). -/
def vFunc (op ty : Nat) (sat : Bool) (raw free : Nat) (g : EFlags) : Nat × EFlags :=
  let f := tyFmt ty
  let sgn (n : Bool) : Nat := b2n n <<< (f.eb + f.mb)
  match unpackF f raw with
  | .nan s => (f.nanBits, { g with invalid := g.invalid || s })
  | .inf n =>
    if op = 0x14 then (if n then (0, g) else (f.infBits false, g))
    else if op = 0x16 then (sgn n, g)
    else if n then (f.nanBits, { g with invalid := true })
    else if op = 0x15 then (f.infBits false, g) else (0, g)
  | .fin n m e =>
    if m = 0 then
      if op = 0x14 then ((truncTo f 1 false 0).bits, g)
      else (f.infBits (if op = 0x15 then true else n), { g with divzero := true })
    else if n && (op = 0x15 || op = 0x17) then (f.nanBits, { g with invalid := true })
    else
      let (t, exact, neg) := funcTrunc f op n m e
      if t.overflow then vFloat ty sat { bits := f.infBits neg, overflow := true } g
      else if exact && !t.inexact then (t.bits + (if t.bits = 0 then 0 else sgn neg), g)
      else
        let b := openUlp f op free t
        (b + (if b = 0 && op ≠ 0x16 then 0 else sgn neg), g)

/-! Conversions (R112, R113); the letter S is block-wise and stands with the stages. -/

/-- The letter of a conversion: 0 same type, 1 X, 2 W, 3 F, 4 S, 5 I, 6 K, 7 N, 8 U, 9 Z, 10 B. -/
def cvtLetter (a d : Nat) : Nat :=
  let rows : List (List Nat) :=
    [[0, 3, 4, 5, 5, 5, 5, 6, 9], [1, 0, 4, 5, 5, 5, 5, 6, 9], [3, 3, 4, 5, 5, 5, 5, 6, 9],
     [3, 3, 4, 0, 7, 7, 8, 7, 9], [1, 3, 4, 2, 0, 7, 8, 7, 9], [1, 1, 4, 2, 2, 0, 8, 1, 9],
     [1, 1, 4, 2, 2, 7, 0, 7, 9], [1, 1, 4, 2, 2, 1, 8, 0, 9], [10, 10, 10, 10, 10, 10, 10, 10, 0]]
  ((rows.drop a).headD []).drop d |>.headD 0

/-- A real value rounded to an integer type after scaling by 2^sh, saturated and counted (I and K). -/
def vToInt (ty : Nat) (r : Rnd) (v : FVal) (sh : Int) (g : EFlags) : Nat × EFlags :=
  match v with
  | .nan _ => (0, { g with invalid := true })
  | .inf n => vFix ty true (if n then tyLo ty - 1 else tyHi ty + 1) g
  | .fin n m e => vFix ty true (roundInt r n m (e + sh)).1 g

/-- CVT of one value, but for the letter S. -/
def vCvt (a d : Nat) (r : Rnd) (sat : Bool) (raw : Nat) (g : EFlags) : Nat × EFlags :=
  let l := cvtLetter a d
  if l = 1 || l = 3 then
    if isFlt d then vFloat d sat (cvtV (tyFmt d) r (vReal a raw)) g else vFix d false (vInt a raw) g
  else if l = 2 then vFix d false (vInt a raw) g
  else if l = 5 then vToInt d r (vReal a raw) 0 g
  else if l = 6 then vToInt d r (vReal a raw) 8 g
  else if l = 7 || l = 8 then vFix d sat (vInt a raw) g
  else if l = 9 then (b2n (!(vReal a raw).isZero), g)
  else if l = 10 then
    (if raw = 0 then 0 else if d = tFP32 then 0x3F800000 else if d = tFP16 || d = tSFP16 then 0x3C00 else 1, g)
  else (raw, g)

/-! Arithmetic of one lane (R110). -/

def vIntOp (op ty : Nat) (sat : Bool) (a b c : Nat) (g : EFlags) : Nat × EFlags :=
  let w := tyWidth ty
  let x := vInt ty a
  let y := vInt ty b
  let z := vInt ty c
  let raw (i : Int) : Nat × EFlags := (unsigned w i, g)
  if op = 0x08 then vFix ty sat (x + y) g
  else if op = 0x09 then vFix ty sat (x - y) g
  else if op = 0x0A then vFix ty sat (x * y) g
  else if op = 0x0C then raw (min x y)
  else if op = 0x0D then raw (max x y)
  else if op = 0x0E then vFix ty sat x.natAbs g
  else if op = 0x0F then vFix ty sat (-x) g
  else if op = 0x10 then raw (min (max x y) z)
  else if op = 0x30 then (a &&& b, g)
  else if op = 0x31 then (a ||| b, g)
  else if op = 0x32 then (a ^^^ b, g)
  else if op = 0x33 then (2 ^ w - 1 - a % 2 ^ w, g)
  else if op = 0x34 then (if b ≥ w then 0 else (a <<< b) % 2 ^ w, g)
  else raw (if b ≥ w then (if x < 0 then -1 else 0) else x / 2 ^ b)

def vFltOp (op ty : Nat) (r : Rnd) (sat : Bool) (free a b c : Nat) (g : EFlags) : Nat × EFlags :=
  let f := tyFmt ty
  let x := unpackF f a
  let y := unpackF f b
  let z := unpackF f c
  let fin (q : FRes) : Nat × EFlags := vFloat ty sat q g
  if op = 0x08 then fin (addV f r x y)
  else if op = 0x09 then fin (addV f r x (negV y))
  else if op = 0x0A then fin (mulV f r x y)
  else if op = 0x0B then fin (fmaV f r x y z)
  else if op = 0x0C then fin (minV f a b)
  else if op = 0x0D then fin (maxV f a b)
  else if op = 0x0E then (if x.isNan then (f.nanBits, g) else (a % 2 ^ (f.eb + f.mb), g))
  else if op = 0x0F then (if x.isNan then (f.nanBits, g) else (a ^^^ 2 ^ (f.eb + f.mb), g))
  else if op = 0x10 then fin (minV f (maxV f a b).bits c)
  else if op = 0x18 then fin (sqrtV f r x)
  else vFunc op ty sat a free g

def vCmp (op ty a b : Nat) : Nat :=
  let x := vReal ty a
  let y := vReal ty b
  if x.isNan || y.isNan then b2n (op = 0x23)
  else if op = 0x20 then b2n (eqV x y)
  else if op = 0x21 then b2n (ltV x y)
  else if op = 0x22 then b2n (ltV x y || eqV x y)
  else b2n (!eqV x y)

/-! KERF (R121). -/

/-- Exponent of one unit in the last place of a stored FP16 value. -/
def ulpExp (stored : Nat) : Int := if f16.expOf stored = 0 then -24 else (f16.expOf stored : Int) - 25

/-- What a KERF lane gives: the new weight, the new kerf, the flags, and |x| where a finite x saturated the weight. -/
def vKerf (ty : Nat) (r : Rnd) (w k u : Nat) (g : EFlags) : Nat × Nat × EFlags × Option (Nat × Int) :=
  let e : Int := if ty = tSFP16 then sfld w 24 16 else 0
  let st := w % 65536
  let back (v : Nat) : Nat := if ty = tSFP16 then w - st + v else v
  let ki := vInt tKINT8 k
  let kq : FVal := .fin (decide (ki < 0)) ki.natAbs (ulpExp st + e - 8)
  let part : FVal := match vReal ty w, kq with
    | .fin n1 m1 e1, .fin n2 m2 e2 =>
      let (sm, se) := addExact n1 m1 e1 n2 m2 e2
      .fin (if sm = 0 then n1 && n2 else decide (sm < 0)) sm.natAbs se
    | v, _ => v
  let res := addV f32 .rne part (unpackF f32 u)
  let g1 := g.merge res
  match unpackF f32 res.bits with
  | .nan _ => (back f16.nanBits, 0, { g1 with nan := true, invalid := true }, none)
  | .inf n => (back (f16.maxBits n), unsigned 8 (if n then -128 else 127),
      { g1 with sat := g1.sat + 1, kerfClamp := true, kerfs := g1.kerfs + 1 }, none)
  | .fin n m x =>
    let q := roundF f16 .rne n m (x - e)
    let nw := if q.overflow then f16.maxBits n else q.bits
    let g2 := if q.overflow then { g1 with sat := g1.sat + 1 } else g1
    let (dm, de) := match unpackF f16 nw with
      | .fin n2 m2 e2 => addExact n m x (!n2) m2 (e2 + e)
      | _ => (0, 0)
    let kn := (roundInt r (decide (dm < 0)) dm.natAbs (de + 8 - ulpExp nw - e)).1
    let out := decide (kn > 127) || decide (kn < -128)
    let kc := if kn > 127 then 127 else if kn < -128 then -128 else kn
    (back nw, unsigned 8 kc,
      if out then { g2 with kerfClamp := true, kerfs := g2.kerfs + 1 } else g2,
      if q.overflow then some (m, x) else none)

/-- One lane of a stage other than KERF, CVT to SFP16 and the reductions. -/
def vLane (op ty ta : Nat) (r : Rnd) (sat : Bool) (free a b c : Nat) (g : EFlags) : Nat × EFlags :=
  if op = 0x01 then (a, g)
  else if op = 0x02 then vCvt ta ty r sat a g
  else if op = 0x28 then (if c ≠ 0 then a else b, g)
  else if 0x20 ≤ op && op ≤ 0x23 then (vCmp op ty a b, g)
  else if op = 0x24 then (b2n (vIsNan ty a || vIsInf ty a), g)
  else if isFlt ty then vFltOp op ty r sat free a b c g
  else vIntOp op ty sat a b c g

/-! What each operation takes (R110, R111, R119, R120). Type 14 stands for any, 15 for an operand not used. -/

def vAny : Nat := 14
def vNone : Nat := 15

/-- Whether an operation code is listed. -/
def opListed (op : Nat) : Bool :=
  op = 1 || op = 2 || (0x08 ≤ op && op ≤ 0x10) || (0x14 ≤ op && op ≤ 0x18) || (0x20 ≤ op && op ≤ 0x24) || op = 0x28 ||
    (0x30 ≤ op && op ≤ 0x35) || (0x40 ≤ op && op ≤ 0x46) || (0x48 ≤ op && op ≤ 0x4C) || op = 0x50

def isRed (op : Nat) : Bool := 0x40 ≤ op && op ≤ 0x46
def isSegRed (op : Nat) : Bool := 0x48 ≤ op && op ≤ 0x4C
/-- The whole-stream reduction a segmented one repeats per segment. -/
def redBase (op : Nat) : Nat := if isSegRed op then op - 8 else op

/-- Whether an operation accepts a TYPE. -/
def opTakes (op ty : Nat) : Bool :=
  if op = 1 || op = 2 || op = 0x28 then true
  else if op = 0x0B || (0x14 ≤ op && op ≤ 0x18) || op = 0x24 then isFlt ty
  else if op = 0x0E || op = 0x0F then isNumeric ty && ty ≠ tUINT8
  else if (0x08 ≤ op && op ≤ 0x10) || (0x20 ≤ op && op ≤ 0x23) then isNumeric ty
  else if 0x30 ≤ op && op ≤ 0x33 then isInt ty || ty = tBOOL
  else if op = 0x34 || op = 0x35 then isInt ty
  else if op = 0x45 then ty = tBOOL
  else if op = 0x50 then ty = tFP16 || ty = tSFP16
  else if redBase op = 0x41 || redBase op = 0x44 || op = 0x46 then isFlt ty
  else isNumeric ty

/-- Types wanted of A, B and C. -/
def opWants (op ty : Nat) : Nat × Nat × Nat :=
  if op = 2 then (vAny, vNone, vNone)
  else if op = 0x28 then (ty, ty, tBOOL)
  else if op = 0x50 then (ty, tKINT8, tFP32)
  else if op = 0x0B || op = 0x10 then (ty, ty, ty)
  else if (0x08 ≤ op && op ≤ 0x0D) || (0x20 ≤ op && op ≤ 0x23) || (0x30 ≤ op && op ≤ 0x32) || op = 0x34 || op = 0x35 then
    (ty, ty, vNone)
  else (ty, vNone, vNone)

/-- Type of the result an operation writes. -/
def opGives (op ty : Nat) : Nat :=
  if 0x20 ≤ op && op ≤ 0x24 then tBOOL
  else if op = 0x45 || op = 0x46 then tINT32
  else if isRed op || isSegRed op then (if isFlt ty then tFP32 else tINT32)
  else ty

/-- Beats of a stage per group (R98). -/
def opBeats (op ty : Nat) : Nat :=
  if 0x14 ≤ op && op ≤ 0x18 then 4
  else if op = 0x50 then 2
  else if ty = tFP32 || ty = tINT32 || opGives op ty = tFP32 || opGives op ty = tINT32 then 2 else 1

/-- Whether an immediate's unused bits hold what R108 states. -/
def immOk (ty v : Nat) : Bool :=
  if ty = tFP16 || ty = tUINT8 || ty = tSFP16 || ty = tBOOL then decide (v < 2 ^ tyWidth ty)
  else v = unsigned 32 (signed (tyWidth ty) v)

/-- An immediate's lane value. -/
def immVal (ty v : Nat) : Nat := v % 2 ^ tyWidth ty

end Sys2Proof.Machine
end

