-- ==== Sys2Proof/Machine/Vector.lean ====
section
/-! DEFINITION. The vector engine: posting a chain, running it, its record (chapter 04, R96-R133). -/

namespace Sys2Proof.Machine
open Sys2Proof

/-! Where the elements of a stream lie (R100-R104). -/

/-- Bytes of a packed group of 64 elements. -/
def groupBytes (ty : Nat) : Nat := if ty = tBOOL then 8 else 64 * tyBytes ty
/-- Distance between successive groups of a LINEAR stream. -/
def Strm.step (d : Nat) : Int := if Strm.stride d = 0 then groupBytes (Strm.type d) else Strm.stride d
/-- Bytes that k elements of one group take. -/
def elemsBytes (ty k : Nat) : Nat := if ty = tBOOL then (k + 7) / 8 else k * tyBytes ty
/-- Slot size of a TILE stream. -/
def Strm.slot (d : Nat) : Nat := if Strm.type d = tFP32 then pairBytes else slotBytes
/-- Byte and bit of segment element j (R101, R104). -/
def Strm.segAt (d j : Nat) : Int × Nat :=
  if Strm.type d = tBOOL && Strm.stride d = 0 then (Strm.addr d + (j / 8 : Nat), j % 8)
  else (Strm.addr d + j * (if Strm.stride d = 0 then (tyBytes (Strm.type d) : Int) else Strm.stride d), 0)

/-- First and last group, segment element or slot of a stream, as (address, bytes). -/
def Strm.ends (d n seg : Nat) : List (Int × Nat) :=
  if Strm.tile d then
    [(Strm.addr d, Strm.slot d), (Strm.addr d + (n / 16384 - 1 : Nat) * Strm.stride d, Strm.slot d)]
  else if Strm.rate d then
    [((Strm.segAt d 0).1, tyBytes (Strm.type d)), ((Strm.segAt d (n / seg - 1)).1, tyBytes (Strm.type d))]
  else
    let g := (n + 63) / 64
    [(Strm.addr d, elemsBytes (Strm.type d) (min n 64)),
     (Strm.addr d + (g - 1 : Nat) * Strm.step d, elemsBytes (Strm.type d) (n - 64 * (g - 1)))]

/-- The byte range of a stream, from its lowest byte to its highest. -/
def Strm.hull (d n seg : Nat) : Int × Int :=
  (Strm.ends d n seg).foldl (fun r p => (min r.1 p.1, max r.2 (p.1 + p.2)))
    (Strm.addr d, Strm.addr d)

def hullsMeet (a b : Int × Int) : Bool := decide (a.1 < b.2) && decide (b.1 < a.2)

/-! The checks of a post (R122). -/

/-- A register an earlier stage writes: its type, and whether a segmented reduction writes it. -/
structure VReg where
  reg : Nat
  ty  : Nat
  seg : Bool
  kerf : Bool
  deriving DecidableEq, Repr

/-- What the checks have found: a range fault, a type fault. -/
structure VBad where
  range : Bool := false
  type  : Bool := false
  deriving DecidableEq, Repr

def VBad.or (a b : VBad) : VBad := ⟨a.range || b.range, a.type || b.type⟩

/-- One stream descriptor (R100-R104). -/
def streamBad (n seg d : Nat) (out : Bool) : VBad :=
  let tl := Strm.tile d
  let al : Int := if tl then 64 else 8
  let outZero := Strm.outCoarse d ≠ 0 || Strm.hdrSrc d ≠ 0 || Strm.outTensor d ≠ 0
  { range := bit d 71 || fld d 95 92 ≠ 0 || decide (8 < Strm.type d) || decide (4 < Strm.rnd d) ||
      (!out && (outZero || Strm.rnd d ≠ 0 || Strm.sat d || Strm.srcReg d ≠ 0)) || (!tl && outZero) ||
      (!tl && Strm.traverse d) || (tl && Strm.rate d) || (Strm.rate d && seg = 0) || (tl && n % 16384 ≠ 0) ||
      decide ((Strm.addr d : Int) % al ≠ 0) || decide (Strm.stride d % al ≠ 0) ||
      (seg ≠ 0 || !Strm.rate d) && (Strm.ends d n seg).any fun p => !slotIn p.1 p.2
    type := if tl then Strm.type d ≠ tSFP16 && Strm.type d ≠ tFP32 else Strm.type d = tSFP16 }

/-- The type a source selector supplies at a position that wants `want`, none where it is no source here (R107, R111). -/
def selType (ins : List Nat) (regs : List VReg) (hasTile : Bool) (stage ty want pos : Nat) : Option Nat :=
  let sel := if pos = 0 then Stg.srcA stage else if pos = 1 then Stg.srcB stage else Stg.srcC stage
  let own := if want = vAny then ty else want
  if want = vNone then (if sel = 0x7F then some vNone else none)
  else if sel < 0x40 then
    match regs.find? fun r => r.reg = sel with
    | some r => if r.seg then none else some r.ty
    | none => none
  else if sel < 0x43 then (ins.drop (sel - 0x40)).head?.map Strm.type
  else if sel = 0x48 then
    if isRed (Stg.op stage) || (Stg.op stage = 2 && ty = tSFP16) then none
    else if immOk own (Stg.imm0 stage) then some own else none
  else if sel = 0x49 then (if immOk own (Stg.imm1 stage) then some own else none)
  else if sel = 0x50 then some tINT32
  else if sel = 0x51 || sel = 0x52 then (if hasTile then some tINT32 else none)
  else none

/-- Registers after a stage wrote its destination. -/
def regsAfter (regs : List VReg) (stage : Nat) : List VReg :=
  let op := Stg.op stage
  let d := Stg.dst stage
  let put (l : List VReg) (x : VReg) : List VReg := x :: l.filter fun r => r.reg ≠ x.reg
  if isRed op then regs
  else
    let r1 := put regs ⟨d, opGives op (Stg.type stage), isSegRed op, op = 0x50⟩
    if op = 0x50 then put r1 ⟨d + 1, tKINT8, false, true⟩ else r1

/-- The stages in order: what is wrong with them, the registers written, the reduction slots named. -/
def stagesBad (ins : List Nat) (seg : Nat) (hasTile : Bool) : List Nat → List VReg → List Nat → VBad × List VReg
  | [], regs, _ => ({}, regs)
  | x :: r, regs, slots =>
    let op := Stg.op x
    let ty := Stg.type x
    let (wa, wb, wc) := opWants op ty
    let ts := [selType ins regs hasTile x ty wa 0, selType ins regs hasTile x ty wb 1, selType ins regs hasTile x ty wc 2]
    let slot := Stg.imm0 x % 4
    let bad : VBad :=
      { range := Stg.reserved x || !opListed op || decide (8 < ty) || decide (4 < Stg.rnd x) || ts.contains none ||
          ((isRed op || isSegRed op) && Stg.rnd x ≠ 0) || (isSegRed op && seg = 0) ||
          (op = 0x50 && decide (62 < Stg.dst x)) || (isRed op && (decide (3 < Stg.imm0 x) || slots.contains slot)) ||
          (op = 2 && ty = tSFP16 && decide (255 < Stg.imm0 x))
        type := !opTakes op ty || (ts.zip [wa, wb, wc]).any fun p =>
          p.2 ≠ vAny && p.2 ≠ vNone && p.1 ≠ some p.2 }
    let (more, regs') := stagesBad ins seg hasTile r (regsAfter regs x) (if isRed op then slot :: slots else slots)
    (bad.or more, regs')

/-- The output streams against the registers (R103, R104, R120). -/
def outBad (regs : List VReg) (ins : List Nat) (o : Nat) : VBad :=
  match regs.find? fun r => r.reg = Strm.srcReg o with
  | none => { range := true }
  | some r =>
    let hdrOk := match (ins.drop (Strm.hdrSrc o)).head? with
      | some i => Strm.tile i
      | none => false
    { range := Strm.tile o && !hdrOk
      type := if Strm.rate o then !r.seg || Strm.type o ≠ r.ty else r.seg }

/-- The whole check of a chain that lies at an offset: 0, 0x0306 or 0x0307. -/
def State.vxCheck (s : State) (n t off : Nat) : Nat :=
  let h := leNat (s.tsRead t off 32)
  let c := s.tsRead t off (Vx.length h)
  let ni := Vx.nIn h
  let no := Vx.nOut h
  let N := Vx.nElem h
  let seg := Vx.segLen h
  if !inStore off 32 || Vx.hdrReserved h || decide (2 < no) || Vx.nStages h = 0 || decide (8 < Vx.nStages h) ||
      N = 0 || decide (16777215 < N) || seg % 64 ≠ 0 || (seg ≠ 0 && N % seg ≠ 0) || !inStore off (Vx.length h) ||
      !inStore (Vx.recAddr h) 64 || (Vx.pegEn h && !s.pegOwned n (Vx.peg h)) || s.fenced t then 0x0306
  else
    let ins := (List.range ni).map (Vx.input c)
    let outs := (List.range no).map (Vx.output c)
    let stages := (List.range (Vx.nStages h)).map (Vx.stage c)
    let tiles := (ins ++ outs).filter Strm.tile
    let (bs, regs) := stagesBad ins seg (!tiles.isEmpty) stages [] []
    let b := (ins.map fun d => streamBad N seg d false) ++ (outs.map fun d => streamBad N seg d true) ++
      (outs.map fun o => outBad regs ins o) ++ [bs]
    let all := b.foldl VBad.or {}
    let hull (d : Nat) := Strm.hull d N seg
    let rec_ : Int × Int := (Vx.recAddr h, Vx.recAddr h + 64)
    let same (a b : Nat) : Bool := Strm.addr a = Strm.addr b && Strm.stride a = Strm.stride b &&
      Strm.tile a = Strm.tile b && tyBytes (Strm.type a) = tyBytes (Strm.type b) &&
      (Strm.type a = tBOOL) = (Strm.type b = tBOOL)
    let meets := outs.any fun o =>
      hullsMeet (hull o) rec_ || ins.any fun i => hullsMeet (hull o) (hull i) && !same o i
    let twoOuts := match outs with
      | [a, b] => hullsMeet (hull a) (hull b)
      | _ => false
    let traverses := tiles.any fun d => Strm.traverse d ≠ Strm.traverse (tiles.headD 0)
    let segUnused := stages.any fun x => isSegRed (Stg.op x) &&
      !outs.any fun o => Strm.rate o && Strm.srcReg o = Stg.dst x
    if all.range || meets || twoOuts || traverses || segUnused then 0x0306
    else if all.type then 0x0307 else 0

/-- VX.POST at a tile-store offset: checked, copied whole into the queue of 16, or refused (R99, R122, R144); a poisoned
header or descriptor answers its reader 0x0103 (R54). -/
def State.vxPost (s : State) (t : ThreadId) (n off : Nat) : Posted :=
  let k := t.tile.val
  if 16 ≤ (s.tile k).vxQueue.length then .full
  else if inStore off 32 && s.tsPoisoned k off (max 32 (Vx.length (leNat (s.tsRead k off 32)))) then .done s 0x0103
  else
    let code := s.vxCheck n k off
    if code ≠ 0 then .done ((s.incC Obj.vxCompRefused n).fault code n k) code
    else
      let c := s.tsRead k off (Vx.length (leNat (s.tsRead k off 32)))
      .done ((s.modTile k fun y => { y with vxQueue := y.vxQueue ++ [⟨c, t.key⟩] }).tileEvent k 0x49 1) 0

/-- VX_POST. -/
def execVxPost (t : ThreadId) (rd rs1 : Fin 32) (s : State) : Host.Outcome State Fault Refusal :=
  ok (s.issue t rd.val fun s1 n => s1.posted t rd.val .vector (s1.vxPost t n ((s1.thread t.key).getX rs1.val).toNat))

/-! The run of a chain (R123). -/

/-- What a stop records (R124-R126). -/
structure VxStop where
  status : Nat
  cls    : Nat
  stage  : Nat
  op     : Nat
  lane   : Nat
  vals   : Nat × Nat × Nat
  deriving DecidableEq, Repr

def vxPlain (status : Nat) : VxStop := ⟨status, 0, 0, 0, 0, (0, 0, 0)⟩
def vxPoison (lane : Nat) : VxStop := ⟨0x0308, 4, 0, 0, lane, (0, 0, 0)⟩

/-- A register of the running group. -/
structure VVal where
  ty    : Nat
  lanes : List Nat
  /-- raw bits as an input stream or an immediate held them, for the record of a trap -/
  raws  : List Nat
  kerf  : Bool
  deriving DecidableEq, Repr

/-- A chain between two groups. -/
structure VxExec where
  s      : State
  g      : EFlags
  gens   : List (Nat × Option LaneGen)
  /-- running value per reduction stage -/
  reds   : List (Nat × Nat)
  /-- reduction stages that have saturated -/
  redSat : List Nat
  /-- per output: largest finite magnitude written, and largest before saturation -/
  rep    : List (Nat × Option (Option (Nat × Int) × Option (Nat × Int)))
  /-- largest |x| of a KERF lane that saturated in the present group -/
  kerfX  : Option (Nat × Int)
  free   : Nat
  stop   : Option VxStop
  groups : Nat

def vlane (l : List Nat) (i : Nat) : Nat := (l.drop i).headD 0

/-- Row and column of lane l of group g by the traversal (R102). -/
def cellOf (trav : Bool) (g l : Nat) : Nat × Nat :=
  let gi := g % 256
  let a := gi / 2
  let b := 64 * (gi % 2) + l
  if trav then (b, a) else (a, b)

/-- Address of the slot a TILE stream stands at in group g. -/
def Strm.slotAt (d g : Nat) : Nat := (Strm.addr d + (g / 256 : Nat) * Strm.stride d).toNat

/-- One input stream's group: its lanes, or a stop (R102, R125). -/
def State.vxLoad (s : State) (t d g act seg : Nat) (trav : Bool) (fl : EFlags) : (VxStop ⊕ VVal) × EFlags :=
  let ty := Strm.type d
  let done (raws : List Nat) : (VxStop ⊕ VVal) × EFlags :=
    let (ls, fl1) := mapF (fun r f => vRead ty r f) raws fl
    (.inr ⟨ty, ls, raws, false⟩, fl1)
  if Strm.tile d then
    let a := Strm.slotAt d g
    let h := s.hdrAt t a
    let pair := ty = tFP32
    if s.tsPoisoned t (a + headerAt) 64 || (pair && s.tsPoisoned t (a + slotBytes + headerAt) 64) then
      (.inl (vxPoison 0), fl)
    else if Hdr.invalid h then (.inl (vxPlain 0x0305), fl)
    else if Hdr.format h ≠ (if pair then 2 else 1) || (pair && fld (s.hdrAt t (a + slotBytes)) 7 0 ≠ 3) then
      (.inl (vxPlain 0x0304), fl)
    else
      let o : Opnd := { addr := a, fp32 := pair, hdr := h, trans := false }
      match firstBelow act fun l =>
          let p := cellOf trav g l
          decide (p.1 < o.rows) && decide (p.2 < o.cols) &&
            (s.tsPoisoned t (o.elemAt p.1 p.2) (if pair then 4 else 2) ||
              s.tsPoisoned t (a + planeAt + o.block p.1 p.2 / 2) 1) with
      | some l => (.inl (vxPoison l), fl)
      | none =>
        let cells := (List.range act).map fun l => cellOf trav g l
        let raws := cells.map fun p => s.opElem t o p.1 p.2
        let (ls, fl1) := mapF (fun (x : (Nat × Nat) × Nat) f =>
          let e : Int := Hdr.coarse h - s.opFine t o x.1.1 x.1.2
          if pair then
            let v := unpackF f32 x.2
            match v with
            | .fin n m k => let r := roundF f32 .rne n m (k + e); (r.bits, f.merge r)
            | _ => vRead tFP32 x.2 f
          else vRead tSFP16 (x.2 + unsigned 9 e <<< 16) f) (cells.zip raws) fl
        (.inr ⟨ty, ls, raws, false⟩, fl1)
  else if Strm.rate d then
    let (a, b) := Strm.segAt d (64 * g / seg)
    let n := tyBytes ty
    if s.tsPoisoned t a.toNat n then (.inl (vxPoison 0), fl)
    else
      let v := leNat (s.tsRead t a.toNat n)
      let (x, fl1) := vRead ty (if ty = tBOOL then b2n (v.testBit b) else v) fl
      (.inr ⟨ty, List.replicate act x, List.replicate act v, false⟩, fl1)
  else
    let a := (Strm.addr d + g * Strm.step d).toNat
    match firstBelow act fun l =>
        if ty = tBOOL then s.tsPoisoned t (a + l / 8) 1 else s.tsPoisoned t (a + l * tyBytes ty) (tyBytes ty) with
    | some l => (.inl (vxPoison l), fl)
    | none =>
      done ((List.range act).map fun l =>
        if ty = tBOOL then b2n ((leNat (s.tsRead t (a + l / 8) 1)).testBit (l % 8))
        else leNat (s.tsRead t (a + l * tyBytes ty) (tyBytes ty)))

/-- The operand a selector supplies to every active lane (R107, R108). -/
def vSel (ins : List VVal) (regs : List (Nat × VVal)) (stage want ty g act : Nat) (trav : Bool) (sel : Nat) (fl : EFlags) :
    VVal × EFlags :=
  let imm (v : Nat) : VVal × EFlags :=
    let own := if want = vAny then ty else want
    let (x, fl1) := vRead own (immVal own v) fl
    (⟨own, List.replicate act x, List.replicate act v, false⟩, fl1)
  let ints (f : Nat → Nat) : VVal × EFlags :=
    let l := (List.range act).map f
    (⟨tINT32, l, l, false⟩, fl)
  let none_ : VVal := ⟨vNone, List.replicate act 0, List.replicate act 0, false⟩
  if sel < 0x40 then (((regs.find? fun r => r.1 = sel).map (·.2)).getD none_, fl)
  else if sel < 0x43 then (((ins.drop (sel - 0x40)).head?).getD none_, fl)
  else if sel = 0x48 then imm (Stg.imm0 stage)
  else if sel = 0x49 then imm (Stg.imm1 stage)
  else if sel = 0x50 then ints fun l => 64 * g + l
  else if sel = 0x51 then ints fun l => (cellOf trav g l).1
  else if sel = 0x52 then ints fun l => (cellOf trav g l).2
  else (none_, fl)

/-- The identity of a reduction as its 32 bits (R119). -/
def redIdentity (op ty : Nat) : Nat :=
  let b := redBase op
  if b = 0x45 || b = 0x46 then 0
  else if isFlt ty then (if b = 0x42 then f32.infBits true else if b = 0x43 then f32.infBits false else 0)
  else if b = 0x42 then 2 ^ 31 else if b = 0x43 then 2 ^ 31 - 1 else 0

/-- Two values of a reduction combined: FP32 to nearest even, or INT32; the flag tells a saturation. -/
def redJoin (op ty : Nat) (sat : Bool) (a b : Nat) (g : EFlags × Bool) : Nat × (EFlags × Bool) :=
  let r := redBase op
  if r = 0x45 || r = 0x46 then ((a + b) % 2 ^ 32, g)
  else if isFlt ty then
    let q := if r = 0x42 || r = 0x44 then maxV f32 a b else if r = 0x43 then minV f32 a b
             else addV f32 .rne (unpackF f32 a) (unpackF f32 b)
    (q.bits, (g.1.merge q, g.2))
  else
    let x := signed 32 a
    let y := signed 32 b
    if r = 0x42 then (unsigned 32 (max x y), g)
    else if r = 0x43 then (unsigned 32 (min x y), g)
    else
      let (v, g1) := vFix tINT32 sat (x + y) { g.1 with sat := 0 }
      (v, ({ g1 with sat := g.1.sat }, g.2 || decide (g1.sat ≠ 0)))

/-- One element as the reduction takes it (R119 step 1); a NaN that it propagates sets INVALID (R124). -/
def redElem (op ty raw : Nat) (g : EFlags) : Nat × EFlags :=
  let b := redBase op
  if b = 0x45 then (raw, g)
  else if b = 0x46 then (b2n (vIsNan ty raw || vIsInf ty raw), g)
  else if isFlt ty then
    let w := (cvtV f32 .rne (unpackF (tyFmt ty) raw)).bits
    let g1 : EFlags := { g with invalid := g.invalid || (unpackF f32 w).isNan }
    if b = 0x41 then
      let q := mulV f32 .rne (unpackF f32 w) (unpackF f32 w)
      (q.bits, g1.merge q)
    else if b = 0x44 then (if (unpackF f32 w).isNan then w else w % 2 ^ 31, g1) else (w, g1)
  else (unsigned 32 (vInt ty raw), g)

/-- The pairwise tree of 64 lanes. -/
def redTree (op ty : Nat) (sat : Bool) : Nat → List Nat → EFlags × Bool → Nat × (EFlags × Bool)
  | 0, xs, g => (xs.headD 0, g)
  | k + 1, xs, g =>
    let rec pairs : List Nat → EFlags × Bool → List Nat × (EFlags × Bool)
      | a :: b :: r, g =>
        let (x, g1) := redJoin op ty sat a b g
        let (ys, g2) := pairs r g1
        (x :: ys, g2)
      | xs, g => (xs, g)
    let (ys, g1) := pairs xs g
    redTree op ty sat k ys g1

/-- CVT to SFP16: FINE per R78 for lanes 0-31 and 32-63 (R113 S). -/
def vToSfp16 (ta : Nat) (rnd : Nat) (coarse : Int) (raws draws : List Nat) (g : EFlags) : List Nat × EFlags :=
  let blockOf (lo : Nat) : List (Nat × Nat) := ((raws.zip draws).drop lo).take 32
  let part (bs : List (Nat × Nat)) (g : EFlags) : List Nat × EFlags :=
    let m := bs.foldl (fun (m : Option (Nat × Int)) p =>
      match vReal ta p.1 with
      | .fin _ k e => if k = 0 then m else some (match m with | some x => magMax x (k, e) | none => (k, e))
      | _ => m) none
    let fine := fineOf m coarse
    mapF (fun (p : Nat × Nat) g =>
      let v := vReal ta p.1
      let (w, g) := encode16 (rndOf rnd p.2) v (fine - coarse) g
      (w + unsigned 9 (coarse - fine) <<< 16, { g with invalid := g.invalid || v.isNan })) bs g
  let (a, g1) := part (blockOf 0) g
  let (b, g2) := part (blockOf 32) g1
  (a ++ b, g2)

/-- A stage over the active lanes, lowest first, with early stop at an armed NaN event (R124). -/
structure LaneRes where
  dst   : List Nat
  dst2  : List Nat
  g     : EFlags
  gens  : List (Nat × Option LaneGen)
  free  : Nat
  kerfX : Option (Nat × Int)
  stop  : Option VxStop

/-- The class of a NaN event at one lane, none without one (R124). -/
def nanClass (armed : Bool) (ops : List (Nat × Nat)) (resTy res : Nat) : Option Nat :=
  if !armed then none
  else if ops.any fun p => p.1 < 9 && vIsNan p.1 p.2 then some 3
  else if vIsNan resTy res then (if ops.any fun p => p.1 < 9 && vIsInf p.1 p.2 then some 2 else some 1)
  else none

def vxLanes (seed t si stage : Nat) (armed : Bool) (a b c : VVal) : List Nat → LaneRes → LaneRes
  | [], r => r
  | l :: ls, r =>
    let op := Stg.op stage
    let ty := Stg.type stage
    let draws := Stg.rnd stage = 4 && !(0x14 ≤ op && op ≤ 0x17)
    let (d, gens) := if draws then drawAt r.gens seed t l else (0, r.gens)
    let (x, y, z) := (vlane a.lanes l, vlane b.lanes l, vlane c.lanes l)
    let rnd := rndOf (Stg.rnd stage) d
    let g0 : EFlags := { r.g with draws := r.g.draws + b2n draws }
    let open_ := (0x14 ≤ op && op ≤ 0x17) && isFlt ty
    let (res, res2, g1, kx) :=
      if op = 0x50 then vKerf ty rnd x y z g0
      else
        let (v, g) := if isRed op || isSegRed op then (x, g0)
                      else vLane op ty a.ty rnd (Stg.sat stage) (Config.choice r.free) x y z g0
        (v, 0, g, none)
    let resTy := opGives op ty
    let g2 : EFlags := { g1 with invalid := g1.invalid || (!isRed op && !isSegRed op && vIsNan resTy res) }
    let kerfX := match kx, r.kerfX with
      | some v, some w => some (magMax v w)
      | some v, none => some v
      | none, w => w
    let next : LaneRes := { dst := r.dst ++ [res], dst2 := r.dst2 ++ [res2], g := g2, gens := gens,
                            free := r.free + b2n open_, kerfX := kerfX, stop := none }
    match nanClass armed [(a.ty, x), (b.ty, y), (c.ty, z)] resTy res with
    | some k =>
      { next with stop := some ⟨0x0300 + k, k, si, op, l, (vlane a.raws l, vlane b.raws l, vlane c.raws l)⟩ }
    | none => vxLanes seed t si stage armed a b c ls next

/-- One stage of the running group: registers, and the values its reduction will fold. -/
def vxStage (seed t g act : Nat) (trav armed : Bool) (ins : List VVal) (si stage : Nat)
    (st : VxExec × List (Nat × VVal) × List (Nat × List Nat)) : VxExec × List (Nat × VVal) × List (Nat × List Nat) :=
  let (x, regs, folds) := st
  if x.stop.isSome then st
  else
    let op := Stg.op stage
    let ty := Stg.type stage
    let (wa, wb, wc) := opWants op ty
    let (a, g1) := vSel ins regs stage wa ty g act trav (Stg.srcA stage) x.g
    let (b, g2) := vSel ins regs stage wb ty g act trav (Stg.srcB stage) g1
    let (c, g3) := vSel ins regs stage wc ty g act trav (Stg.srcC stage) g2
    if op = 2 && cvtLetter a.ty ty = 4 then
      let stoch := Stg.rnd stage = 4
      let (ds, gens) := mapF (fun l gs => if stoch then drawAt gs seed t l else (0, gs)) (List.range act) x.gens
      let bad := if armed then firstBelow act fun l => vIsNan a.ty (vlane a.lanes l) else none
      match bad with
      | some l => ({ x with g := { g3 with draws := g3.draws + (if stoch then l + 1 else 0) },
                            gens := if stoch then (mapF (fun l gs => drawAt gs seed t l) (List.range (l + 1)) x.gens).2 else gens,
                            stop := some ⟨0x0303, 3, si, op, l, (vlane a.raws l, 0, 0)⟩ }, regs, folds)
      | none =>
        let (ws, g4) := vToSfp16 a.ty (Stg.rnd stage) (sfld (Stg.imm0 stage) 7 0) a.lanes ds g3
        let g5 : EFlags := { g4 with top := x.g.top, draws := g4.draws + (if stoch then act else 0) }
        ({ x with g := g5, gens := gens }, (Stg.dst stage, ⟨tSFP16, ws, ws, false⟩) ::
          regs.filter (fun r => r.1 ≠ Stg.dst stage), folds)
    else
      let r0 : LaneRes := { dst := [], dst2 := [], g := g3, gens := x.gens, free := x.free, kerfX := x.kerfX, stop := none }
      let r := vxLanes seed t si stage armed a b c (List.range act) r0
      let x1 : VxExec := { x with g := r.g, gens := r.gens, free := r.free, kerfX := r.kerfX, stop := r.stop }
      let put (l : List (Nat × VVal)) (k : Nat) (v : VVal) : List (Nat × VVal) := (k, v) :: l.filter fun p => p.1 ≠ k
      if isRed op || isSegRed op then (x1, regs, folds ++ [(si, a.lanes)])
      else
        let regs1 := put regs (Stg.dst stage) ⟨opGives op ty, r.dst, r.dst, op = 0x50⟩
        (x1, if op = 0x50 then put regs1 (Stg.dst stage + 1) ⟨tKINT8, r.dst2, r.dst2, true⟩ else regs1, folds)

/-- Group values folded into the reductions, in stage order (R119, R120, R123). -/
def vxFold (stages : List Nat) (x : VxExec) (f : Nat × List Nat) : VxExec :=
  let stage := vlane stages f.1
  let op := Stg.op stage
  let ty := Stg.type stage
  let sat := Stg.sat stage
  let (es, g1) := mapF (fun v g => redElem op ty v g) f.2 x.g
  let all := es ++ List.replicate (64 - es.length) (redIdentity op ty)
  let (v, g2) := redTree op ty sat 6 all (g1, false)
  let (w, g3) := redJoin op ty sat (kget (redIdentity op ty) x.reds f.1) v g2
  { x with g := g3.1, reds := kput (redIdentity op ty) x.reds f.1 w,
           redSat := if g3.2 && !x.redSat.contains f.1 then f.1 :: x.redSat else x.redSat }

/-- A LINEAR element-rate output's group (R100, R101, R115, R116). -/
def vxLinear (seed t g act : Nat) (o : Nat) (v : VVal) (x : VxExec) : VxExec :=
  let ty := Strm.type o
  let stoch := Strm.rnd o = 4
  let (ws, (g1, gens)) := mapF (fun l (st : EFlags × List (Nat × Option LaneGen)) =>
    let (d, gs) := if stoch then drawAt st.2 seed t l else (0, st.2)
    let (w, f) := vCvt v.ty ty (rndOf (Strm.rnd o) d) (Strm.sat o) (vlane v.lanes l) st.1
    (w, ({ f.seen (if isFlt ty then unpackF (tyFmt ty) w else .fin false 0 0) with draws := f.draws + b2n stoch }, gs)))
    (List.range act) (x.g, x.gens)
  let a := (Strm.addr o + g * Strm.step o).toNat
  let bytes :=
    if ty = tBOOL then
      (List.range ((act + 7) / 8)).map fun i =>
        let old := leNat (x.s.tsRead t (a + i) 1)
        BitVec.ofNat 8 ((List.range 8).foldl (fun b j =>
          if 8 * i + j < act then setBit b j (vlane ws (8 * i + j) ≠ 0) else b) old)
    else ws.flatMap (leBytes (tyBytes ty))
  { x with s := x.s.tsWrite t a bytes, g := g1, gens := gens }

/-- The report of a TILE output with another group in it (R178). -/
def VxExec.report (x : VxExec) (oi : Nat) (m v : Option (Nat × Int)) : VxExec :=
  let join (a b : Option (Nat × Int)) : Option (Nat × Int) := match a, b with
    | some p, some q => some (magMax p q)
    | some p, none => some p
    | none, q => q
  let old := (kget none x.rep oi).getD (none, none)
  { x with rep := kput none x.rep oi (some (join old.1 m, join old.2 v)) }

/-- A TILE output's group: header at the first group of a slot, two fine blocks encoded, exact where the block is SFP16
of one suitable E (R103). -/
def vxTile (seed t g : Nat) (trav : Bool) (oi o hdr : Nat) (v : VVal) (x : VxExec) : VxExec :=
  let a := Strm.slotAt o g
  let pair := Strm.type o = tFP32
  let oc : Int := sfld o 79 72
  let rows := Hdr.rows hdr
  let cols := Hdr.cols hdr
  let mk (f : Nat) : List Byte := leBytes 64 (Hdr.make f (Strm.outCoarse o) trav (Strm.outTensor o) (Hdr.layer hdr) rows
    cols (Hdr.tileRow hdr) (Hdr.tileCol hdr)) ++ List.replicate 704 0
  let s1 :=
    if g % 256 ≠ 0 then x.s
    else if pair then
      (x.s.tsWrite t (a + planeAt) (List.replicate 256 0 ++ mk 2)).tsWrite t (a + slotBytes + planeAt)
        (List.replicate 256 0 ++ mk 3)
    else x.s.tsWrite t (a + headerAt) (mk 1)
  let stoch := Strm.rnd o = 4
  let (ds, gens) := mapF (fun l gs => if stoch then drawAt gs seed t l else (0, gs)) (List.range 64) x.gens
  let lane (l : Nat) : Nat × Nat × Bool :=
    let p := cellOf trav g l
    (p.1, p.2, decide (p.1 < rows) && decide (p.2 < cols))
  let val (l : Nat) : FVal := if (lane l).2.2 then vReal v.ty (vlane v.lanes l) else .fin false 0 0
  let magOfVal (w : FVal) : Option (Nat × Int) := match w with
    | .fin _ m e => if m = 0 then none else some (m, e)
    | _ => none
  let joinM (m : Option (Nat × Int)) (w : FVal) : Option (Nat × Int) := match m, magOfVal w with
    | some p, some q => some (magMax p q)
    | some p, none => some p
    | none, q => q
  let mAll := (List.range 64).foldl (fun m l => joinM m (val l)) none
  let g0 : EFlags := { x.g with top := none, draws := x.g.draws + (if stoch then 64 else 0) }
  let put (st : List (Nat × Byte)) (l n w : Nat) : List (Nat × Byte) :=
    writeBytes st (a + elemOff pair (lane l).1 (lane l).2.1) (leBytes n w)
  let kx := if v.kerf then x.kerfX else none
  let finish (s : State) (fl : EFlags) : VxExec :=
    let row := a + elemOff pair (lane 0).1 (lane 0).2.1
    let whole := if g % 256 = 255 then
        s.tsWrite t a (s.tsRead t a (if pair then pairBytes else slotBytes))
      else if trav then s.breakResv t a (Strm.slot o)
      else (s.breakResv t a (Strm.slot o)).tsWrite t row (s.tsRead t row (if pair then 256 else 128))
    let sv := match fl.top, kx with
      | some p, some q => some (magMax p q)
      | some p, none => some p
      | none, q => q
    ({ x with s := whole, g := { fl with top := x.g.top }, gens := gens }).report oi mAll sv
  if pair then
    let (ws, fl) := mapF (fun l f =>
      let src := cvtV f32 (rndOf (Strm.rnd o) (vlane ds l)) (val l)
      let (w, f) := scale2 src.bits (-oc) f
      let (w, fb) := flushBits f32 w
      (w, ({ f with flushed := f.flushed || fb }).seen (unpackF f32 w))) (List.range 64) g0
    let store := (List.range 64).foldl (fun st l => put st l 4 (vlane ws l)) (s1.tile t).store
    finish (s1.modTile t fun y => { y with store := store }) fl
  else
    let block (lo : Nat) (f : EFlags) : (Nat × List Nat) × EFlags :=
      let ls := (List.range 32).map (· + lo)
      let es := (ls.filter fun l => (lane l).2.2).map fun l => sfld (vlane v.lanes l) 24 16
      let e0 := es.headD 0
      let keep := v.ty = tSFP16 && !es.isEmpty && es.all (fun e => e = e0) && decide (0 ≤ oc - e0) && decide (oc - e0 ≤ 15)
      if keep then
        let (ws, f1) := mapF (fun l f =>
          let w := if (lane l).2.2 then vlane v.lanes l % 65536 else 0
          (w, f.seen (unpackF f16 w))) ls f
        (((oc - e0).toNat, ws), f1)
      else
        let fine := fineOf (ls.foldl (fun m l => joinM m (val l)) none) oc
        let (ws, f1) := mapF (fun l f =>
          let (w, f) := encode16 (rndOf (Strm.rnd o) (vlane ds l)) (val l) (fine - oc) f
          (w, f.seen (val l))) ls f
        ((fine, ws), f1)
    let (b0, fl0) := block 0 g0
    let (b1, fl1) := block 32 fl0
    let ws := b0.2 ++ b1.2
    let store := (List.range 64).foldl (fun st l => put st l 2 (vlane ws l)) (s1.tile t).store
    let fineAt (st : List (Nat × Byte)) (l fine : Nat) : List (Nat × Byte) :=
      let i := fineBlock trav (lane l).1 (lane l).2.1
      let old := leNat (readBytes st (a + planeAt + i / 2) 1)
      writeBytes st (a + planeAt + i / 2) (leBytes 1 (if i % 2 = 0 then old / 16 * 16 + fine else old % 16 + 16 * fine))
    finish (s1.modTile t fun y => { y with store := fineAt (fineAt store 0 b0.1) 32 b1.1 }) fl1

/-- The element-rate outputs of a group, then the segment-rate ones where the group ends a segment. -/
def vxOutputs (seed t g act seg : Nat) (trav : Bool) (ins outs stages : List Nat) (regs : List (Nat × VVal))
    (x : VxExec) : VxExec :=
  let one (x : VxExec) (oi : Nat) : VxExec :=
    let o := vlane outs oi
    if Strm.rate o then x
    else match regs.find? fun r => r.1 = Strm.srcReg o with
      | none => x
      | some r =>
        if Strm.tile o then vxTile seed t g trav oi o (x.s.hdrAt t (Strm.slotAt (vlane ins (Strm.hdrSrc o)) g)) r.2 x
        else vxLinear seed t g act o r.2 x
  let x1 := (List.range outs.length).foldl one x
  if seg = 0 || (64 * (g + 1)) % seg ≠ 0 then x1
  else
    let j := 64 * g / seg
    let segs := (List.range stages.length).filter fun i => isSegRed (Stg.op (vlane stages i))
    let write (x : VxExec) (o : Nat) : VxExec :=
      if !Strm.rate o then x
      else match segs.reverse.find? fun i => Stg.dst (vlane stages i) = Strm.srcReg o with
        | none => x
        | some i =>
          let st := vlane stages i
          let w := kget (redIdentity (Stg.op st) (Stg.type st)) x.reds i
          let fl := if Strm.type o = tFP32 then x.g.seen (unpackF f32 w) else x.g
          { x with s := x.s.tsWrite t ((Strm.segAt o j).1.toNat) (leBytes 4 w), g := fl }
    let x2 := outs.foldl write x1
    let counted := segs.filter fun i => x2.redSat.contains i
    { x2 with reds := segs.foldl (fun m i => kput (redIdentity (Stg.op (vlane stages i)) (Stg.type (vlane stages i))) m i
                        (redIdentity (Stg.op (vlane stages i)) (Stg.type (vlane stages i)))) x2.reds,
              redSat := x2.redSat.filter fun i => !segs.contains i,
              g := { x2.g with sat := x2.g.sat + counted.length } }

/-- One group of the chain. -/
def vxGroup (seed t : Nat) (c : List Byte) (armed : Bool) (failAt : Option Nat) (x : VxExec) (g : Nat) : VxExec :=
  if x.stop.isSome then x
  else
    let h := Vx.header c
    let ins := (List.range (Vx.nIn h)).map (Vx.input c)
    let outs := (List.range (Vx.nOut h)).map (Vx.output c)
    let stages := (List.range (Vx.nStages h)).map (Vx.stage c)
    let act := min 64 (Vx.nElem h - 64 * g)
    let seg := Vx.segLen h
    let trav := ((ins ++ outs).find? Strm.tile).elim false Strm.traverse
    if failAt = some g then { x with stop := some (vxPlain 0x0309) }
    else
      let (loads, g1) := mapF (fun d fl => x.s.vxLoad t d g act seg trav fl) ins x.g
      let bad := loads.findSome? fun
        | .inl e => some e
        | .inr _ => none
      match bad with
      | some e => { x with g := g1, stop := some e }
      | none =>
        let vals := loads.filterMap fun
          | .inl _ => none
          | .inr v => some v
        let (x1, regs, folds) := (List.range stages.length).foldl
          (fun st si => vxStage seed t g act trav armed vals si (vlane stages si) st)
          ({ x with g := g1, kerfX := none }, [], [])
        if x1.stop.isSome then x1
        else
          let x2 := folds.foldl (vxFold stages) x1
          let x3 := vxOutputs seed t g act seg trav ins outs stages regs x2
          { x3 with groups := g + 1 }

/-- A chain run whole, from its first group to its end or its stop; failAt is the group of a register-file error. -/
def State.vxRun (s : State) (n t : Nat) (c : List Byte) (failAt : Option Nat) : VxExec :=
  let h := Vx.header c
  let armed := Vx.nanTrap h || s.objC Obj.vxCompTrapForce n = 1
  (List.range ((Vx.nElem h + 63) / 64)).foldl (vxGroup (s.comp n).seed t c armed failAt)
    { s := s, g := {}, gens := (s.tile t).gens, reds := [], redSat := [], rep := [], kerfX := none, free := s.fresh,
      stop := none, groups := 0 }

/-- The completion record (R126). -/
def VxExec.record (x : VxExec) (t : Nat) (c : List Byte) (g : EFlags) : Nat :=
  let h := Vx.header c
  let stages := (List.range (Vx.nStages h)).map (Vx.stage c)
  let reds := (List.range stages.length).filterMap fun i =>
    let st := vlane stages i
    if isRed (Stg.op st) then
      some (32 + 32 * (Stg.imm0 st % 4 + 1), kget (redIdentity (Stg.op st) (Stg.type st)) x.reds i)
    else none
  let trap := match x.stop with
    | none => []
    | some e =>
      if e.cls = 0 then []
      else
        -- which stage met the poison, and the operands, no rule says: free values
        let o := Config.choice x.free
        let p := decide (e.cls = 4)
        let ins := (List.range (Vx.nIn h)).map (Vx.input c)
        let hd := (ins.find? Strm.tile).elim 0 fun d => x.s.hdrAt t (Strm.slotAt d x.groups)
        [(256, e.cls), (264, if p then fld o 2 0 else e.stage), (272, if p then fld o 15 8 else e.op), (280, e.lane),
         (288, 64 * x.groups + e.lane), (320, x.s.stamp), (352, if p then fld o 63 32 else e.vals.1 % 2 ^ 32),
         (384, if p then fld o 95 64 else e.vals.2.1 % 2 ^ 32), (416, if p then fld o 127 96 else e.vals.2.2 % 2 ^ 32),
         (448, Hdr.tensor hd),
         (480, Hdr.layer hd)]
  pack ([(0, x.stop.elim 0 VxStop.status), (32, g.sat % 2 ^ 32), (192, Vx.opTag h), (224, x.groups), (496, t)] ++
    reds ++ trap) + g.vxBits

/-- The chain at the head of the queue run: outputs and reports are made, the record stands ready (R123, R178). -/
def State.vxExecute (s : State) (t : Nat) (failAt : Option Nat) : State :=
  match s.compOfTile t, (s.tile t).vxQueue, (s.tile t).vxRun with
  | some n, q :: rest, none =>
    if !s.running n || (s.tile t).dom ≠ .on then s
    else
      let h := Vx.header q.bytes
      let x := s.vxRun n t q.bytes failAt
      let stages := (List.range (Vx.nStages h)).map (Vx.stage q.bytes)
      let outs := (List.range (Vx.nOut h)).map (Vx.output q.bytes)
      -- a whole-stream reduction that saturated counts once; reduction results count among outputs
      let g0 : EFlags := { x.g with sat := x.g.sat + x.redSat.length }
      let g := (List.range stages.length).foldl (fun (f : EFlags) i =>
        let st := vlane stages i
        if isRed (Stg.op st) && isFlt (Stg.type st) && opGives (Stg.op st) (Stg.type st) = tFP32 then
          f.seen (unpackF f32 (kget (redIdentity (Stg.op st) (Stg.type st)) x.reds i)) else f) g0
      let s1 := { x.s with fresh := x.free + 1 }
      let s2 := (s1.modTile t fun y => { y with vxQueue := rest, gens := x.gens, since := s.now }).unstall t .vector
      let s3 := (List.range outs.length).foldl (fun (a : State) oi =>
        match kget none x.rep oi with
        | none => a
        | some (m, v) => a.reportTile n (Strm.outTensor (vlane outs oi)) (sfld (vlane outs oi) 79 72) m v) s2
      let cost (l : List Nat) : Nat := l.foldl (fun a st => a + opBeats (Stg.op st) (Stg.type st)) 0
      let part := match x.stop with
        | some e => if 1 ≤ e.cls && e.cls ≤ 3 then cost (stages.take (e.stage + 1)) else 0
        | none => 0
      let beats := x.groups * cost stages + part
      let s4 := (((s3.incC Obj.vxCompBusyBeats n beats).tileEvent t 0x20 beats).tileEvent t 0x22
        (min (Vx.nElem h) (64 * x.groups))).tileEvent t 0x23 g.draws
      let s5 := ((s4.incC Obj.vxCompSaturated n g.sat).incC Obj.vxCompKerfClamped n g.kerfs).tileEvent t 0x24 g.sat
      let s6 := s5.tileEvent t 0x25 g.kerfs
      let run : VxRun := { record := x.record t q.bytes g, recAddr := Vx.recAddr h, pegEn := Vx.pegEn h,
                           peg := Vx.peg h, poster := q.poster }
      s6.modTile t fun y => { y with vxRun := some run }
  | _, _, _ => s

/-- VX_CHAIN_EXECUTE (R123): taken once the previous chain has completed (R99). -/
def execVxChainExecute (t : TileNo) (s : State) : Host.Outcome State Fault Refusal := ok (s.vxExecute t.val none)

/-- VX_REG_UNCORRECTABLE (R125): a register-file error in a group of the head chain stops it there with 0x0309; a second
in the tile within 2^36 ns fences it. -/
def execVxRegUncorrectable (t : TileNo) (group : Nat) (s : State) : Host.Outcome State Fault Refusal :=
  let k := t.val
  match s.compOfTile k, (s.tile k).vxQueue, (s.tile k).vxRun with
  | some n, q :: _, none =>
    if !s.running n || (s.tile k).dom ≠ .on || (s.vxRun n k q.bytes (some group)).stop ≠ some (vxPlain 0x0309) then ok s
    else
      let again := match (s.tile k).vregErr with
        | some t0 => within36 s.now t0
        | none => false
      let s1 := (s.vxExecute k (some group)).modTile k fun y => { y with vregErr := some s.now }
      ok (if again then s1.fenceFor k 0x0309 else s1)
  | _, _, _ => ok s

/-- VX_CHAIN_COMPLETE (R127): the record is written, then the peg posted. -/
def execVxChainComplete (t : TileNo) (s : State) : Host.Outcome State Fault Refusal :=
  let k := t.val
  match s.compOfTile k, (s.tile k).vxRun with
  | some n, some r =>
    if !s.running n then ok s
    else
      let status := r.record % 65536
      let s1 := ((s.modTile k fun y => { y with vxRun := none, since := s.now }).tsWrite k r.recAddr
        (leBytes 64 r.record)).incC Obj.vxCompChains n
      let s2 :=
        if status = 0x0301 || status = 0x0302 || status = 0x0303 then
          (s1.firstTrap n k status r.record Obj.vxCompNanTraps Obj.vxCompFirstTrap).tileEvent k 0x27 1
        else if status ≠ 0 then s1.fault status n k
        else s1
      let s3 := s2.tileEvent k 0x21 1
      let s4 := if r.pegEn then s3.unitPost n r.peg else s3
      ok (if status ≠ 0 then s4.signal r.poster 1 status r.recAddr else s4)
  | _, _ => ok s

/-- VX_TRAP_CLEAR (R124): a write of vx.comp.trap_clear. -/
def execVxTrapClear (r : Role) (c : CompNo) (v : Bool) (s : State) : Host.Outcome State Fault Refusal :=
  ok (s.clearWrite r (objAt Obj.vxCompTrapClear c.val) v fun s => s.setObjC Obj.vxCompFirstTrap c.val 0)

end Sys2Proof.Machine
end

