-- ==== Sys2Proof/Machine/Prep.lean ====
section
/-! DEFINITION. The prep cores (chapter 05, R134-R160): instructions, accesses, threads, run-ahead, request slots. -/

namespace Sys2Proof.Machine
open Sys2Proof

/-! The address map (R136). -/

inductive Place where
  | span (addr : Nat)
  | store (off : Nat)
  | other
  deriving DecidableEq, Repr

/-- What a user address names, for a load, store or AMO. -/
def placeOf (a len : Nat) : Place :=
  if a + len ≤ 2 ^ 56 then .span a
  else if 2 ^ 56 ≤ a && a + len ≤ 2 ^ 56 + tsBytes then .store (a - 2 ^ 56)
  else .other

/-- A loaded value as its register takes it. -/
def loadVal (log2 : Nat) (uns : Bool) (bs : List Byte) : Nat :=
  let v := leNat (bs.take (2 ^ log2))
  if uns then v else sext (8 * 2 ^ log2) v

/-- An instruction retires with a value for an integer or float register. -/
def State.retireLoad (s : State) (t : ThreadId) (rd : Nat) (float : Bool) (v len : Nat) : State :=
  if float then (s.retire t 0 0 len).modThread t.key fun h => h.setF rd (BitVec.ofNat 32 v) else s.retire t rd v len

/-- The exception code of an access that ended with a status (R54, R231, R362, R365). -/
def excOf (c : Nat) : Nat :=
  if (poisonCode c && c ≠ 0x0103) || unverCode c || c = 0x0702 || c = 0x0405 then 0x0405 else c

/-- Prefetched lines of a thread's core that a committed store or AMO to a line removes (R159). -/
def State.dropLine (s : State) (k line : Nat) : State :=
  let c := s.core (k / 8)
  if c.pref.any fun l => l.line = line then
    s.setCore (k / 8) { c with pref := c.pref.filter fun l => l.line ≠ line } else s

/-- Stores of a thread not yet acknowledged. -/
def State.releases (s : State) (t : ThreadId) (rl : Bool) : Bool := !rl || !s.storesOpen t

/-! Accesses of a thread that is not in run-ahead. Each has had its beat. -/

def State.misaligned (s : State) (t : ThreadId) (n a len : Nat) (f : State → State) : State :=
  if a % len ≠ 0 then s.exception t n 0x0402 a else f s

/-- A span access of a thread: refused in resident mode or without translation or permission, else sent to its owning
location (R149, R153, R223). -/
def State.spanCheck (s : State) (t : ThreadId) (n a : Nat) (k : AccKind) (f : State → State) : State :=
  if !s.threaded n then s.exception t n 0x0404 a
  else
    let s1 := s.translate n t.tile.val (pageOf a)
    if !s1.permits n .thread k (pageOf a) then s1.exception t n 0x0405 a else f s1

/-- A request whose data the thread waits for. -/
def State.awaitAccess (s : State) (t : ThreadId) (n : Nat) (acc : PendAcc) (data : List Byte) : State :=
  let q : Parked := { who := .thread t.key, target := s.targetOf n acc.addr, addr := acc.addr, bytes := 2 ^ acc.log2,
                      kind := acc.kind, data := data }
  let (got, s1) := s.request n t.tile.val q
  s1.modThread t.key fun h => { h with st := if got then .stalled else .parked, acc := some acc }

/-- A load (R136, R138, R159). -/
def State.doLoad (s : State) (t : ThreadId) (n rd a log2 : Nat) (uns float : Bool) (len : Nat) : State :=
  s.misaligned t n a (2 ^ log2) fun s =>
    match placeOf a (2 ^ log2) with
    | .other => s.exception t n 0x0403 a
    | .store off =>
      if s.tsPoisoned t.tile.val off (2 ^ log2) then s.exception t n 0x0103 a
      else s.retireLoad t rd float (loadVal log2 uns (s.tsRead t.tile.val off (2 ^ log2))) len
    | .span a =>
      s.spanCheck t n a .read fun s =>
        match (s.core t.coreKey).pref.find? fun l => l.line = a / 64 with
        | some l =>
          ((s.incC Obj.prepCompRaPrefetchHits n).tileEvent t.tile.val 0x47 1).retireLoad t rd float
            (loadVal log2 uns (l.data.drop (a % 64))) len
        | none => s.awaitAccess t n ⟨rd, float, log2, uns, .read, a, len, false⟩ []

/-- A store: the thread goes on once it has a slot; its acknowledge comes later (R153). -/
def State.doStore (s : State) (t : ThreadId) (n a log2 data len : Nat) : State :=
  let bs := leBytes (2 ^ log2) data
  s.misaligned t n a (2 ^ log2) fun s =>
    match placeOf a (2 ^ log2) with
    | .other => s.exception t n 0x0403 a
    | .store off => (s.tsWrite t.tile.val off bs).retire t 0 0 len
    | .span a =>
      s.spanCheck t n a .write fun s =>
        let q : Parked := { who := .store t.key, target := s.targetOf n a, addr := a, bytes := 2 ^ log2, kind := .write,
                            data := bs }
        let (got, s1) := ((s.dropLine t.key (a / 64)).retire t 0 0 len).request n t.tile.val q
        if got then s1 else s1.modThread t.key fun h => { h with st := .parked }

/-- An AMO (R138). -/
def State.doAmo (s : State) (t : ThreadId) (n : Nat) (op : AmoOp) (rd a : Nat) (wide : Bool) (data : Nat)
    (aq : Bool) (len : Nat) : State :=
  let log2 := if wide then 3 else 2
  let bs := leBytes (2 ^ log2) data
  s.misaligned t n a (2 ^ log2) fun s =>
    match placeOf a (2 ^ log2) with
    | .other => s.exception t n 0x0403 a
    | .store off =>
      if s.tsPoisoned t.tile.val off (2 ^ log2) then s.exception t n 0x0103 a
      else
        let old := s.tsRead t.tile.val off (2 ^ log2)
        let s1 := (s.tsWrite t.tile.val off (accBytes (.amo op) old bs)).retire t rd (loadVal log2 false old) len
        if aq then s1.purge t.key else s1
    | .span a =>
      s.spanCheck t n a (.amo op) fun s =>
        let s1 := s.dropLine t.key (a / 64)
        (if aq then s1.purge t.key else s1).awaitAccess t n ⟨rd, false, log2, false, .amo op, a, len, true⟩ bs

/-- LR: tile store only (R138). -/
def State.doLr (s : State) (t : ThreadId) (n rd a : Nat) (wide aq : Bool) (len : Nat) : State :=
  let log2 := if wide then 3 else 2
  s.misaligned t n a (2 ^ log2) fun s =>
    match placeOf a (2 ^ log2) with
    | .store off =>
      if s.tsPoisoned t.tile.val off (2 ^ log2) then s.exception t n 0x0103 a
      else
        let s1 := (s.retire t rd (loadVal log2 false (s.tsRead t.tile.val off (2 ^ log2))) len).modThread t.key fun h =>
          { h with resv := some (off / 64) }
        if aq then s1.purge t.key else s1
    | _ => s.exception t n 0x0403 a

/-- SC: writes and returns 0 while the reservation of its word stands, else returns 1; the reservation ends. -/
def State.doSc (s : State) (t : ThreadId) (n rd a : Nat) (wide : Bool) (data len : Nat) : State :=
  let log2 := if wide then 3 else 2
  s.misaligned t n a (2 ^ log2) fun s =>
    match placeOf a (2 ^ log2) with
    | .store off =>
      let s1 := s.modThread t.key fun h => { h with resv := none }
      if (s.thread t.key).resv = some (off / 64) then
        (s1.tsWrite t.tile.val off (leBytes (2 ^ log2) data)).retire t rd 0 len
      else s1.retire t rd 1 len
    | _ => s.exception t n 0x0403 a

/-- FENCE (R234): its guard is `fenceOpen`; one that orders later reads empties the prefetch buffer. -/
def State.fenceOpen (s : State) (t : ThreadId) (pred : Nat) : Bool := pred % 2 = 0 && !bit pred 2 || !s.storesOpen t
def State.doFence (s : State) (t : ThreadId) (succ len : Nat) : State :=
  (if bit succ 1 || bit succ 3 then s.purge t.key else s).retire t 0 0 len

/-! The commands of single accesses. -/

/-- A span load in run-ahead: a look-ahead access that takes a slot, or is dropped (R156, R158, R169). -/
def State.raLoad (s : State) (t : ThreadId) (n a : Nat) : State :=
  let y := s.tile t.tile.val
  let las := (y.slots.filter fun q => match q.2 with | some x => x.lookAhead | none => false).length
  let line := a / 64 * 64
  let drop (why : Nat) : State :=
    (((s.incC Obj.prepCompLaIssued n).dropLa n why).tileEvent t.tile.val 0x64 1).tileEvent t.tile.val 0x65 1
  let home := match s.owner n line with | .page .. => true | _ => false
  if !home then drop (if (s.segOf n (pageOf line)).isSome then Obj.prepCompLaDroppedTier else 0)
  else match s.slotOpen n t.tile.val (s.targetOf n line) with
  | some k =>
    if 32 ≤ las then drop 0
    else
      let x : Slot := { who := .prefetch t.coreKey, target := s.targetOf n line, addr := line, bytes := 64, kind := .read,
                        data := [], lookAhead := true, issued := s.now, left := false, reply := none }
      (s.setSlot t.tile.val k (some x)).tileEvent t.tile.val 0x64 1
  | none => drop 0

/-- SPAN_LOAD (R136, R158). -/
def execSpanLoad (t : ThreadId) (rd : Fin 32) (addr : W64) (log2 : Fin 4) (unsigned float : Bool) (s : State) :
    Host.Outcome State Fault Refusal :=
  match s.issuer t with
  | none => ok s
  | some n =>
    let s1 := s.beat t n
    if (s.thread t.key).st = .runahead then
      (match placeOf addr.toNat (2 ^ log2.val) with
       | .span a => ok ((s1.raLoad t n a).raSkip t rd.val)
       | _ => ok (s1.raSkip t rd.val))
    else ok (s1.doLoad t n rd.val addr.toNat log2.val unsigned float 4)

/-- SPAN_STORE (R136). -/
def execSpanStore (t : ThreadId) (addr : W64) (log2 : Fin 4) (data : W64) (s : State) :
    Host.Outcome State Fault Refusal :=
  ok (s.issue t 0 fun s n => s.doStore t n addr.toNat log2.val data.toNat 4)

/-- SPAN_AMO (R138). -/
def execSpanAmo (t : ThreadId) (op : AmoOp) (rd : Fin 32) (addr : W64) (wide : Bool) (data : W64) (aq rl : Bool)
    (s : State) : Host.Outcome State Fault Refusal :=
  if !s.releases t rl then ok s
  else ok (s.issue t rd.val fun s n => s.doAmo t n op rd.val addr.toNat wide data.toNat aq 4)

/-- TILE_LR (R138). -/
def execTileLr (t : ThreadId) (rd : Fin 32) (addr : W64) (wide aq : Bool) (s : State) :
    Host.Outcome State Fault Refusal :=
  ok (s.issue t rd.val fun s n => s.doLr t n rd.val addr.toNat wide aq 4)

/-- TILE_SC (R138). -/
def execTileSc (t : ThreadId) (rd : Fin 32) (addr : W64) (wide : Bool) (data : W64) (rl : Bool) (s : State) :
    Host.Outcome State Fault Refusal :=
  if !s.releases t rl then ok s
  else ok (s.issue t rd.val fun s n => s.doSc t n rd.val addr.toNat wide data.toNat 4)

/-- FENCE (R234): completes only once every earlier store of its predecessor set is acknowledged. -/
def execFence (t : ThreadId) (pred succ : Fin 16) (s : State) : Host.Outcome State Fault Refusal :=
  if !s.fenceOpen t pred.val then ok s else ok (s.issue t 0 fun s _ => s.doFence t succ.val 4)

/-! Threads (R142, R147-R151). -/

/-- A fault of a refused dispatch instruction, logged with the tile (R173). -/
def State.refuseDispatch (s : State) (t : ThreadId) (n rd code len : Nat) : State :=
  (s.fault code n t.tile.val).retire t rd code len

/-- ENG.SPACE: free queue entries; an engine number above 3 has no stated result, a free value. -/
def State.engSpace (s : State) (tile e : Nat) : Nat × State :=
  let y := s.tile tile
  match e with
  | 0 => (16 - y.mxQueue.length, s)
  | 1 => (16 - y.vxQueue.length, s)
  | 2 => (8 - y.gx0.queue.length, s)
  | 3 => (8 - y.gx1.queue.length, s)
  | _ => (Config.choice s.fresh % 2 ^ 64, s.tickFresh)

/-- THR.START (R142, R149, R150). -/
def State.thrStart (s : State) (t : ThreadId) (n rd rs1 rs2 len : Nat) : State :=
  let h := s.thread t.key
  let at_ := h.getX rs1
  let arg := h.getX rs2
  let k := t.coreKey * 8 + arg.toNat % 8
  let o := s.thread k
  if (o.st ≠ .idle && o.st ≠ .halted) || s.threadsOf n ≤ arg.toNat % 8 then s.refuseDispatch t n rd 0x040D len
  else (s.setThread k { o.setX 10 arg with pc := at_, st := .ready, inHandler := false }).retire t rd 0 len

/-- THR.EXIT: the thread is IDLE. -/
def State.thrExit (s : State) (t : ThreadId) (len : Nat) : State :=
  (s.retire t 0 0 len).modThread t.key fun h => { h with st := .idle, inHandler := false, resv := none }

/-- THR.RET: back to yepc; diversions may take place again. -/
def State.thrRet (s : State) (t : ThreadId) : State :=
  (s.retire t 0 0).modThread t.key fun h => { h with pc := h.yepc, inHandler := false }

def execEngSpace (t : ThreadId) (rd rs1 : Fin 32) (s : State) : Host.Outcome State Fault Refusal :=
  ok (s.issue t rd.val fun s _ =>
    let (v, s1) := s.engSpace t.tile.val ((s.thread t.key).getX rs1.val).toNat
    s1.retire t rd.val v)
def execThrStart (t : ThreadId) (rd rs1 rs2 : Fin 32) (s : State) : Host.Outcome State Fault Refusal :=
  ok (s.issue t rd.val fun s n => s.thrStart t n rd.val rs1.val rs2.val 4)
def execThrExit (t : ThreadId) (s : State) : Host.Outcome State Fault Refusal :=
  ok (s.issue t 0 fun s _ => s.thrExit t 4)
def execThrYield (t : ThreadId) (s : State) : Host.Outcome State Fault Refusal :=
  ok (s.issue t 0 fun s _ => s.retire t 0 0)
def execThrRet (t : ThreadId) (s : State) : Host.Outcome State Fault Refusal :=
  ok (s.issue t 0 fun s _ => s.thrRet t)

/-! CSRs (R140). -/

/-- A user CSR's value; none where the number is illegal. -/
def State.csrRead (s : State) (t : ThreadId) (num : Nat) : Option Nat :=
  let h := s.thread t.key
  let held := ((s.tile t.tile.val).slots.filter fun q => match q.2 with
    | some x => x.who = .thread t.key || x.who = .store t.key || x.who = .pegOp t.key
    | none => false).length
  match num with
  | 0x001 => some (h.fcsr % 32)
  | 0x002 => some (fld h.fcsr 7 5)
  | 0x003 => some (h.fcsr % 256)
  | 0xC00 => some (s.core t.coreKey).cycle
  | 0xC01 => some s.now
  | 0xC02 => some h.instret
  | 0x800 => some h.yhandler.toNat
  | 0x801 => some h.ycause.toNat
  | 0x802 => some h.yepc.toNat
  | 0x803 => some h.ytval.toNat
  | 0x804 => some h.yevents
  | 0x805 => some h.yevmask.toNat
  | 0xCC0 => some (pack [(0, t.tile.val), (16, t.core.val), (24, t.thr.val)])
  | 0xCC1 => some held
  | 0xCC2 => some h.runaheads
  | k => if 0xC03 ≤ k && k ≤ 0xC1F then some 0 else none

/-- A write of a writable user CSR; yevents is cleared by ones. -/
def Thread.csrWrite (h : Thread) (num v : Nat) : Thread :=
  match num with
  | 0x001 => { h with fcsr := h.fcsr / 32 * 32 + v % 32 }
  | 0x002 => { h with fcsr := v % 8 * 32 + h.fcsr % 32 }
  | 0x003 => { h with fcsr := v % 256 }
  | 0x800 => { h with yhandler := BitVec.ofNat 64 v }
  | 0x801 => { h with ycause := BitVec.ofNat 64 v }
  | 0x802 => { h with yepc := BitVec.ofNat 64 v }
  | 0x803 => { h with ytval := BitVec.ofNat 64 v }
  | 0x804 => { h with yevents := h.yevents &&& (15 - v % 16) }
  | 0x805 => { h with yevmask := BitVec.ofNat 64 v }
  | _ => h

def State.doCsr (s : State) (t : ThreadId) (n rd num f3 src : Nat) (writes : Bool) (insn len : Nat) : State :=
  match s.csrRead t num with
  | none => s.exception t n 0x0401 insn
  | some old =>
    if writes && 0xC00 ≤ num then s.exception t n 0x0401 insn
    else
      let v := if f3 = 1 then src else if f3 = 2 then old ||| src else old - (old &&& src)
      let s1 := if writes then s.modThread t.key fun h => h.csrWrite num v else s
      s1.retire t rd old len

/-- YEVENTS_WRITE (R140): writing 1 to a bit clears it. -/
def execYeventsWrite (t : ThreadId) (v : W64) (s : State) : Host.Outcome State Fault Refusal :=
  ok (s.issue t 0 fun s _ => (s.modThread t.key fun h => h.csrWrite 0x804 v.toNat).retire t 0 0)

/-! The ordinary instruction (R134, R142, R158). -/

/-- The instruction at a thread's pc, as 32 bits and its length; none where its fetch leaves the program store, and
some 0 where it is illegal as fetched. -/
def State.fetchAt (s : State) (t : ThreadId) : Option (Nat × Nat) :=
  let pc := (s.thread t.key).pc.toNat
  let base := 2 ^ 57
  let prog := (s.tile t.tile.val).prog
  if pc < base || base + 131072 < pc + 2 then none
  else
    let lo := leNat (readBytes prog (pc - base) 2)
    if lo % 4 ≠ 3 then some ((expand lo).getD 0, 2)
    else if base + 131072 < pc + 4 then none
    else some (leNat (readBytes prog (pc - base) 4), 4)

/-- A dispatch instruction met in the stream of instructions (R142). -/
def State.doDispatch (s : State) (t : ThreadId) (n f3 f7 rd rs1 rs2 insn : Nat) : State :=
  let x (r : Nat) : Nat := ((s.thread t.key).getX r).toNat
  match f3, f7 with
  | 0, 0 => s.posted t rd .matrix (s.mxPost t n (x rs1))
  | 0, 1 => s.posted t rd .vector (s.vxPost t n (x rs1))
  | 0, 2 => s.posted t rd (if x rs2 % 2 = 1 then .gather1 else .gather0) (s.gxPost t n (x rs1) (x rs2 % 2 = 1))
  | 0, 3 =>
    let (v, s1) := s.engSpace t.tile.val (x rs1)
    s1.retire t rd v
  | 1, 0 => s.pegDo t n rd (x rs1) (x rs2) .post
  | 1, 1 => s.pegDo t n rd (x rs1) (x rs2) .wait
  | 1, 2 => s.pegDo t n rd (x rs1) (x rs2) .try_
  | 1, 3 => s.pegDo t n rd (x rs1) (x rs2) .read
  | 2, 0 => s.thrStart t n rd rs1 rs2 4
  | 2, 1 => s.thrExit t 4
  | 2, 2 => s.retire t 0 0
  | 2, 3 => s.thrRet t
  | _, _ => s.exception t n 0x0401 insn

/-- Whether an instruction must wait for earlier stores before it issues (R234, R246). -/
def State.mustWait (s : State) (t : ThreadId) (e : RvEff) : Bool :=
  match e with
  | .fence pred _ => !s.fenceOpen t pred
  | .amo _ _ _ _ _ _ rl => !s.releases t rl
  | .sc _ _ _ _ rl => !s.releases t rl
  | .dispatch 1 0 _ _ _ => s.storesOpen t
  | _ => false

/-- One instruction outside run-ahead. -/
def State.perform (s : State) (t : ThreadId) (n insn len : Nat) (e : RvEff) : State :=
  let flags (s : State) (fl : Nat) : State := s.modThread t.key fun h =>
    { h with fcsr := h.fcsr / 32 * 32 + ((h.fcsr % 32) ||| fl) }
  let goto (s : State) (pc : Nat) : State := s.modThread t.key fun h => { h with pc := BitVec.ofNat 64 pc }
  match e with
  | .wx rd v => s.retire t rd v len
  | .wxFlags rd v fl => (flags s fl).retire t rd v len
  | .wf rd v fl => (flags s fl).retireLoad t rd true v len
  | .jump rd target => goto (s.retire t rd ((s.thread t.key).pc.toNat + len) len) target
  | .branch _ target _ => goto (s.retire t 0 0 len) target
  | .load rd a log2 uns float => s.doLoad t n rd a log2 uns float len
  | .store a log2 data => s.doStore t n a log2 data len
  | .amo op rd a wide data aq _ => s.doAmo t n op rd a wide data aq len
  | .lr rd a wide aq => s.doLr t n rd a wide aq len
  | .sc rd a wide data _ => s.doSc t n rd a wide data len
  | .fence _ succ => s.doFence t succ len
  | .csr rd num f3 src w => s.doCsr t n rd num f3 src w insn len
  | .dispatch f3 f7 rd rs1 rs2 => s.doDispatch t n f3 f7 rd rs1 rs2 insn
  | .trap => s.tickFresh.exception t n (Config.choice s.fresh % 65536) (Config.choice s.fresh / 65536)
  | .illegal => s.exception t n 0x0401 insn

/-- Bytes a run-ahead load reads: its own held stores first (R158). -/
def RunAhead.bytes (r : RunAhead) (s : State) (tile off len : Nat) : List Byte :=
  (List.range len).map fun i =>
    match r.stores.find? fun q => q.1 = off + i with
    | some q => q.2
    | none => kget 0 (s.tile tile).store (off + i)

/-- One instruction in run-ahead (R158): nothing it does outlasts the episode. -/
def State.performRa (s : State) (t : ThreadId) (n insn len : Nat) (e : RvEff) (r : RunAhead) : State :=
  let (xs, fs) := rvReads insn
  let bad := xs.any (fun x => x ≠ 0 && r.invX.testBit x) || fs.any fun f => r.invF.testBit f
  let rd := fld insn 11 7
  let isF := rvWritesF insn
  let upd (f : RunAhead → RunAhead) (s : State) : State := s.modThread t.key fun h => { h with ra := h.ra.map f }
  let mark (v : Bool) : State → State := upd fun r =>
    if isF then { r with invF := setBit r.invF rd v }
    else { r with invX := if rd = 0 then r.invX else setBit r.invX rd v }
  let next (s : State) : State := s.modThread t.key fun h => { h with pc := h.pc + BitVec.ofNat 64 len }
  let goto (s : State) (pc : Nat) : State := s.modThread t.key fun h => { h with pc := BitVec.ofNat 64 pc }
  let setX (v : Nat) (s : State) : State := s.modThread t.key fun h => h.setX rd (BitVec.ofNat 64 v)
  let setF (v : Nat) (s : State) : State := s.modThread t.key fun h => h.setF rd (BitVec.ofNat 32 v)
  match e with
  | .wx _ v => if bad then next (mark true s) else next (mark false (setX v s))
  | .wxFlags _ v _ => if bad then next (mark true s) else next (mark false (setX v s))
  | .wf _ v _ => if bad then next (mark true s) else next (mark false (setF v s))
  | .jump _ target => if bad then s.raStop t else goto (mark false (setX ((s.thread t.key).pc.toNat + len) s)) target
  | .branch _ target back =>
    if bad then (if back then goto s (add64 (s.thread t.key).pc.toNat (immB insn)) else next s) else goto s target
  | .load _ a log2 uns float =>
    if bad then next (mark true s)
    else if a % 2 ^ log2 ≠ 0 then s.raStop t
    else match placeOf a (2 ^ log2) with
      | .other => s.raStop t
      | .span a => next (mark true (s.raLoad t n a))
      | .store off =>
        if s.tsPoisoned t.tile.val off (2 ^ log2) then s.raStop t
        else if r.full || r.lost.any (fun b => decide (off ≤ b) && decide (b < off + 2 ^ log2)) then next (mark true s)
        else
          let v := loadVal log2 uns (r.bytes s t.tile.val off (2 ^ log2))
          next (mark false (if float then setF v s else setX v s))
  | .store a log2 data =>
    if xs.head?.any (fun x => x ≠ 0 && r.invX.testBit x) then next (upd (fun r => { r with full := true }) s)
    else if a % 2 ^ log2 ≠ 0 then s.raStop t
    else
      let n := 2 ^ log2
      let room := decide (r.entries < 16)
      match placeOf a n with
      | .other => s.raStop t
      | .span _ => next (if room then upd (fun r => { r with entries := r.entries + 1 }) s else s)
      | .store off =>
        let at_ := (List.range n).map (· + off)
        let bs := leBytes n data
        if !room then next (upd (fun r => { r with lost := at_ ++ r.lost }) s)
        else if bad then next (upd (fun r => { r with entries := r.entries + 1, lost := at_ ++ r.lost }) s)
        else next (upd (fun r => { r with entries := r.entries + 1, stores := at_.zip bs ++ r.stores,
                                          lost := r.lost.filter fun b => !at_.contains b }) s)
  | .csr _ num _ _ writes =>
    if writes then s.raSkip t rd len
    else (match s.csrRead t num with
      | some v => next (mark false (setX v s))
      | none => s.raStop t)
  | .illegal => s.raStop t
  | .trap => s.raSkip t 0 len
  | _ => s.raSkip t rd len

/-- USER_INSTRUCTION (R134): the thread's next instruction, fetched from the program store. A pending enabled event
diverts it first (R141). -/
def execUserInstruction (t : ThreadId) (s : State) : Host.Outcome State Fault Refusal :=
  match s.issuer t with
  | none => ok s
  | some n =>
    let h := s.thread t.key
    match s.fetchAt t with
    | none =>
      if h.st = .runahead then ok ((s.beat t n).raStop t)
      else ok ((s.beat t n).exception t n 0x0403 h.pc.toNat)
    | some (insn, len) =>
      let e := if insn = 0 then .illegal else rvEff h insn len
      let insn := if insn = 0 then leNat (readBytes (s.tile t.tile.val).prog (h.pc.toNat - 2 ^ 57) 2) else insn
      (match h.ra with
       | some r => ok ((s.beat t n).performRa t n insn len e r)
       | none => if s.mustWait t e then ok s else ok ((s.beat t n).perform t n insn len e))

/-- EVENT_DIVERT (R141, R146): the lowest pending enabled event of a thread outside its handler. -/
def execEventDivert (t : ThreadId) (s : State) : Host.Outcome State Fault Refusal :=
  let h := s.thread t.key
  match s.issuer t, firstBelow 4 fun b => h.yevents.testBit b && h.yevmask.toNat.testBit b with
  | some n, some b =>
    if h.inHandler || h.st ≠ .ready then ok s
    else
      let s1 := s.divert t n (kget 0 h.evRec b % 65536) (kget 0 h.evRec b / 65536)
      ok (if (s1.thread t.key).st = .halted then s1.incC Obj.prepCompThreadFaults n else s1)
  | _, _ => ok s

/-! Run-ahead (R157-R160). -/

/-- RUNAHEAD_ENTRY (R157): a load from a span address has been outstanding for the beats given. -/
def execRunaheadEntry (t : ThreadId) (beats : Nat) (s : State) : Host.Outcome State Fault Refusal :=
  let h := s.thread t.key
  match s.compOfTile t.tile.val, h.acc with
  | some n, some a =>
    if s.running n && s.threaded n && s.objC Obj.prepCompRunahead n = 1 && h.st = .stalled && h.ra.isNone &&
        !h.inHandler && a.kind = .read && !a.spent && decide (s.objC Obj.prepCompRaEntryBeats n ≤ beats) then
      let r : RunAhead := { x := h.x, f := h.f, fcsr := h.fcsr, pc := h.pc,
                            invX := if a.float || a.rd = 0 then 0 else 2 ^ a.rd, invF := if a.float then 2 ^ a.rd else 0,
                            stores := [], entries := 0, lost := [], full := false, issuing := true }
      let s1 := s.setThread t.key { h with st := .runahead, ra := some r, runaheads := h.runaheads + 1,
                                           pc := h.pc + BitVec.ofNat 64 a.len }
      ok ((s1.incC Obj.prepCompRaEntries n).tileEvent t.tile.val 0x45 1)
    else ok s
  | _, _ => ok s

/-- RUNAHEAD_LIMIT (R157): the episode has lasted its limit; the thread waits for the load without issuing. -/
def execRunaheadLimit (t : ThreadId) (beats : Nat) (s : State) : Host.Outcome State Fault Refusal :=
  match s.compOfTile t.tile.val with
  | some n =>
    if (s.thread t.key).st = .runahead && decide (s.objC Obj.prepCompRaMaxBeats n ≤ beats) then
      ok ((s.modThread t.key Thread.rollback).modThread t.key fun h =>
        { h with acc := h.acc.map fun a => { a with spent := true } })
    else ok s
  | none => ok s

/-- RUNAHEAD_EXIT (R160): the stalled load has returned or has completed with a fault. -/
def execRunaheadExit (t : ThreadId) (s : State) : Host.Outcome State Fault Refusal :=
  let back := (s.tile t.tile.val).slots.any fun q => match q.2 with
    | some x => x.who = .thread t.key && x.reply.isSome
    | none => false
  if (s.thread t.key).st = .runahead && back then ok (s.modThread t.key Thread.rollback) else ok s

/-- PREFETCH_AGE_OUT (R159): a line 4,096 beats old leaves the buffer. -/
def execPrefetchAgeOut (t : TileNo) (core : Fin 4) (line : Nat) (s : State) : Host.Outcome State Fault Refusal :=
  let k := t.val * 4 + core.val
  let c := s.core k
  if c.pref.any fun l => l.line = line && decide (l.beat + 4096 ≤ c.cycle) then
    ok (s.setCore k { c with pref := c.pref.filter fun l => l.line ≠ line })
  else ok s

/-! Requests (R153-R156, R225). -/

/-- SPAN_REQUEST_RECEIVE (R225): the access of a slot of this module, or of a job module, at its owning location. -/
def execSpanRequestReceive (src : SpanSource) (it : Integ) (s : State) : Host.Outcome State Fault Refusal :=
  match src with
  | .slot t k =>
    (match s.slotAt t.val k.val, s.compOfTile t.val with
     | some x, some n =>
       let waits := (s.comp n).held.any fun h => decide (h.src = .slot t.val k.val)
       let far := match s.owner n x.addr with | .module _ => true | _ => false
       let isPeg := match x.who with | .pegOp _ => true | _ => false
       if x.reply.isSome || waits || far || isPeg then ok s
       else if x.lookAhead then
         (match s.lookAhead n x.addr x.bytes it with
          | (some bs, s1) => ok (s1.answerSlot t.val k.val 0 bs)
          | (none, s1) => ok ((s1.setSlot t.val k.val none).tileEvent t.val 0x65 1))
       else ok (s.performOrHold n (.slot t.val k.val) .thread x.kind x.addr x.bytes x.data it)
     | _, _ => ok s)
  | .remote node tag job addr kind len data =>
    let a := addr.toNat
    (match s.compOfJob job.toNat with
     | none => ok (s.remoteDenied node.toNat tag.toNat job.toNat (pageOf a))
     | some n =>
       let here := match s.owner n a with
         | .page .. => true
         | .tile t _ => (s.blocks n).testBit (blockOf t)
         | _ => false
       if !here || 64 < a % 64 + len.val then ok (s.remoteDenied node.toNat tag.toNat job.toNat (pageOf a))
       else ok (s.performOrHold n (.remote node.toNat tag.toNat) .thread kind a len.val (padTo len.val data) it))

/-- A slot's answer reaches a thread: its load or AMO completes, or the fault is an exception at it (R160, R231). -/
def State.finishAccess (s : State) (t : ThreadId) (n : Nat) (r : SpanReply) : State :=
  let s1 := if (s.thread t.key).st = .runahead then s.modThread t.key Thread.rollback else s
  match (s1.thread t.key).acc with
  | none => s1
  | some a =>
    let s2 := s1.modThread t.key fun h => { h with st := .ready, acc := none }
    if r.fault ≠ 0 then s2.exception t n (excOf r.fault) a.addr
    else s2.retireLoad t a.rd a.float (loadVal a.log2 a.unsigned r.data) a.len

/-- The thread of a number of 32,768. -/
def threadOf (k : Nat) : ThreadId :=
  { tile := ⟨k / 32 % 1024, Nat.mod_lt _ (by decide)⟩, core := ⟨k / 8 % 4, Nat.mod_lt _ (by decide)⟩,
    thr := ⟨k % 8, Nat.mod_lt _ (by decide)⟩ }

/-- The answer of a slot is delivered and the slot freed. -/
def State.deliver (s : State) (t k n : Nat) (x : Slot) (r : SpanReply) : State :=
  let slow : Bool := match x.target with | .pseudo _ => decide (x.issued + 2000 < s.now) && decide (x.kind = .read) | _ => false
  let s0 := if slow then (s.incC Obj.tierCompPcSlow n).compEvent n 0xA6 1 else s
  let free := s0.setSlot t k none
  match x.who with
  | .thread key => (free.tileEvent t (if x.kind = .read then 0x66 else 0x67) 1).finishAccess (threadOf key) n r
  | .store key =>
    let h := s.thread key
    if r.fault = 0 then free.tileEvent t 0x67 1
    else if h.st = .idle || h.st = .halted then free
    else if h.st = .ready then free.exception (threadOf key) n (excOf r.fault) x.addr
    else s
  | .pegOp key => free.pegEnd key r.fault false
  | .prefetch c =>
    let y := free.core c
    let (old, s1) := if y.pref.length < 64 then (y.pref, free)
      else (y.pref.eraseIdx (Config.choice s.fresh % 64), free.tickFresh)
    s1.setCore c { y with pref := ⟨x.addr / 64, r.data, y.cycle⟩ :: old.filter fun l => l.line ≠ x.addr / 64 }

/-- SPAN_RESPONSE_RECEIVE (R153, R231): the data, acknowledge or fault of a slot's request arrives; for a request that
left the module it comes in the RESPONSE. -/
def execSpanResponseReceive (t : TileNo) (slot : Fin 256) (remote : Option SpanReply) (s : State) :
    Host.Outcome State Fault Refusal :=
  match s.slotAt t.val slot.val, s.compOfTile t.val with
  | some x, some n =>
    (match x.reply with
     | some r => ok (s.deliver t.val slot.val n x r)
     | none =>
       let isPeg := match x.who with | .pegOp _ => true | _ => false
       (match remote with
        | some r => if x.left && !isPeg then ok (s.deliver t.val slot.val n x r) else ok s
        | none => ok s))
  | _, _ => ok s

/-- SLOT_GRANT (R154): the oldest parked request whose target is below its cap takes a free slot. -/
def execSlotGrant (t : TileNo) (s : State) : Host.Outcome State Fault Refusal :=
  match s.compOfTile t.val with
  | none => ok s
  | some n =>
    let y := s.tile t.val
    match y.parked.findIdx? fun q => (s.slotOpen n t.val q.target).isSome with
    | none => ok s
    | some i =>
      match y.parked[i]? with
      | none => ok s
      | some q =>
        match s.slotOpen n t.val q.target with
        | none => ok s
        | some k =>
          let s1 := (s.modTile t.val fun y => { y with parked := y.parked.eraseIdx i }).takeSlot n t.val k q false
          ok (match q.who with
            | .store key => s1.modThread key fun h => if h.st = .parked then { h with st := .ready } else h
            | .thread key => s1.modThread key fun h => if h.st = .parked then { h with st := .stalled } else h
            | .pegOp key => s1.modThread key fun h => if h.st = .parked then { h with st := .stalled } else h
            | .prefetch _ => s1)

/-- FENCED_SLOT_COMPLETE (R55 step 5, R56): a slot that waits on a fenced tile completes with 0x0110. -/
def execFencedSlotComplete (t : TileNo) (slot : Fin 256) (s : State) : Host.Outcome State Fault Refusal :=
  match s.slotAt t.val slot.val with
  | some x =>
    (match x.target with
     | .bank f _ => if s.fenced f && x.reply.isNone then ok (s.answerSlot t.val slot.val 0x0110 []) else ok s
     | _ => ok s)
  | none => ok s

/-- PREP_FAULT_CLEAR (R172). -/
def execPrepFaultClear (r : Role) (c : CompNo) (v : Bool) (s : State) : Host.Outcome State Fault Refusal :=
  ok (s.clearWrite r (objAt Obj.prepCompFaultClear c.val) v fun s => s.setObjC Obj.prepCompFirstFault c.val 0)

end Sys2Proof.Machine
end

