-- ==== Sys2Proof/Machine/Dict.lean ====
section
/-! DEFINITION. The object engine (chapter 19): READ, WRITE and DESCRIBE entries with the checks of R524, and request
messages (R520-R528). -/

namespace Sys2Proof.Machine
open Sys2Proof

/-! Writes. -/

/-- What a write answers: status, fault, data of the reply, the state; `held` for a CLOSE that waits (R528). -/
structure WriteOut where
  st    : Status
  fault : Nat
  data  : List Byte
  held  : Bool
  s     : State

/-- The answer of a command that has a row of its own, taken off the output list. -/
def answerOf (s : State) (o : Host.Outcome State Fault Refusal) : WriteOut :=
  match o with
  | .next t =>
    (match t.out with
     | .reply st f _ :: rest => ⟨st, f, [], false, { t with out := rest }⟩
     | _ => ⟨.ok, 0, [], false, t⟩)
  | _ => ⟨.outOfRange, 0, [], false, s⟩

def ofDone (d : Done) : WriteOut := ⟨d.st, d.fault, [], false, d.s⟩
def refuse (s : State) (st : Status) (fault : Nat := 0) : WriteOut := ⟨st, fault, [], false, s⟩

def compNo8 (n : Nat) : CompNo := Fin.ofNat 8 n

/-- comp.command (R322, R323). -/
def State.compCommandAct (s : State) (r : Role) (n v : Nat) : WriteOut :=
  if v = 0 || 7 < v then refuse s .outOfRange
  else if !mayCommand r n v then refuse s .accessDenied
  else match v with
    | 1 => ofDone (s.createAct n)
    | 2 =>
      let d := s.attestAct n
      if d.fault = 0x0A03 then { ofDone d with data := leBytes 8 d.val } else ofDone d
    | 3 => ofDone (s.startAct n)
    | 4 => ofDone (s.holdAct n)
    | 5 => ofDone (s.resumeAct n)
    | 6 => (match s.closeAct n with
      | (some d, _) => ofDone d
      | (none, t) => ⟨.ok, 0, [], true, t⟩)
    | _ => ofDone (s.closeNowAct n)

/-- The objects whose write is a command of its own. -/
def commandWrites (s : State) (r : Role) (i j v size : Nat) (x : DictExt) : List (Nat × (Unit → WriteOut)) :=
  let c := compNo8 i
  let b := decide (v = 1)
  let bs := leBytes size v
  let go (f : State → Host.Outcome State Fault Refusal) : WriteOut := answerOf s (f s)
  [ (Obj.tileArrayUnfence, fun _ => go (execUnfence r v x.passes)),
    (Obj.mxCompTrapClear, fun _ => go (execMxTrapClear r c b)),
    (Obj.vxCompTrapClear, fun _ => go (execVxTrapClear r c b)),
    (Obj.prepCompFaultClear, fun _ => go (execPrepFaultClear r c b)),
    (Obj.numCompEventClear, fun _ => go (execNumEventClear r c b)),
    (Obj.updCompEventClear, fun _ => go (execUpdEventClear r c b)),
    (Obj.spanCompSegWrite, fun _ => go (execSegWrite r c (BitVec.ofNat 256 v))),
    (Obj.spanCompSegClear, fun _ => go (execSegClear r c b)),
    (Obj.tierCompDefineWrite, fun _ => go (execDefineWrite r c (BitVec.ofNat 512 v))),
    (Obj.tierLendOffer, fun _ => go (execLendOfferWrite r (BitVec.ofNat 64 v))),
    (Obj.tierLendReclaim, fun _ => go (execReclaim r (BitVec.ofNat 8 v))),
    (Obj.tierLendForceRelease, fun _ => go (execForceRelease (.lender r (BitVec.ofNat 32 v)))),
    (Obj.tierCompLentQuotaGib, fun _ => go (execQuotaWrite r c 0 (BitVec.ofNat 32 v))),
    (Obj.tierCompFlashQuotaGib, fun _ => go (execQuotaWrite r c 1 (BitVec.ofNat 32 v))),
    (Obj.tierCompCkptQuotaGib, fun _ => go (execQuotaWrite r c 2 (BitVec.ofNat 32 v))),
    (Obj.tierCompEventClear, fun _ => go (execTierEventClear r c b)),
    (Obj.fabPortRearm, fun _ => go (execPortRearm r (BitVec.ofNat 8 v))),
    (Obj.fabCompNodeMapWrite, fun _ => go (execNodeMapWrite r c (BitVec.ofNat 512 v))),
    (Obj.fabCompNodeMapClear, fun _ => go (execNodeMapClear r c b)),
    (Obj.compCommand, fun _ => s.compCommandAct r i v),
    (Obj.compContribWrite, fun _ => go (execContribWrite r c (BitVec.ofNat 1024 v))),
    (Obj.rotCompKeyDeliver, fun _ => go (execKeyDeliver r c bs x.opened)),
    (Obj.compReleaseRequest, fun _ => go (execReleaseRequest r c (BitVec.ofNat 384 v))),
    (Obj.compReleaseApprove, fun _ => go (execReleaseApprove r c bs x.signed)),
    (Obj.integKrDesc, fun _ => go (execKrDescWrite r c (Fin.ofNat 16 j) (BitVec.ofNat 128 v))),
    (Obj.integCompEventClear, fun _ => go (execIntegEventClear r c b)),
    (Obj.rotSvnAdvance, fun _ => go (execSvnAdvance r (BitVec.ofNat 8 v))),
    (Obj.rotCompReportRequest, fun _ => go (execReportRequest r c (BitVec.ofNat 256 v))),
    (Obj.rotReportRequest, fun _ => go (execModuleReportRequest r (BitVec.ofNat 256 v))),
    (Obj.ckptCompSetWrite, fun _ => go (execSetWrite r c (BitVec.ofNat 128 v))),
    (Obj.ckptCompRestore, fun _ => go (execRestoreRequest r c (BitVec.ofNat 512 v) x.found)),
    (Obj.powerInputLimitW, fun _ => go (execInputLimitWrite r (BitVec.ofNat 16 v))),
    (Obj.powerCompAllotW, fun _ => go (execAllotWrite r c (BitVec.ofNat 16 v))),
    (Obj.evCompTileSel, fun _ => go (execTileSelWrite r c (BitVec.ofNat 64 v))),
    (Obj.evCompAgg, fun _ => go (execAggWrite r c (Fin.ofNat 64 j) (BitVec.ofNat 128 v))),
    (Obj.evCompSnapNow, fun _ => go (execSnapNow r c b)),
    (Obj.evCompPhaseClear, fun _ => go (execPhaseClear r c b)),
    (Obj.moduleCommand, fun _ => go fun t => t.moduleCommand r v),
    (Obj.moduleFwStage, fun _ => go (execFwStage r bs)),
    (Obj.moduleFwCommit, fun _ => go (execFwCommit r (BitVec.ofNat 8 v) x.signed)),
    (Obj.faultClear, fun _ => go (execFaultClear r b)),
    (Obj.sessClose, fun _ => ⟨.ok, 0, [], false, s.endSession v⟩) ] ++
  (List.range 8).map fun k => (fabConfigKey k, fun _ => go (execFabricConfigWrite r (Fin.ofNat 8 k) (BitVec.ofNat 128 v)))

/-! Objects without a command of their own: the rules their chapters give beside the range of the table. -/

/-- An FP32 pattern lies from a to b, both patterns of positive numbers. -/
def fpIn (a b v : Nat) : Bool := a ≤ v && v ≤ b

/-- Objects that hold the address of a line or table, 64-byte aligned. -/
def lineObjects : List Nat :=
  [Obj.numCompVerdictAddr, Obj.updCompRingAddr, Obj.updCompPlumbAddr, Obj.updCompParamAddr, Obj.tierCompRingAddr,
   Obj.ckptCompBoundaryAddr, Obj.phaseCompRingAddr, Obj.evCompSnapAddr, Obj.hostCompPubRingAddr]

/-- Objects that hold the entries of a ring, a power of two. -/
def ringObjects : List Nat :=
  [Obj.updCompRingEntries, Obj.tierCompRingEntries, Obj.phaseCompRingEntries, Obj.hostCompPubRingEntries]

/-- The rule of an object for a value in its range (R524 step 7). -/
def State.valueStatus (s : State) (base n v : Nat) : Status :=
  let inRange (p : Bool) : Status := if p then .ok else .outOfRange
  if lineObjects.contains base then inRange (v % 64 = 0)
  else if ringObjects.contains base then inRange (ringSize v)
  else if base = Obj.updCompClipNorm then inRange (v = 0 || fpIn 0x358637BD 0x49742400 v)
  else if base = Obj.updCompNoiseSigma then inRange (v = 0 || fpIn 0x3A83126F 0x41800000 v)
  else if base = Obj.updCompSchedLrStart || base = Obj.updCompSchedLrPeak then inRange (v ≤ 0x3F800000)
  else if base = Obj.updCompSchedFloorFrac then
    inRange (v ≤ 0x3F800000 && (v ≠ 0 || s.objC Obj.updCompSchedLaw n ≠ 3))
  else if base = Obj.updCompSchedLaw then inRange (v ≠ 3 || s.objC Obj.updCompSchedFloorFrac n ≠ 0)
  else if base = Obj.updCompSchedPeakMult then inRange (1 ≤ v && v ≤ 0x3F800000)
  else if base = Obj.valveKp then inRange (v ≤ 0x41000000)
  else if base = Obj.valveKi then inRange (v ≤ 0x40800000)
  else if base = Obj.spanCompPegGroups then
    (if (List.range 8).any fun m => m ≠ n && s.objC Obj.spanCompPegGroups m &&& v ≠ 0 then .stateConflict else .ok)
  else if base = Obj.spanCompModuleIndex then inRange (decide (v < s.objC Obj.spanCompJobModules n))
  else if base = Obj.tierCompDefaultPolicy then inRange (polForm v)
  else if base = Obj.rotCompLedger then inRange (fld v 31 16 = 0 && fld v 127 96 = 0)
  else if base = Obj.rampIndex then inRange (decide (v < s.obj Obj.rampSlots))
  else if base = Obj.rampSlots then inRange (decide (s.obj Obj.rampIndex < v))
  else if base = Obj.sessPlcaNode then inRange (v ≤ 31 || v = 255)
  else if base = Obj.sessIpv6Static then inRange (fld v 135 128 ≤ 128)
  else .ok

/-- An accepted load is discarded when the object that places its table is written (R500). -/
def State.storeObj (s : State) (base n key v : Nat) : State :=
  let s1 := s.setObj key v
  if base = Obj.numCompTableBase then s1.modUpd n fun u => { u with scaleLoaded := false }
  else if base = Obj.updCompLayerTable || base = Obj.updCompLayerCount then
    s1.modUpd n fun u => { u with layerLoaded := false }
  else if base = Obj.vxCompJobSeed then s.modComp n fun c => { c with jobSeed := some v }
  else s1

/-- The value meets R517. -/
def typeOk (row : ObjRow) (v : Nat) : Bool :=
  (row.type ≠ 1 || v ≤ 1) && (row.type ≠ 8 || v / 2 ^ 23 % 256 ≠ 255)

/-- Step 7 of R524 and the effect of a write whose role, state, type and length are right. -/
def State.writeValue (s : State) (r : Role) (row : ObjRow) (key v : Nat) (x : DictExt) : WriteOut :=
  let i := key / 256 - row.base / 256
  let j := key % 256 - row.base % 256
  if !typeOk row v then refuse s .outOfRange
  else match s.checkWrite r key v with
    | .ok =>
      (match s.valueStatus row.base i v with
       | .ok =>
         if row.pers = 1 && !x.stored then refuse (s.fault 0x1109) .storeFailed 0x1109
         else (match (commandWrites s r i j v row.size x).find? fun q => q.1 = row.base with
           | some q => q.2 ()
           | none => ⟨.ok, 0, [], false, s.storeObj row.base i key v⟩)
       | st => refuse s st)
    | st => refuse s st

/-! Entries (R521-R526). -/

/-- A request entry as it was read: `sound` is false where it is not well formed. -/
structure Entry where
  op     : Nat
  key    : Nat
  type   : Nat
  offset : Nat
  length : Nat
  sound  : Bool
  value  : List Byte
  deriving DecidableEq, Repr

/-- What an entry answers. -/
structure EntryOut where
  code  : Nat
  fault : Nat
  total : Nat
  data  : List Byte
  held  : Bool
  s     : State

def entryRefused (s : State) (st : Status) (fault total : Nat := 0) : EntryOut := ⟨st.code, fault, total, [], false, s⟩

/-- DEFAULT_KIND and DEFAULT of R526. -/
def describeDefault (row : ObjRow) : Nat × Nat :=
  match row.dflt with
  | none => (2, 0)
  | some d =>
    if row.type = 16 && d = 0 then (1, 0) else if d < 2 ^ 64 then (0, d) else (3, d % 2 ^ 64)

/-- The 24 bytes of a description (R526). -/
def describe (r : Role) (row : ObjRow) (key : Nat) : List Byte :=
  let (k, d) := describeDefault row
  leBytes 24 (pack [(0, row.type), (8, b2n (roleReads r row key) + 2 * b2n (roleWrites r row key) + 4 * b2n (row.stKind ≠ 0)),
    (16, row.pers), (24, row.stKind), (32, row.stMask), (48, k), (64, row.size), (128, d)])

/-- A READ (R524, R525): `space` is what the reply may still hold. -/
def State.readEntry (s : State) (r : Role) (row : ObjRow) (e : Entry) (space : Nat) : EntryOut :=
  if !roleReads r row e.key then entryRefused s .accessDenied 0 row.size
  else
    let fits := if row.type = 16 then decide (e.offset < row.size) && (e.length = 0 || decide (e.offset + e.length ≤ row.size))
      else e.offset = 0 && e.length = 0
    let len := if e.length = 0 then row.size - e.offset else e.length
    if !fits then entryRefused s .outOfRange 0 row.size
    else if s.notReady row e.key then entryRefused s .notReady 0 row.size
    else if space < 24 + (len + 7) / 8 * 8 then entryRefused s .replySpace 0 row.size
    else ⟨0, 0, row.size, ((leBytes row.size (s.dictValue r row e.key)).drop e.offset).take len, false, s⟩

/-- A WRITE (R524). -/
def State.writeEntry (s : State) (r : Role) (row : ObjRow) (e : Entry) (x : DictExt) : EntryOut :=
  if !roleWrites r row e.key then entryRefused s .accessDenied 0 row.size
  else if !s.stateAllows row e.key then entryRefused s .stateConflict 0 row.size
  else if e.type ≠ row.type then entryRefused s .typeMismatch 0 row.size
  else if e.length ≠ row.size then entryRefused s .outOfRange 0 row.size
  else
    let w := s.writeValue r row e.key (leNat e.value) x
    ⟨w.st.code, w.fault, row.size, w.data, w.held, w.s⟩

/-- One entry executed: the checks of R524 in order. -/
def State.doEntry (s : State) (r : Role) (e : Entry) (x : DictExt) (space : Nat) : EntryOut :=
  let total := match objRow e.key with
    | some row => row.size
    | none => 0
  if !e.sound then entryRefused (s.faultOnce 0x1108) .outOfRange 0x1108 total
  else match objRow e.key with
    | none => entryRefused s .outOfRange
    | some row =>
      if e.op = 1 then s.readEntry r row e space
      else if e.op = 2 then s.writeEntry r row e x
      else if !(roleReads r row e.key || roleWrites r row e.key) then entryRefused s .accessDenied 0 row.size
      else if space < 48 then entryRefused s .replySpace 0 row.size
      else ⟨0, 0, row.size, describe r row e.key, false, s⟩

/-! Messages (R520, R527). -/

/-- The longest reply message. -/
def replyMax : Nat := 262144

/-- What a write meets outside when nothing else is said of it: nothing verifies, and the boot store takes it. -/
def noExt : DictExt := ⟨false, none, false, [], true⟩

/-- The entry at the head of the bytes left, and the bytes after it; none where its boundary cannot be found. -/
def parseEntry (bs : List Byte) : Entry × Option (List Byte) :=
  let h := leNat (bs.take 16)
  let op := fld h 7 0
  let len := fld h 127 96
  let size := if op = 2 then 16 + len else 16
  let padded := (size + 7) / 8 * 8
  let whole := decide (16 ≤ bs.length) && decide (size ≤ bs.length) && 1 ≤ op && op ≤ 3
  let sound := whole && fld h 63 40 = 0 && (op = 2 || fld h 39 32 = 0) && (op = 1 || fld h 95 64 = 0) &&
    (op ≠ 3 || len = 0) && ((bs.drop size).take (padded - size)).all (· = 0)
  (⟨op, fld h 31 16 * 256 + fld h 15 8, fld h 39 32, fld h 95 64, len, sound, (bs.drop 16).take (if op = 2 then len else 0)⟩,
   if whole then some (bs.drop padded) else none)

/-- What answering a message has come to: the reply entries so far, empty for a held CLOSE with the compartments whose
reply waits and its place. -/
structure MsgOut where
  parts : List (List Byte)
  used  : Nat
  holds : List (Nat × Nat)
  s     : State

/-- The entries of a session that the rate admits (R535): 64 tokens, filled at sess.req_rate. -/
def State.takeToken (s : State) : Bool × State :=
  let x := s.xiesk
  let gain := (s.now - x.tokensAt) * s.obj Obj.sessReqRate / 1000000000
  let have_ := min 64 (x.tokens + gain)
  let at_ := if gain = 0 then x.tokensAt else if 64 ≤ x.tokens + gain then s.now
    else x.tokensAt + gain * 1000000000 / s.obj Obj.sessReqRate
  if have_ = 0 then (false, s) else (true, { s with xiesk := { x with tokens := have_ - 1, tokensAt := at_ } })

/-- An entry that a rate limit turns away. -/
def State.rateLimited (s : State) : EntryOut :=
  entryRefused ((s.inc Obj.sessRateLimited).faultOnce 0x1106) .rateLimited 0x1106

/-- The entries of a message one after another (R527): `limited` where the session rate applies, `full` where the session has too
many messages outstanding. -/
def State.doEntries (s : State) (r : Role) (limited full : Bool) (room : Nat) :
    Nat → List Byte → List DictExt → MsgOut → MsgOut
  | 0, _, _, m => m
  | k + 1, bs, xs, m =>
    let (e, rest) := parseEntry bs
    let (may, s0) := if full then (false, m.s) else if limited then m.s.takeToken else (true, m.s)
    let space := room - m.used - 24 * k
    let full_ (o : EntryOut) : Bool := o.data ≠ [] && decide (space < 24 + (o.data.length + 7) / 8 * 8)
    let o1 := if may then s0.doEntry r e (xs.headD noExt) space else s0.rateLimited
    let o := if full_ o1 then entryRefused o1.s .replySpace 0 o1.total else o1
    let part := if o.held then [] else o.s.replyEntry e.op e.key o.code o.fault o.total o.data
    let holds := if o.held then m.holds ++ [((compOfKey e.key).getD 0, m.parts.length)] else m.holds
    let used := m.used + (if o.held then 24 else part.length)
    State.doEntries s r limited full room k (rest.getD []) (xs.drop 1) ⟨m.parts ++ [part], used, holds, o.s⟩

/-- A message header that is malformed (R520, R536). -/
def headerBad (bs : List Byte) : Bool :=
  let h := leNat (bs.take 16)
  bs.length < 16 || bs.take 2 ≠ ascii "XK" || fld h 23 16 ≠ 1 || fld h 31 24 ≠ 0 || fld h 47 32 = 0 ||
    decide (64 < fld h 47 32) || fld h 63 48 ≠ 0 || fld h 127 96 ≠ bs.length || decide (65536 < bs.length)

/-- A request message executed for a role; `room` is the longest reply. -/
def State.doMessage (s : State) (r : Role) (limited full : Bool) (room : Nat) (bs : List Byte) (xs : List DictExt) : MsgOut :=
  if headerBad bs then
    let s1 := s.faultOnce 0x1108
    ⟨[s1.replyEntry 0 0 Status.outOfRange.code 0x1108 0 []], 40, [], s1⟩
  else s.doEntries r limited full room (fld (leNat (bs.take 16)) 47 32) (bs.drop 16) xs ⟨[], 16, [], s⟩

/-- MSG_ID of a message. -/
def msgId (bs : List Byte) : Nat := leNat (slice bs 8 4)

/-! The rows of the table. -/

/-- An entry as a command, answered on the output list. -/
def State.entryCommand (s : State) (r : Role) (e : Entry) (x : DictExt) : State :=
  if s.mode = .off then s
  else
    let o := s.doEntry r e x (replyMax - 16)
    if o.held then o.s
    else
      let type := match objRow e.key with
        | some row => row.type
        | none => 0
      o.s.emit (.dictReply o.code type o.s.mode.code (o.s.stateFor e.key) o.fault o.total o.data)

/-- DICT_READ (R524, R525). -/
def execDictRead (r : Role) (index : BitVec 16) (sub : Byte) (offset len : W32) (s : State) : Host.Outcome State Fault Refusal :=
  ok (s.entryCommand r ⟨1, index.toNat * 256 + sub.toNat, 0, offset.toNat, len.toNat, true, []⟩ noExt)

/-- DICT_WRITE (R524). -/
def execDictWrite (r : Role) (index : BitVec 16) (sub type : Byte) (value : List Byte) (x : DictExt) (s : State) :
    Host.Outcome State Fault Refusal :=
  ok (s.entryCommand r ⟨2, index.toNat * 256 + sub.toNat, type.toNat, 0, value.length, true, value⟩ x)

/-- DICT_DESCRIBE (R526). -/
def execDictDescribe (r : Role) (index : BitVec 16) (sub : Byte) (s : State) : Host.Outcome State Fault Refusal :=
  ok (s.entryCommand r ⟨3, index.toNat * 256 + sub.toNat, 0, 0, 0, true, []⟩ noExt)

end Sys2Proof.Machine
end

