-- ==== Sys2Proof/Machine/Host.lean ====
section
/-! DEFINITION. The host interface (chapter 18, R489-R511): registers, queues, violations and link of the endpoint. -/

namespace Sys2Proof.Machine
open Sys2Proof

/-! Functions and violations. -/

/-- The endpoint answers on a function: from READY on, with the link up, and a virtual function while it exists. -/
def State.hostUp (s : State) (f : Nat) : Bool :=
  s.hostLink && (s.mode = .ready || s.mode = .run || s.mode = .holdup || s.mode = .service) && s.funcExists f

def State.pair (s : State) (f q : Nat) : Pair := kget Pair.init (s.func f).pairs q
def State.setPair (s : State) (f q : Nat) (x : Pair) : State :=
  s.modFunc f fun y => { y with pairs := kput Pair.init y.pairs q x }

/-- The compartment a function's faults are logged with. -/
def funcComp (f : Nat) : Nat := if f = 0 then noComp else f - 1

/-- CAUSE of a function's own compartment, or of the physical function. -/
def State.raiseFunc (s : State) (f b : Nat) : State := if f = 0 then s.raiseOn 0 b else s.raise b (f - 1)

/-- A host violation (R511): counted, its fault logged, and at the limit within 2^36 ns its queue pair (`some q`) or the
mailbox (`some 16`) quarantined. -/
def State.hostViolation (s : State) (f : Nat) (at_ : Option Nat) (code : Nat) : State :=
  let s1 := (if f = 0 then s.inc Obj.hostPfViolations else s.incC Obj.hostCompViolations (f - 1)).faultOnce code (funcComp f) f
  let recent (l : List Nat) : List Nat := s.now :: l.filter fun t => decide (s.now < t + 2 ^ 36)
  match at_ with
  | none => s1
  | some q =>
    if q = 16 then
      let x := s1.func f
      let vs := recent x.mbViol
      if x.mbStatus ≠ 3 && decide (s.obj Obj.hostViolationLimit ≤ vs.length) then
        ((s1.setFunc f { x with mbViol := vs, mbStatus := 3, mbQuarAt := s.now, mbParts := [], mbHeld := [] }).fault 0x100C (funcComp f)
          f).raiseFunc f 6
      else s1.setFunc f { x with mbViol := vs }
    else
      let x := s1.pair f q
      let vs := recent x.viol
      if x.qstate = 1 && decide (s.obj Obj.hostViolationLimit ≤ vs.length) then
        ((s1.setPair f q { x with viol := vs, qstate := 2 }).fault 0x100C (funcComp f) q).raiseFunc f 6
      else s1.setPair f q { x with viol := vs }

/-! Entries and completions (R494, R495). -/

def Sq.opcode (e : Nat) : Nat := fld e 7 0
def Sq.kind (e : Nat) : Nat := fld e 15 8
def Sq.seq (e : Nat) : Nat := fld e 63 32
def Sq.addr (e : Nat) : Nat := fld e 127 64
def Sq.len (e : Nat) : Nat := fld e 159 128
def Sq.target (e : Nat) : Nat := fld e 255 192
def Sq.arg (e : Nat) : Nat := fld e 319 256
def Sq.tag (e : Nat) : Nat := fld e 351 320

/-- The commands of R498, a LOAD with its kind. -/
def Sq.known (e : Nat) : Bool :=
  (Sq.opcode e = 1 && 1 ≤ Sq.kind e && Sq.kind e ≤ 6) || [0, 2, 3, 4, 5, 8, 9, 0x0A, 0x10, 0x11].contains (Sq.opcode e)

/-- The status with which an entry refused before its execution completes. -/
def badStatus (code : Nat) : Status := if code = 0x1007 then .accessDenied else .outOfRange

/-- A completion entry. -/
def State.cqe (s : State) (f q cseq : Nat) (x : Taken) (st : Status) (fault value : Nat) : Nat :=
  let state := if f = 0 then 0xFF else (s.comp (f - 1)).st.code
  pack [(0, cseq), (32, x.seq), (64, fault), (80, q), (88, st.code), (96, state), (128, value % 2 ^ 64),
        (192, if x.bad = 0x1007 then 0 else Sq.tag x.raw)]

/-- Entries per queue. -/
def Pair.entries (x : Pair) : Nat := 2 ^ x.depth

/-- A completion goes to its slot with its vector, or waits for the link (R497, R509). -/
def State.putCqe (s : State) (f q w : Nat) : State :=
  let x := s.pair f q
  if s.hostLink then
    (s.emit (.hostWrite (x.cqBase.toNat + 32 * (fld w 31 0 % x.entries)) (leBytes 32 w))).vector f x.vector
  else s.setPair f q { x with held := x.held ++ [w] }

/-- The command at the head of a pair completes (R495, R502); one whose pair was disabled since leaves no completion
(R493). -/
def State.complete (s : State) (f q : Nat) (st : Status) (fault value : Nat) : State :=
  let x := s.pair f q
  match x.taken with
  | [] => s
  | t :: rest =>
    let s1 := if f = 0 then s else s.incC Obj.hostCompCommands (f - 1)
    if t.discard then
      let s2 := s1.setPair f q { x with taken := rest }
      if f = 0 then s2 else s2.incC Obj.hostCompCompletionsDiscarded (f - 1)
    else
      let w := s.cqe f q x.produced t st fault value
      (s1.setPair f q { x with taken := rest, produced := (x.produced + 1) % 2 ^ 32 }).putCqe f q w

/-- Entries refused when they were taken complete as their turn comes. -/
def State.drainBad (s : State) (f q : Nat) : Nat → State
  | 0 => s
  | k + 1 =>
    match (s.pair f q).taken with
    | t :: _ => if t.bad = 0 then s else State.drainBad (s.complete f q (badStatus t.bad) t.bad 0) f q k
    | [] => s

/-- A command completes, and refused ones behind it with it. -/
def State.finish (s : State) (f q : Nat) (st : Status) (fault value : Nat) : State :=
  (s.complete f q st fault value).drainBad f q (s.pair f q).taken.length

/-- One entry taken: SEQ checked, its completion slot reserved (R496). -/
def State.takeEntry (s : State) (f q : Nat) (e : Option (BitVec 512)) : State :=
  let x := s.pair f q
  let raw := match e with
    | some w => w.toNat
    | none => 0
  let bad := match e with
    | none => 0x1007
    | some w => if Sq.seq w.toNat ≠ x.sqTaken then 0x1003 else if !Sq.known w.toNat then 0x1002 else 0
  let s1 := s.setPair f q { x with sqTaken := (x.sqTaken + 1) % 2 ^ 32,
                                   taken := x.taken ++ [⟨raw, if bad = 0x1003 then Sq.seq raw else x.sqTaken, bad, false, false, 0⟩] }
  if bad = 0 then s1 else s1.hostViolation f (some q) bad

/-- Entries taken up to the tail for as long as completion slots can be reserved. -/
def State.takeEntries (s : State) (f q : Nat) : List (Option (BitVec 512)) → State
  | [] => s
  | e :: rest =>
    let x := s.pair f q
    let due := (x.taken.filter fun t => !t.discard).length
    if x.qstate ≠ 1 || x.sqTaken = x.tail || x.entries ≤ due + (x.produced + 2 ^ 32 - x.head) % 2 ^ 32 then s
    else State.takeEntries (s.takeEntry f q e) f q rest

/-- Entries taken and refused ones at the head completed. -/
def State.takeNow (s : State) (f q : Nat) (es : List (Option (BitVec 512))) : State :=
  let s1 := s.takeEntries f q es
  s1.drainBad f q (s1.pair f q).taken.length

/-- SQ_TAIL (R496); `entries` is what host memory reads at the slots from SQ_TAKEN on. -/
def execSqTail (f : FuncNo) (q : PairNo) (v : W32) (entries : List (Option (BitVec 512))) (s : State) :
    Host.Outcome State Fault Refusal :=
  let x := s.pair f.val q.val
  if !s.hostUp f.val || x.qstate ≠ 1 then ok s
  else
    let d := (v.toNat + 2 ^ 32 - x.sqTaken) % 2 ^ 32
    if 2 ^ 31 ≤ d || x.entries < d then ok (s.hostViolation f.val (some q.val) 0x1004)
    else ok ((s.setPair f.val q.val { x with tail := v.toNat }).takeNow f.val q.val entries)

/-- CQ_HEAD (R497): slots released, so that entries that wait can be taken. -/
def execCqHead (f : FuncNo) (q : PairNo) (v : W32) (entries : List (Option (BitVec 512))) (s : State) :
    Host.Outcome State Fault Refusal :=
  let x := s.pair f.val q.val
  if !s.hostUp f.val || x.qstate = 0 then ok s
  else if 2 ^ 31 ≤ (v.toNat + 2 ^ 32 - x.head) % 2 ^ 32 || 2 ^ 31 ≤ (x.produced + 2 ^ 32 - v.toNat) % 2 ^ 32 then
    ok (s.hostViolation f.val (some q.val) 0x1005)
  else ok ((s.setPair f.val q.val { x with head := v.toNat }).takeNow f.val q.val entries)

/-! Registers (R493, R508). -/

/-- A pair is disabled: entries not taken are discarded, those taken leave no completion. -/
def State.disablePair (s : State) (f q : Nat) : State :=
  let x := s.pair f q
  let s1 := s.setPair f q { x with enable := false, qstate := 0, tail := x.sqTaken, held := [], viol := [],
                                   taken := x.taken.map fun t => { t with discard := true } }
  if f = 0 then s1 else s1.incC Obj.hostCompCompletionsDiscarded (f - 1) x.held.length

/-- QUEUE_ENABLE (R493). -/
def execQueueEnable (f : FuncNo) (q : PairNo) (v : Byte) (s : State) : Host.Outcome State Fault Refusal :=
  let x := s.pair f.val q.val
  if !s.hostUp f.val then ok s
  else if 1 < v.toNat then ok (s.hostViolation f.val (some q.val) 0x1008)
  else if v = 0 then ok (s.disablePair f.val q.val)
  else if x.enable then ok s
  else ok (s.setPair f.val q.val { x with enable := true, qstate := 1, sqTaken := 0, tail := 0, produced := 1, head := 1 })

/-- QUEUE_REGISTER_WRITE (R493, R511): SQ_BASE, CQ_BASE, DEPTH_LOG2 or CQ_VECTOR. -/
def execQueueRegisterWrite (f : FuncNo) (q : PairNo) (reg : Fin 4) (v : W64) (s : State) : Host.Outcome State Fault Refusal :=
  let x := s.pair f.val q.val
  let fits : Bool := match reg with
    | 0 => v.toNat % 4096 = 0
    | 1 => v.toNat % 4096 = 0
    | 2 => decide (4 ≤ v.toNat ∧ v.toNat ≤ 16)
    | 3 => v.toNat ≤ 2047
  if !s.hostUp f.val then ok s
  else if x.qstate ≠ 0 then ok (s.hostViolation f.val (some q.val) 0x1006)
  else if !fits then ok (s.hostViolation f.val (some q.val) 0x1008)
  else ok (s.setPair f.val q.val (match reg with
    | 0 => { x with sqBase := v }
    | 1 => { x with cqBase := v }
    | 2 => { x with depth := v.toNat }
    | 3 => { x with vector := v.toNat }))

/-- CAUSE_WRITE (R493, R508): CAUSE, whose written ones clear, CAUSE_MASK or CAUSE_VECTOR. -/
def execCauseWrite (f : FuncNo) (reg : Fin 3) (v : W64) (s : State) : Host.Outcome State Fault Refusal :=
  if !s.hostUp f.val then ok s
  else match reg with
    | 0 => ok (s.modFunc f.val fun x => { x with cause := (BitVec.ofNat 64 x.cause &&& ~~~v).toNat })
    | 1 => ok (s.modFunc f.val fun x => { x with mask := v })
    | 2 => if v.toNat ≤ 2047 then ok (s.modFunc f.val fun x => { x with vector := v.toNat })
      else ok (s.hostViolation f.val none 0x1008)

/-- HOST_BAR_VIOLATION (R511): an access that is discarded, at a queue pair, at the mailbox (16) or elsewhere. -/
def execHostBarViolation (f : FuncNo) (at_ : Option (Fin 17)) (s : State) : Host.Outcome State Fault Refusal :=
  if s.hostUp f.val then ok (s.hostViolation f.val (at_.map (·.val)) 0x1008) else ok s

/-! The dictionary mailbox (R537, R538). -/

/-- The role of a function (R514). -/
def funcRole (f : Nat) : Role := if f = 0 then .host else .compartment (compNo8 (f - 1))

/-- MB_DOORBELL (R493, R537): the request is read, its entries are executed, and the reply goes out when the last is answered. -/
def execMbDoorbell (f : FuncNo) (regs : MbRegs) (v : W32) (req : HostRead) (ext : List DictExt) (s : State) :
    Host.Outcome State Fault Refusal :=
  let x := s.func f.val
  if !s.hostUp f.val then ok s
  else if x.mbStatus = 1 || x.mbStatus = 3 || v ≠ 1 || regs.reqLen = 0 || decide (65536 < regs.reqLen.toNat) ||
      decide (regs.repLen.toNat < 64) || decide (262144 < regs.repLen.toNat) || decide (2047 < regs.vec.toNat) then
    ok (s.hostViolation f.val (some 16) 0x1008)
  else
    let s1 := s.setFunc f.val { x with mbReqAddr := regs.reqAddr, mbReqLen := regs.reqLen.toNat, mbRepLen := regs.repLen.toNat,
                                       mbRepAddr := regs.repAddr, mbVector := regs.vec.toNat, mbStatus := 1 }
    match req with
    | .failed => ok ((s1.modFunc f.val fun y => { y with mbStatus := 0 }).hostViolation f.val (some 16) 0x1007)
    | .data bs =>
      let b := padTo regs.reqLen.toNat bs
      let m := s1.doMessage (funcRole f.val) false false regs.repLen.toNat b ext
      if (m.s.func f.val).mbStatus ≠ 1 then ok m.s
      else
        let s2 := m.s.modFunc f.val fun y => { y with mbParts := m.parts, mbMsgId := msgId b }
        let s3 := m.holds.foldl (fun a h => a.modComp h.1 fun c => { c with closeTo := some (.mailbox f.val h.2) }) s2
        ok (if m.holds.isEmpty then s3.mailboxReply f.val (message 1 (msgId b) m.parts) else s3)

/-- MB_QUARANTINE_END (R511, R538). -/
def execMbQuarantineEnd (f : FuncNo) (s : State) : Host.Outcome State Fault Refusal :=
  let x := s.func f.val
  if x.mbStatus ≠ 3 || s.now < x.mbQuarAt + 1000000000 then ok s
  else ok (s.setFunc f.val { x with mbStatus := 0, mbViol := [] })

/-! Link and resets (R509, R510, R548). -/

/-- HOST_LINK_DOWN (R509). -/
def execHostLinkDown (s : State) : Host.Outcome State Fault Refusal :=
  if !s.hostLink then ok s
  else
    let s1 := [Obj.hostLinkWidth, Obj.hostLinkGts, Obj.hostFlitMode].foldl (fun a k => a.setObj k 0) s
    ok { (s1.inc Obj.hostLinkDowns).fault 0x100E with hostLink := false }

/-- What waited for the link on a function goes out: completions in CSEQ order, the mailbox's reply, one vector for each
cause and vector raised. -/
def State.deliverFunc (s : State) (f : Nat) : State :=
  let x := s.func f
  let s1 := s.setFunc f { x with raised := [] }
  let s2 := (List.range 16).foldl (fun a q =>
    let y := a.pair f q
    y.held.foldl (fun b w => b.putCqe f q w) (a.setPair f q { y with held := [] })) s1
  let s3 := if x.mbHeld.isEmpty then s2 else s2.mailboxReply f x.mbHeld
  x.raised.eraseDups.foldl (fun a b => a.emit (.msix f (if b < 64 then x.vector else b - 64))) s3

/-- HOST_LINK_UP (R489, R509): the link has trained, or trained again, to a width and rate, and the host has set NumVFs,
which stands while the link stays up and virtual functions exist. -/
def execHostLinkUp (width : Fin 9) (gts : Byte) (vfs : Fin 9) (s : State) : Host.Outcome State Fault Refusal :=
  let powered := s.mode = .bringup || s.mode = .ready || s.mode = .run || s.mode = .holdup || s.mode = .service
  let num := if s.hostLink && s.obj Obj.hostNumVfs ≠ 0 then s.obj Obj.hostNumVfs else vfs.val
  if !powered || !([1, 2, 4, 8].contains width.val) || !([2, 5, 8, 16, 32, 64, 128].contains gts.toNat) then ok s
  else
    let s1 := (((s.setObj Obj.hostLinkWidth width.val).setObj Obj.hostLinkGts gts.toNat).setObj Obj.hostFlitMode
      (b2n (decide (64 ≤ gts.toNat)))).setObj Obj.hostNumVfs num
    let s2 : State := { s1 with hostLink := true, pins := { s1.pins with perstLow := false } }
    let s3 := if width.val < 8 || gts.toNat < 128 then s2.fault 0x1001 else s2
    ok ((List.range 9).foldl State.deliverFunc s3)

/-- A function's pairs are disabled and its BAR0 registers and mailbox return to their reset values (R510). -/
def State.resetFunc (s : State) (f : Nat) : State :=
  let s1 := (List.range 16).foldl (fun a q => if a.pair f q = Pair.init then a else a.disablePair f q) s
  let pairs := (s1.func f).pairs.filterMap fun p =>
    if p.2.taken.isEmpty then none else some (p.1, { Pair.init with taken := p.2.taken })
  let s2 := s1.setFunc f { Func.init with pairs := pairs }
  (List.range 8).foldl (fun a n => match (a.comp n).closeTo with
    | some (.mailbox g pos) =>
      if g = f then a.modComp n fun c => { c with closeTo := some (.session 8 pos 0) } else a
    | _ => a) s2

/-- A reset of the physical function clears VF Enable, which resets every virtual function. -/
def State.resetEndpoint (s : State) : State :=
  ((List.range 9).foldl State.resetFunc s).setObj Obj.hostNumVfs 0

/-- HOST_FLR (R510): 0x100F; a virtual function's configuration has changed, so its interface leaves CONFIG_LOCKED and RUN
(R397). -/
def execHostFlr (f : FuncNo) (s : State) : Host.Outcome State Fault Refusal :=
  if !s.hostUp f.val then ok s
  else
    let s1 := s.fault 0x100F (funcComp f.val) f.val
    if f.val = 0 then ok (((List.range 8).foldl State.tdiError s1).resetEndpoint)
    else ok ((s1.tdiError (f.val - 1)).resetFunc f.val)

/-- ENDPOINT_RESET (R544, R548, R549): PERST#, a hot reset or a link disable, as a reset of the physical function. A
START that was pending is cancelled. -/
def execEndpointReset (perst : Bool) (s : State) : Host.Outcome State Fault Refusal :=
  if s.mode = .off then ok s
  else
    let s1 : State := { (s.setObj Obj.moduleLastReset 1).fault 0x100F with
      pins := { s.pins with perstLow := s.pins.perstLow || perst }, startPending := false }
    ok ((List.range 8).foldl State.tdiError s1).resetEndpoint

end Sys2Proof.Machine
end

