-- ==== Sys2Proof/Machine/HostCmd.lean ====
section
/-! DEFINITION. The commands of a submission queue (R498-R507): loads, imports, span writes, exports, peg operations, and
the result mailboxes with their publish unit. A command acts when it stands at the head of its pair. -/

namespace Sys2Proof.Machine
open Sys2Proof

/-! What every command meets (R494, R498, R503, R511). -/

/-- How a command ends: with its status, its fault code and VALUE; or it waits, under way. -/
inductive Ends where
  | done (st : Status) (fault value : Nat) (s : State)
  | waits (s : State)
  deriving DecidableEq, Repr

/-- The command at the head of a pair, taken and not refused. -/
def State.headOf (s : State) (f q : Nat) : Option Taken :=
  match (s.pair f q).taken with
  | t :: _ => if t.bad = 0 then some t else none
  | [] => none

/-- The fields every entry keeps (R494): reserved fields, and KIND and ARG of a command that has none, are zero; HOST_ADDR is
64-byte aligned. -/
def Sq.fieldsOk (e : Nat) : Bool :=
  let op := Sq.opcode e
  fld e 31 16 = 0 && fld e 191 160 = 0 && fld e 511 352 = 0 && Sq.addr e % 64 = 0 &&
    ([1, 0x10, 0x11].contains op || Sq.kind e = 0) && ([8, 9, 0x0A, 0x11].contains op || Sq.arg e = 0)

/-- A data command may run on a function (R498): a virtual function with a Secure stream, its interface not in ERROR. -/
def State.dataOk (s : State) (f : Nat) : Bool :=
  f ≠ 0 && decide ((s.comp (f - 1)).stream = .secure) && s.objC Obj.rotCompTdiState (f - 1) ≠ 3

/-- Compartment states of a command (R498). -/
def forming (c : CState) : Bool := c = .forming
def attestedOrRunning (c : CState) : Bool := c = .attested || c = .running
def attestedToHeld (c : CState) : Bool := c = .attested || c = .running || c = .held
def runningOrHeld (c : CState) : Bool := c = .running || c = .held
def heldOnly (c : CState) : Bool := c = .held

/-- What refuses a command before its action: the violation of R511, or STATE_CONFLICT of R503 as 0x1010. -/
def State.hostRefusal (s : State) (f e : Nat) (data : Bool) (shape : State → Nat → Nat → Bool) (states : CState → Bool) :
    Option (Status × Nat) :=
  if !Sq.fieldsOk e then some (.outOfRange, 0x1002)
  else if data && !s.dataOk f then some (.accessDenied, 0x1009)
  else if !shape s (f - 1) e then some (.outOfRange, 0x1002)
  else if data && !states (s.comp (f - 1)).st then some (.stateConflict, 0x1010)
  else none

/-- A refused command is counted, logged and completed. -/
def State.hostRefuse (s : State) (f q : Nat) (st : Status) (code : Nat) : State :=
  (if code = 0x1010 then (s.incC Obj.hostCompStateConflicts (f - 1)).faultOnce 0x1010 (f - 1) f
   else s.hostViolation f (some q) code).finish f q st code 0

/-- A command of opcode `op` at the head of a pair: refused, or performed by its action on the entry. `moves` marks one
that moves data over the link, which waits for it (R509). -/
def State.hostRun (s : State) (f q op : Nat) (moves data : Bool) (shape : State → Nat → Nat → Bool) (states : CState → Bool)
    (act : Taken → State → Ends) : State :=
  match s.headOf f q with
  | none => s
  | some t =>
    if Sq.opcode t.raw ≠ op || (moves && !s.hostLink) then s
    else match s.hostRefusal f t.raw data shape states with
      | some (st, code) => s.hostRefuse f q st code
      | none =>
        match act t s with
        | .done st fault value s1 => s1.finish f q st fault value
        | .waits s1 => s1

/-- The bytes a command reads from host memory; a failed read ends it with 0x1007 and no side effect. -/
def State.withData (s : State) (f q e : Nat) (d : HostRead) (act : List Byte → Ends) : Ends :=
  match d with
  | .failed => .done .accessDenied 0x1007 0 (s.hostViolation f (some q) 0x1007)
  | .data bs => act (padTo (Sq.len e) bs)

/-- The status of a fault code (R10, R20); an unreachable home is reported as NOT_READY. -/
def hostStatus (code : Nat) : Status :=
  if code = 0 then .ok
  else if code = 0x0802 then .quotaBlocked
  else if poisonCode code then .poisoned
  else if unverCode code then .unverifiable
  else if code = 0x0707 || code = 0x0708 then .notReady
  else .accessDenied

def noShape (_ : State) (_ _ : Nat) : Bool := true

/-- NOP. -/
def execNop (f : FuncNo) (q : PairNo) (s : State) : Host.Outcome State Fault Refusal :=
  ok (s.hostRun f.val q.val 0 false false noShape (fun _ => true) fun _ s => .done .ok 0 0 s)

/-! LOAD (R499, R500). -/

/-- LENGTH and TARGET of a load of a kind (R499). -/
def loadShape (k : Nat) (s : State) (n e : Nat) : Bool :=
  let len := Sq.len e
  let tg := Sq.target e
  match k with
  | 1 => 4 ≤ len && len ≤ 131072 && len % 4 = 0 && tg < 1024 && (s.blocks n).testBit (blockOf tg) && !s.fenced tg
  | 2 => 64 ≤ len && len ≤ 1048576 && len % 64 = 0 && tg % 64 = 0
  | 3 => len = 128 && tg = 0
  | 4 => len = 4096 && tg = 0
  | 5 => len = 65536 && tg = 0
  | _ => len = 128 * s.objC Obj.updCompLayerCount n && tg = 0

/-- An accepted load extends LOAD_DIGEST (R386) and completes. -/
def State.loaded (s : State) (n e : Nat) (bs : List Byte) : Ends :=
  let s1 := s.modComp n fun c =>
    { c with loadDigest := digest48 (leBytes 48 c.loadDigest ++ leBytes 1 (Sq.kind e) ++ leBytes 8 (Sq.target e) ++
        leBytes 48 (digest48 bs)) }
  .done .ok 0 bs.length s1

/-- A load of kind k at the head of a pair. -/
def State.loadRun (s : State) (f q k : Nat) (d : HostRead) (act : Nat → Nat → List Byte → State → Ends) : State :=
  match s.headOf f q with
  | some t =>
    if Sq.kind t.raw ≠ k then s
    else s.hostRun f q 1 true true (loadShape k) forming fun t s => s.withData f q t.raw d fun bs => act (f - 1) t.raw bs s
  | none => s

/-- LOAD_PROGRAM: the program store of a tile from offset 0 (R137). -/
def execLoadProgram (f : FuncNo) (q : PairNo) (d : HostRead) (s : State) : Host.Outcome State Fault Refusal :=
  ok (s.loadRun f.val q.val 1 d fun n e bs s =>
    (s.modTile (Sq.target e) fun y => { y with prog := writeBytes y.prog 0 bs }).loaded n e bs)

/-- A write of the module for the host, line by line: homed lines are performed, those of another module leave for it. A
line its page holds waits there. What stops it is a fault code. -/
def State.hostStore (s : State) (n : Nat) (src : AccSrc) (ag : Agent) (a : Nat) (bs : List Byte) : Nat × Nat × State :=
  (lineParts (bs.length / 64 + 2) a bs.length).foldl (fun r q =>
    if r.1 ≠ 0 then r
    else
      let d := (bs.drop (q.1 - a)).take q.2
      match r.2.2.spanAccess n ag .write q.1 q.2 d with
      | (.done _, st) => (0, r.2.1 + q.2, st)
      | (.wait, st) =>
        (0, r.2.1 + q.2, st.modComp n fun c => { c with held := c.held ++ [⟨src, q.1, .write, d, st.now⟩] })
      | (.away m, st) =>
        if st.reachable n m then (0, r.2.1 + q.2, st.unitWrite n q.1 d) else (0x0707, r.2.1, st.lostAccess n 0x0707 q.1)
      | (o, st) => (o.status, r.2.1, st)) (0, 0, s)

/-- What a refused host write leaves: the state as it was, with the quota's own count (R10, R278). -/
def State.storeRefused (s t : State) (n a code : Nat) : State :=
  if code = 0x0802 then s.quotaBlocked n (s.objOf n (pageOf a)) (pageOf a) else if code = 0x0707 then t else s

/-- Pages a byte range touches. -/
def pagesIn (a len : Nat) : List Nat := (List.range (pageOf (a + len - 1) + 1 - pageOf a)).map (· + pageOf a)

/-- A page the scale table or the layer table holds or is named to hold, once its object names one. -/
def State.tableBarred (s : State) (n p : Nat) : Bool :=
  ((s.objC Obj.numCompTableBase n ≠ 0 || (s.comp n).upd.scaleLoaded) && p = pageOf (s.tableAt n)) ||
    ((s.objC Obj.updCompLayerCount n ≠ 0 || (s.comp n).upd.layerLoaded) &&
      pageIn p (s.objC Obj.updCompLayerTable n) (128 * s.objC Obj.updCompLayerCount n))

/-- LOAD_SPAN: span pages as first writes; a contributor's page is refused with ACCESS_DENIED, a table's page with
OUT_OF_RANGE. -/
def execLoadSpan (f : FuncNo) (q : PairNo) (d : HostRead) (s : State) : Host.Outcome State Fault Refusal :=
  ok (s.loadRun f.val q.val 2 d fun n e bs s =>
    let a := Sq.target e
    if !s.inSpan n a bs.length then .done .outOfRange 0x1002 0 (s.hostViolation f.val (some q.val) 0x1002)
    else if (pagesIn a bs.length).any fun p => (s.contribOf n (s.rangeAt n p)).isSome then .done .accessDenied 0 0 s
    else if (pagesIn a bs.length).any (s.tableBarred n) then .done .outOfRange 0 0 s
    else match s.hostStore n .unit .unit a bs with
      | (0, _, s1) => s1.loaded n e bs
      | (code, _, s1) => .done (hostStatus code) code 0 (s.storeRefused s1 n a code))

/-- LOAD_MAP_TABLE (R426, R427). -/
def execLoadMapTable (f : FuncNo) (q : PairNo) (d : HostRead) (s : State) : Host.Outcome State Fault Refusal :=
  ok (s.loadRun f.val q.val 3 d fun n e bs s =>
    if s.mapImageOk n bs then (s.loadMaps n bs).loaded n e bs else .done .outOfRange 0 0 s)

/-- LOAD_PHASE_PLAN (R438). -/
def execLoadPhasePlan (f : FuncNo) (q : PairNo) (d : HostRead) (s : State) : Host.Outcome State Fault Refusal :=
  ok (s.loadRun f.val q.val 4 d fun n e bs s =>
    if s.planImageOk n bs then (s.loadPlan n bs).loaded n e bs else .done .outOfRange 0 0 s)

/-- A checked table is written as first writes and marked loaded. -/
def State.storeTable (s : State) (n e a : Nat) (bs : List Byte) (mark : Upd → Upd) : Ends :=
  match s.hostStore n .unit .unit a bs with
  | (0, _, s1) => (s1.modUpd n mark).loaded n e bs
  | (code, _, s1) => .done (hostStatus code) code 0 (s.storeRefused s1 n a code)

/-- LOAD_SCALE_TABLE (R176, R177, R183, R500). -/
def execLoadScaleTable (f : FuncNo) (q : PairNo) (d : HostRead) (s : State) : Host.Outcome State Fault Refusal :=
  ok (s.loadRun f.val q.val 5 d fun n e bs s =>
    if s.scalePlaceOk n (s.tableAt n) && scaleImageOk bs then
      s.storeTable n e (s.tableAt n) bs fun u => { u with scaleLoaded := true }
    else .done .outOfRange 0x0508 0 (s.fault 0x0508 n))

/-- LOAD_LAYER_TABLE (R197-R199, R500). -/
def execLoadLayerTable (f : FuncNo) (q : PairNo) (d : HostRead) (s : State) : Host.Outcome State Fault Refusal :=
  ok (s.loadRun f.val q.val 6 d fun n e bs s =>
    let base := s.objC Obj.updCompLayerTable n
    let count := s.objC Obj.updCompLayerCount n
    if s.layerPlaceOk n base count && s.layerImageOk n count bs then
      s.storeTable n e base bs fun u => { u with layerLoaded := true }
    else .done .outOfRange 0x0601 0 (s.updEvent n 0x0601 0 0 false))

/-! IMPORT (R372). -/

def importShape (_ : State) (_ e : Nat) : Bool := Sq.len e = 65616

/-- An import refused with 0x0B0A. -/
def State.importRefused (s : State) (n r page : Nat) (st : Status) : Ends :=
  .done st 0x0B0A 0 ((s.integEvent n 0x0B0A r page 0).incC Obj.integCompImportRefused n)

/-- An import block applied; `opened` is the plaintext its tag lets through. -/
def State.importAct (s : State) (n : Nat) (b : List Byte) (opened : Option (List Byte)) : Ends :=
  let slot := leNat (slice b 8 1)
  let seq := leNat (slice b 16 8)
  let a := leNat (slice b 24 8)
  let p := pageOf a
  let key := objAt Obj.integCompImportSeq n + slot
  let r := s.rangeAt n p
  let home := match s.owner n a with
    | .page .. => true
    | .module _ => true
    | _ => false
  if leNat (slice b 9 7) ≠ 0 || leNat (slice b 32 32) ≠ 0 || 8 ≤ slot || a % 65536 ≠ 0 || !home then
    s.importRefused n 0 0 .outOfRange
  else if !(s.objC Obj.compContribKeyed n).testBit slot || leNat (slice b 0 8) ≠ s.objC Obj.spanCompJobId n then
    s.importRefused n r p .accessDenied
  else if seq ≤ s.obj key then s.importRefused n r p .outOfRange
  else if s.objOf n p = 0 || !(fld (s.contrib n slot) 23 8).testBit r then s.importRefused n r p .accessDenied
  else match opened with
    | none => s.importRefused n r p .accessDenied
    | some bs =>
      match s.hostStore n .unit .unit a (padTo 65536 bs) with
      | (0, _, s1) => .done .ok 0 65616 ((s1.setObj key seq).incC Obj.integCompImports n)
      | (code, _, s1) => .done (hostStatus code) code 0 (s.storeRefused s1 n a code)

/-- IMPORT. -/
def execImportBlock (f : FuncNo) (q : PairNo) (d : HostRead) (opened : Option (List Byte)) (s : State) :
    Host.Outcome State Fault Refusal :=
  ok (s.hostRun f.val q.val 2 true true importShape attestedOrRunning fun t s =>
    s.withData f.val q.val t.raw d fun b => s.importAct (f.val - 1) b opened)

/-! SPAN_WRITE (R498). -/

/-- LENGTH and TARGET of a span write: within one span page. -/
def spanWriteShape (_ : State) (_ e : Nat) : Bool :=
  let a := Sq.target e
  let len := Sq.len e
  64 ≤ len && len ≤ 4096 && len % 64 = 0 && a % 64 = 0 && a % 65536 + len ≤ 65536 && a + len ≤ 2 ^ 56

/-- The head of a pair is marked under way. -/
def State.markPosted (s : State) (f q : Nat) : State :=
  let x := s.pair f q
  match x.taken with
  | t :: rest => s.setPair f q { x with taken := { t with posted := true } :: rest }
  | [] => s

def State.hostHeld (s : State) (n f q : Nat) : Bool := (s.comp n).held.any fun h => h.src = .host f q

/-- A span write goes on: its lines are issued, and it ends when the last is performed, at home or by the module that homes
the page, whose answer is `remote`. -/
def State.spanWriteAct (s : State) (f q : Nat) (t : Taken) (d : HostRead) (remote : Option SpanReply) : Ends :=
  let n := f - 1
  let a := Sq.target t.raw
  let len := Sq.len t.raw
  let away := match s.owner n a with
    | .module _ => true
    | _ => false
  let ending (s : State) (code : Nat) : Ends := .done (hostStatus code) code (if code = 0 then len else 0) s
  let settle (s : State) (code : Nat) : Ends :=
    if away then
      (match remote with
       | some r => if r.fault = 0x0708 then ending (s.lostAccess n 0x0708 a) 0x0708 else ending s r.fault
       | none => .waits s)
    else if s.hostHeld n f q then .waits s else ending s code
  if t.posted then settle s t.code
  else s.withData f q t.raw d fun bs =>
    match s.hostStore n (.host f q) .host a bs with
    | (0, _, s1) => settle (s1.markPosted f q) 0
    | (code, done, s1) => .done (hostStatus code) code done s1

/-- SPAN_WRITE: a job write (R223, R226, R258, R371, R415). -/
def execSpanWrite (f : FuncNo) (q : PairNo) (d : HostRead) (remote : Option SpanReply) (s : State) :
    Host.Outcome State Fault Refusal :=
  ok (s.hostRun f.val q.val 3 true true spanWriteShape attestedToHeld fun t s => s.spanWriteAct f.val q.val t d remote)

/-! EXPORT and READ_RELEASED (R501). -/

/-- A page read line by line: its bytes, POISON and ZERO bits, and the code of a line that cannot be verified. -/
structure PageRead where
  s      : State
  bytes  : List Byte
  poison : Nat
  zero   : Nat
  unver  : Nat

/-- A line of a demand read of a page. -/
def PageRead.line (r : PageRead) (n p : Nat) (bad : Option (Fin 1024 × Integ)) (l : Nat) : PageRead :=
  let it := match bad with
    | some (k, i) => if k.val = l then i else .intact
    | none => .intact
  let live := kget false (r.s.spage n p).live l
  match r.s.spanAccess n .unit .read (p * 65536 + 64 * l) 64 [] it with
  | (.done bs, s) => { r with s := s, bytes := r.bytes ++ bs, zero := if live then r.zero else setBit r.zero l true }
  | (.fault c, s) =>
    if unverCode c then { r with s := s, unver := c }
    else { r with s := s, bytes := r.bytes ++ List.replicate 64 0, poison := setBit r.poison l true }
  | (_, s) => { r with s := s, bytes := r.bytes ++ List.replicate 64 0 }

def State.readPage (s : State) (n p : Nat) (bad : Option (Fin 1024 × Integ)) : PageRead :=
  (List.range 1024).foldl (fun r l => if r.unver = 0 then r.line n p bad l else r) ⟨s, [], 0, 0, 0⟩

/-- The 320 bytes of a page record before DATA (R405). -/
def recordHead (page obj salt poison zeros : Nat) : List Byte :=
  leBytes 8 page ++ leBytes 2 obj ++ leBytes 6 0 ++ leBytes 32 salt ++ leBytes 16 0 ++ leBytes 128 poison ++ leBytes 128 zeros

def exportShape (s : State) (n e : Nat) : Bool := Sq.len e = 65872 && s.homedHere n (pageOf (Sq.target e))
def releasedShape (_ : State) (_ e : Nat) : Bool := Sq.len e = 65536

/-- EXPORT: a page record of a page homed here; DATA and TAG are ciphertext, free values. -/
def execExportPage (f : FuncNo) (q : PairNo) (bad : Option (Fin 1024 × Integ)) (s : State) :
    Host.Outcome State Fault Refusal :=
  ok (s.hostRun f.val q.val 4 true true exportShape runningOrHeld fun t s =>
    let n := f.val - 1
    let p := pageOf (Sq.target t.raw)
    if s.objC Obj.rotCompJobKeyInstalled n = 0 || (s.contribOf n (s.rangeAt n p)).isSome then .done .accessDenied 0 0 s
    else
      let r := s.readPage n p bad
      if r.unver ≠ 0 then .done .unverifiable r.unver 0 r.s
      else
        let s1 := r.s.tickFresh
        let sealed := leBytes 65552 (Config.choice s1.fresh % 256 ^ 65552)
        .done .ok 0 65872 (s1.tickFresh.emit (.hostWrite (Sq.addr t.raw)
          (recordHead p (s.objOf n p) r.s.draw256 r.poison r.zero ++ sealed))))

/-- A page of the object whose release is granted (R339, R340). -/
def State.isReleased (s : State) (n p : Nat) : Bool :=
  match (s.comp n).release with
  | some x => x.st = 2 && s.objOf n p = x.obj && x.obj ≠ 0
  | none => false

/-- READ_RELEASED: the plaintext of a released page. -/
def execReadReleased (f : FuncNo) (q : PairNo) (bad : Option (Fin 1024 × Integ)) (s : State) :
    Host.Outcome State Fault Refusal :=
  ok (s.hostRun f.val q.val 5 true true releasedShape heldOnly fun t s =>
    let n := f.val - 1
    let p := pageOf (Sq.target t.raw)
    if !s.isReleased n p then
      .done .stateConflict 0x1010 0 ((s.incC Obj.hostCompStateConflicts n).faultOnce 0x1010 n f.val)
    else if !s.homedHere n p then .done .outOfRange 0x1002 0 (s.hostViolation f.val (some q.val) 0x1002)
    else
      let r := s.readPage n p bad
      if r.unver ≠ 0 then .done .unverifiable r.unver 0 r.s
      else if r.poison ≠ 0 then .done .poisoned 0 0 r.s
      else .done .ok 0 65536 (r.s.emit (.hostWrite (Sq.addr t.raw) r.bytes)))

/-! Peg operations (R242, R498). -/

/-- A handle with REMOTE = 1 is refused. -/
def pegShape (_ : State) (_ e : Nat) : Bool := !Hnd.remote (Sq.target e)

/-- The operation on a local peg; a try that would wait answers 1. -/
def State.hostPegAct (s : State) (n : Nat) (op : PegOp) (e : Nat) : Ends :=
  let h := Sq.target e
  if Hnd.bad h then .done .outOfRange 0x0704 0 (s.badHandle n)
  else match (s.compEvent n 0xA1 1).pegPerform n op (Hnd.peg h) (Sq.arg e) with
    | (.done v, s1) => .done .ok 0 v s1
    | (.wait, s1) => .done .ok 0 1 s1
    | (.refused c, s1) => .done (if c = 0x0705 then .accessDenied else .outOfRange) c 0 (s1.compEvent n 0xA3 1)

/-- HOST_PEG_POST. -/
def execHostPegPost (f : FuncNo) (q : PairNo) (s : State) : Host.Outcome State Fault Refusal :=
  ok (s.hostRun f.val q.val 8 false true pegShape attestedToHeld fun t s => s.hostPegAct (f.val - 1) .post t.raw)
/-- HOST_PEG_TRY. -/
def execHostPegTry (f : FuncNo) (q : PairNo) (s : State) : Host.Outcome State Fault Refusal :=
  ok (s.hostRun f.val q.val 9 false true pegShape attestedToHeld fun t s => s.hostPegAct (f.val - 1) .try_ t.raw)
/-- HOST_PEG_READ. -/
def execHostPegRead (f : FuncNo) (q : PairNo) (s : State) : Host.Outcome State Fault Refusal :=
  ok (s.hostRun f.val q.val 0x0A false true pegShape attestedToHeld fun t s => s.hostPegAct (f.val - 1) .read t.raw)

/-! Result mailboxes (R504-R507). -/

/-- The header of a mailbox (R504). -/
def MBox.header (m : MBox) : Nat :=
  if m.ready then pack [(0, m.gen), (32, 1), (64, m.readCount), (96, m.len), (128, m.published), (192, m.rtag)]
  else m.gen

/-- KIND names a mailbox; a read moves 4,096 bytes. -/
def mboxReadShape (_ : State) (_ e : Nat) : Bool := Sq.kind e < 64 && Sq.len e = 4096
def mboxAckShape (_ : State) (_ e : Nat) : Bool := Sq.kind e < 64 && Sq.arg e < 2 ^ 32

/-- MBOX_READ (R505). -/
def execMboxRead (f : FuncNo) (q : PairNo) (s : State) : Host.Outcome State Fault Refusal :=
  ok (s.hostRun f.val q.val 0x10 true true mboxReadShape attestedToHeld fun t s =>
    let n := f.val - 1
    let k := Sq.kind t.raw
    let m := s.mbox n k
    let send (s : State) (m : MBox) : State :=
      s.emit (.hostWrite (Sq.addr t.raw) (leBytes 64 m.header ++ padTo 4032 (if m.ready then m.payload else [])))
    if m.ready then
      let m1 := { m with readCount := (m.readCount + 1) % 2 ^ 32 }
      .done .ok 0 m.gen (send ((s.setMBox n k m1).incC Obj.hostCompMboxReads n) m1)
    else .done .notReady 0x100A 0 (send ((s.incC Obj.hostCompNotReadyReads n).faultOnce 0x100A n f.val) m))

/-- MBOX_ACK (R506): the result of the matching generation is retired. -/
def execMboxAck (f : FuncNo) (q : PairNo) (s : State) : Host.Outcome State Fault Refusal :=
  ok (s.hostRun f.val q.val 0x11 false true mboxAckShape attestedToHeld fun t s =>
    let n := f.val - 1
    let k := Sq.kind t.raw
    let m := s.mbox n k
    if m.ready && Sq.arg t.raw = m.gen then .done .ok 0 m.gen (s.setMBox n k { MBox.init with gen := m.gen })
    else .done .stateConflict 0x100B m.gen ((s.incC Obj.hostCompStaleAcks n).hostViolation f.val (some q.val) 0x100B))

/-! The publish unit (R505). -/

def Pb.mbox (e : Nat) : Nat := fld e 13 8
def Pb.peg (e : Nat) : Nat := fld e 29 16
def Pb.pegEn (e : Nat) : Bool := bit e 31
def Pb.len (e : Nat) : Nat := fld e 63 32
def Pb.src (e : Nat) : Nat := fld e 119 64
def Pb.rtag (e : Nat) : Nat := fld e 191 128
/-- The layout of an entry. -/
def Pb.sound (e : Nat) : Bool :=
  fld e 7 0 = 0x81 && fld e 15 14 = 0 && !bit e 30 && fld e 127 120 = 0 && fld e 511 192 = 0 && Pb.len e ≤ 4032 &&
    Pb.src e % 8 = 0

/-- DONE_PEG is posted when it is enabled and valid. -/
def State.pubPost (s : State) (n e : Nat) : State :=
  if Pb.pegEn e && s.pegOwned n (Pb.peg e) then s.unitPost n (Pb.peg e) else s

/-- An entry that fails. -/
def State.pubFail (s : State) (n e : Nat) : State := (s.faultOnce 0x100D n).pubPost n e

/-- The next ring entry is taken while fewer than 64 are open. -/
def State.pubTake (s : State) (n : Nat) (ring : Option SpanReply) : State :=
  let u := (s.comp n).pub
  let posted := ((s.peg (s.objC Obj.hostCompPubRingPeg n)).value + 2 ^ 32 - u.taken % 2 ^ 32) % 2 ^ 32
  if s.objC Obj.hostCompPubRingAddr n = 0 || posted = 0 || 64 ≤ u.opened.length then s
  else
    let a := s.objC Obj.hostCompPubRingAddr n + u.taken % max 1 (s.objC Obj.hostCompPubRingEntries n) * 64
    match s.unitFetch n a 64 ring with
    | (none, s1) => s1
    | (some bs, s1) =>
      let e := leNat bs
      let s2 := (s1.modComp n fun c =>
        { c with pub := { taken := c.pub.taken + 1,
                          opened := if Pb.sound e && (!Pb.pegEn e || s1.pegOwned n (Pb.peg e)) then c.pub.opened ++ [e]
                            else c.pub.opened } }).unitPost n (s1.objC Obj.hostCompPubTakenPeg n)
      if Pb.sound e && (!Pb.pegEn e || s1.pegOwned n (Pb.peg e)) then s2 else s2.pubFail n e

/-- Open entry k is published: its mailbox is not READY, and no older open entry is for it. -/
def State.pubWrite (s : State) (n k : Nat) (src : Option SpanReply) : State :=
  let os := (s.comp n).pub.opened
  match os[k]? with
  | none => s
  | some e =>
    let m := s.mbox n (Pb.mbox e)
    if m.ready || (os.take k).any fun x => Pb.mbox x = Pb.mbox e then s
    else
      let close (s : State) : State := s.modComp n fun c => { c with pub := { c.pub with opened := c.pub.opened.eraseIdx k } }
      let fill (s : State) (bs : List Byte) : State :=
        let g := if (m.gen + 1) % 2 ^ 32 = 0 then 1 else (m.gen + 1) % 2 ^ 32
        let s1 := (s.setMBox n (Pb.mbox e) { gen := g, ready := true, readCount := 0, len := Pb.len e, published := s.now,
                                             rtag := Pb.rtag e, payload := bs }).incC Obj.hostCompPublishes n
        ((close s1).vector (n + 1) (s1.objC Obj.hostCompMboxVectorBase n + Pb.mbox e)).pubPost n e
      match s.spanRead n .unit (Pb.src e) (Pb.len e) with
      | (.done bs, _, s1) => fill s1 bs
      | (.away _, _, s1) =>
        (match src with
         | some r => if r.fault = 0 then fill s1 (padTo (Pb.len e) r.data) else (close s1).pubFail n e
         | none => s)
      | (_, _, s1) => (close s1).pubFail n e

/-- PUBLISH_ENTRY: the unit takes the ring's next entry, and publishes its open entry k. `ring` and `src` are what a module
that homes the ring or the source answers. -/
def execPublishEntry (c : CompNo) (k : Nat) (ring src : Option SpanReply) (s : State) : Host.Outcome State Fault Refusal :=
  if !s.unitsRun c.val then ok s else ok ((s.pubTake c.val ring).pubWrite c.val k src)

end Sys2Proof.Machine
end

