-- ==== Sys2Proof/Machine/Xiesk.lean ====
section
/-! DEFINITION. Xiesk sessions on the management port (R530-R536) and the fabric read-only subset (R539, R540). -/

namespace Sys2Proof.Machine
open Sys2Proof

/-! Sources (R536). -/

def State.source (s : State) (src : Nat) : Source := kget ⟨[], none⟩ s.xiesk.sources src
def State.setSource (s : State) (src : Nat) (x : Source) : State :=
  { s with xiesk := { s.xiesk with sources := kput ⟨[], none⟩ s.xiesk.sources src x } }

/-- The management port hears a source: it is powered, and the source is not ignored. -/
def State.hears (s : State) (src : Nat) : Bool := s.mode ≠ .off && (s.source src).ignoreTo.isNone

/-- A fault of 0x1101-0x1104 of a source: counted and logged; the 64th within 2^36 ns has it ignored for 60 s. -/
def State.sourceFault (s : State) (src code : Nat) (subject : Nat := 0) : State :=
  let dropped := code = 0x1101 || code = 0x1104
  let s1 := if dropped then (s.inc Obj.sessDropped).faultOnce code noComp subject
    else (s.inc Obj.sessHandshakesRefused).fault code noComp subject
  let fs := s.now :: (s.source src).faults.filter fun t => decide (s.now < t + 2 ^ 36)
  if fs.length < 64 then s1.setSource src ⟨fs, none⟩
  else ((s1.setSource src ⟨[], some (s.now + 60000000000)⟩).inc Obj.sessQuarantines).fault 0x1107

/-- An unsealed CLOSE that carries a reply code. -/
def State.refuseWith (s : State) (src ident : Nat) (st : Status) : State :=
  s.emit (.segment src 5 ident (leBytes 1 st.code))

/-- SOURCE_IGNORE_END. -/
def execSourceIgnoreEnd (src : BitVec 128) (s : State) : Host.Outcome State Fault Refusal :=
  match (s.source src.toNat).ignoreTo with
  | some t => if t ≤ s.now then ok (s.setSource src.toNat ⟨[], none⟩) else ok s
  | none => ok s

/-! Handshakes (R532). -/

/-- A role a session may take. -/
def sessionRole : Role → Bool
  | .management => true
  | .observer => true
  | .compartment _ => true
  | _ => false

/-- The compartment of a role exists for sessions: neither FREE nor CLOSING. -/
def State.roleLives (s : State) : Role → Bool
  | .compartment n => (s.comp n.val).st ≠ .free && (s.comp n.val).st ≠ .closing
  | _ => true

def State.sessionsOpen (s : State) : Nat := (s.xiesk.sess.filter fun q => q.2.isSome).length
def State.freeSess (s : State) : Option Nat := firstBelow 8 fun k => (s.sess k).isNone
def State.setHands (s : State) (hs : List Handshake) : State := { s with xiesk := { s.xiesk with hands := hs } }

/-- The anchors of a role: four digests of root keys, zero for one unused (R514, R541). -/
def State.anchors (s : State) (r : Role) : List Nat :=
  let v := match r with
    | .management => s.obj Obj.sessAnchorMgr
    | .observer => s.obj Obj.sessAnchorObs
    | .compartment n => s.objC Obj.sessCompAnchor n.val
    | _ => 0
  ((List.range 4).map fun i => fld v (384 * i + 383) (384 * i)).filter fun a => decide (a ≠ 0)

/-- The chain of an INIT verifies to an anchor of the role it asks for (R532 step 2). -/
def State.anchored (s : State) (m : InitSeg) : Bool := m.verified && (s.anchors m.role).contains m.root.toNat

/-- XIESK_INIT: refused, turned away, dropped, or answered with ACCEPT as soon as no report waits for the identity key. -/
def execXieskInit (m : InitSeg) (s : State) : Host.Outcome State Fault Refusal :=
  let src := m.src.toNat
  if !s.hears src then ok s
  else if !m.sound || !sessionRole m.role then ok ((s.refuseWith src 0 .accessDenied).sourceFault src 0x1102)
  else if s.obj Obj.sessMaxSessions ≤ s.sessionsOpen then ok (s.refuseWith src 0 .rateLimited)
  else if 4 ≤ (s.xiesk.hands.filter fun h => !h.accepted).length then ok (s.sourceFault src 0x1103)
  else if !s.anchored m || !s.roleLives m.role then ok ((s.refuseWith src 0 .accessDenied).sourceFault src 0x1102)
  else
    let id := s.xiesk.nextIdent
    let h : Handshake := { source := src, ident := id, role := m.role, cert := m.cert.toNat, since := s.now, accepted := false, keys := 0 }
    let s1 : State := { s with xiesk := { s.xiesk with hands := s.xiesk.hands ++ [h],
                                                        nextIdent := if id + 1 < 2 ^ 32 then id + 1 else 1 } }
    ok s1.acceptWaiting

/-- XIESK_CONFIRM: the client's signature opens the session, or is refused. -/
def execXieskConfirm (m : ConfirmSeg) (s : State) : Host.Outcome State Fault Refusal :=
  let src := m.src.toNat
  let id := m.ident.toNat
  if !s.hears src then ok s
  else if !m.sound then ok (s.sourceFault src 0x1101)
  else match s.xiesk.hands.find? fun h => h.ident = id && h.source = src && h.accepted with
    | none => ok (s.sourceFault src 0x1101)
    | some h =>
      if !m.tagOk then ok (s.sourceFault src 0x1104)
      else
        let s1 := s.setHands (s.xiesk.hands.filter fun x => decide (x.ident ≠ id))
        if !m.signed || !s.roleLives h.role then
          ok (((s1.emit (.segment src 3 id (leBytes 1 Status.accessDenied.code))).refuseWith src id .accessDenied).sourceFault src
            0x1102)
        else match s1.freeSess with
          | none => ok (s1.refuseWith src id .rateLimited)
          | some k =>
            let x : Sess := { role := h.role, ident := id, peer := src, cert := h.cert, opened := s.now, last := s.now, messages := 0,
                              authFail := 0, drops := [], rxHigh := 1, window := [], txNext := 2, keys := h.keys, parts := [] }
            ok ((s1.setSess k (some x)).emit (.segment src 3 id [0]))

/-- HANDSHAKE_TIMEOUT. -/
def execHandshakeTimeout (ident : W32) (s : State) : Host.Outcome State Fault Refusal :=
  ok (s.setHands (s.xiesk.hands.filter fun h => decide (h.ident ≠ ident.toNat) || decide (s.now < h.since + 10000000000)))

/-! Messages (R531, R533-R535). -/

/-- The slot of the session a segment names. -/
def State.slotOf (s : State) (ident : Nat) : Option Nat :=
  firstBelow 8 fun k => match s.sess k with
    | some x => x.ident = ident
    | none => false

/-- A drop of 0x1104 on a session: the 16th within 2^36 ns ends it (R536). -/
def State.authDrop (s : State) (k src : Nat) : State :=
  let s1 := s.sourceFault src 0x1104 k
  match s1.sess k with
  | none => s1
  | some x =>
    let ds := s.now :: x.drops.filter fun t => decide (s.now < t + 2 ^ 36)
    let s2 := s1.setSess k (some { x with drops := ds, authFail := x.authFail + 1 })
    if 16 ≤ ds.length then (s2.endSession k).fault 0x1105 noComp k else s2

/-- A counter is new to a session: above the highest accepted, or one of the 64 below it not yet seen (R533). -/
def Sess.fresh (x : Sess) (c : Nat) : Bool :=
  1 ≤ c && (decide (x.rxHigh < c) || (decide (c < x.rxHigh) && decide (x.rxHigh ≤ c + 64) && !x.window.contains c))

/-- A counter is accepted; `window` keeps those within 64 below the highest. -/
def Sess.accept (x : Sess) (c : Nat) : Sess :=
  let high := max x.rxHigh c
  { x with rxHigh := high, window := ((x.rxHigh :: c :: x.window).filter fun w => decide (w < high) && decide (high ≤ w + 64)).eraseDups }

/-- The fields of a segment agree with MSG_BYTES (R531). -/
def segFits (m : DataSeg) : Bool :=
  let bytes := m.bytes.toNat
  let count := m.count.toNat
  let i := m.index.toNat
  1 ≤ count && count ≤ 256 && 1 ≤ bytes && count = ceilDiv bytes 1192 && i < count && m.last = decide (i + 1 = count) &&
    m.data.length = (if i + 1 = count then bytes - 1192 * i else 1192)

/-- Messages of a session whose reply to a CLOSE waits (R528, R535). -/
def State.outstanding (s : State) (k ident : Nat) : Nat :=
  ((List.range 8).filterMap fun n => match (s.comp n).closeTo with
    | some (.session j i id) => if j = k && i = ident then some id else none
    | _ => none).eraseDups.length

/-- A segment joins the message of its counter: the session with it, and the message when it is complete. -/
def Sess.join (x : Sess) (m : DataSeg) (now : Nat) : Sess × Option (List Byte) :=
  let c := m.counter.toNat
  let p : Partial := (x.parts.find? fun p => p.counter = c).getD ⟨c, m.count.toNat, m.bytes.toNat, now, []⟩
  let segs := kput [] p.segs m.index.toNat m.data
  let others := x.parts.filter fun p => decide (p.counter ≠ c)
  if segs.length < p.count then ({ x with parts := others ++ [{ p with segs := segs }] }, none)
  else ({ x with parts := others, messages := x.messages + 1, last := now }, some (segs.flatMap (·.2)))

/-- A message of a session is executed and answered (R527-R529, R535). -/
def State.sessionMessage (s : State) (k : Nat) (x : Sess) (b : List Byte) (ext : List DictExt) : State :=
  let m := s.doMessage x.role true (decide (4 ≤ s.outstanding k x.ident)) replyMax b ext
  let s1 := m.holds.foldl (fun a h => a.modComp h.1 fun c => { c with closeTo := some (.session k x.ident (msgId b)) }) m.s
  let now_ := m.parts.filter fun p => !p.isEmpty
  if now_.isEmpty then s1
  else
    let reply := message 1 (msgId b) now_
    match s1.sess k with
    | some _ => s1.sessionSend k x.ident reply
    | none =>
      if s1.roleLives x.role then s1
      else
        let bye : Output := .segment x.peer 5 x.ident []
        let s2 : State := { s1 with out := s1.out.erase bye }
        let s3 := s2.emits ((segments reply).map fun p => .segment x.peer 4 x.ident p)
        s3.emit bye

/-- XIESK_DATA: a segment is dropped, or joins its message, which is executed when complete. -/
def execXieskData (m : DataSeg) (ext : List DictExt) (s : State) : Host.Outcome State Fault Refusal :=
  let src := m.src.toNat
  let c := m.counter.toNat
  if !s.hears src then ok s
  else if !m.sound || !segFits m then ok (s.sourceFault src 0x1101)
  else match s.slotOf m.ident.toNat with
    | none => ok (s.sourceFault src 0x1101)
    | some k =>
      match s.sess k with
      | none => ok (s.sourceFault src 0x1101)
      | some x =>
        if !m.tagOk then ok (s.authDrop k src)
        else
          let known := x.parts.find? fun p => p.counter = c
          match known with
          | some p =>
            if p.count ≠ m.count.toNat || p.bytes ≠ m.bytes.toNat then ok (s.sourceFault src 0x1101)
            else
              let (x1, msg) := x.join m s.now
              let s1 := s.setSess k (some x1)
              match msg with
              | some b => ok (s1.sessionMessage k x1 b ext)
              | none => ok s1
          | none =>
            if !x.fresh c then ok (s.authDrop k src)
            else if 8 ≤ x.parts.length && 1 < m.count.toNat then ok s
            else
              let (x1, msg) := (x.accept c).join m s.now
              let s1 := s.setSess k (some x1)
              match msg with
              | some b => ok (s1.sessionMessage k x1 b ext)
              | none => ok s1

/-- XIESK_CLOSE: the client ends its session. -/
def execXieskClose (src : BitVec 128) (ident : W32) (sound tagOk : Bool) (s : State) : Host.Outcome State Fault Refusal :=
  if !s.hears src.toNat then ok s
  else if !sound then ok (s.sourceFault src.toNat 0x1101)
  else match s.slotOf ident.toNat with
    | none => ok (s.sourceFault src.toNat 0x1101)
    | some k => if tagOk then ok (s.endSession k) else ok (s.authDrop k src.toNat)

/-- PARTIAL_MESSAGE_TIMEOUT. -/
def execPartialMessageTimeout (slot : Fin 8) (counter : W64) (s : State) : Host.Outcome State Fault Refusal :=
  match s.sess slot.val with
  | none => ok s
  | some x =>
    let left := x.parts.filter fun p => decide (p.counter ≠ counter.toNat) || decide (s.now < p.since + 1000000000)
    ok (s.setSess slot.val (some { x with parts := left }))

/-- SESSION_IDLE_TIMEOUT. -/
def execSessionIdleTimeout (slot : Fin 8) (s : State) : Host.Outcome State Fault Refusal :=
  match s.sess slot.val with
  | none => ok s
  | some x => if x.last + s.obj Obj.sessIdleTimeoutS * 1000000000 ≤ s.now then ok (s.endSession slot.val) else ok s

/-- SESSION_LIFETIME: the time has passed, or a direction has used 2^32 counters. -/
def execSessionLifetime (slot : Fin 8) (s : State) : Host.Outcome State Fault Refusal :=
  match s.sess slot.val with
  | none => ok s
  | some x =>
    if x.opened + s.obj Obj.sessLifetimeS * 1000000000 ≤ s.now || 2 ^ 32 ≤ x.rxHigh || 2 ^ 32 < x.txNext then
      ok (s.endSession slot.val)
    else ok s

/-- SESS_CLOSE. -/
def execSessClose (r : Role) (slot : Byte) (s : State) : Host.Outcome State Fault Refusal :=
  match s.checkWrite r Obj.sessClose slot.toNat with
  | .ok => ok ((s.endSession slot.toNat).reply .ok)
  | st => ok (s.reply st)

/-! The fabric read-only subset (R539, R540). -/

/-- A violation that only counts toward the limit of a port (R312, R540). -/
def State.limitViolation (s : State) (p : Nat) : State :=
  let runs := s.runsOf p
  let s1 := (s.violation p 0).modPort p fun x => { x with runs := runs }
  if s.obj Obj.fabViolationLimit ≤ runs.length then s1.isolate p 0x0908 else s1

def Ro.sub (o : Nat) : Nat := fld o 15 8
def Ro.index (o : Nat) : Nat := fld o 31 16
def Ro.off (o : Nat) : Nat := fld o 79 48
def Ro.len (o : Nat) : Nat := fld o 95 80
/-- A request: MSG 0, reply fields and reserved bits zero, 1 to 1,024 bytes. -/
def Ro.sound (o : Nat) : Bool :=
  fld o 7 0 = 0 && fld o 47 32 = 0 && fld o 255 96 = 0 && 1 ≤ Ro.len o && Ro.len o ≤ 1024

/-- The reply packet. -/
def State.roReply (s : State) (node tag o code type total : Nat) (data : List Byte) : State :=
  let lines := ceilDiv data.length 64
  let p : Packet :=
    { op := 0x41, lines := lines, src := s.obj Obj.fabNode, dst := node, job := 0, addr := 0, tag := tag, status := 0,
      operand := pack [(0, 1), (8, Ro.sub o), (16, Ro.index o), (32, code), (40, type), (48, Ro.off o), (80, data.length), (96, total)],
      data := padTo (64 * lines) data }
  { (s.inc Obj.sessFabricReads) with egress := s.egress ++ [⟨p, none, none⟩] }

/-- Requests of a node in the present second, this one included. -/
def State.roCount (s : State) (node : Nat) : Nat :=
  let (sec, k) := kget (0, 0) s.xiesk.roCounts node
  if sec = s.now / 1000000000 then k + 1 else 1

/-- DICT_RO_REQUEST: answered with the part it asks for, a refusal, or RATE_LIMITED. -/
def execDictRoRequest (p : PortNo) (node : BitVec 16) (tag : W32) (op : BitVec 256) (s : State) :
    Host.Outcome State Fault Refusal :=
  let o := op.toNat
  let nd := node.toNat
  let key := Ro.index o * 256 + Ro.sub o
  if (s.port p.val).st ≠ .up then ok s
  else
    let k := s.roCount nd
    let s1 : State := { s with xiesk := { s.xiesk with roCounts := kput (0, 0) s.xiesk.roCounts nd (s.now / 1000000000, k) } }
    let refused (code : Status) (type total : Nat) : State :=
      (s1.faultOnce 0x110A noComp p.val).roReply nd tag.toNat o code.code type total []
    if s.obj Obj.sessFabricRoRate < k then ok (s1.roReply nd tag.toNat o Status.rateLimited.code 0 0 [])
    else if !Ro.sound o then ok ((refused .outOfRange 0 0).limitViolation p.val)
    else match objRow key with
      | none => ok (refused .outOfRange 0 0)
      | some row =>
        if !roleReads .fabricPeer row key then ok (refused .accessDenied row.type row.size)
        else if row.size < Ro.off o + Ro.len o then ok ((refused .outOfRange row.type row.size).limitViolation p.val)
        else ok (s1.roReply nd tag.toNat o Status.ok.code row.type row.size
          (slice (leBytes row.size (s.dictValue .fabricPeer row key)) (Ro.off o) (Ro.len o)))

end Sys2Proof.Machine
end

