-- ==== Sys2Proof/Machine/Dispatch.lean ====
section
/-! DEFINITION. exec: each command calls its meaning. -/

namespace Sys2Proof.Machine
open Sys2Proof

def exec (i : Instr) (s : State) : Host.Outcome State Fault Refusal :=
  match i with
  | .cadenceWindow samples => Sys2Proof.Machine.execCadenceWindow samples s
  | .boostEntry d => Sys2Proof.Machine.execBoostEntry d s
  | .boostRailStep d lowest => Sys2Proof.Machine.execBoostRailStep d lowest s
  | .boostExit d => Sys2Proof.Machine.execBoostExit d s
  | .pacerPermit c deficit => Sys2Proof.Machine.execPacerPermit c deficit s
  | .retainEntry t => Sys2Proof.Machine.execRetainEntry t s
  | .tileWake t => Sys2Proof.Machine.execTileWake t s
  | .tileHandshakeTimeout t waitedUs => Sys2Proof.Machine.execTileHandshakeTimeout t waitedUs s
  | .tilePowerFail t => Sys2Proof.Machine.execTilePowerFail t s
  | .tileStoreError t word uncorrectable => Sys2Proof.Machine.execTileStoreError t word uncorrectable s
  | .fencedSlotComplete t slot => Sys2Proof.Machine.execFencedSlotComplete t slot s
  | .unfence r tileNo passes => Sys2Proof.Machine.execUnfence r tileNo passes s
  | .seamFrameReceive l tagOk => Sys2Proof.Machine.execSeamFrameReceive l tagOk s
  | .mxPost t rd rs1 => Sys2Proof.Machine.execMxPost t rd rs1 s
  | .mxOpExecute t => Sys2Proof.Machine.execMxOpExecute t s
  | .mxAccUncorrectable t acc => Sys2Proof.Machine.execMxAccUncorrectable t acc s
  | .mxOpComplete t => Sys2Proof.Machine.execMxOpComplete t s
  | .mxTrapClear r c v => Sys2Proof.Machine.execMxTrapClear r c v s
  | .vxPost t rd rs1 => Sys2Proof.Machine.execVxPost t rd rs1 s
  | .vxChainExecute t => Sys2Proof.Machine.execVxChainExecute t s
  | .vxRegUncorrectable t group => Sys2Proof.Machine.execVxRegUncorrectable t group s
  | .vxChainComplete t => Sys2Proof.Machine.execVxChainComplete t s
  | .vxTrapClear r c v => Sys2Proof.Machine.execVxTrapClear r c v s
  | .userInstruction t => Sys2Proof.Machine.execUserInstruction t s
  | .eventDivert t => Sys2Proof.Machine.execEventDivert t s
  | .yeventsWrite t v => Sys2Proof.Machine.execYeventsWrite t v s
  | .spanLoad t rd addr log2 unsigned float => Sys2Proof.Machine.execSpanLoad t rd addr log2 unsigned float s
  | .spanStore t addr log2 data => Sys2Proof.Machine.execSpanStore t addr log2 data s
  | .spanAmo t op rd addr wide data aq rl => Sys2Proof.Machine.execSpanAmo t op rd addr wide data aq rl s
  | .tileLr t rd addr wide aq => Sys2Proof.Machine.execTileLr t rd addr wide aq s
  | .tileSc t rd addr wide data rl => Sys2Proof.Machine.execTileSc t rd addr wide data rl s
  | .fence t pred succ => Sys2Proof.Machine.execFence t pred succ s
  | .spanResponseReceive t slot remote => Sys2Proof.Machine.execSpanResponseReceive t slot remote s
  | .slotGrant t => Sys2Proof.Machine.execSlotGrant t s
  | .gxPost t rd rs1 rs2 => Sys2Proof.Machine.execGxPost t rd rs1 rs2 s
  | .engSpace t rd rs1 => Sys2Proof.Machine.execEngSpace t rd rs1 s
  | .thrStart t rd rs1 rs2 => Sys2Proof.Machine.execThrStart t rd rs1 rs2 s
  | .thrExit t => Sys2Proof.Machine.execThrExit t s
  | .thrYield t => Sys2Proof.Machine.execThrYield t s
  | .thrRet t => Sys2Proof.Machine.execThrRet t s
  | .runaheadEntry t beats => Sys2Proof.Machine.execRunaheadEntry t beats s
  | .runaheadLimit t beats => Sys2Proof.Machine.execRunaheadLimit t beats s
  | .runaheadExit t => Sys2Proof.Machine.execRunaheadExit t s
  | .prefetchAgeOut t core line => Sys2Proof.Machine.execPrefetchAgeOut t core line s
  | .gxDescExecute t eng remote bad => Sys2Proof.Machine.execGxDescExecute t eng remote bad s
  | .gxRingAdvance t eng remote bad => Sys2Proof.Machine.execGxRingAdvance t eng remote bad s
  | .gxComplete t eng => Sys2Proof.Machine.execGxComplete t eng s
  | .prepFaultClear r c v => Sys2Proof.Machine.execPrepFaultClear r c v s
  | .verdictApply c remote => Sys2Proof.Machine.execVerdictApply c remote s
  | .numEventClear r c v => Sys2Proof.Machine.execNumEventClear r c v s
  | .plumbLineAccept c remote => Sys2Proof.Machine.execPlumbLineAccept c remote s
  | .paramLinePublish c => Sys2Proof.Machine.execParamLinePublish c s
  | .updRingTake c remote => Sys2Proof.Machine.execUpdRingTake c remote s
  | .updCommitEvaluate c entry => Sys2Proof.Machine.execUpdCommitEvaluate c entry s
  | .updConfirmTimeout c entry => Sys2Proof.Machine.execUpdConfirmTimeout c entry s
  | .updCommitCopyDone c entry => Sys2Proof.Machine.execUpdCommitCopyDone c entry s
  | .noiseFillDone c entry => Sys2Proof.Machine.execNoiseFillDone c entry s
  | .updEventClear r c v => Sys2Proof.Machine.execUpdEventClear r c v s
  | .segWrite r c v => Sys2Proof.Machine.execSegWrite r c v s
  | .segClear r c v => Sys2Proof.Machine.execSegClear r c v s
  | .spanRequestReceive src it => Sys2Proof.Machine.execSpanRequestReceive src it s
  | .metacacheUncorrectable c group entry => Sys2Proof.Machine.execMetacacheUncorrectable c group entry s
  | .pegPost t rd rs1 rs2 => Sys2Proof.Machine.execPegPost t rd rs1 rs2 s
  | .pegWait t rd rs1 rs2 => Sys2Proof.Machine.execPegWait t rd rs1 rs2 s
  | .pegTry t rd rs1 rs2 => Sys2Proof.Machine.execPegTry t rd rs1 rs2 s
  | .pegRead t rd rs1 rs2 => Sys2Proof.Machine.execPegRead t rd rs1 rs2 s
  | .remotePegOperation node tag job op peg rs2 => Sys2Proof.Machine.execRemotePegOperation node tag job op peg rs2 s
  | .remotePegReply t status value registered => Sys2Proof.Machine.execRemotePegReply t status value registered s
  | .remoteTimeout t slot => Sys2Proof.Machine.execRemoteTimeout t slot s
  | .defineWrite r c v => Sys2Proof.Machine.execDefineWrite r c v s
  | .placeDefine c remote => Sys2Proof.Machine.execPlaceDefine c remote s
  | .placePromote c remote => Sys2Proof.Machine.execPlacePromote c remote s
  | .placeEvict c remote => Sys2Proof.Machine.execPlaceEvict c remote s
  | .placeUnpin c remote => Sys2Proof.Machine.execPlaceUnpin c remote s
  | .placeStream c remote slots => Sys2Proof.Machine.execPlaceStream c remote slots s
  | .placeRetire c remote => Sys2Proof.Machine.execPlaceRetire c remote s
  | .pageMoveStart c page => Sys2Proof.Machine.execPageMoveStart c page s
  | .pageOwnershipStep c page verifies => Sys2Proof.Machine.execPageOwnershipStep c page verifies s
  | .lendOfferWrite r v => Sys2Proof.Machine.execLendOfferWrite r v s
  | .leaseRequest node job comp ckpt => Sys2Proof.Machine.execLeaseRequest node job comp ckpt s
  | .leaseGrantReceive c range granted => Sys2Proof.Machine.execLeaseGrantReceive c range granted s
  | .leaseHeartbeat side => Sys2Proof.Machine.execLeaseHeartbeat side s
  | .leaseRelease side => Sys2Proof.Machine.execLeaseRelease side s
  | .leaseScrubDone lease => Sys2Proof.Machine.execLeaseScrubDone lease s
  | .reclaim r group => Sys2Proof.Machine.execReclaim r group s
  | .reclaimNoticeReceive c node lease dMs => Sys2Proof.Machine.execReclaimNoticeReceive c node lease dMs s
  | .reclaimDeadline c node lease => Sys2Proof.Machine.execReclaimDeadline c node lease s
  | .forceRelease side => Sys2Proof.Machine.execForceRelease side s
  | .heartbeatMissLimit c node lease => Sys2Proof.Machine.execHeartbeatMissLimit c node lease s
  | .lenderIsolated c node => Sys2Proof.Machine.execLenderIsolated c node s
  | .tierLeaseOrphaned lease => Sys2Proof.Machine.execTierLeaseOrphaned lease s
  | .flashProgramDone c page => Sys2Proof.Machine.execFlashProgramDone c page s
  | .flashGc c page => Sys2Proof.Machine.execFlashGc c page s
  | .flashBlockRetire ch sparePct => Sys2Proof.Machine.execFlashBlockRetire ch sparePct s
  | .quotaWrite r c which v => Sys2Proof.Machine.execQuotaWrite r c which v s
  | .tierEventClear r c v => Sys2Proof.Machine.execTierEventClear r c v s
  | .fabricConfigWrite r which v => Sys2Proof.Machine.execFabricConfigWrite r which v s
  | .portRearm r v => Sys2Proof.Machine.execPortRearm r v s
  | .portTrain p lanes rtt => Sys2Proof.Machine.execPortTrain p lanes rtt s
  | .keyingFrameReceive p f => Sys2Proof.Machine.execKeyingFrameReceive p f s
  | .keyingRepeat p => Sys2Proof.Machine.execKeyingRepeat p s
  | .keyingTimeout p => Sys2Proof.Machine.execKeyingTimeout p s
  | .linkFrameReceive p f => Sys2Proof.Machine.execLinkFrameReceive p f s
  | .dataFrameSend p vc count => Sys2Proof.Machine.execDataFrameSend p vc count s
  | .dataFrameReceive p f pkts => Sys2Proof.Machine.execDataFrameReceive p f pkts s
  | .replayReqReceive p f => Sys2Proof.Machine.execReplayReqReceive p f s
  | .auditEpochEnd p => Sys2Proof.Machine.execAuditEpochEnd p s
  | .auditFrameReceive p f a => Sys2Proof.Machine.execAuditFrameReceive p f a s
  | .recreditFrameReceive p f next shares => Sys2Proof.Machine.execRecreditFrameReceive p f next shares s
  | .rekeyStart p => Sys2Proof.Machine.execRekeyStart p s
  | .rekeyFrameReceive p f sound => Sys2Proof.Machine.execRekeyFrameReceive p f sound s
  | .undeliveredReceive tag => Sys2Proof.Machine.execUndeliveredReceive tag s
  | .nodeMapWrite r c v => Sys2Proof.Machine.execNodeMapWrite r c v s
  | .nodeMapClear r c v => Sys2Proof.Machine.execNodeMapClear r c v s
  | .compCreate r c => Sys2Proof.Machine.execCompCreate r c s
  | .compAttest r c => Sys2Proof.Machine.execCompAttest r c s
  | .compStart r c => Sys2Proof.Machine.execCompStart r c s
  | .compHold r c => Sys2Proof.Machine.execCompHold r c s
  | .compResume r c => Sys2Proof.Machine.execCompResume r c s
  | .compClose r c => Sys2Proof.Machine.execCompClose r c s
  | .compCloseNow r c => Sys2Proof.Machine.execCompCloseNow r c s
  | .deferredCloseExecute c => Sys2Proof.Machine.execDeferredCloseExecute c s
  | .closeDeferTimeout c => Sys2Proof.Machine.execCloseDeferTimeout c s
  | .flashEraseDone channel => Sys2Proof.Machine.execFlashEraseDone channel s
  | .contribWrite r c v => Sys2Proof.Machine.execContribWrite r c v s
  | .keyDeliver r c record opened => Sys2Proof.Machine.execKeyDeliver r c record opened s
  | .tallyClose c => Sys2Proof.Machine.execTallyClose c s
  | .tallyPostReceive c module step counts => Sys2Proof.Machine.execTallyPostReceive c module step counts s
  | .tallyPostRetry c module step => Sys2Proof.Machine.execTallyPostRetry c module step s
  | .releaseRequest r c v => Sys2Proof.Machine.execReleaseRequest r c v s
  | .releaseApprove r c v signed => Sys2Proof.Machine.execReleaseApprove r c v signed s
  | .releaseExpired c => Sys2Proof.Machine.execReleaseExpired c s
  | .krDescWrite r c range v => Sys2Proof.Machine.execKrDescWrite r c range v s
  | .integEventClear r c v => Sys2Proof.Machine.execIntegEventClear r c v s
  | .entropyFail => Sys2Proof.Machine.execEntropyFail s
  | .svnAdvance r cls => Sys2Proof.Machine.execSvnAdvance r cls s
  | .reportRequest r c nonce => Sys2Proof.Machine.execReportRequest r c nonce s
  | .moduleReportRequest r nonce => Sys2Proof.Machine.execModuleReportRequest r nonce s
  | .reportSigned signature => Sys2Proof.Machine.execReportSigned signature s
  | .slotMeasure c entry next ledger => Sys2Proof.Machine.execSlotMeasure c entry next ledger s
  | .getVersion sess sound => Sys2Proof.Machine.execGetVersion sess sound s
  | .getCapabilities sess sound => Sys2Proof.Machine.execGetCapabilities sess sound s
  | .negotiateAlgorithms sess sound => Sys2Proof.Machine.execNegotiateAlgorithms sess sound s
  | .getDigests sess sound => Sys2Proof.Machine.execGetDigests sess sound s
  | .getCertificate sess sound slot off len => Sys2Proof.Machine.execGetCertificate sess sound slot off len s
  | .challenge sess sound ready => Sys2Proof.Machine.execChallenge sess sound ready s
  | .getMeasurements sess sound block signed ready => Sys2Proof.Machine.execGetMeasurements sess sound block signed ready s
  | .kemEncap sess sound => Sys2Proof.Machine.execKemEncap sess sound s
  | .pskExchange sess sound hint => Sys2Proof.Machine.execPskExchange sess sound hint s
  | .pskFinish sess sound => Sys2Proof.Machine.execPskFinish sess sound s
  | .keyUpdate sess sound => Sys2Proof.Machine.execKeyUpdate sess sound s
  | .spdmHeartbeat sess sound => Sys2Proof.Machine.execSpdmHeartbeat sess sound s
  | .endSession sess sound => Sys2Proof.Machine.execEndSession sess sound s
  | .chunkGet sess sound chunk => Sys2Proof.Machine.execChunkGet sess sound chunk s
  | .spdmUnsupportedRequest sess => Sys2Proof.Machine.execSpdmUnsupportedRequest sess s
  | .spdmLockoutEnd => Sys2Proof.Machine.execSpdmLockoutEnd s
  | .keyProg sess sound c => Sys2Proof.Machine.execKeyProg sess sound c s
  | .kSetGo sess sound c => Sys2Proof.Machine.execKSetGo sess sound c s
  | .kSetStop sess sound c => Sys2Proof.Machine.execKSetStop sess sound c s
  | .lockInterface sess sound c => Sys2Proof.Machine.execLockInterface sess sound c s
  | .getDeviceInterfaceReport sess sound c => Sys2Proof.Machine.execGetDeviceInterfaceReport sess sound c s
  | .startInterface sess sound c => Sys2Proof.Machine.execStartInterface sess sound c s
  | .stopInterface sess sound c => Sys2Proof.Machine.execStopInterface sess sound c s
  | .tdiError c streamLost => Sys2Proof.Machine.execTdiError c streamLost s
  | .setWrite r c v => Sys2Proof.Machine.execSetWrite r c v s
  | .boundaryTake c remote => Sys2Proof.Machine.execBoundaryTake c remote s
  | .ckptPageCopy c page => Sys2Proof.Machine.execCkptPageCopy c page s
  | .shardPostReceive c module step digest bytes locs => Sys2Proof.Machine.execShardPostReceive c module step digest bytes locs s
  | .shardPostRetry c module => Sys2Proof.Machine.execShardPostRetry c module s
  | .dovetailCommit c => Sys2Proof.Machine.execDovetailCommit c s
  | .dovetailTimeout c => Sys2Proof.Machine.execDovetailTimeout c s
  | .abandonPostReceive c step => Sys2Proof.Machine.execAbandonPostReceive c step s
  | .copyAheadDone c page => Sys2Proof.Machine.execCopyAheadDone c page s
  | .copyAheadTimeout c page => Sys2Proof.Machine.execCopyAheadTimeout c page s
  | .ckptCopyLost c slot copy => Sys2Proof.Machine.execCkptCopyLost c slot copy s
  | .ckptHoldupDeadline c => Sys2Proof.Machine.execCkptHoldupDeadline c s
  | .restoreRequest r c v found => Sys2Proof.Machine.execRestoreRequest r c v found s
  | .restoreSetReceive c rid module set => Sys2Proof.Machine.execRestoreSetReceive c rid module set s
  | .restoreTimeout c => Sys2Proof.Machine.execRestoreTimeout c s
  | .restoreAbortPost c rid => Sys2Proof.Machine.execRestoreAbortPost c rid s
  | .phaseMarkTake c remote => Sys2Proof.Machine.execPhaseMarkTake c remote s
  | .phaseOverrun c => Sys2Proof.Machine.execPhaseOverrun c s
  | .inputApplied mv bad => Sys2Proof.Machine.execInputApplied mv bad s
  | .inputLow mv => Sys2Proof.Machine.execInputLow mv s
  | .inputLoss mv => Sys2Proof.Machine.execInputLoss mv s
  | .inputOvervoltage mv => Sys2Proof.Machine.execInputOvervoltage mv s
  | .inputPowerSample watts common => Sys2Proof.Machine.execInputPowerSample watts common s
  | .powerLimitEval => Sys2Proof.Machine.execPowerLimitEval s
  | .inputLimitWrite r v => Sys2Proof.Machine.execInputLimitWrite r v s
  | .allotWrite r c v => Sys2Proof.Machine.execAllotWrite r c v s
  | .governorWindow => Sys2Proof.Machine.execGovernorWindow s
  | .valveTick x => Sys2Proof.Machine.execValveTick x s
  | .coolantFlowLow x => Sys2Proof.Machine.execCoolantFlowLow x s
  | .coolantInletRange x => Sys2Proof.Machine.execCoolantInletRange x s
  | .thermalEval x => Sys2Proof.Machine.execThermalEval x s
  | .thermalEmergency x => Sys2Proof.Machine.execThermalEmergency x s
  | .thermalFault x => Sys2Proof.Machine.execThermalFault x s
  | .busWarnAssert => Sys2Proof.Machine.execBusWarnAssert s
  | .busWarnDeassert => Sys2Proof.Machine.execBusWarnDeassert s
  | .holdupPause => Sys2Proof.Machine.execHoldupPause s
  | .holdupExit mv => Sys2Proof.Machine.execHoldupExit mv s
  | .ptpSync x => Sys2Proof.Machine.execPtpSync x s
  | .ptpFollowUp x => Sys2Proof.Machine.execPtpFollowUp x s
  | .ptpDelayReq x => Sys2Proof.Machine.execPtpDelayReq x s
  | .ptpDelayResp x => Sys2Proof.Machine.execPtpDelayResp x s
  | .ptpAnnounce x => Sys2Proof.Machine.execPtpAnnounce x s
  | .ptpSyncSend p => Sys2Proof.Machine.execPtpSyncSend p s
  | .ptpAnnounceSend p => Sys2Proof.Machine.execPtpAnnounceSend p s
  | .ptpDelayReqSend p => Sys2Proof.Machine.execPtpDelayReqSend p s
  | .timeSourceLost => Sys2Proof.Machine.execTimeSourceLost s
  | .timeHoldoverLimit => Sys2Proof.Machine.execTimeHoldoverLimit s
  | .tileSelWrite r c v => Sys2Proof.Machine.execTileSelWrite r c v s
  | .aggWrite r c j v => Sys2Proof.Machine.execAggWrite r c j v s
  | .evSelectEffect c => Sys2Proof.Machine.execEvSelectEffect c s
  | .snapReq c => Sys2Proof.Machine.execSnapReq c s
  | .snapNow r c v => Sys2Proof.Machine.execSnapNow r c v s
  | .phaseClear r c v => Sys2Proof.Machine.execPhaseClear r c v s
  | .nop f q => Sys2Proof.Machine.execNop f q s
  | .loadProgram f q d => Sys2Proof.Machine.execLoadProgram f q d s
  | .loadSpan f q d => Sys2Proof.Machine.execLoadSpan f q d s
  | .loadMapTable f q d => Sys2Proof.Machine.execLoadMapTable f q d s
  | .loadPhasePlan f q d => Sys2Proof.Machine.execLoadPhasePlan f q d s
  | .loadScaleTable f q d => Sys2Proof.Machine.execLoadScaleTable f q d s
  | .loadLayerTable f q d => Sys2Proof.Machine.execLoadLayerTable f q d s
  | .importBlock f q d opened => Sys2Proof.Machine.execImportBlock f q d opened s
  | .spanWrite f q d remote => Sys2Proof.Machine.execSpanWrite f q d remote s
  | .exportPage f q bad => Sys2Proof.Machine.execExportPage f q bad s
  | .readReleased f q bad => Sys2Proof.Machine.execReadReleased f q bad s
  | .hostPegPost f q => Sys2Proof.Machine.execHostPegPost f q s
  | .hostPegTry f q => Sys2Proof.Machine.execHostPegTry f q s
  | .hostPegRead f q => Sys2Proof.Machine.execHostPegRead f q s
  | .mboxRead f q => Sys2Proof.Machine.execMboxRead f q s
  | .mboxAck f q => Sys2Proof.Machine.execMboxAck f q s
  | .sqTail f q v entries => Sys2Proof.Machine.execSqTail f q v entries s
  | .cqHead f q v entries => Sys2Proof.Machine.execCqHead f q v entries s
  | .queueEnable f q v => Sys2Proof.Machine.execQueueEnable f q v s
  | .causeWrite f reg v => Sys2Proof.Machine.execCauseWrite f reg v s
  | .mbDoorbell f regs v req ext => Sys2Proof.Machine.execMbDoorbell f regs v req ext s
  | .hostBarViolation f at_ => Sys2Proof.Machine.execHostBarViolation f at_ s
  | .mbQuarantineEnd f => Sys2Proof.Machine.execMbQuarantineEnd f s
  | .publishEntry c k ring src => Sys2Proof.Machine.execPublishEntry c k ring src s
  | .hostLinkDown => Sys2Proof.Machine.execHostLinkDown s
  | .hostLinkUp width gts vfs => Sys2Proof.Machine.execHostLinkUp width gts vfs s
  | .hostFlr f => Sys2Proof.Machine.execHostFlr f s
  | .endpointReset perst => Sys2Proof.Machine.execEndpointReset perst s
  | .dictRead r index sub offset len => Sys2Proof.Machine.execDictRead r index sub offset len s
  | .dictWrite r index sub type value x => Sys2Proof.Machine.execDictWrite r index sub type value x s
  | .dictDescribe r index sub => Sys2Proof.Machine.execDictDescribe r index sub s
  | .xieskInit m => Sys2Proof.Machine.execXieskInit m s
  | .xieskConfirm m => Sys2Proof.Machine.execXieskConfirm m s
  | .xieskData m ext => Sys2Proof.Machine.execXieskData m ext s
  | .xieskClose src ident sound tagOk => Sys2Proof.Machine.execXieskClose src ident sound tagOk s
  | .handshakeTimeout ident => Sys2Proof.Machine.execHandshakeTimeout ident s
  | .partialMessageTimeout slot counter => Sys2Proof.Machine.execPartialMessageTimeout slot counter s
  | .sessionIdleTimeout slot => Sys2Proof.Machine.execSessionIdleTimeout slot s
  | .sessionLifetime slot => Sys2Proof.Machine.execSessionLifetime slot s
  | .sessClose r slot => Sys2Proof.Machine.execSessClose r slot s
  | .sourceIgnoreEnd src => Sys2Proof.Machine.execSourceIgnoreEnd src s
  | .dictRoRequest p node tag op => Sys2Proof.Machine.execDictRoRequest p node tag op s
  | .moduleStart r => Sys2Proof.Machine.execModuleStart r s
  | .autoStart => Sys2Proof.Machine.execAutoStart s
  | .moduleService r => Sys2Proof.Machine.execModuleService r s
  | .exitService r => Sys2Proof.Machine.execExitService r s
  | .moduleStandby r => Sys2Proof.Machine.execModuleStandby r s
  | .resetModule r => Sys2Proof.Machine.execResetModule r s
  | .resetFull r => Sys2Proof.Machine.execResetFull r s
  | .resetPinAssert low => Sys2Proof.Machine.execResetPinAssert low s
  | .verifyPass fuseOk slots => Sys2Proof.Machine.execVerifyPass fuseOk slots s
  | .verifyTimeout => Sys2Proof.Machine.execVerifyTimeout s
  | .bringupComplete railsOk hbmStacks flash tiles spare => Sys2Proof.Machine.execBringupComplete railsOk hbmStacks flash tiles spare s
  | .bringupTimeout => Sys2Proof.Machine.execBringupTimeout s
  | .requestWatchdog t slot => Sys2Proof.Machine.execRequestWatchdog t slot s
  | .fwStage r v => Sys2Proof.Machine.execFwStage r v s
  | .fwCommit r cls signed => Sys2Proof.Machine.execFwCommit r cls signed s
  | .faultClear r v => Sys2Proof.Machine.execFaultClear r v s
  | .faultLogMirror => Sys2Proof.Machine.execFaultLogMirror s
  | .persistentCounterStore => Sys2Proof.Machine.execPersistentCounterStore s
  | .laneLockFail p retrained => Sys2Proof.Machine.execLaneLockFail p retrained s
  | .auditAbsent p => Sys2Proof.Machine.execAuditAbsent p s
  | .lenderReclaimDeadline => Sys2Proof.Machine.execLenderReclaimDeadline s
  | .ckptCopyRebuilt c slot => Sys2Proof.Machine.execCkptCopyRebuilt c slot s
  | .teardownComplete c => Sys2Proof.Machine.execTeardownComplete c s
  | .restoreWriteDone c img => Sys2Proof.Machine.execRestoreWriteDone c img s
  | .queueRegisterWrite f q reg v => Sys2Proof.Machine.execQueueRegisterWrite f q reg v s

end Sys2Proof.Machine
end

