-- ==== Sys2Proof/Machine/Step.lean ====
section
/-! DEFINITION. A step: the command at the front of the queue, or, with none waiting, the passing of one tick of the
module's clock. -/

namespace Sys2Proof.Machine
open Sys2Proof

/-- One tick of the clock that keeps span time (R469): while the module has power, time advances by the increment. -/
def State.tick (s : State) : State := if s.mode = .off then s else { s with time := s.time + s.clock.incr }

/-- The command at the front is taken and performed with the rest of the queue; an empty queue lets a tick pass. -/
def step (s : State) : Host.Outcome State Fault Refusal :=
  match s.pending with
  | [] => .next s.tick
  | c :: rest => exec c { s with pending := rest }

/-- The state with the command a word spells at the front of its queue; unchanged where it spells none. -/
def State.withFetchWord (s : State) (nbits w : Nat) : State :=
  match decodeTableWord nbits w with
  | some c => { s with pending := c :: s.pending }
  | none => s

end Sys2Proof.Machine
end

