-- ==== Sys2Proof/Safety.lean ====
section
/-! DEFINITION. What claims about a run rest on: the canonical form of byte memory, the bounds the manual sets on the block's
queues and on the fault log, and a run that never stops. -/

namespace Sys2Proof.Machine
open Sys2Proof

/-- Byte memory in its canonical form: addresses strictly rising, no byte listed that an unlisted address reads as. -/
def Memory.wf (m : List (Nat × Byte)) : Bool := kwf 0 m

/-- A list of log entries in the order of R552: at most 1,024, SEQ rising, every SEQ below a bound. -/
structure LogOrder (es : List LogEntry) (bound : Nat) : Prop where
  count  : es.length ≤ 1024
  rising : (es.map (·.seq)).Pairwise (· < ·)
  below  : ∀ e ∈ es, e.seq < bound

/-- The fault log keeps its order, in memory and in the boot store, and no SEQ it may issue passes the stored ceiling (R552). -/
structure FaultLog.Sound (g : FaultLog) : Prop where
  entries : LogOrder g.entries g.nextSeq
  mirror  : LogOrder g.mirror g.nextSeq
  ceiling : g.nextSeq ≤ g.ceiling

/-- A tile keeps its bounds: at most 2 beat permits banked (R43), at most 16 matrix descriptors (R71's section) and 16 chains (R99)
queued, at most 8 descriptors queued on each gather engine (R161); its byte memories are canonical. -/
structure Tile.Sound (y : Tile) : Prop where
  store   : Memory.wf y.store = true
  prog    : Memory.wf y.prog = true
  permits : y.permits ≤ 2
  matrix  : y.mxQueue.length ≤ 16
  vector  : y.vxQueue.length ≤ 16
  gather0 : y.gx0.queue.length ≤ 8
  gather1 : y.gx1.queue.length ≤ 8

/-- A compartment keeps its bounds: at most 256 update-ring entries open (R209); its span bytes and those of its checkpoint
slots are canonical. -/
structure Comp.Sound (c : Comp) : Prop where
  mem    : Memory.wf c.mem = true
  slots  : ∀ q ∈ c.ckpt.slots, Memory.wf q.2.mem = true
  opened : c.upd.opened.length ≤ 256

/-- The state keeps every bound. -/
structure State.Sound (s : State) : Prop where
  log   : s.log.Sound
  tiles : ∀ q ∈ s.tiles, q.2.Sound
  comps : ∀ q ∈ s.comps, q.2.Sound

/-- A step that goes on. -/
def Continues (o : Host.Outcome State Fault Refusal) : Prop := ∃ t, o = .next t

/-- A run of k steps that reaches a state: no step stops. -/
def Reaches (s : State) (k : Nat) (t : State) : Prop := Sys2Proof.core.run k s = .next t

end Sys2Proof.Machine
end

