-- ==== Sys2Proof/Certificates/Slice0/Obligations.lean ====
section
/-! DEFINITION. What is stated of the block: each command's own effect, the step, and what every step keeps. Each statement's
docstring names the rules it rests on. -/

open Sys2Proof
open Sys2Proof.Machine

/-- R32, R35, R37-R39, R43, R45: cadence windows, permits, and the rail of a die over a boost (temperatures in tenths of °C). -/
def Obligations.CadencePermitsAndBoost : Prop :=
  ((∀ (samples : List CadSample) (s : State), s.windowAt < s.window →
    exec (.cadenceWindow samples) s = .next (samples.foldl State.latchCadence { s with windowAt := s.window })) ∧
  (∀ (x : CadSample) (s : State), (s.tile x.tile.val).dom = .on → s.fenced x.tile.val = false →
    (∀ n d, minCadence x.mv x.deciC = some (n, d) →
      n ≤ roundDiv (x.beats * 1000) (2 ^ s.obj Obj.tileCadenceWindowLog2) * d) →
    s.latchCadence x = s.setTile x.tile.val
      { s.tile x.tile.val with sentinel := BitVec.ofNat 48 x.beats,
                               cadence := roundDiv (x.beats * 1000) (2 ^ s.obj Obj.tileCadenceWindowLog2), lowRun := 0 }) ∧
  (∀ (c : CompNo) (deficit : List TileNo) (r : Nat) (s : State), s.pacerRate c.val = some r → s.running c.val = true →
    ((s.comp c.val).pacerNo + 1) * 1000 ≤ (s.now - (s.comp c.val).pacerAt) * r →
    exec (.pacerPermit c deficit) s = .next ((s.tilesOf c.val).foldl (State.permitTile (deficit.map (·.val)) c.val)
      (s.setComp c.val { s.comp c.val with pacerNo := (s.comp c.val).pacerNo + 1 }))) ∧
  (∀ (deficit : List Nat) (n t : Nat) (s : State), (s.tile t).dom = .on → (s.tile t).permits < 2 →
    s.permitTile deficit n t = (s.setTile t { s.tile t with permits := (s.tile t).permits + 1 }).tileEvent t 0x87 1) ∧
  (∀ (deficit : List Nat) (n t : Nat) (s : State), (s.tile t).dom = .on → 2 ≤ (s.tile t).permits → t ∉ deficit →
    s.permitTile deficit n t = s) ∧
  (∀ (deficit : List Nat) (n t : Nat) (s : State), (s.tile t).dom ≠ .on → s.permitTile deficit n t = s)) ∧
  ((∀ (d : DieNo) (s : State), (s.die d.val).boost = .idle → s.boostHolds d.val = true →
    (s.die d.val).hotSpot ≤ 850 →
    exec (.boostEntry d) s = .next (s.setDie d.val { s.die d.val with boost := .rising, stepAt := s.now })) ∧
  (∀ (d : DieNo) (lowest : Nat) (s : State), (s.die d.val).boost = .rising → (s.die d.val).stepAt + 20000 ≤ s.now →
    exec (.boostRailStep d lowest) s =
      if (s.die d.val).railMv < 800 ∧ lowest < 2200 then
        .next (s.setDie d.val { s.die d.val with railMv := (s.die d.val).railMv + 5, stepAt := s.now })
      else .next (s.setDie d.val { s.die d.val with boost := .inBoost, stepAt := s.now })) ∧
  (∀ (d : DieNo) (lowest : Nat) (s : State), (s.die d.val).boost = .inBoost → (s.die d.val).stepAt + 20000 ≤ s.now →
    2200 < lowest → 750 < (s.die d.val).railMv →
    exec (.boostRailStep d lowest) s =
      .next (s.setDie d.val { s.die d.val with railMv := (s.die d.val).railMv - 5, stepAt := s.now })) ∧
  (∀ (d : DieNo) (lowest : Nat) (s : State), (s.die d.val).boost = .falling → (s.die d.val).stepAt + 5000 ≤ s.now →
    exec (.boostRailStep d lowest) s =
      if 755 < (s.die d.val).railMv then
        .next (s.setDie d.val { s.die d.val with railMv := (s.die d.val).railMv - 5, stepAt := s.now })
      else .next (s.setDie d.val { s.die d.val with railMv := 750, boost := .idle, stepAt := s.now })) ∧
  (∀ (d : DieNo) (s : State), (s.die d.val).boost = .rising ∨ (s.die d.val).boost = .inBoost →
    s.boostHolds d.val = false ∨ 900 ≤ (s.die d.val).hotSpot →
    exec (.boostExit d) s = .next (s.setDie d.val { s.die d.val with boost := .falling, stepAt := s.now })))

/-- R51, R53-R56, R59, R60: domains of a tile, errors of its store, fences and seam links. -/
def Obligations.TilesSleepFailAndAreFenced : Prop :=
  ((∀ (t : TileNo) (s : State), (s.tile t.val).dom = .on → s.tileIdle t.val = true →
    (s.tile t.val).since + s.obj Obj.tilePowerRetainIdleUs * 1000 ≤ s.now →
    exec (.retainEntry t) s = .next (s.setTile t.val { s.tile t.val with dom := .retain })) ∧
  (∀ (t : TileNo) (s : State), (s.tile t.val).dom = .retain →
    exec (.tileWake t) s =
      .next ((s.setTile t.val { s.tile t.val with dom := .on, since := s.now }).tileEvent t.val 0x86 1)) ∧
  (∀ (t : TileNo) (us : Nat) (s : State), s.obj Obj.tileWatchdogTimeoutUs ≤ us → (s.tile t.val).dom = .on →
    s.fenced t.val = false →
    exec (.tileHandshakeTimeout t us) s =
      .next ((s.fault 0x0102 (s.compNo t.val) t.val).fenceTile t.val 0x0102)) ∧
  (∀ (t : TileNo) (n : Nat) (s : State), s.compOfTile t.val = some n → s.fenced t.val = false →
    exec (.tilePowerFail t) s = .next ((s.fault 0x0108 n t.val).fenceTile t.val 0x0108)) ∧
  (∀ (t : TileNo) (w : Fin 65536) (s : State), (s.tile t.val).dom ≠ .off →
    (kget 0 (s.tile t.val).ueTimes (w.val % 16) = 0 ∨ kget 0 (s.tile t.val).ueTimes (w.val % 16) + 2 ^ 36 ≤ s.now + 1) →
    exec (.tileStoreError t w true) s =
      .next ((s.setTile t.val { s.tile t.val with
          poison := kput false (s.tile t.val).poison w.val true,
          ueTimes := kput 0 (s.tile t.val).ueTimes (w.val % 16) (s.now + 1) }).fault 0x0103 (s.compNo t.val) t.val)) ∧
  (∀ (t : TileNo) (w : Fin 65536) (s : State), (s.tile t.val).dom ≠ .off →
    ((s.tile t.val).ceTimes.filter fun t0 => within36 s.now t0).length + 1 < s.obj Obj.tileStoreCeThreshold →
    exec (.tileStoreError t w false) s =
      .next (s.setTile t.val { s.tile t.val with
        ceTimes := ((s.tile t.val).ceTimes.filter fun t0 => within36 s.now t0) ++ [s.now] }))) ∧
  ((∀ (t cause : Nat) (s : State), s.fenced t = false →
    (s.fenceTile t cause).fenced t = true ∧ (s.fenceTile t cause).tile t = { Tile.init with since := s.now }) ∧
  (∀ (t : TileNo) (k : Fin 256) (x : Slot) (f b : Nat) (s : State), s.slotAt t.val k.val = some x →
    x.target = .bank f b → s.fenced f = true → x.reply = none →
    exec (.fencedSlotComplete t k) s = .next (s.setSlot t.val k.val (some { x with reply := some ⟨0x0110, []⟩ }))) ∧
  (∀ (r : Role) (t : Nat) (passes : Bool) (s : State), s.checkWrite r Obj.tileArrayUnfence t = .ok → t ≤ 1023 →
    exec (.unfence r t passes) s = .next
      (if s.fenced t = false then s.reply .ok
       else if passes then (s.setObj Obj.tileArrayFenceMap (setBit (s.obj Obj.tileArrayFenceMap) t false)).reply .ok
       else (s.fault 0x0101 noComp t).reply .ok)) ∧
  (∀ (l : LinkNo) (s : State), (s.obj Obj.tileArrayLinkFenceMap).testBit l.val = false →
    exec (.seamFrameReceive l true) s = .next (s.setSeam l.val { s.seam l.val with run := 0 })) ∧
  (∀ (l : LinkNo) (s : State), (s.obj Obj.tileArrayLinkFenceMap).testBit l.val = false →
    exec (.seamFrameReceive l false) s = .next
      (let s1 := s.setSeam l.val ⟨(s.seam l.val).errors + 1, (s.seam l.val).run + 1⟩
       if 8 ≤ (s.seam l.val).run + 1 then
         (s1.setObj Obj.tileArrayLinkFenceMap (setBit (s.obj Obj.tileArrayLinkFenceMap) l.val true)).fault 0x0107 noComp l.val
       else s1.emit (.seamReplay l.val))))

/-- R72, R122, R142-R144, R163: posts to the engines of a tile, and ENG.SPACE. -/
def Obligations.EnginePostsQueueTheirDescriptor : Prop :=
  (∀ (t : ThreadId) (rd rs1 : Fin 32) (n : Nat) (s : State), s.issuer t = some n → (s.thread t.key).st = .ready →
    let b := s.beat t n
    let k := t.tile.val
    let off := ((b.thread t.key).getX rs1.val).toNat
    (b.tile k).mxQueue.length < 16 → inStore off 64 = true →
    exec (.mxPost t rd rs1) s = .next
      (if b.tsPoisoned k off 64 = true then b.retire t rd.val 0x0103
      else if b.mxRefused n k (leNat (b.tsRead k off 64)) = false then
        ((b.setTile k { b.tile k with mxQueue := (b.tile k).mxQueue ++ [⟨leNat (b.tsRead k off 64), t.key⟩] }).tileEvent k
          0x49 1).retire t rd.val 0
      else (((b.incC Obj.mxCompRefused n).tileEvent k 0x09 1).fault 0x0206 n k).retire t rd.val 0x0206)) ∧
  (∀ (t : ThreadId) (rd rs1 : Fin 32) (n : Nat) (s : State), s.issuer t = some n → (s.thread t.key).st = .ready →
    let b := s.beat t n
    16 ≤ (b.tile t.tile.val).mxQueue.length →
    exec (.mxPost t rd rs1) s =
      .next (b.setThread t.key { b.thread t.key with st := .stalled, stallOn := some .matrix })) ∧
  (∀ (t : ThreadId) (rd rs1 : Fin 32) (n : Nat) (s : State), s.issuer t = some n → (s.thread t.key).st = .ready →
    let b := s.beat t n
    let k := t.tile.val
    let off := ((b.thread t.key).getX rs1.val).toNat
    (b.tile k).vxQueue.length < 16 →
    exec (.vxPost t rd rs1) s = .next
      (if inStore off 32 = true ∧ b.tsPoisoned k off (max 32 (Vx.length (leNat (b.tsRead k off 32)))) = true then
        b.retire t rd.val 0x0103
      else if b.vxCheck n k off = 0 then
        ((b.setTile k { b.tile k with vxQueue := (b.tile k).vxQueue ++
          [⟨b.tsRead k off (Vx.length (leNat (b.tsRead k off 32))), t.key⟩] }).tileEvent k 0x49 1).retire t rd.val 0
      else ((b.incC Obj.vxCompRefused n).fault (b.vxCheck n k off) n k).retire t rd.val (b.vxCheck n k off))) ∧
  (∀ (t : ThreadId) (rd rs1 rs2 : Fin 32) (n : Nat) (eng : Bool) (s : State), s.issuer t = some n →
    (s.thread t.key).st = .ready →
    let b := s.beat t n
    let k := t.tile.val
    let off := ((b.thread t.key).getX rs1.val).toNat
    ((b.thread t.key).getX rs2.val).toNat % 2 = b2n eng → ((b.tile k).gx eng).queue.length < 8 → inStore off 64 = true →
    exec (.gxPost t rd rs1 rs2) s = .next
      (if b.tsPoisoned k off 64 = true then b.retire t rd.val 0x0103
      else if b.gxRefused n k (leNat (b.tsRead k off 64)) = false then
        ((b.setGx k eng { (b.tile k).gx eng with queue := ((b.tile k).gx eng).queue ++ [⟨leNat (b.tsRead k off 64), t.key⟩] }).tileEvent
          k 0x49 1).retire t rd.val 0
      else ((b.incC Obj.prepCompGxRefused n).fault 0x0406 n k).retire t rd.val 0x0406)) ∧
  (∀ (t : ThreadId) (rd rs1 : Fin 32) (n : Nat) (s : State), s.issuer t = some n → (s.thread t.key).st = .ready →
    let b := s.beat t n
    let y := b.tile t.tile.val
    let e := ((b.thread t.key).getX rs1.val).toNat
    e < 4 →
    exec (.engSpace t rd rs1) s = .next (b.retire t rd.val
      (if e = 0 then 16 - y.mxQueue.length else if e = 1 then 16 - y.vxQueue.length
       else if e = 2 then 8 - y.gx0.queue.length else 8 - y.gx1.queue.length)))

/-- R75, R81, R95: a matrix operation from the queue to its record. -/
def Obligations.MatrixOperationsRunAndDrain : Prop :=
  (∀ (t : TileNo) (n : Nat) (x : MxDesc) (rest : List MxDesc) (acc : List Nat) (g : EFlags) (tiles : Nat) (s : State),
    let k := t.val
    s.compOfTile k = some n → (s.tile k).mxQueue = x :: rest → s.running n = true → (s.tile k).dom = .on →
    (∀ r ∈ (s.tile k).mxRuns, Mx.acc r.desc.bits ≠ Mx.acc x.bits) → s.mxHeld k x.bits = false →
    s.mxCompute n k x.bits = (.inr acc, g, tiles) →
    let beats := tiles * (if Mx.fp32 x.bits then 512 else 128)
    exec (.mxOpExecute t) s = .next
      ((((((s.setTile k { s.tile k with mxQueue := rest, since := s.now }).unstall k .matrix).incC Obj.mxCompMacBeats n
        beats).tileEvent k 0x01 beats).modTile k fun y => { y with mxRuns := y.mxRuns ++
          [{ desc := x, acc := acc, rows := s.mxExtent k x.bits true, cols := s.mxExtent k x.bits false,
             invalid := g.invalid, overflow := g.overflow, flushed := g.flushed }] }))) ∧
  (∀ (t : TileNo) (n : Nat) (x : MxDesc) (rest : List MxDesc) (e : MxStop) (g : EFlags) (tiles : Nat) (s : State),
    let k := t.val
    s.compOfTile k = some n → (s.tile k).mxQueue = x :: rest → s.running n = true → (s.tile k).dom = .on →
    (∀ r ∈ (s.tile k).mxRuns, Mx.acc r.desc.bits ≠ Mx.acc x.bits) → s.mxHeld k x.bits = false →
    s.mxCompute n k x.bits = (.inl e, g, tiles) →
    let beats := tiles * (if Mx.fp32 x.bits then 512 else 128)
    exec (.mxOpExecute t) s = .next
      (((((s.setTile k { s.tile k with mxQueue := rest, since := s.now }).unstall k .matrix).incC Obj.mxCompMacBeats n
        beats).tileEvent k 0x01 beats).tickFresh.mxFinish n k x g e.status
          (s.mxRecord k x.bits g e.status s.openAbsMax (some e)))) ∧
  (∀ (t : TileNo) (n : Nat) (r : MxRun) (rest : List MxRun) (s : State),
    let k := t.val
    let d := r.desc.bits
    s.compOfTile k = some n → (s.tile k).mxRuns = r :: rest → s.running n = true →
    exec (.mxOpComplete t) s = .next
      (let q := (s.setTile k { s.tile k with mxRuns := rest, since := s.now }).mxDrain n k r
         { invalid := r.invalid || r.acc.any fun v => (unpackF f32 v).isNan, overflow := r.overflow, flushed := r.flushed }
       let s3 := (q.1.reportTile n (Mx.outTensor d) (sfld d 55 48) (magOf (absMax r.acc)) q.2.top).tileEvent k 0x05
         (if Mx.outFmt d = 1 then 256 else 128)
       s3.mxFinish n k r.desc q.2 0 (s3.mxRecord k d q.2 0 (absMax r.acc) none))) ∧
  (∀ (t : TileNo) (a : Fin 8) (n : Nat) (r : MxRun) (s : State),
    let k := t.val
    s.compOfTile k = some n → (s.tile k).mxRuns.find? (fun r => Mx.acc r.desc.bits = a.val) = some r →
    (∀ t0, (s.tile k).accErr = some t0 → t0 + 2 ^ 36 ≤ s.now) →
    let g : EFlags := { invalid := r.invalid, overflow := r.overflow, flushed := r.flushed }
    exec (.mxAccUncorrectable t a) s = .next
      (let s1 := s.setTile k { s.tile k with
         mxRuns := (s.tile k).mxRuns.filter (fun q => Mx.acc q.desc.bits ≠ a.val), accErr := some s.now }
       s1.tickFresh.mxFinish n k r.desc g 0x0208 (s1.mxRecord k r.desc.bits g 0x0208 s.openAbsMax none)))

/-- R99, R123, R125, R127: a vector chain from the queue to its peg. -/
def Obligations.VectorChainsRunAndComplete : Prop :=
  (∀ (t : TileNo) (n : Nat) (q : VxDesc) (rest : List VxDesc) (s : State),
    let k := t.val
    let h := Vx.header q.bytes
    s.compOfTile k = some n → (s.tile k).vxQueue = q :: rest → (s.tile k).vxRun = none → s.running n = true →
    (s.tile k).dom = .on →
    ∃ u r, exec (.vxChainExecute t) s = .next u ∧ u = s.vxExecute k none ∧ (u.tile k).vxRun = some r ∧
      r.poster = q.poster ∧ r.recAddr = Vx.recAddr h ∧ r.pegEn = Vx.pegEn h ∧ r.peg = Vx.peg h) ∧
  (∀ (t : TileNo) (group n : Nat) (q : VxDesc) (rest : List VxDesc) (s : State),
    let k := t.val
    s.compOfTile k = some n → (s.tile k).vxQueue = q :: rest → (s.tile k).vxRun = none → s.running n = true →
    (s.tile k).dom = .on → (s.vxRun n k q.bytes (some group)).stop = some (vxPlain 0x0309) →
    (∀ t0, (s.tile k).vregErr = some t0 → t0 + 2 ^ 36 ≤ s.now) →
    exec (.vxRegUncorrectable t group) s = .next
      (let s1 := s.vxExecute k (some group)
       s1.setTile k { s1.tile k with vregErr := some s.now })) ∧
  (∀ (t : TileNo) (n : Nat) (r : VxRun) (s : State),
    let k := t.val
    let status := r.record % 65536
    s.compOfTile k = some n → (s.tile k).vxRun = some r → s.running n = true →
    exec (.vxChainComplete t) s = .next
      (let s1 := ((s.setTile k { s.tile k with vxRun := none, since := s.now }).tsWrite k r.recAddr
         (leBytes 64 r.record)).incC Obj.vxCompChains n
       let s2 := if status = 0x0301 ∨ status = 0x0302 ∨ status = 0x0303 then
           (s1.firstTrap n k status r.record Obj.vxCompNanTraps Obj.vxCompFirstTrap).tileEvent k 0x27 1
         else if status ≠ 0 then s1.fault status n k else s1
       let s3 := s2.tileEvent k 0x21 1
       let s4 := if r.pegEn = true then s3.unitPost n r.peg else s3
       if status ≠ 0 then s4.signal r.poster 1 status r.recAddr else s4))

/-- R134, R140-R142, R150, R158: the instructions of a thread that access no memory. -/
def Obligations.ThreadInstructionsRun : Prop :=
  (∀ (t : ThreadId) (n insn len : Nat) (s : State), s.issuer t = some n → (s.thread t.key).ra = none →
    s.fetchAt t = some (insn, len) → insn ≠ 0 → s.mustWait t (rvEff (s.thread t.key) insn len) = false →
    exec (.userInstruction t) s = .next ((s.beat t n).perform t n insn len (rvEff (s.thread t.key) insn len))) ∧
  (∀ (t : ThreadId) (n insn len : Nat) (r : RunAhead) (s : State), s.issuer t = some n → (s.thread t.key).ra = some r →
    s.fetchAt t = some (insn, len) → insn ≠ 0 →
    exec (.userInstruction t) s = .next ((s.beat t n).performRa t n insn len (rvEff (s.thread t.key) insn len) r)) ∧
  (∀ (t : ThreadId) (n len : Nat) (s : State), s.issuer t = some n → s.fetchAt t = some (0, len) →
    let raw := leNat (readBytes (s.tile t.tile.val).prog ((s.thread t.key).pc.toNat - 2 ^ 57) 2)
    ((s.thread t.key).ra = none → exec (.userInstruction t) s = .next ((s.beat t n).exception t n 0x0401 raw)) ∧
    ((s.thread t.key).ra.isSome = true → exec (.userInstruction t) s = .next ((s.beat t n).raStop t))) ∧
  (∀ (t : ThreadId) (n : Nat) (s : State), s.issuer t = some n → (s.thread t.key).st = .ready → s.fetchAt t = none →
    exec (.userInstruction t) s = .next ((s.beat t n).exception t n 0x0403 (s.thread t.key).pc.toNat)) ∧
  (∀ (t : ThreadId) (n code tval : Nat) (s : State), (s.thread t.key).inHandler = false → (s.thread t.key).yhandler ≠ 0 →
    s.divert t n code tval = s.setThread t.key { s.thread t.key with
      ycause := BitVec.ofNat 64 code, yepc := (s.thread t.key).pc, ytval := BitVec.ofNat 64 tval,
      pc := (s.thread t.key).yhandler, inHandler := true, st := .ready }) ∧
  (∀ (t : ThreadId) (n b : Nat) (s : State), s.issuer t = some n → (s.thread t.key).st = .ready →
    (s.thread t.key).inHandler = false →
    firstBelow 4 (fun b => (s.thread t.key).yevents.testBit b && (s.thread t.key).yevmask.toNat.testBit b) = some b →
    exec (.eventDivert t) s = .next
      (let u := s.divert t n (kget 0 (s.thread t.key).evRec b % 65536) (kget 0 (s.thread t.key).evRec b / 65536)
       if (u.thread t.key).st = .halted then u.incC Obj.prepCompThreadFaults n else u)) ∧
  (∀ (t : ThreadId) (v : W64) (n : Nat) (s : State), s.issuer t = some n → (s.thread t.key).st = .ready →
    let b := s.beat t n
    exec (.yeventsWrite t v) s = .next ((b.setThread t.key { b.thread t.key with
      yevents := (b.thread t.key).yevents &&& (15 - v.toNat % 16) }).retire t 0 0)) ∧
  (∀ (t : ThreadId) (rd rs1 rs2 : Fin 32) (n : Nat) (s : State), s.issuer t = some n → (s.thread t.key).st = .ready →
    let b := s.beat t n
    let arg := (b.thread t.key).getX rs2.val
    let k := t.coreKey * 8 + arg.toNat % 8
    exec (.thrStart t rd rs1 rs2) s = .next
      (if ((b.thread k).st = .idle ∨ (b.thread k).st = .halted) ∧ arg.toNat % 8 < b.threadsOf n then
        (b.setThread k { (b.thread k).setX 10 arg with pc := (b.thread t.key).getX rs1.val, st := .ready,
                                                       inHandler := false }).retire t rd.val 0
      else (b.fault 0x040D n t.tile.val).retire t rd.val 0x040D)) ∧
  (∀ (t : ThreadId) (n : Nat) (s : State), s.issuer t = some n → (s.thread t.key).st = .ready →
    exec (.thrExit t) s = .next (((s.beat t n).retire t 0 0).modThread t.key fun h =>
      { h with st := .idle, inHandler := false, resv := none })) ∧
  (∀ (t : ThreadId) (n : Nat) (s : State), s.issuer t = some n → (s.thread t.key).st = .ready →
    exec (.thrYield t) s = .next ((s.beat t n).retire t 0 0)) ∧
  (∀ (t : ThreadId) (n : Nat) (s : State), s.issuer t = some n → (s.thread t.key).st = .ready →
    exec (.thrRet t) s = .next (((s.beat t n).retire t 0 0).modThread t.key fun h =>
      { h with pc := h.yepc, inHandler := false })) ∧
  (∀ (t : ThreadId) (rd v len : Nat) (s : State),
    let u := s.retire t rd v len
    (∀ q, (u.thread t.key).getX q = if q = rd ∧ rd ≠ 0 then BitVec.ofNat 64 v else (s.thread t.key).getX q) ∧
    (u.thread t.key).f = (s.thread t.key).f ∧ (u.thread t.key).fcsr = (s.thread t.key).fcsr ∧
    (u.thread t.key).pc = (s.thread t.key).pc + BitVec.ofNat 64 len ∧
    (u.thread t.key).instret = ((s.thread t.key).instret + 1) % 2 ^ 64 ∧
    (∀ k, k ≠ t.key → u.thread k = s.thread k) ∧
    (∀ j a, kget 0 (u.tile j).store a = kget 0 (s.tile j).store a) ∧ (∀ p, u.peg p = s.peg p) ∧ u.comps = s.comps)

/-- R136, R138, R153, R159, R234: the accesses of a thread. -/
def Obligations.LoadsStoresAndAtomicsRun : Prop :=
  (∀ (t : ThreadId) (n : Nat) (s : State), s.issuer t = some n → (s.thread t.key).st = .ready →
    let b := s.beat t n
    (∀ (rd : Fin 32) (a : W64) (w : Fin 4) (uns fl : Bool),
      exec (.spanLoad t rd a w uns fl) s = .next (b.doLoad t n rd.val a.toNat w.val uns fl 4)) ∧
    (∀ (a : W64) (w : Fin 4) (d : W64), exec (.spanStore t a w d) s = .next (b.doStore t n a.toNat w.val d.toNat 4)) ∧
    (∀ (op : AmoOp) (rd : Fin 32) (a : W64) (wide : Bool) (d : W64) (aq rl : Bool), (rl = true → s.storesOpen t = false) →
      exec (.spanAmo t op rd a wide d aq rl) s = .next (b.doAmo t n op rd.val a.toNat wide d.toNat aq 4)) ∧
    (∀ (rd : Fin 32) (a : W64) (wide aq : Bool),
      exec (.tileLr t rd a wide aq) s = .next (b.doLr t n rd.val a.toNat wide aq 4)) ∧
    (∀ (rd : Fin 32) (a : W64) (wide : Bool) (d : W64) (rl : Bool), (rl = true → s.storesOpen t = false) →
      exec (.tileSc t rd a wide d rl) s = .next (b.doSc t n rd.val a.toNat wide d.toNat 4)) ∧
    (∀ (pred succ : Fin 16), s.fenceOpen t pred.val = true →
      exec (.fence t pred succ) s = .next
        ((if bit succ.val 1 ∨ bit succ.val 3 then b.purge t.key else b).retire t 0 0))) ∧
  (∀ (t : ThreadId) (n rd a w len : Nat) (uns fl : Bool) (s : State),
    (a % 2 ^ w ≠ 0 → s.doLoad t n rd a w uns fl len = s.exception t n 0x0402 a) ∧
    (a % 2 ^ w = 0 → placeOf a (2 ^ w) = .other → s.doLoad t n rd a w uns fl len = s.exception t n 0x0403 a) ∧
    (∀ off, a % 2 ^ w = 0 → placeOf a (2 ^ w) = .store off → s.tsPoisoned t.tile.val off (2 ^ w) = true →
      s.doLoad t n rd a w uns fl len = s.exception t n 0x0103 a) ∧
    (∀ off, a % 2 ^ w = 0 → placeOf a (2 ^ w) = .store off → s.tsPoisoned t.tile.val off (2 ^ w) = false →
      s.doLoad t n rd a w uns fl len = s.retireLoad t rd fl (loadVal w uns (s.tsRead t.tile.val off (2 ^ w))) len) ∧
    (a % 2 ^ w = 0 → placeOf a (2 ^ w) = .span a → s.threaded n = false →
      s.doLoad t n rd a w uns fl len = s.exception t n 0x0404 a) ∧
    (let s1 := s.translate n t.tile.val (pageOf a)
     a % 2 ^ w = 0 → placeOf a (2 ^ w) = .span a → s.threaded n = true → s1.permits n .thread .read (pageOf a) = false →
      s.doLoad t n rd a w uns fl len = s1.exception t n 0x0405 a) ∧
    (let s1 := s.translate n t.tile.val (pageOf a)
     a % 2 ^ w = 0 → placeOf a (2 ^ w) = .span a → s.threaded n = true → s1.permits n .thread .read (pageOf a) = true →
      (∀ l ∈ (s1.core t.coreKey).pref, l.line ≠ a / 64) →
      s.doLoad t n rd a w uns fl len = s1.awaitAccess t n ⟨rd, fl, w, uns, .read, a, len, false⟩ [])) ∧
  (∀ (t : ThreadId) (n a w d off len : Nat) (s : State), a % 2 ^ w = 0 → placeOf a (2 ^ w) = .store off →
    s.doStore t n a w d len = (s.tsWrite t.tile.val off (leBytes (2 ^ w) d)).retire t 0 0 len) ∧
  (∀ (t : ThreadId) (n rd a d off len : Nat) (op : AmoOp) (wide : Bool) (s : State),
    let w := if wide then 3 else 2
    let old := s.tsRead t.tile.val off (2 ^ w)
    a % 2 ^ w = 0 → placeOf a (2 ^ w) = .store off → s.tsPoisoned t.tile.val off (2 ^ w) = false →
    s.doAmo t n op rd a wide d false len =
      (s.tsWrite t.tile.val off (accBytes (.amo op) old (leBytes (2 ^ w) d))).retire t rd (loadVal w false old) len) ∧
  (∀ (t : ThreadId) (n rd a off len : Nat) (wide : Bool) (s : State),
    let w := if wide then 3 else 2
    a % 2 ^ w = 0 → placeOf a (2 ^ w) = .store off → s.tsPoisoned t.tile.val off (2 ^ w) = false →
    s.doLr t n rd a wide false len =
      (s.retire t rd (loadVal w false (s.tsRead t.tile.val off (2 ^ w))) len).modThread t.key fun h =>
        { h with resv := some (off / 64) }) ∧
  (∀ (t : ThreadId) (n rd a d off len : Nat) (wide : Bool) (s : State),
    let w := if wide then 3 else 2
    let s1 := s.modThread t.key fun h => { h with resv := none }
    a % 2 ^ w = 0 → placeOf a (2 ^ w) = .store off →
    s.doSc t n rd a wide d len = if (s.thread t.key).resv = some (off / 64) then
      (s1.tsWrite t.tile.val off (leBytes (2 ^ w) d)).retire t rd 0 len else s1.retire t rd 1 len)

/-- R157-R160: run-ahead, and the prefetch buffer it fills. -/
def Obligations.RunAheadSavesAndRestores : Prop :=
  (∀ (t : ThreadId) (beats n : Nat) (a : PendAcc) (s : State), s.compOfTile t.tile.val = some n →
    let h := s.thread t.key
    h.acc = some a → s.running n = true → s.threaded n = true → s.objC Obj.prepCompRunahead n = 1 → h.st = .stalled →
    h.ra = none → h.inHandler = false → a.kind = .read → a.spent = false → s.objC Obj.prepCompRaEntryBeats n ≤ beats →
    exec (.runaheadEntry t beats) s = .next
      (((s.setThread t.key { h with
          st := .runahead, runaheads := h.runaheads + 1, pc := h.pc + BitVec.ofNat 64 a.len,
          ra := some { x := h.x, f := h.f, fcsr := h.fcsr, pc := h.pc,
                       invX := if a.float = true ∨ a.rd = 0 then 0 else 2 ^ a.rd, invF := if a.float then 2 ^ a.rd else 0,
                       stores := [], entries := 0, lost := [], full := false, issuing := true } }).incC Obj.prepCompRaEntries n).tileEvent
        t.tile.val 0x45 1)) ∧
  (∀ (t : ThreadId) (beats n : Nat) (r : RunAhead) (s : State), s.compOfTile t.tile.val = some n →
    let h := s.thread t.key
    h.st = .runahead → h.ra = some r → s.objC Obj.prepCompRaMaxBeats n ≤ beats →
    exec (.runaheadLimit t beats) s = .next (s.setThread t.key
      { h with st := .stalled, ra := none, x := r.x, f := r.f, fcsr := r.fcsr, pc := r.pc,
               acc := h.acc.map fun a => { a with spent := true } })) ∧
  (∀ (t : ThreadId) (k : Nat) (x : Slot) (v : SpanReply) (r : RunAhead) (s : State),
    let h := s.thread t.key
    h.st = .runahead → h.ra = some r → (k, some x) ∈ (s.tile t.tile.val).slots → x.who = .thread t.key →
    x.reply = some v →
    exec (.runaheadExit t) s = .next (s.setThread t.key
      { h with st := .stalled, ra := none, x := r.x, f := r.f, fcsr := r.fcsr, pc := r.pc })) ∧
  (∀ (t : TileNo) (core : Fin 4) (line : Nat) (l : PrefLine) (s : State),
    let k := t.val * 4 + core.val
    l ∈ (s.core k).pref → l.line = line → l.beat + 4096 ≤ (s.core k).cycle →
    exec (.prefetchAgeOut t core line) s = .next (s.setCore k { s.core k with
      pref := (s.core k).pref.filter fun l => l.line ≠ line })) ∧
  (∀ (t : ThreadId) (n : Nat) (s : State), s.issuer t = some n → (s.thread t.key).st = .runahead →
    let skip (rd : Fin 32) : Host.Outcome State Fault Refusal := .next ((s.beat t n).raSkip t rd.val)
    ∀ (rd r1 r2 : Fin 32) (op : AmoOp) (a d : W64) (w : Fin 4) (wide aq : Bool) (succ : Fin 16),
      exec (.mxPost t rd r1) s = skip rd ∧ exec (.vxPost t rd r1) s = skip rd ∧ exec (.gxPost t rd r1 r2) s = skip rd ∧
      exec (.engSpace t rd r1) s = skip rd ∧ exec (.thrStart t rd r1 r2) s = skip rd ∧ exec (.thrExit t) s = skip 0 ∧
      exec (.thrYield t) s = skip 0 ∧ exec (.thrRet t) s = skip 0 ∧ exec (.yeventsWrite t d) s = skip 0 ∧
      exec (.spanStore t a w d) s = skip 0 ∧ exec (.spanAmo t op rd a wide d aq false) s = skip rd ∧
      exec (.tileLr t rd a wide aq) s = skip rd ∧ exec (.tileSc t rd a wide d false) s = skip rd ∧
      exec (.fence t 0 succ) s = skip 0 ∧ exec (.pegWait t rd r1 r2) s = skip rd ∧ exec (.pegTry t rd r1 r2) s = skip rd ∧
      exec (.pegRead t rd r1 r2) s = skip rd)

/-- R153, R154, R225, R231, R366: request slots, and accesses at their owning location. -/
def Obligations.RequestSlotsAreServed : Prop :=
  (∀ (t : TileNo) (k : Fin 256) (x : Slot) (n : Nat) (it : Integ) (s : State), s.slotAt t.val k.val = some x →
    s.compOfTile t.val = some n → x.reply = none → x.lookAhead = false → (∀ key, x.who ≠ .pegOp key) →
    (∀ h ∈ (s.comp n).held, h.src ≠ .slot t.val k.val) → (∀ m, s.owner n x.addr ≠ .module m) →
    exec (.spanRequestReceive (.slot t k) it) s =
      .next (s.performOrHold n (.slot t.val k.val) .thread x.kind x.addr x.bytes x.data it)) ∧
  (∀ (node : BitVec 16) (tag : W32) (job a : W64) (kind : AccKind) (len : Fin 65) (data : List Byte) (it : Integ)
    (n m p : Nat) (s : State), s.compOfJob job.toNat = some n → s.owner n a.toNat = .page m p →
    a.toNat % 64 + len.val ≤ 64 →
    exec (.spanRequestReceive (.remote node tag job a kind len data) it) s =
      .next (s.performOrHold n (.remote node.toNat tag.toNat) .thread kind a.toNat len.val (padTo len.val data) it)) ∧
  (∀ (node : BitVec 16) (tag : W32) (job a : W64) (kind : AccKind) (len : Fin 65) (data : List Byte) (it : Integ)
    (s : State), s.compOfJob job.toNat = none →
    exec (.spanRequestReceive (.remote node tag job a kind len data) it) s =
      .next (s.remoteDenied node.toNat tag.toNat job.toNat (pageOf a.toNat))) ∧
  (∀ (t : TileNo) (k : Fin 256) (x : Slot) (n : Nat) (v : SpanReply) (rem : Option SpanReply) (s : State),
    s.slotAt t.val k.val = some x → s.compOfTile t.val = some n → x.reply = some v →
    exec (.spanResponseReceive t k rem) s = .next (s.deliver t.val k.val n x v)) ∧
  (∀ (t k n key : Nat) (x : Slot) (v : SpanReply) (s : State), x.who = .store key → x.kind = .write → v.fault = 0 →
    s.deliver t k n x v = (s.setSlot t k none).tileEvent t 0x67 1) ∧
  (∀ (t k n key : Nat) (x : Slot) (v : SpanReply) (s : State), x.who = .thread key → x.kind = .read →
    s.now ≤ x.issued + 2000 →
    s.deliver t k n x v = ((s.setSlot t k none).tileEvent t 0x66 1).finishAccess (threadOf key) n v) ∧
  (∀ (t : ThreadId) (n : Nat) (a : PendAcc) (v : SpanReply) (s : State), (s.thread t.key).st ≠ .runahead →
    (s.thread t.key).acc = some a →
    let s2 := s.setThread t.key { s.thread t.key with st := .ready, acc := none }
    s.finishAccess t n v = if v.fault = 0 then
        s2.retireLoad t a.rd a.float (loadVal a.log2 a.unsigned v.data) a.len
      else s2.exception t n (excOf v.fault) a.addr) ∧
  (∀ (t : TileNo) (n i k : Nat) (q : Parked) (s : State), s.compOfTile t.val = some n →
    (s.tile t.val).parked.findIdx? (fun q => (s.slotOpen n t.val q.target).isSome) = some i →
    (s.tile t.val).parked[i]? = some q → s.slotOpen n t.val q.target = some k →
    let s1 := (s.setTile t.val { s.tile t.val with parked := (s.tile t.val).parked.eraseIdx i }).takeSlot n t.val k q false
    let wake (key : Nat) (st : ThrState) : State := s1.modThread key fun h => if h.st = .parked then { h with st := st } else h
    exec (.slotGrant t) s = .next (match q.who with
      | .store key => wake key .ready
      | .thread key => wake key .stalled
      | .pegOp key => wake key .stalled
      | .prefetch _ => s1)) ∧
  (∀ (c : CompNo) (g : Fin 48) (i : Nat) (e : MetaEnt) (s : State), (kget [] (s.comp c.val).cache g.val)[i]? = some e →
    exec (.metacacheUncorrectable c g i) s = .next ((s.modComp c.val fun x => { x with
      cache := kput [] x.cache g.val ((kget [] (s.comp c.val).cache g.val).filter fun y => !y.same e) }).addUnver c.val
        ⟨e.range, e.kind, e.lease, e.level, e.index, 0x0B06⟩ 0))

/-- R162, R164, R167, R168: a gather descriptor from the queue to its record. -/
def Obligations.GatherDescriptorsRunAndComplete : Prop :=
  (∀ (t : TileNo) (eng : Bool) (rem : List (Nat × SpanReply)) (bad : Option (Nat × Integ)) (n : Nat) (d : GxDesc)
    (rest : List GxDesc) (s : State), s.engineComp t.val = some n → ((s.tile t.val).gx eng).run = none →
    ((s.tile t.val).gx eng).queue = d :: rest →
    let r : GxRun := { desc := d, next := 0, staged := [], laNext := 0, laIssued := 0, laDropped := 0, examples := 0, mixed := false,
                       seen := [], status := 0, faultIdx := 0, faultSpan := 0 }
    exec (.gxDescExecute t eng rem bad) s = .next (((s.setGx t.val eng ⟨rest, some r⟩).unstall t.val
      (if eng then .gather1 else .gather0)).gxGo n t.val eng r rem bad)) ∧
  (∀ (t : TileNo) (eng : Bool) (rem : List (Nat × SpanReply)) (bad : Option (Nat × Integ)) (n : Nat) (r : GxRun)
    (s : State), s.engineComp t.val = some n → ((s.tile t.val).gx eng).run = some r →
    exec (.gxDescExecute t eng rem bad) s = .next (s.gxGo n t.val eng r rem bad)) ∧
  (∀ (t : TileNo) (eng : Bool) (rem : List (Nat × SpanReply)) (bad : Option (Nat × Integ)) (n : Nat) (r : GxRun)
    (s : State), s.engineComp t.val = some n → ((s.tile t.val).gx eng).run = some r → Gx.ring r.desc.bits = true →
    exec (.gxRingAdvance t eng rem bad) s = .next (s.gxGo n t.val eng r rem bad)) ∧
  (∀ (t : TileNo) (eng : Bool) (n : Nat) (r : GxRun) (s : State), s.engineComp t.val = some n →
    ((s.tile t.val).gx eng).run = some r → Gx.count r.desc.bits ≤ r.next ∨ r.status ≠ 0 →
    s.gxHeld n t.val eng = false →
    exec (.gxComplete t eng) s = .next
      (let k := t.val
       let d := r.desc.bits
       let s1 := (s.setGx k eng { (s.tile k).gx eng with run := none }).tsWrite k (Gx.recAddr d)
         (leBytes 64 (gxRecord r s.stamp k))
       let s2 := if Gx.pegEn d = true then s1.unitPost n (Gx.peg d) else s1
       let s3 := if r.status ≠ 0 then s2.signal r.desc.poster (if eng then 3 else 2) r.status (Gx.recAddr d) else s2
       (if r.status = 0x0407 ∨ r.status = 0x0408 ∨ r.status = 0x0409 then s3.fault r.status n k else s3).tileEvent k 0x61 1))

/-- R183, R185: the loss-scale rule on the control record. -/
def Obligations.LossScaleFollowsTheVerdict : Prop :=
  ∀ (ct step v hb limit : Nat), v ≤ 2 →
    let q := applyVerdict ct step v hb limit
    let r := q.1
    let S := Ctl.lossLog2 ct
    let up := v = 0 ∧ Ctl.cleanRun ct + 1 = hb ∧ S < 24
    let down := v = 1 ∧ 0 < S
    Ctl.lastStep r = step % 2 ^ 64 ∧ Ctl.lastVerdict r = v ∧ Ctl.lastStatus r = 0 ∧ Ctl.lossPrev r = S ∧
    Ctl.gradSat r = 0 ∧ Ctl.satOther r = 0 ∧
    Ctl.lossLog2 r = (if up then S + 1 else if down then S - 1 else S) ∧
    Ctl.cleanRun r = (if v = 0 ∧ Ctl.cleanRun ct + 1 ≠ hb then (Ctl.cleanRun ct + 1) % 2 ^ 32 else 0) ∧
    Ctl.skipRun r = (if v = 0 then 0 else (Ctl.skipRun ct + 1) % 2 ^ 16) ∧
    Ctl.skipsTotal r = (if v = 0 then Ctl.skipsTotal ct else (Ctl.skipsTotal ct + 1) % 2 ^ 64) ∧
    Ctl.doublings r = (if up then (Ctl.doublings ct + 1) % 2 ^ 32 else Ctl.doublings ct) ∧
    Ctl.halvings r = (if down then (Ctl.halvings ct + 1) % 2 ^ 32 else Ctl.halvings ct) ∧
    (q.2.1 = true ↔ v = 1 ∧ S = 0) ∧ (q.2.2 = true ↔ v ≠ 0 ∧ Ctl.skipRun ct + 1 = limit) ∧
    (S ≤ 24 → Ctl.lossLog2 r ≤ 24)

/-- R185, R188, R203, R205: the keeper's verdicts, and the lines of the update unit. -/
def Obligations.VerdictsAndPlumbLinesAreTaken : Prop :=
  (∀ (c : CompNo) (rem : Option SpanReply) (bs : List Byte) (s s1 : State),
    let n := c.val
    let l := leNat bs
    let ct := s1.control n
    let q := applyVerdict ct (fld l 63 0) (fld l 71 64) (s1.objC Obj.numCompHerringbone n) (s1.objC Obj.numCompSkipLimit n)
    s.unitsRun n = true → s.advances n unitVerdict (s.objC Obj.numCompVerdictPeg n) ≠ 0 →
    (s.actOn n unitVerdict).unitFetch n (s.objC Obj.numCompVerdictAddr n) 64 rem = (some bs, s1) →
    fld l 63 0 = Ctl.lastStep ct + 1 → fld l 71 64 ≤ 2 → fld l 127 72 = 0 → fld l 511 192 = 0 →
    exec (.verdictApply c rem) s = .next
      (let s2 := ((List.range 4092).foldl (fun a i => a.decayRecord n (i + 4)) s1).setControl n q.1
       let s3 := if fld l 71 64 = 0 then s2 else (s2.incC Obj.numCompStepsSkipped n).numEvent n 0x0501 0 (fld l 63 0)
       let s4 := if q.2.1 = true then s3.fault 0x0503 n else s3
       let s5 := if q.2.2 = true then (s4.fault 0x0504 n).raise 1 n else s4
       (s5.unitPost n (s5.objC Obj.numCompScalePeg n)).handVerdict n (fld l 63 0) (fld l 71 64) (Ctl.lossLog2 ct)
         (Ctl.lossLog2 q.1))) ∧
  (∀ (c : CompNo) (rem : Option SpanReply) (b : Option (List Byte)) (s s1 : State),
    let n := c.val
    let l := leNat (b.getD [])
    s.unitsRun n = true → s.advances n unitVerdict (s.objC Obj.numCompVerdictPeg n) ≠ 0 →
    (s.actOn n unitVerdict).unitFetch n (s.objC Obj.numCompVerdictAddr n) 64 rem = (b, s1) →
    (b = none ∨ fld l 63 0 ≠ Ctl.lastStep (s1.control n) + 1 ∨ 2 < fld l 71 64 ∨ fld l 127 72 ≠ 0 ∨ fld l 511 192 ≠ 0) →
    exec (.verdictApply c rem) s = .next
      (let s2 := ((s1.setControl n (putFld (s1.control n) 103 88 0x0505)).incC Obj.numCompVerdictsRefused n).fault 0x0505 n
       s2.unitPost n (s2.objC Obj.numCompScalePeg n))) ∧
  (∀ (c : CompNo) (rem : Option SpanReply) (bs : List Byte) (s s2 : State),
    let n := c.val
    let l := leNat bs
    s.unitsRun n = true → s.advances n unitPlumb (s.objC Obj.updCompPlumbPeg n) ≠ 0 →
    (s.actOn n unitPlumb).unitFetch n ((s.actOn n unitPlumb).objC Obj.updCompPlumbAddr n) 64 rem = (some bs, s2) →
    exec (.plumbLineAccept c rem) s = .next
      (if fld l 63 0 = (s2.comp n).upd.lastPlumb + 1 ∧ fld l 511 96 = 0 then
        ((s2.modUpd n fun u => { u with lastPlumb := fld l 63 0,
                                        norms := kput (2 ^ 64) u.norms (fld l 63 0) (fld l 95 64) }).confPut n (fld l 63 0)
          fun x => { x with normSq := some (fld l 95 64) }).joinLine n (fld l 63 0)
      else s2.updEvent n 0x060A 0 (fld l 63 0) false)) ∧
  (∀ (c : CompNo) (rem : Option SpanReply) (s s2 : State),
    let n := c.val
    s.unitsRun n = true → s.advances n unitPlumb (s.objC Obj.updCompPlumbPeg n) ≠ 0 →
    (s.actOn n unitPlumb).unitFetch n ((s.actOn n unitPlumb).objC Obj.updCompPlumbAddr n) 64 rem = (none, s2) →
    exec (.plumbLineAccept c rem) s = .next (s2.updEvent n 0x060A 0 0 false)) ∧
  (∀ (c : CompNo) (step used v clip : Nat) (rest : List (Nat × (Nat × Nat × Nat))) (s : State),
    s.unitsRun c.val = true → (s.comp c.val).upd.lines = (step, used, v, clip) :: rest →
    exec (.paramLinePublish c) s =
      .next ((s.modUpd c.val fun u => { u with lines := rest }).putLine c.val step used v clip))

/-- R208, R209, R212, R214, R215: an entry of the update ring. -/
def Obligations.UpdateRingEntriesRunToTheirResult : Prop :=
  (∀ (c : CompNo) (rem : Option SpanReply) (bs : List Byte) (s s1 : State),
    let n := c.val
    let u := (s.comp n).upd
    let e := leNat bs
    s.running n = true → ((s.peg (s.objC Obj.updCompRingPeg n)).value + 2 ^ 32 - u.taken % 2 ^ 32) % 2 ^ 32 ≠ 0 →
    u.opened.length < 256 →
    s.unitFetch n (s.objC Obj.updCompRingAddr n + u.taken % max 1 (s.objC Obj.updCompRingEntries n) * 64) 64 rem =
      (some bs, s1) →
    let s2 := (s1.modUpd n fun u => { u with taken := u.taken + 1, nextId := u.nextId + 1 }).unitPost n
      (s1.objC Obj.updCompTakenPeg n)
    let add (p : UpdPhase) : State := s2.modUpd n fun u => { u with opened := u.opened ++ [⟨u.nextId - 1, e, s2.now, 0, p⟩] }
    (s2.ueSound n e = false ∨ s2.layerTagged n (Ue.tag e) = none →
      exec (.updRingTake c rem) s = .next (s2.ueFinish n e 0x0602 0)) ∧
    (∀ i l, s2.ueSound n e = true → s2.layerTagged n (Ue.tag e) = some (i, l) →
      exec (.updRingTake c rem) s = .next
        (if Ue.commit e = true ∧ Lay.torn l = true then s2.ueFinish n e 0x0609 0
         else if Ue.step e ≤ Lay.lastCommit l ∨ (Ue.commit e = true ∧ s2.commitOpen n u.nextId e = true) then
           s2.ueFinish n e 0x0603 0
         else add (if Ue.commit e then .waiting else .filling)))) ∧
  (∀ (c : CompNo) (id i l : Nat) (x : UpdEntry) (s : State),
    let n := c.val
    s.openEntry n id = some x → s.running n = true → Ue.commit x.raw = true → x.phase = .waiting →
    s.commitFirst n x.raw = true → s.layerTagged n (Ue.tag x.raw) = some (i, l) →
    (Lay.torn l = true → exec (.updCommitEvaluate c id) s = .next (s.ueClose n x 0x0609 0)) ∧
    (Lay.torn l = false → Ue.step x.raw ≤ Lay.lastCommit l ∨ s.stepDropped n (Ue.step x.raw) = true →
      exec (.updCommitEvaluate c id) s = .next (s.ueClose n x 0x0603 0)) ∧
    (∀ cf, Lay.torn l = false → Lay.lastCommit l < Ue.step x.raw → s.stepDropped n (Ue.step x.raw) = false →
      s.confOf n (Ue.step x.raw) = some cf →
      exec (.updCommitEvaluate c id) s = .next
        (if s.commitStatus n x.raw l cf = 0 then s.modUpd n fun u =>
           { u with opened := u.opened.map fun y => if y.id = id then { y with phase := .copying } else y }
         else (if (cf.verdict.getD (0, 0)).1 ≠ 0 then s.incC Obj.updCompSkippedCommits n else s).ueClose n x
           (s.commitStatus n x.raw l cf) 0))) ∧
  (∀ (c : CompNo) (id : Nat) (x : UpdEntry) (s : State),
    let n := c.val
    s.openEntry n id = some x → s.running n = true → Ue.commit x.raw = true → x.phase = .waiting →
    s.commitFirst n x.raw = true → s.confOf n (Ue.step x.raw) = none → s.stepDropped n (Ue.step x.raw) = false →
    s.objC Obj.updCompCommitDeadlineUs n * 1000 < s.now - x.t0 - x.paused →
    exec (.updConfirmTimeout c id) s = .next (s.ueClose n x 0x0607 0)) ∧
  (∀ (c : CompNo) (id i l : Nat) (x : UpdEntry) (s : State),
    let n := c.val
    s.openEntry n id = some x → s.unitsRun n = true → x.phase = .copying →
    s.layerTagged n (Ue.tag x.raw) = some (i, l) →
    let r := (Lay.pieces l).foldl (fun r p => r.piece n p) (⟨s, 0, 0⟩ : CopyRun)
    exec (.updCommitCopyDone c id) s = .next
      (if r.fault = 0 then
        ((((r.s.putLayer n i 64 8 (Ue.step x.raw)).incC Obj.updCompCommits n).compEvent n 0xE3 1)).ueClose n x 0 r.words
       else if r.words = 0 then r.s.ueClose n x r.fault 0
       else (((r.s.putLayer n i 80 1 1).ueClose n x 0x0609 r.words r.fault).fault r.fault n (Ue.tag x.raw)).holdComp n 0x0609)) ∧
  (∀ (c : CompNo) (id i l : Nat) (x : UpdEntry) (s : State),
    let n := c.val
    s.openEntry n id = some x → s.running n = true → x.phase = .filling →
    s.layerTagged n (Ue.tag x.raw) = some (i, l) →
    let q := s.fillNoise n l (Ue.nzOff x.raw)
    exec (.noiseFillDone c id) s = .next
      (if q.1 = 0 then ((q.2.putLayer n i 72 8 (Ue.step x.raw)).incC Obj.updCompNoiseFills n).ueClose n x 0 0
       else q.2.ueClose n x q.1 0))

/-- R243: arrival order, the blocking waiter, and the conservation of tokens of a counting peg. -/
def Obligations.PegTokensAreConserved : Prop :=
  (∀ (p n : Nat) (s u : State), s.pegAdd false p n = some u →
    ∃ sat rest, (s.peg p).waiters = sat ++ rest ∧ (u.peg p).waiters = rest ∧
      (u.peg p).value + (sat.map Waiter.amount).sum = (s.peg p).value + n ∧
      (∀ w r, rest = w :: r → (u.peg p).value < w.amount) ∧
      u = sat.foldl State.wake (s.setPeg p (u.peg p)) ∧ (∀ q, q ≠ p → u.peg q = s.peg q)) ∧
  (∀ (n p v : Nat) (op : PegOp) (s : State), op = .wait ∨ op = .try_ → s.pegOwned n p = true → s.pegSeq n p = false →
    1 ≤ v → v < 2 ^ 31 →
    s.pegPerform n op p v = if (s.peg p).waiters = [] ∧ v ≤ (s.peg p).value then
      (.done 0, s.setPeg p ⟨(s.peg p).value - v, []⟩) else (.wait, s)) ∧
  (∀ (n p v : Nat) (s : State), s.pegOwned n p = true → s.pegPerform n .read p v = (.done (s.peg p).value, s))

/-- R231, R242, R244-R247: the peg operations. -/
def Obligations.PegOperationsRun : Prop :=
  (∀ (t : ThreadId) (rd rs1 rs2 : Fin 32) (n : Nat) (s : State), s.issuer t = some n → (s.thread t.key).st = .ready →
    let b := s.beat t n
    let h := ((b.thread t.key).getX rs1.val).toNat
    let v := ((b.thread t.key).getX rs2.val).toNat
    exec (.pegWait t rd rs1 rs2) s = .next (b.pegDo t n rd.val h v .wait) ∧
    exec (.pegTry t rd rs1 rs2) s = .next (b.pegDo t n rd.val h v .try_) ∧
    exec (.pegRead t rd rs1 rs2) s = .next (b.pegDo t n rd.val h v .read) ∧
    (s.storesOpen t = false → exec (.pegPost t rd rs1 rs2) s = .next (b.pegDo t n rd.val h v .post))) ∧
  (∀ (t : ThreadId) (n rd h v : Nat) (op : PegOp) (s : State), Hnd.bad h = true →
    s.pegDo t n rd h v op = ((s.incC Obj.spanCompPegRefused n).faultOnce 0x0704 n 0 0).retire t rd 0x0704) ∧
  (∀ (t : ThreadId) (n rd h v : Nat) (op : PegOp) (s : State), Hnd.bad h = false → Hnd.remote h = false →
    let e := s.compEvent n 0xA1 1
    (∀ x u, e.pegPerform n op (Hnd.peg h) v = (.done x, u) →
      s.pegDo t n rd h v op = (if op = .post then u else u.purge t.key).retire t rd x) ∧
    (∀ c u, e.pegPerform n op (Hnd.peg h) v = (.refused c, u) →
      s.pegDo t n rd h v op = (u.compEvent n 0xA3 1).retire t rd c) ∧
    (∀ u, op = .try_ → e.pegPerform n op (Hnd.peg h) v = (.wait, u) → s.pegDo t n rd h v op = u.retire t rd 1) ∧
    (∀ u, op = .wait → e.pegPerform n op (Hnd.peg h) v = (.wait, u) →
      s.pegDo t n rd h v op = ((u.setPeg (Hnd.peg h) { u.peg (Hnd.peg h) with
        waiters := (u.peg (Hnd.peg h)).waiters ++ [.local t.key v] }).retire t 0 0).modThread t.key fun x =>
          { x with st := .waiting, waitPeg := some ⟨rd, Hnd.peg h, none⟩ })) ∧
  (∀ (n p v : Nat) (op : PegOp) (s : State),
    (s.pegOwned n p = false →
      s.pegPerform n op p v = (.refused 0x0705, (s.incC Obj.spanCompPegRefused n).faultOnce 0x0705 n 0 p)) ∧
    (s.pegOwned n p = true → pegArgOk op (s.pegSeq n p) v = false →
      s.pegPerform n op p v = (.refused 0x0704, (s.incC Obj.spanCompPegRefused n).faultOnce 0x0704 n 0 p)) ∧
    (s.pegOwned n p = true → s.pegSeq n p = false → 1 ≤ v → v < 2 ^ 31 → 2 ^ 31 - 1 < (s.peg p).value + v →
      s.pegPerform n .post p v = (.refused 0x0703, (s.incC Obj.spanCompPegOverflows n).faultOnce 0x0703 n 0 p)) ∧
    (s.pegOwned n p = true → s.pegSeq n p = true → 1 ≤ v → v < 2 ^ 31 →
      s.pegPerform n .post p v = (.done 0, ((s.peg p).waiters.filter fun w =>
          seqReached (((s.peg p).value + v) % 2 ^ 32) w.amount).foldl State.wake
        ((s.setPeg p ⟨((s.peg p).value + v) % 2 ^ 32, (s.peg p).waiters.filter fun w =>
          !seqReached (((s.peg p).value + v) % 2 ^ 32) w.amount⟩).stampRing p (((s.peg p).value + v) % 2 ^ 32)))) ∧
    (s.pegOwned n p = true → s.pegSeq n p = true → v < 2 ^ 32 →
      s.pegPerform n .wait p v = (if seqReached (s.peg p).value v = true then .done 0 else .wait, s))) ∧
  (∀ (node : BitVec 16) (tag : W32) (job : W64) (op : PegOp) (peg : Fin 16384) (v : W64) (n : Nat) (s : State),
    s.compOfJob job.toNat = some n →
    let send (u : State) (st x : Nat) (reg : Bool) : Host.Outcome State Fault Refusal :=
      .next (u.respond n node.toNat tag.toNat st (pegOperand x reg) [])
    (∀ x u, s.pegPerform n op peg.val v.toNat = (.done x, u) →
      exec (.remotePegOperation node tag job op peg v) s = send u 0 x false) ∧
    (∀ c u, s.pegPerform n op peg.val v.toNat = (.refused c, u) →
      exec (.remotePegOperation node tag job op peg v) s = send u c 0 false) ∧
    (∀ u, op = .try_ → s.pegPerform n op peg.val v.toNat = (.wait, u) →
      exec (.remotePegOperation node tag job op peg v) s = send u 0 1 false) ∧
    (∀ u, op = .wait → s.pegPerform n op peg.val v.toNat = (.wait, u) →
      exec (.remotePegOperation node tag job op peg v) s =
        if 2048 ≤ u.objC Obj.spanCompRemoteWaitersUsed n then send (u.fault 0x0706 n 0 0 peg.val) 0x0706 0 false
        else send ((u.setPeg peg.val { u.peg peg.val with waiters := (u.peg peg.val).waiters ++
          [.remote n node.toNat tag.toNat v.toNat] }).setObjC Obj.spanCompRemoteWaitersUsed n
            (u.objC Obj.spanCompRemoteWaitersUsed n + 1)) 0 0 true)) ∧
  (∀ (t : ThreadId) (value : W64) (registered : Bool) (i : Nat) (x : Slot) (s : State), s.pegSlot t = some (i, x) →
    exec (.remotePegReply t 0 value registered) s = .next
      (if registered then (s.setSlot t.tile.val i none).modThread t.key fun h => { h with st := .waiting }
       else (s.setSlot t.tile.val i none).pegEnd t.key value.toNat (x.addr % 4 ≠ 0 ∧ ¬(x.addr % 4 = pegCode .try_ ∧ value = 1)))) ∧
  (∀ (t : ThreadId) (status : BitVec 16) (value : W64) (registered : Bool) (i : Nat) (x : Slot) (s : State),
    s.pegSlot t = some (i, x) → status ≠ 0 →
    exec (.remotePegReply t status value registered) s =
      .next ((s.setSlot t.tile.val i none).pegEnd t.key status.toNat false)) ∧
  (∀ (t : ThreadId) (status : BitVec 16) (value : W64) (registered : Bool) (w : PegWaitFor) (m : Nat) (s : State),
    s.pegSlot t = none → (s.thread t.key).st = .waiting → (s.thread t.key).waitPeg = some w → w.remote = some m →
    exec (.remotePegReply t status value registered) s = .next (s.pegEnd t.key status.toNat (status = 0))) ∧
  (∀ (t : TileNo) (k : Fin 256) (x : Slot) (n m : Nat) (s : State), s.slotAt t.val k.val = some x →
    s.compOfTile t.val = some n → x.target = .module m → m < 65536 → x.reply = none → x.left = true →
    x.issued + s.obj Obj.spanRemoteTimeoutMs * 1000000 ≤ s.now →
    exec (.remoteTimeout t k) s = .next (match x.who with
      | .pegOp key => ((s.lostAccess n 0x0708 x.addr).setSlot t.val k.val none).pegEnd key 0x0708 false
      | _ => (s.lostAccess n 0x0708 x.addr).answerSlot t.val k.val 0x0708 []))

/-- R90, R124, R172, R194, R217, R249, R281, R316, R373, R484, R553: the eleven clearing writes. -/
def Obligations.ClearingWritesEmptyTheirRecords : Prop :=
  ∀ (r : Role) (c : CompNo) (s : State),
    let n := c.val
    let clears (i : Bool → Instr) (key : Nat) (t : State) : Prop :=
      (s.checkWrite r key 1 = .ok → exec (i true) s = .next (t.reply .ok)) ∧
      (s.checkWrite r key 0 = .ok → exec (i false) s = .next (s.reply .outOfRange)) ∧
      (∀ v : Bool, s.checkWrite r key (if v then 1 else 0) ≠ .ok →
        exec (i v) s = .next (s.reply (s.checkWrite r key (if v then 1 else 0))))
    clears (.mxTrapClear r c) (objAt Obj.mxCompTrapClear n) (s.setObjC Obj.mxCompFirstTrap n 0) ∧
    clears (.vxTrapClear r c) (objAt Obj.vxCompTrapClear n) (s.setObjC Obj.vxCompFirstTrap n 0) ∧
    clears (.prepFaultClear r c) (objAt Obj.prepCompFaultClear n) (s.setObjC Obj.prepCompFirstFault n 0) ∧
    clears (.numEventClear r c) (objAt Obj.numCompEventClear n) ((s.setObjC Obj.numCompFirstEvent n 0).rearmLog n 0x05) ∧
    clears (.updEventClear r c) (objAt Obj.updCompEventClear n) ((s.setObjC Obj.updCompFirstEvent n 0).rearmLog n 0x06) ∧
    clears (.segClear r c) (objAt Obj.spanCompSegClear n) (s.modComp n fun x => { x with segs := [] }) ∧
    clears (.tierEventClear r c) (objAt Obj.tierCompEventClear n) ((s.setObjC Obj.tierCompFirstEvent n 0).rearmLog n 8) ∧
    clears (.nodeMapClear r c) (objAt Obj.fabCompNodeMapClear n) (s.modComp n fun x => { x with nodes := [] }) ∧
    clears (.integEventClear r c) (objAt Obj.integCompEventClear n)
      ((s.setObjC Obj.integCompFirstEvent n 0).rearmLog n 0x0B) ∧
    clears (.phaseClear r c) (objAt Obj.evCompPhaseClear n) (s.phaseClear n) ∧
    clears (.faultClear r) Obj.faultClear { s with log := { s.log with entries := [], mirror := [] } }

/-- R222, R257, R269, R279, R346, R524: the writes of chapters 8, 9 and 12. -/
def Obligations.MemoryWritesTakeTheirValue : Prop :=
  (∀ (r : Role) (c : CompNo) (v : BitVec 256) (s : State),
    (s.checkWrite r (objAt Obj.spanCompSegWrite c.val) v.toNat = .ok → s.segFits c.val v.toNat = true →
      exec (.segWrite r c v) s = .next ((s.modComp c.val fun x => { x with segs := x.segs ++ [v.toNat] }).reply .ok)) ∧
    (s.checkWrite r (objAt Obj.spanCompSegWrite c.val) v.toNat = .ok → s.segFits c.val v.toNat = false →
      exec (.segWrite r c v) s = .next ((s.fault 0x0701 c.val).reply .outOfRange 0x0701)) ∧
    (s.checkWrite r (objAt Obj.spanCompSegWrite c.val) v.toNat ≠ .ok →
      exec (.segWrite r c v) s = .next (s.reply (s.checkWrite r (objAt Obj.spanCompSegWrite c.val) v.toNat)))) ∧
  (∀ (r : Role) (c : CompNo) (v : BitVec 512) (s t : State) (k : Nat),
    (s.checkWrite r (objAt Obj.tierCompDefineWrite c.val) v.toNat = .ok → Pe.kind v.toNat = 0x71 →
      Pe.result v.toNat = 0 → Pe.peg v.toNat = 0 → Pe.pegEn v.toNat = false → s.define c.val v.toNat = (k, t) →
      exec (.defineWrite r c v) s = .next
        (if k = 0 then t.reply .ok else (t.tierEvent c.val k (Pe.obj v.toNat) 0).reply .outOfRange k)) ∧
    (s.checkWrite r (objAt Obj.tierCompDefineWrite c.val) v.toNat = .ok → Pe.kind v.toNat = 0x71 →
      Pe.result v.toNat ≠ 0 ∨ Pe.peg v.toNat ≠ 0 ∨ Pe.pegEn v.toNat = true →
      exec (.defineWrite r c v) s = .next ((s.tierEvent c.val 0x0801 (Pe.obj v.toNat) 0).reply .outOfRange 0x0801)) ∧
    (s.checkWrite r (objAt Obj.tierCompDefineWrite c.val) v.toNat ≠ .ok →
      exec (.defineWrite r c v) s = .next (s.reply (s.checkWrite r (objAt Obj.tierCompDefineWrite c.val) v.toNat)))) ∧
  (∀ (r : Role) (v : W64) (s : State),
    (s.checkWrite r Obj.tierLendOffer v.toNat = .ok → v.toNat < 2 ^ 48 →
      (∀ g < 48, v.toNat.testBit g = true → ∀ n < 8, (s.groups n).testBit g = false) →
      exec (.lendOfferWrite r v) s = .next ((s.setObj Obj.tierLendOffer v.toNat).reply .ok)) ∧
    (s.checkWrite r Obj.tierLendOffer v.toNat ≠ .ok →
      exec (.lendOfferWrite r v) s = .next (s.reply (s.checkWrite r Obj.tierLendOffer v.toNat)))) ∧
  (∀ (r : Role) (c : CompNo) (which : Fin 3) (v : W32) (s : State),
    let n := c.val
    let key := objAt (if which = 0 then Obj.tierCompLentQuotaGib else if which = 1 then Obj.tierCompFlashQuotaGib
      else Obj.tierCompCkptQuotaGib) n
    let charge := if which = 0 then s.leasesHeld n false else if which = 1 then ceilDiv (s.chargedIn n 2) 16384
      else s.leasesHeld n true
    (s.checkWrite r key v.toNat = .ok → Role.manages r = true → (s.comp n).st ≠ .free → (s.comp n).st ≠ .closing →
      (which = 1 → v.toNat ≤ 448 * popCount 32 (s.flashCh n)) → charge ≤ v.toNat →
      exec (.quotaWrite r c which v) s = .next ((s.setObj key v.toNat).reply .ok)) ∧
    (s.checkWrite r key v.toNat ≠ .ok → exec (.quotaWrite r c which v) s = .next (s.reply (s.checkWrite r key v.toNat)))) ∧
  (∀ (r : Role) (c : CompNo) (range : Fin 16) (v : BitVec 128) (s : State),
    let key := objAt Obj.integKrDesc c.val + range.val
    (s.checkWrite r key v.toNat = .ok → s.krFits c.val range.val v.toNat = true →
      exec (.krDescWrite r c range v) s = .next ((s.setObj key v.toNat).reply .ok)) ∧
    (s.checkWrite r key v.toNat = .ok → s.krFits c.val range.val v.toNat = false →
      exec (.krDescWrite r c range v) s = .next ((s.integEvent c.val 0x0B01 range.val 0 0).reply .outOfRange 0x0B01)) ∧
    (s.checkWrite r key v.toNat ≠ .ok → exec (.krDescWrite r c range v) s = .next (s.reply (s.checkWrite r key v.toNat))))

/-- R288, R289, R331, R401, R446, R447, R524: the writes of chapters 10, 11, 14 and 16. -/
def Obligations.JobAndModuleWritesTakeTheirValue : Prop :=
  (∀ (r : Role) (which : Fin 8) (v : BitVec 128) (s : State),
    let key := fabConfigKey which.val
    (s.checkWrite r key v.toNat = .ok → which.val < 7 → exec (.fabricConfigWrite r which v) s = .next
      ((if s.obj key = v.toNat then s.setObj key v.toNat else (s.setObj key v.toNat).fabRestart).reply .ok)) ∧
    (s.checkWrite r key v.toNat = .ok → which.val = 7 → exec (.fabricConfigWrite r which v) s = .next
      (if sharesOk v.toNat then (s.setObj key v.toNat).reply .ok else s.reply .outOfRange)) ∧
    (s.checkWrite r key v.toNat ≠ .ok →
      exec (.fabricConfigWrite r which v) s = .next (s.reply (s.checkWrite r key v.toNat)))) ∧
  (∀ (r : Role) (c : CompNo) (v : BitVec 512) (s : State),
    let key := objAt Obj.fabCompNodeMapWrite c.val
    let nodes := (s.comp c.val).nodes
    let k := min 32 (s.objC Obj.spanCompJobModules c.val - nodes.length)
    let all := nodes ++ (List.range k).map fun i => fld v.toNat (16 * i + 15) (16 * i)
    let me := s.objC Obj.spanCompModuleIndex c.val
    (s.checkWrite r key v.toNat = .ok → nodes.length < s.objC Obj.spanCompJobModules c.val →
      v.toNat >>> (16 * k) = 0 → (all.length ≤ me ∨ all.getD me 0 = s.obj Obj.fabNode) →
      (∀ i < all.length, all.getD i 0 ∉ all.take i) →
      exec (.nodeMapWrite r c v) s = .next ((s.modComp c.val fun x => { x with nodes := all }).reply .ok)) ∧
    (s.checkWrite r key v.toNat = .ok → (s.nodeMapAct c.val v.toNat).1 ≠ .ok → exec (.nodeMapWrite r c v) s =
      .next ((s.portFault 0 0x090B c.val).reply .outOfRange 0x090B)) ∧
    (s.checkWrite r key v.toNat ≠ .ok → exec (.nodeMapWrite r c v) s = .next (s.reply (s.checkWrite r key v.toNat)))) ∧
  (∀ (r : Role) (c : CompNo) (v : BitVec 1024) (s : State),
    let key := objAt Obj.compContribWrite c.val
    let slot := v.toNat % 8
    let bad := (bit v.toNat 7 = true ∧ fld v.toNat 23 8 = 0) ∨
      (∃ i < 8, i ≠ slot ∧ fld (s.contrib c.val i) 23 8 &&& fld v.toNat 23 8 ≠ 0) ∨ fld v.toNat 6 3 ≠ 0 ∨
      fld v.toNat 63 24 ≠ 0 ∨ fld v.toNat 1023 832 ≠ 0
    (s.checkWrite r key v.toNat = .ok → ¬ bad → exec (.contribWrite r c v) s = .next ((s.modComp c.val fun x =>
      { x with contribs := kput 0 x.contribs slot (if bit v.toNat 7 then v.toNat else 0) }).reply .ok)) ∧
    (s.checkWrite r key v.toNat = .ok → bad → exec (.contribWrite r c v) s =
      .next ((s.fault 0x0A04 c.val slot).reply .outOfRange 0x0A04)) ∧
    (s.checkWrite r key v.toNat ≠ .ok → exec (.contribWrite r c v) s = .next (s.reply (s.checkWrite r key v.toNat)))) ∧
  (∀ (r : Role) (c : CompNo) (v : BitVec 128) (s t : State) (st : Status),
    let key := objAt Obj.ckptCompSetWrite c.val
    (s.checkWrite r key v.toNat = .ok → s.setWriteAct c.val v.toNat = (st, t) →
      exec (.setWrite r c v) s = .next (t.reply st (if st = .ok then 0 else 0x0D01))) ∧
    (s.checkWrite r key v.toNat ≠ .ok → exec (.setWrite r c v) s = .next (s.reply (s.checkWrite r key v.toNat)))) ∧
  (∀ (r : Role) (v : BitVec 16) (s : State),
    let key := Obj.powerInputLimitW
    (s.checkWrite r key v.toNat = .ok → exec (.inputLimitWrite r v) s = .next
      (if v.toNat - 600 < s.allotted 8 then (s.fault 0x0E0F).reply .stateConflict 0x0E0F
       else (s.setObj key v.toNat).reply .ok)) ∧
    (s.checkWrite r key v.toNat ≠ .ok → exec (.inputLimitWrite r v) s = .next (s.reply (s.checkWrite r key v.toNat)))) ∧
  (∀ (r : Role) (c : CompNo) (v : BitVec 16) (s : State),
    let key := objAt Obj.powerCompAllotW c.val
    (s.checkWrite r key v.toNat = .ok → exec (.allotWrite r c v) s = .next
      (if s.allotable < s.allotted c.val + v.toNat then (s.fault 0x0E0F c.val).reply .stateConflict 0x0E0F
       else (s.setObjC Obj.powerCompAllotW c.val v.toNat).reply .ok)) ∧
    (s.checkWrite r key v.toNat ≠ .ok → exec (.allotWrite r c v) s = .next (s.reply (s.checkWrite r key v.toNat))))

/-- R256, R261, R265, R266: the six kinds of placement entry. -/
def Obligations.PlacementEntriesRunToTheirRecord : Prop :=
  (∀ (n : Nat) (kinds : Nat → Bool) (rem : Option SpanReply) (bs : List Byte) (s s1 : State),
    s.running n = true → ((s.peg (s.objC Obj.tierCompRingPeg n)).value + 2 ^ 32 - (s.comp n).pTaken % 2 ^ 32) % 2 ^ 32 ≠ 0 →
    (s.comp n).pOpen.length < 64 →
    s.unitFetch n (s.objC Obj.tierCompRingAddr n + (s.comp n).pTaken % max 1 (s.objC Obj.tierCompRingEntries n) * 64) 64
      rem = (some bs, s1) → kinds (Pe.kind (leNat bs)) = true →
    s.peTake n kinds rem = some ((s.comp n).pNext, leNat bs,
      (s1.modComp n fun x => { x with pTaken := x.pTaken + 1, pNext := x.pNext + 1 }).unitPost n
        (s.objC Obj.tierCompTakenPeg n))) ∧
  (∀ (c : CompNo) (rem : Option SpanReply) (id e k : Nat) (s s1 t : State),
    let n := c.val
    s.peTake n (fun k => k = 0x71 || k < 0x71 || 0x76 < k) rem = some (id, e, s1) → s1.define n e = (k, t) →
    exec (.placeDefine c rem) s = .next
      (if k = 0 then t.peFinish n e 0 false 0 0 0 0
       else if k = 0x0801 then t.peRefuse n e
       else (t.tierEvent n k (Pe.obj e) 0).peFinish n e k false 0 0 0 0)) ∧
  (∀ (c : CompNo) (rem : Option SpanReply) (id e : Nat) (o : PObj) (s s1 : State),
    let n := c.val
    s.peTake n (fun k => k = 0x72) rem = some (id, e, s1) → s1.pobj n (Pe.obj e) = some o → Pe.sound e = true →
    (Pe.pin e = false → exec (.placePromote c rem) s = .next (s1.openMove n (id, e) (.promote false) fun o => o)) ∧
    (Pe.pin e = true → Pol.home o.policy = 0 → (∀ m rest t, o.moves = m :: rest → m.kind ≠ .evict t) →
      exec (.placePromote c rem) s = .next (s1.openMove n (id, e) (.promote true) fun o => { o with pinned := true })) ∧
    (∀ m rest t, Pe.pin e = true → Pol.home o.policy = 0 → o.moves = m :: rest → m.kind = .evict t →
      exec (.placePromote c rem) s = .next
        ((((s1.setPObj n (Pe.obj e) (some { o with moves := rest, deferred := some t })).abandonMoves n o).endEntries n 0
          true m).openMove n (id, e) (.promote true) fun o => { o with pinned := true }))) ∧
  (∀ (c : CompNo) (rem : Option SpanReply) (id e : Nat) (o : PObj) (s s1 : State),
    let n := c.val
    let t := fld (Pe.policy e) 1 0
    s.peTake n (fun k => k = 0x73) rem = some (id, e, s1) → s1.pobj n (Pe.obj e) = some o → Pe.sound e = true →
    Pol.permits o.policy t = true →
    exec (.placeEvict c rem) s = .next
      (if o.pinned = true ∨ pinsQueued o = true then
        (if Pe.pressure e = true then (s1.quotaBlocked n (Pe.obj e) 0).peFinish n e 0x0802 false 0 0 0 0
         else (s1.setPObj n (Pe.obj e) (some { o with deferred := some t })).peFinish n e 0 true 0 0 0 0)
       else s1.openMove n (id, e) (.evict t) fun o => o)) ∧
  (∀ (c : CompNo) (rem : Option SpanReply) (id e : Nat) (o : PObj) (s s1 : State),
    let n := c.val
    s.peTake n (fun k => k = 0x74) rem = some (id, e, s1) → s1.pobj n (Pe.obj e) = some o → Pe.sound e = true →
    exec (.placeUnpin c rem) s = .next
      (((s1.setPObj n (Pe.obj e) (some { o with pinned := false, deferred := none, moves := o.moves ++
        (match o.deferred with | some t => [⟨.evict t, [], 0⟩] | none => []) })).settle n (Pe.obj e) 8).peFinish n e 0
        false 0 0 0 0)) ∧
  (∀ (c : CompNo) (rem : Option SpanReply) (slots : List (Option SpanReply)) (id e : Nat) (o : PObj) (s s1 : State),
    let n := c.val
    s.peTake n (fun k => k = 0x75) rem = some (id, e, s1) → s1.pobj n (Pe.obj e) = some o → Pe.sound e = true →
    s1.streamFits n e o = true →
    (Pol.measured o.policy = false → exec (.placeStream c rem slots) s = .next
      (let q := s1.streamFrom n e slots (Pe.count e) 0
       q.2.2.streamEnd n e q.1 q.2.1)) ∧
    (Pol.measured o.policy = true → exec (.placeStream c rem slots) s = .next
      (match s1.streamSlot n e 0 true (slots.getD 0 none) with
       | (.ok _, s2) => s2.modComp n fun c => { c with pOpen := c.pOpen ++ [⟨id, e, 0⟩] }
       | (.error x, s2) => s2.streamEnd n e (.error x) 0))) ∧
  (∀ (c : CompNo) (rem : Option SpanReply) (id e : Nat) (o : PObj) (s s1 : State),
    let n := c.val
    s.peTake n (fun k => k = 0x76) rem = some (id, e, s1) → s1.pobj n (Pe.obj e) = some o → Pe.sound e = true →
    exec (.placeRetire c rem) s = .next
      (if o.pinned = true ∨ o.moves ≠ [] then (s1.tierEvent n 0x0803 (Pe.obj e) 0).peFinish n e 0x0803 false 0 0 0 0
       else (s1.setPObj n (Pe.obj e) none).peFinish n e 0 false 0 0 0 0)) ∧
  (∀ (c : CompNo) (rem : Option SpanReply) (slots : List (Option SpanReply)) (s : State) (k id e : Nat) (i : Instr)
      (s1 : State), let n := c.val
    (k, i) ∈ [(0x72, .placePromote c rem), (0x73, .placeEvict c rem), (0x74, .placeUnpin c rem),
      (0x75, .placeStream c rem slots), (0x76, .placeRetire c rem)] →
    s.peTake n (fun x => x = k) rem = some (id, e, s1) → s1.pobj n (Pe.obj e) = none →
    exec i s = .next (s1.peRefuse n e))

/-- R229, R258, R263, R275, R276: a page on its way, and the flash it may reach. -/
def Obligations.PagesMoveInTheirSteps : Prop :=
  (∀ (c : CompNo) (page : BitVec 40) (l : Option PLoc) (s s1 : State),
    let n := c.val
    let p := page.toNat
    let x := s.spage n p
    x.loc ≠ .nowhere → x.dest = .nowhere → x.final = false → s.pageUnver n p = false → s.moveFrame n p = some (l, s1) →
    (∀ f, l = some f →
      exec (.pageMoveStart c page) s = .next ((s1.tickFresh.invalidate n p).setPage n p { x with dest := f })) ∧
    (l = none → s.evacuating n p = false → exec (.pageMoveStart c page) s = .next
      (if x.want = true ∧ (match s.pobj n (s.objOf n p) with | some o => o.moves.isEmpty | none => true) = true then
        s1.setPage n p { x with want := false }
       else (s1.quotaBlocked n (s.objOf n p) p).stopMove n (s.objOf n p) 0x0802 p))) ∧
  (∀ (c : CompNo) (page : BitVec 40) (verifies : Bool) (s : State),
    let n := c.val
    let p := page.toNat
    let x := s.spage n p
    x.dest ≠ .nowhere → x.final = false →
    exec (.pageOwnershipStep c page verifies) s = .next
      (if verifies = false ∨ s.pageUnver n p = true then s.abandonPage n p
       else if x.dest.tier = 2 then s.setPage n p { x with final := true }
       else (s.ownStep n p x.dest).moved n p (s.evacuating n p))) ∧
  (∀ (c : CompNo) (page : BitVec 40) (s : State),
    let n := c.val
    let p := page.toNat
    let x := s.spage n p
    x.dest.tier = 2 → x.final = true →
    exec (.flashProgramDone c page) s = .next
      (if x.loc.tier = 2 then
        ((s.comp n).held.filter fun h => pageOf h.addr = p).foldl (fun a h =>
            let q := a.placedAccess n h.kind p (h.addr % 65536) h.data.length h.data .intact
            q.2.answer n h.src h.addr q.1)
          (((s.modComp n fun c => { c with held := c.held.filter fun h => pageOf h.addr ≠ p }).ownStep n p x.dest).incC
            Obj.tierCompFlashRmw n)
       else (s.ownStep n p x.dest).moved n p (s.evacuating n p))) ∧
  (∀ (c : CompNo) (page : BitVec 40) (ch i j : Nat) (s : State),
    let n := c.val
    let p := page.toNat
    (s.spage n p).loc = .flash ch j → (s.spage n p).final = false → (s.spage n p).dest = .nowhere → s.pageUnver n p = false →
    (s.obj Obj.tierFlashReadonlyMap).testBit ch = false →
    freeIndex (s.flashUsed n ch) flashPerChannel ((s.flashUsed n ch).length + 1) (Config.choice s.fresh % flashPerChannel) = some i →
    exec (.flashGc c page) s = .next
      (((s.invalidate n p).placePage n p (.flash ch i)).incC Obj.tierCompFlashGcPages n)) ∧
  (∀ (ch : Fin 32) (sparePct : Fin 101) (s : State),
    let old := s.obj Obj.tierFlashSparePct
    let was := fld old (8 * ch.val + 7) (8 * ch.val)
    let n := (firstBelow 8 fun n => (s.flashCh n).testBit ch.val).getD noComp
    let s1 := s.setObj Obj.tierFlashSparePct (old - was * 2 ^ (8 * ch.val) + sparePct.val * 2 ^ (8 * ch.val))
    let s2 := if sparePct.val < 25 ∧ 25 ≤ was then s1.fault 0x0807 n ch.val else s1
    exec (.flashBlockRetire ch sparePct) s = .next
      (if sparePct.val = 0 ∧ (s.obj Obj.tierFlashReadonlyMap).testBit ch.val = false then
        (s2.setObj Obj.tierFlashReadonlyMap (setBit (s.obj Obj.tierFlashReadonlyMap) ch.val true)).fault 0x0808 n ch.val
       else s2))

/-- R270-R273, R407: leases lent. -/
def Obligations.LenderLeasesLiveAndReturn : Prop :=
  (∀ (node : BitVec 16) (job : W64) (comp : CompNo) (ckpt : Bool) (s : State),
    let free := (((bitsOf 48 (s.obj Obj.tierLendOffer)).filter fun g =>
      !(List.range 8).any fun n => (s.groups n).testBit g).flatMap fun g =>
      (List.range 10).map fun i => 10 * g + i).filter
      fun k => (s.leaseOut k).isNone
    (free = [] → exec (.leaseRequest node job comp ckpt) s = .next (s.emit (.lease node.toNat 3 0 0))) ∧
    (free ≠ [] → ∃ k ∈ free, exec (.leaseRequest node job comp ckpt) s = .next
      ((s.tickFresh.setLeaseOut k (some
        { group := k / 10, slot := k % 10, node := node.toNat, job := job.toNat, comp := comp.val, ckpt := ckpt,
          st := .granted, heard := s.now, mem := [] })).emit (.lease node.toNat 2 k 0)))) ∧
  (∀ (k : W32) (x : LeaseOut) (s : State), s.leaseOut k.toNat = some x →
    exec (.leaseHeartbeat (.lender k)) s = .next
      ((s.setLeaseOut k.toNat (some { x with heard := s.now })).emit (.lease x.node 4 k.toNat 0)) ∧
    exec (.leaseRelease (.lender k)) s = .next (s.setLeaseOut k.toNat (some { x with st := .scrubbing })) ∧
    (x.st = .scrubbing → exec (.leaseScrubDone k) s = .next (s.setLeaseOut k.toNat none)) ∧
    (x.st ≠ .scrubbing → x.heard + s.obj Obj.tierLendOrphanS * 1000000000 ≤ s.now →
      exec (.tierLeaseOrphaned k) s = .next
        ((s.setLeaseOut k.toNat (some { x with st := .scrubbing })).fault 0x080A noComp k.toNat))) ∧
  (∀ (r : Role) (k : W32) (s : State), s.checkWrite r Obj.tierLendForceRelease k.toNat = .ok →
    (∀ x, s.leaseOut k.toNat = some x → exec (.forceRelease (.lender r k)) s =
      .next ((s.setLeaseOut k.toNat (some { x with st := .scrubbing })).reply .ok)) ∧
    (s.leaseOut k.toNat = none → exec (.forceRelease (.lender r k)) s = .next (s.reply .outOfRange))) ∧
  (∀ (r : Role) (group : Byte) (s : State), s.checkWrite r Obj.tierLendReclaim group.toNat = .ok →
    exec (.reclaim r group) s = .next ((s.reclaimGroup group.toNat).reply .ok)) ∧
  (∀ (r : Role) (group : Byte) (s : State), s.checkWrite r Obj.tierLendReclaim group.toNat ≠ .ok →
    exec (.reclaim r group) s = .next (s.reply (s.checkWrite r Obj.tierLendReclaim group.toNat)))

/-- R270-R273, R406: leases borrowed. -/
def Obligations.BorrowedLeasesAreHeldAndLost : Prop :=
  (∀ (c : CompNo) (range : Option (Fin 16)) (s : State),
    let n := c.val
    exec (.leaseGrantReceive c range none) s = .next
      (let s1 := (s.incC Obj.tierCompQuotaBlocked n).tierEvent n 0x0806 0 0
       match (s.comp n).ckpt.dove with
       | some d => if range.isNone = true ∧ s.copiesFull n d.slot = false then s1.abandonDovetail n 0x0D03 true else s1
       | none => s1)) ∧
  (∀ (c : CompNo) (range : Option (Fin 16)) (node : BitVec 16) (lease : W32) (s : State),
    let n := c.val
    let key := leaseKey node.toNat lease.toNat
    (∃ a ∈ s.lenders n, a % 65536 = node.toNat) →
    s.leasesHeld n range.isNone < s.objC (if range.isNone then Obj.tierCompCkptQuotaGib else Obj.tierCompLentQuotaGib) n →
    kget none (s.comp n).leases key = none →
    (range = none → exec (.leaseGrantReceive c range (some (node, lease))) s = .next ((s.modComp n fun x =>
      { x with leases := kput none x.leases key (some ⟨node.toNat, none, 0, none, 0⟩) }).seekGranted n)) ∧
    (∀ r : Fin 16, range = some r →
      s.rangeHeld n r.val < Kr.leaseMax (s.krDesc n r.val) → kget 0 (s.comp n).serials r.val < 2 ^ 32 →
      exec (.leaseGrantReceive c range (some (node, lease))) s = .next (s.modComp n fun x =>
        { x with leases := kput none x.leases key (some ⟨node.toNat, some r.val, kget 0 (s.comp n).serials r.val, none, 0⟩),
                 serials := kput 0 x.serials r.val (kget 0 (s.comp n).serials r.val + 1) }))) ∧
  (∀ (c : CompNo) (node : BitVec 16) (k : W32) (l : Lease) (s : State),
    let n := c.val
    let key := leaseKey node.toNat k.toNat
    kget none (s.comp n).leases key = some l →
    exec (.leaseHeartbeat (.borrower c node k)) s = .next ((s.modComp n fun x =>
      { x with leases := kput none x.leases key (some { l with missed := 0 }) }).emit (.lease node.toNat 4 k.toNat 0)) ∧
    (s.inLease n key = [] → exec (.leaseRelease (.borrower c node k)) s = .next (s.dropLease n key)) ∧
    (∀ d, l.notice = some d → d ≤ s.now → l.range = none →
      exec (.reclaimDeadline c node k) s = .next (s.dropLease n key)) ∧
    (∀ d, l.notice = some d → d ≤ s.now → l.range ≠ none → s.inLease n key ≠ [] →
      exec (.reclaimDeadline c node k) s = .next ((s.tierEvent n 0x0804 k.toNat 0).holdComp n 0x0804)) ∧
    (s.inLease n key = [] → exec (.forceRelease (.borrower c node k)) s = .next (s.dropLease n key)) ∧
    (s.inLease n key ≠ [] → exec (.forceRelease (.borrower c node k)) s =
      .next (((s.tierEvent n 0x0805 k.toNat 0).loseLease n key).holdComp n 0x0805))) ∧
  (∀ (c : CompNo) (node : BitVec 16) (k : W32) (d : BitVec 16) (s : State),
    exec (.reclaimNoticeReceive c node k d) s = .next (s.notice c.val (leaseKey node.toNat k.toNat) d.toNat) ∧
    (s.hops node.toNat (s.portsOf c.val) ≠ [] → exec (.heartbeatMissLimit c node k) s =
      .next (s.notice c.val (leaseKey node.toNat k.toNat) (s.obj Obj.tierLendReclaimDeadlineMs)))) ∧
  (∀ (c : CompNo) (node : BitVec 16) (s : State),
    let n := c.val
    let keys := s.leasesFrom n node.toNat
    keys ≠ [] → s.hops node.toNat (s.portsOf n) = [] →
    exec (.lenderIsolated c node) s = .next ((keys.foldl (fun a k => a.loseLease n k)
      (s.tierEvent n 0x0805 (keys.headD 0 % 2 ^ 32) 0)).holdComp n 0x0805))

/-- R284, R286, R304, R306, R307: from training to UP. -/
def Obligations.PortsTrainAndKey : Prop :=
  (∀ (r : Role) (v : Byte) (s : State),
    (s.checkWrite r Obj.fabPortRearm v.toNat = .ok → (s.port v.toNat).st = .isolated → s.fabConfigured = true →
      exec (.portRearm r v) s = .next ((s.startTraining v.toNat).reply .ok)) ∧
    (s.checkWrite r Obj.fabPortRearm v.toNat = .ok → (s.port v.toNat).st ≠ .isolated ∨ s.fabConfigured = false →
      exec (.portRearm r v) s = .next (s.reply .stateConflict)) ∧
    (s.checkWrite r Obj.fabPortRearm v.toNat ≠ .ok →
      exec (.portRearm r v) s = .next (s.reply (s.checkWrite r Obj.fabPortRearm v.toNat)))) ∧
  (∀ (p : PortNo) (lanes : Fin 5) (rtt : W32) (s : State),
    let x := s.port p.val
    x.st = .training ∨ (x.st = .quiesced ∧ x.gotEncap = false) →
    (lanes = 4 ∨ lanes = 2 → x.recredit = false ∨ x.epoch + 1 ≠ 2 ^ 32 → exec (.portTrain p lanes rtt) s = .next
      (let s1 := (s.setPort p.val { x with
         st := .keying, width := lanes.val, rtt := rtt.toNat, keyAt := s.now, gotCred := false, gotEncap := false,
         sentEncap := false, frags := [] }).sendKeying p.val
       if lanes = 2 then s1.portFault p.val 0x090D else s1)) ∧
    (lanes ≠ 4 → lanes ≠ 2 → exec (.portTrain p lanes rtt) s = .next (s.trainFail p.val))) ∧
  (∀ (p : PortNo) (f : KeyFrame) (s : State),
    let x := s.port p.val
    let held := if x.frags.contains f.frag.toNat then x.frags else f.frag.toNat :: x.frags
    x.st = .keying → keyFits f = true → (if f.msg = 1 then x.gotCred = false else x.gotEncap = false ∧ x.gotCred = true) →
    (held.length < f.frags.toNat → exec (.keyingFrameReceive p f) s = .next (s.setPort p.val { x with frags := held })) ∧
    (f.frags.toNat ≤ held.length → f.msg = 1 → exec (.keyingFrameReceive p f) s = .next
      (if f.verifies = true then ((s.setPort p.val { x with
         frags := [], gotCred := true, sentEncap := true, peer := f.addr.toNat, peerPort := f.port.toNat }).sendKeying p.val).keyed p.val
       else s.isolatingViolation p.val 0x0902)) ∧
    (f.frags.toNat ≤ held.length → f.msg ≠ 1 → exec (.keyingFrameReceive p f) s = .next
      ((s.setPort p.val { x with frags := [], gotEncap := true }).keyed p.val))) ∧
  (∀ (p : PortNo) (f : RxFrame) (s : State), (s.port p.val).st = .keying →
    (s.port p.val).gotEncap = true → (s.port p.val).sentEncap = true → f.tagOk = true →
    exec (.linkFrameReceive p f) s = .next (s.letIn p.val)) ∧
  (∀ (p : PortNo) (s : State), (s.port p.val).st = .keying →
    ((s.port p.val).msgAt + 1000000 ≤ s.now → exec (.keyingRepeat p) s = .next (s.sendKeying p.val)) ∧
    ((s.port p.val).keyAt + 50000000 ≤ s.now → exec (.keyingTimeout p) s = .next (s.trainFail p.val))) ∧
  (∀ (p : PortNo) (retrained : Bool) (s : State), (s.port p.val).width ≠ 0 →
    exec (.laneLockFail p retrained) s = .next
      (if (s.port p.val).width = 4 ∧ retrained = true then
        (s.setPort p.val { s.port p.val with width := 2 }).portFault p.val 0x090D
       else (((s.setPort p.val { s.port p.val with recredit := (s.port p.val).recredit || (s.port p.val).st = .up }).trainFail
         p.val).reroute p.val).endRemoteWaits))

/-- R292, R297-R301, R312: sealed frames. -/
def Obligations.FramesLeaveAndArriveInOrder : Prop :=
  (∀ (s : State) (p ty : Nat) (f : RxFrame),
    let x := s.port p
    let h := f.header.toNat
    let s1 := s.setPort p { x.take h with ctrRx := Fh.ctr h + 1 }
    (x.st ≠ .up → s.frameIn p ty f = (false, s)) ∧
    (x.st = .up → f.tagOk = false → s.frameIn p ty f = (false,
      ((((s.incC Obj.fabPortTagFailures p).violation p 0x0905).modPort p fun y => { y with discard := true }).sendReplayReq
        p))) ∧
    (x.st = .up → f.tagOk = true → Fh.sound h = true → Fh.type h = ty → s.frameIn p ty f =
      if x.ahead h = true then (false, (s1.violation p 0x0907).r304 p) else (true, s1))) ∧
  (∀ (p : PortNo) (f : RxFrame) (s : State), (s.port p.val).st ≠ .keying →
    exec (.linkFrameReceive p f) s = .next (s.frameIn p.val 2 f).2) ∧
  (∀ (p : PortNo) (vc : Fin 8) (count : Fin 33) (s : State),
    let x := s.port p.val
    let qs := (s.queued p.val vc.val).take count.val
    let n := flitSum qs
    x.st = .up → x.ctrTx < 2 ^ 32 - 1 → (∀ f ∈ x.retry, f.sent = true) → qs.length = count.val → 0 < count.val → n ≤ 32 →
    n ≤ kget 0 x.avail vc.val → x.window + n ≤ 2048 →
    (List.range 8).find? (fun i => s.canSend p.val ((x.lastVc + 1 + i) % 8)) = some ((vc.val + 7 - x.lastVc % 8) % 8) →
    exec (.dataFrameSend p vc count) s = .next
      (let f : Frame := { fseq := x.nextSeq, flits := n, vc := vc.val, ctr := x.ctrTx, epoch := x.epoch, sent := true,
                          pkts := qs }
       let s1 := { s.setPort p.val { x.charge vc.val n with
                     nextSeq := (x.nextSeq + n) % 4096, retry := x.retry ++ [f], lastVc := vc.val } with
                   egress := s.egress.filter fun q => !qs.contains q }
       ((qs.foldl (fun a q => ((a.freeFlits q).markLeft q).countOut q) s1).incC Obj.fabPortFramesTx p.val).emitData p.val
         f)) ∧
  (∀ (p : PortNo) (f : RxFrame) (pkts : List RxPkt) (s t : State), s.frameIn p.val 1 f = (true, t) →
    let h := f.header.toNat
    let x := t.port p.val
    let d := (Fh.fseq h + 4096 - x.expect) % 4096
    let v := Fh.vc h
    (2048 ≤ d → exec (.dataFrameReceive p f pkts) s = .next ((t.violation p.val 0).sendLink p.val)) ∧
    (1 ≤ d → d < 2048 → exec (.dataFrameReceive p f pkts) s = .next
      (if x.discard = true then t else (t.violation p.val 0x0906).sendReplayReq p.val)) ∧
    (d = 0 → kget 0 x.sumAcc v - kget 0 x.retTx v + Fh.flits h ≤ shareOf x.share v →
      exec (.dataFrameReceive p f pkts) s = .next
        ((pkts.foldl (fun a r => a.packetIn p.val v r) (t.setPort p.val
          { x with expect := (x.expect + Fh.flits h) % 4096, discard := false, reqAt := none,
                   sumAcc := kput 0 x.sumAcc v (kget 0 x.sumAcc v + Fh.flits h) })).checkCut p.val))) ∧
  (∀ (p : PortNo) (f : RxFrame) (s t : State), s.frameIn p.val 5 f = (true, t) →
    let x := t.port p.val
    exec (.replayReqReceive p f) s = .next
      (if 16 ≤ x.reqs then t.violation p.val 0x0906
       else (x.retry.filter (·.sent)).foldl (fun a g => a.emitData p.val g)
         ((t.setPort p.val { x with reqs := x.reqs + 1 }).incC Obj.fabPortReplays p.val (x.retry.filter (·.sent)).length)))

/-- R302-R305, R307, R310: audit, re-credit, re-key, and the answer that did not come. -/
def Obligations.CreditsAreAuditedAndKeysRenewed : Prop :=
  (∀ (p : PortNo) (s : State),
    let x := s.port p.val
    x.st = .up → 2 ^ 20 ≤ x.auditFlits ∨ x.auditAt + 1000 * s.obj Obj.fabAuditUs ≤ s.now →
    exec (.auditEpochEnd p) s = .next ((s.setPort p.val
      { x with auditAt := s.now, auditFlits := 0, auditNo := x.auditNo + 1, reqs := 0 }).sendFrame p.val 3 4 0 0
        ([x.nextSeq, x.auditNo] ++ (List.range 8).map (kget 0 x.sumTx) ++ (List.range 8).map (kget 0 x.retTx) ++
          (List.range 8).map (kget 0 x.retRx)) [])) ∧
  (∀ (p : PortNo) (f : RxFrame) (a : AuditBody) (s t : State), s.frameIn p.val 3 f = (true, t) →
    let x := t.port p.val
    let u := t.setPort p.val { x with heardAt := s.now, cut := some (a.cut.toNat, (List.range 8).map (auditSum a.tx)) }
    ((∀ v < 8, kget 0 x.retRx v = auditSum a.ret v) ∧ x.balanced = true →
      exec (.auditFrameReceive p f a) s = .next (u.checkCut p.val)) ∧
    (¬ ((∀ v < 8, kget 0 x.retRx v = auditSum a.ret v) ∧ x.balanced = true) →
      exec (.auditFrameReceive p f a) s = .next (u.mismatch p.val))) ∧
  (∀ (p : PortNo) (s : State), (s.port p.val).st = .up →
    (s.port p.val).heardAt + 3000 * s.obj Obj.fabAuditUs < s.now →
    exec (.auditAbsent p) s = .next (s.mismatch p.val)) ∧
  (∀ (p : PortNo) (f : RxFrame) (next : BitVec 12) (shares : BitVec 128) (s : State),
    let x := s.port p.val
    let d := (next.toNat + 4096 - x.acked) % 4096
    let keep := x.retry.filter fun g => decide (d < (g.fseq + 4096 - x.acked) % 4096 + g.flits)
    x.st = .quiesced → x.gotEncap = true → f.tagOk = true → Fh.sound f.header.toNat = true → Fh.type f.header.toNat = 6 →
    d ≤ (x.nextSeq + 4096 - x.acked) % 4096 →
    exec (.recreditFrameReceive p f next shares) s = .next
      ((((s.setPort p.val (Port.recreditTo { x with
        st := .up, recredit := false, acked := next.toNat, reqs := 0, auditAt := s.now, auditFlits := 0, heardAt := s.now,
        discard := false, reqAt := none, retry := keep.map fun g => { g with sent := false } }
          (s.obj Obj.fabVcCredits) shares.toNat)).resendAll p.val keep.length).incC Obj.fabPortRecredits p.val).portFault
            p.val 0x0904)) ∧
  (∀ (p : PortNo) (s : State),
    let x := s.port p.val
    x.st = .up → x.rekeying = false →
    2 ^ 32 - 2 ^ 24 ≤ x.ctrTx ∨ 2 ^ 32 - 2 ^ 24 ≤ x.ctrRx ∨ x.epochAt + s.obj Obj.fabRekeyS * 1000000000 ≤ s.now →
    exec (.rekeyStart p) s = .next
      (if x.epoch + 1 = 2 ^ 32 then s.isolatingViolation p.val 0x090A
       else (s.setPort p.val { x with rekeying := true }).sendFrame p.val 4 25 0 0 [x.epoch + 1] [])) ∧
  (∀ (p : PortNo) (f : RxFrame) (sound : Bool) (s t : State), s.frameIn p.val 4 f = (true, t) →
    let x := t.port p.val
    exec (.rekeyFrameReceive p f sound) s = .next
      (if sound = false then (t.violation p.val 0x0909).r304 p.val
       else if x.epoch + 1 = 2 ^ 32 then t.isolatingViolation p.val 0x090A
       else if x.rekeying = true then t.newEpoch p.val
       else (t.sendFrame p.val 4 25 0 0 [x.epoch + 1] []).newEpoch p.val)) ∧
  (∀ (tag : W32) (n m : Nat) (x : Slot) (s : State),
    let t := tag.toNat / 256
    let i := tag.toNat % 256
    s.compOfTile t = some n → s.slotAt t i = some x → x.target = .module m → m < 65536 → x.reply = none → t < 1024 →
    let s1 := ((s.incC Obj.fabCompUndelivered n).compEvent n 0xE2 1).lostAccess n 0x0708 x.addr
    (∀ k, x.who = .pegOp k → exec (.undeliveredReceive tag) s = .next ((s1.setSlot t i none).pegEnd k 0x0708 false)) ∧
    ((∀ k, x.who ≠ .pegOp k) → exec (.undeliveredReceive tag) s = .next (s1.answerSlot t i 0x0708 [])))

/-- R319-R327: the seven commands of a compartment. -/
def Obligations.CompartmentCommandsMoveTheirState : Prop :=
  (∀ (r : Role) (c : CompNo) (s : State), mayCommand r c.val 1 = true → (s.comp c.val).st = .free →
    s.mode = .ready ∨ s.mode = .run →
    (∀ st, s.geometryBad c.val (s.objC Obj.compGeometry c.val) = some st →
      exec (.compCreate r c) s = .next ((s.fault 0x0A01 c.val).reply st 0x0A01)) ∧
    (s.geometryBad c.val (s.objC Obj.compGeometry c.val) = none → exec (.compCreate r c) s = .next
      ((((((s.tickFresh.resetObjs c.val).setComp c.val { Comp.init with
          st := .forming, upd := { Upd.init with noise := ⟨s.draw256 % 2 ^ 64, 0, 0⟩ }, stream := (s.comp c.val).stream,
          gov := (s.comp c.val).gov }).setCState c.val .forming).lightTiles c.val).reseed c.val).reply .ok))) ∧
  (∀ (r : Role) (c : CompNo) (s : State), mayCommand r c.val 2 = true → (s.comp c.val).st = .forming →
    firstUnmet (s.unmet c.val) = none → s.rot.queue.length < 8 →
    let s2 := (if s.objC Obj.vxCompSeedMode c.val = 1 then s.reseed c.val else s).takeLedgers c.val
    let s3 := s2.modComp c.val fun x => { x with digests := s2.takeDigests c.val }
    let s4 := (s3.setObjC Obj.rotCompTerms c.val (s3.computeTerms c.val)).setCState c.val .attested
    exec (.compAttest r c) s = .next (((s4.queueReport ⟨some c.val, (s.comp c.val).nonce⟩).getD s4).reply .ok)) ∧
  (∀ (r : Role) (c : CompNo) (s : State), mayCommand r c.val 3 = true → (s.comp c.val).st = .attested →
    s.mode ≠ .holdup → s.mode ≠ .fault → s.objC Obj.compHoldCause c.val = 0 →
    s.contribValid c.val &&& s.objC Obj.compContribKeyed c.val = s.contribValid c.val →
    s.objC Obj.rotCompJobKeyInstalled c.val ≠ 0 → (s.comp c.val).ckpt.rest = none → (s.comp c.val).ckpt.badRestore = false →
    exec (.compStart r c) s = .next
      (((((((s.enterRunning c.val).startThreads c.val).setObjC Obj.phaseCompCurrent c.val 0).setObjC
        Obj.phaseCompCurrentSince c.val s.now)).firstEntry c.val).reply .ok)) ∧
  (∀ (r : Role) (c : CompNo) (s : State), mayCommand r c.val 4 = true → (s.comp c.val).st = .running →
    exec (.compHold r c) s = .next (((s.fault 0x0A0B c.val).holdComp c.val 0x0A0B).reply .ok)) ∧
  (∀ (r : Role) (c : CompNo) (s : State), mayCommand r c.val 5 = true → (s.comp c.val).st = .held →
    (s.objC Obj.compHoldCause c.val = 0x0A0B ∨
      (s.objC Obj.compHoldCause c.val = 0x0804 ∧ s.inReclaimed c.val = false)) →
    (s.comp c.val).ckpt.rest = none → (s.comp c.val).ckpt.badRestore = false →
    exec (.compResume r c) s = .next
      (((((((s.pauseEntries c.val (s.now - s.objC Obj.phaseCompCurrentSince c.val)).endRelease c.val 4).closePhaseNow c.val
        0).enterRunning c.val)).firstEntry c.val).reply .ok)) ∧
  (∀ (r : Role) (c : CompNo) (s : State), mayCommand r c.val 6 = true → s.openState c.val = true →
    (s.comp c.val).closeAt = none →
    exec (.compClose r c) s = .next
      (if (s.comp c.val).ckpt.dove.isSome then s.modComp c.val fun x => { x with closeAt := some s.now }
       else (s.closing c.val).reply .ok)) ∧
  (∀ (r : Role) (c : CompNo) (s : State), mayCommand r c.val 7 = true → s.openState c.val = true →
    exec (.compCloseNow r c) s = .next (((s.answerClose c.val).closing c.val).reply .ok)) ∧
  (∀ (r : Role) (c : CompNo) (s : State) (k : Nat) (i : Instr) (st : CState),
    (k, i, st) ∈ [(1, .compCreate r c, .free), (2, .compAttest r c, .forming), (3, .compStart r c, .attested),
      (4, .compHold r c, .running), (5, .compResume r c, .held)] →
    (mayCommand r c.val k = true → (s.comp c.val).st ≠ st → exec i s = .next ((s.fault 0x0A02 c.val).reply .stateConflict
      0x0A02 (s.comp c.val).st.code)) ∧
    (mayCommand r c.val k = false → exec i s = .next (s.reply .accessDenied))) ∧
  (∀ (r : Role) (c : CompNo) (s : State),
    (mayCommand r c.val 6 = false → exec (.compClose r c) s = .next (s.reply .accessDenied)) ∧
    (mayCommand r c.val 7 = false → exec (.compCloseNow r c) s = .next (s.reply .accessDenied)) ∧
    (s.openState c.val = false →
      (mayCommand r c.val 6 = true → exec (.compClose r c) s = (s.badState c.val).out) ∧
      (mayCommand r c.val 7 = true → exec (.compCloseNow r c) s = (s.badState c.val).out)))

/-- R326, R327: the end of a compartment. -/
def Obligations.TeardownFreesTheCompartment : Prop :=
  (∀ (c : CompNo) (s : State), (s.comp c.val).closeAt.isSome = true → (s.comp c.val).ckpt.dove = none →
    exec (.deferredCloseExecute c) s = .next ((s.answerClose c.val).closing c.val)) ∧
  (∀ (c : CompNo) (t : Nat) (s : State), (s.comp c.val).closeAt = some t → (s.comp c.val).ckpt.dove.isSome = true →
    t + s.obj Obj.compCloseDeferMs * 1000000 ≤ s.now →
    exec (.closeDeferTimeout c) s = .next (((s.modComp c.val fun x => { x with closeAt := none }).fault 0x0A0C
      c.val).answerHeld c.val .stateConflict 0x0A0C)) ∧
  (∀ (c : CompNo) (s : State), (s.comp c.val).st = .closing →
    ∃ t, exec (.teardownComplete c) s = .next t ∧ (t.comp c.val).st = .free ∧ t.objC Obj.compGeometry c.val = 0 ∧
      t.objC Obj.powerCompAllotW c.val = 0 ∧ (t.comp c.val).mem = [] ∧ (t.comp c.val).segs = []) ∧
  (∀ (ch : PortNo) (s : State), exec (.flashEraseDone ch) s =
    .next (s.setObj Obj.compFlashErasing (setBit (s.obj Obj.compFlashErasing) ch.val false)))

/-- R335-R340, R391: the tally, the keys, the release. -/
def Obligations.TalliesGatherAndReleasesNeedApproval : Prop :=
  (∀ (c : CompNo) (s : State), let n := c.val
    s.unitsRun n = true → s.advances n unitTally (s.objC Obj.compTallyClosePeg n) ≠ 0 →
    exec (.tallyClose c) s = .next
      ((((s.actOn n unitTally).modComp n fun x =>
        { x with tally := [], sent := x.sent ++ [(s.objC Obj.compTallyStep n, s.tallyCounts n)] }).setObjC Obj.compTallyStep n
          (s.objC Obj.compTallyStep n + 1)).postAll n 1
            ([s.objC Obj.spanCompModuleIndex n, s.objC Obj.compTallyStep n] ++ s.tallyCounts n))) ∧
  (∀ (c : CompNo) (module : BitVec 16) (step : W64) (counts : List W32) (x : TallySlot) (s : State),
    let n := c.val
    let m := module.toNat
    m < s.objC Obj.spanCompJobModules n → s.unitsRun n = true →
    (s.comp n).tallies.find? (fun x => decide (x.step = step.toNat)) = some x →
    let y : TallySlot := { x with
      posted := x.posted ++ [m],
      sums := (List.range 9).foldl (fun a i => kput 0 a i (kget 0 a i + (counts.getD i 0).toNat)) x.sums }
    let s1 := s.modComp n fun c => { c with tallies := c.tallies.map fun z => if z.step = x.step then y else z }
    (x.posted.contains m = true → exec (.tallyPostReceive c module step counts) s = .next ((s.faultOnce 0x0A07 n m).reply .ok)) ∧
    (x.posted.contains m = false → exec (.tallyPostReceive c module step counts) s = .next
      ((if y.posted.length = s.objC Obj.spanCompJobModules n then s1.finalTally n y else s1).reply .ok))) ∧
  (∀ (c : CompNo) (module : BitVec 16) (step : W64) (counts : List W32) (s : State),
    module.toNat < s.objC Obj.spanCompJobModules c.val →
    s.unitsRun c.val = false ∨ (s.comp c.val).tallies.find? (fun x => decide (x.step = step.toNat)) = none →
    exec (.tallyPostReceive c module step counts) s = .next (s.reply .notReady)) ∧
  (∀ (c : CompNo) (module : BitVec 16) (step : W64) (node : Nat) (q : Nat × List Nat) (s : State),
    s.nodeOf c.val module.toNat = some node →
    (s.comp c.val).sent.find? (fun q => decide (q.1 = step.toNat)) = some q → s.unitsRun c.val = true →
    exec (.tallyPostRetry c module step) s =
      .next (s.emit (.post 1 node ([s.objC Obj.spanCompModuleIndex c.val, q.1] ++ q.2)))) ∧
  (∀ (r : Role) (c : CompNo) (record : List Byte) (key : BitVec 256) (s : State),
    let n := c.val
    let rec_ := padTo 1680 record
    let slot := leNat ((rec_.drop 8).take 1)
    s.checkWrite r (objAt Obj.rotCompKeyDeliver n) (leNat (record.take 1680)) = .ok → (s.comp n).st = .attested →
    leNat (rec_.take 8) = s.objC Obj.spanCompJobId n → leNat ((rec_.drop 16).take 48) = s.objC Obj.rotCompTerms n →
    leNat ((rec_.drop 9).take 7) = 0 →
    (slot = 0xFF → s.objC Obj.rotCompJobKeyInstalled n = 0 → keyCommit key.toNat = s.objC Obj.rotCompJobKeyCommit n →
      exec (.keyDeliver r c record (some key)) s = .next ((s.setObjC Obj.rotCompJobKeyInstalled n 1).reply .ok)) ∧
    (slot < 8 → (s.objC Obj.compContribKeyed n).testBit slot = false → bit (s.contrib n slot) 7 = true →
      keyCommit key.toNat = fld (s.contrib n slot) 831 448 → exec (.keyDeliver r c record (some key)) s = .next
        ((s.setObjC Obj.compContribKeyed n (setBit (s.objC Obj.compContribKeyed n) slot true)).reply .ok))) ∧
  (∀ (r : Role) (c : CompNo) (v : BitVec 384) (o : PObj) (s : State),
    let n := c.val
    let id := fld v.toNat 15 0
    s.checkWrite r (objAt Obj.compReleaseRequest n) v.toNat = .ok → (∀ x, (s.comp n).release = some x → x.st ≠ 1) →
    s.pobj n id = some o → fld v.toNat 127 16 = 0 →
    exec (.releaseRequest r c v) s = .next
      (((s.setPObj n id (some { o with policy := o.policy ||| 64 })).modComp n fun x =>
        { x with release := some ⟨id, Ctl.lastStep (s.control n), fld v.toNat 383 128,
          digest48 ((s.homedPages n o).flatMap fun p => readBytes (s.comp n).mem (p * 65536) 65536), s.now, [], 1⟩ }).reply
          .ok)) ∧
  (∀ (r : Role) (c : CompNo) (v : List Byte) (x : Release) (s : State),
    let n := c.val
    let w := padTo 29888 v
    let slot := leNat (w.take 1)
    let slots := x.slots ++ [slot]
    s.checkWrite r (objAt Obj.compReleaseApprove n) 0 = .ok → (s.comp n).release = some x → x.st = 1 →
    leNat ((w.drop 1).take 31) = 0 → slot < 8 → bit (s.contrib n slot) 7 = true →
    digest48 ((w.drop 32).take 64) = fld (s.contrib n slot) 447 64 → x.slots.contains slot = false →
    exec (.releaseApprove r c v true) s = .next
      (if s.objC Obj.compReleaseM n ≤ slots.length then
        (((s.modComp n fun y => { y with release := some { x with slots := slots, st := 2 } }).fault 0x0A09 n).raise 5 n).reply
          .ok
       else (s.modComp n fun y => { y with release := some { x with slots := slots, st := 1 } }).reply .ok)) ∧
  (∀ (c : CompNo) (x : Release) (s : State), (s.comp c.val).release = some x → x.st = 1 →
    x.since + s.objC Obj.compReleaseWindowS c.val * 1000000000 ≤ s.now →
    exec (.releaseExpired c) s = .next
      (((s.modComp c.val fun y => { y with release := some { x with st := 3 } }).fault 0x0A0A c.val).raise 5 c.val))

/-- R376, R382-R384, R389: the root of trust. -/
def Obligations.RootOfTrustReportsAndMeasures : Prop :=
  (∀ s : State, s.mode ≠ .off → exec .entropyFail s = .next ((s.fault 0x0C04).enterFault 0x0C04)) ∧
  (∀ (r : Role) (cls : Byte) (s : State), s.checkWrite r Obj.rotSvnAdvance cls.toNat = .ok →
    (cls.toNat ≤ 5 → s.svnFused cls.toNat < kget 0 s.rot.svn cls.toNat → kget 0 s.rot.svn cls.toNat ≤ 64 →
      exec (.svnAdvance r cls) s = .next (((s.setObj Obj.rotSvnFused (putFld (s.obj Obj.rotSvnFused) (64 * cls.toNat + 63)
        (64 * cls.toNat) (kget 0 s.rot.svn cls.toNat))).fault 0x0C0E).reply .ok)) ∧
    (5 < cls.toNat ∨ kget 0 s.rot.svn cls.toNat ≤ s.svnFused cls.toNat ∨ 64 < kget 0 s.rot.svn cls.toNat →
      exec (.svnAdvance r cls) s = .next (s.reply .outOfRange))) ∧
  (∀ (r : Role) (c : CompNo) (nonce : BitVec 256) (s : State), let n := c.val
    s.checkWrite r (objAt Obj.rotCompReportRequest n) nonce.toNat = .ok →
    ((s.comp n).st = .forming →
      exec (.reportRequest r c nonce) s = .next ((s.modComp n fun x => { x with nonce := nonce.toNat }).reply .ok)) ∧
    (∀ t, (s.comp n).st ≠ .forming → s.queueReport ⟨some n, nonce.toNat⟩ = some t →
      exec (.reportRequest r c nonce) s = .next (t.reply .ok)) ∧
    ((s.comp n).st ≠ .forming → s.queueReport ⟨some n, nonce.toNat⟩ = none →
      exec (.reportRequest r c nonce) s = .next ((s.fault 0x0C06 n).reply .stateConflict 0x0C06))) ∧
  (∀ (r : Role) (nonce : BitVec 256) (s : State), s.checkWrite r Obj.rotReportRequest nonce.toNat = .ok →
    (∀ t, s.queueReport ⟨none, nonce.toNat⟩ = some t → exec (.moduleReportRequest r nonce) s = .next (t.reply .ok)) ∧
    (s.queueReport ⟨none, nonce.toNat⟩ = none →
      exec (.moduleReportRequest r nonce) s = .next ((s.fault 0x0C06 noComp).reply .stateConflict 0x0C06))) ∧
  (∀ (signature body : List Byte) (t : Nat) (q : ReportReq) (rest : List ReportReq) (s : State),
    s.rot.signing = some (body, t) → s.rot.queue = q :: rest →
    let v := leNat (body ++ padTo 29792 signature)
    exec (.reportSigned signature) s = .next
      (((((match q.comp with | some n => s.setObjC Obj.rotCompReport n v | none => s.setObj Obj.rotReport v).inc
        Obj.rotReportsSigned).modRot fun r => { r with queue := rest, signing := none }).startSigning).acceptWaiting)) ∧
  (∀ (c : CompNo) (entry i : Nat) (next ledger : Option SpanReply) (x : PEntry) (o : PObj) (s : State),
    let n := c.val
    let e := x.raw
    let a := Pe.src e + x.done * slotBytes
    let dst := Pe.tsAddr e + x.done * slotBytes
    let k := (a - o.base * 65536) / slotBytes
    let h := digest48 (s.tsRead (Pe.tile e) dst slotBytes)
    let le := s.ledgerEntry n i
    (s.comp n).pOpen.find? (fun x => decide (x.id = entry) && decide (Pe.kind x.raw = 0x75)) = some x →
    s.pobj n (Pe.obj e) = some o →
    (s.covering n (Pe.obj e) k = none → exec (.slotMeasure c entry next ledger) s =
      .next ((s.fault 0x0C0A n 0 0 k).endSlots n entry e (.error (0x0C0A, a)) x.done)) ∧
    (∀ want s1, s.covering n (Pe.obj e) k = some i →
      s.unitFetch n (Lg.addr le + 48 * (k - Lg.first le)) 48 ledger = (some want, s1) → leNat want = h →
      exec (.slotMeasure c entry next ledger) s = .next
        (let s2 := s1.slotMatched n (Pe.tile e) dst i k h
         if x.done + 1 < Pe.count e then
           match s2.streamSlot n e (x.done + 1) true next with
           | (.ok _, s3) => s3.modComp n fun c => { c with
               pOpen := c.pOpen.map fun y => if y.id = entry then { y with done := y.done + 1 } else y }
           | (.error z, s3) => s3.endSlots n entry e (.error z) (x.done + 1)
         else s2.endSlots n entry e (.ok ()) (x.done + 1))) ∧
    (∀ want s1, s.covering n (Pe.obj e) k = some i →
      s.unitFetch n (Lg.addr le + 48 * (k - Lg.first le)) 48 ledger = (want, s1) →
      (∀ w, want = some w → leNat w ≠ h) → exec (.slotMeasure c entry next ledger) s =
        .next (((s1.fault 0x0C0B n 0 0 k).endSlots n entry e (.error (0x0C0B, a)) x.done).holdComp n 0x0C0B)))

/-- R393, R394, R398: the SPDM responder. -/
def Obligations.SpdmRequestsAreAnsweredInOrder : Prop :=
  (∀ (sess : Option (Fin 4)) (s : State),
    exec (.getVersion sess true) s = .next
      ((s.modSpdm fun q => { q with phase := 1, proved := false, large := [] }).spdmSay 0x04 [0x12, 0x13]) ∧
    (s.rot.spdm.phase = 1 → exec (.getCapabilities sess true) s = .next
      ((s.modSpdm fun q => { q with phase := 2 }).spdmSay 0x61 (leBytes 4 4096 ++ leBytes 4 65536))) ∧
    (s.rot.spdm.phase = 2 → exec (.negotiateAlgorithms sess true) s = .next
      ((s.modSpdm fun q => { q with phase := 3 }).spdmSay 0x63)) ∧
    exec (.spdmUnsupportedRequest sess) s = .next (s.spdmErr 0x07)) ∧
  (∀ (sess : Option (Fin 4)) (s : State), s.spdmUp = true →
    exec (.getDigests sess true) s = .next
      (s.spdmSay 0x01 (sha3 (leBytes (s.obj Obj.rotIdCerts % 2 ^ 32) (s.obj Obj.rotIdCerts >>> 32)))) ∧
    (∀ off len : BitVec 16, exec (.getCertificate sess true 0 off len) s = .next
      (s.spdmSay 0x02 (leBytes (min len.toNat (s.obj Obj.rotIdCerts % 2 ^ 32 - off.toNat))
        (s.obj Obj.rotIdCerts >>> (32 + 8 * off.toNat))))) ∧
    (s.rot.signing = none → exec (.challenge sess true true) s = .next
      ((s.modSpdm fun q => { q with proved := true }).spdmSay 0x03)) ∧
    (s.rot.signing ≠ none → exec (.challenge sess true true) s = .next s.spdmLater) ∧
    exec (.challenge sess true false) s = .next s.spdmLater ∧
    (∀ (block : Byte) (ready : Bool) (data : List Byte), block ≠ 0 → block ≠ 0xFF → s.measurement block.toNat = some data →
      exec (.getMeasurements sess true block false ready) s = .next (s.spdmSay 0x60 data)) ∧
    (s.rot.spdm.proved = true → exec (.kemEncap sess true) s = .next
      ((s.tickFresh.modSpdm fun q => { q with psks := q.psks ++ [Config.random s.fresh % 2 ^ 128] }).spdmSay 0x7E
        (leBytes 16 (Config.random s.fresh % 2 ^ 128)))) ∧
    (∀ (hint : BitVec 128), s.rot.spdm.lockTo.isSome = true → exec (.pskExchange sess true hint) s = .next (s.spdmErr 0x03)) ∧
    (∀ (hint : BitVec 128) (k : Nat), s.rot.spdm.lockTo = none → hint.toNat ∈ s.rot.spdm.psks →
      firstBelow 4 (fun k => (s.spdmSess k).isNone) = some k → exec (.pskExchange sess true hint) s = .next
        (((s.modSpdm fun q => { q with psks := q.psks.filter (· ≠ hint.toNat) }).setSpdmSess k
          (some ⟨hint.toNat, false, 0, []⟩)).spdmSay 0x66 [BitVec.ofNat 8 k]))) ∧
  (∀ (k : Fin 4) (y : SpdmSess) (s : State), s.spdmSess k.val = some y →
    (y.finished = false → exec (.pskFinish (some k) true) s = .next
      ((s.setSpdmSess k.val (some { y with finished := true })).spdmSay 0x67)) ∧
    (y.finished = true →
      exec (.keyUpdate (some k) true) s = .next
        ((s.setSpdmSess k.val (some { y with updates := y.updates + 1 })).spdmSay 0x69) ∧
      exec (.spdmHeartbeat (some k) true) s = .next (s.spdmSay 0x68) ∧
      exec (.endSession (some k) true) s = .next ((s.setSpdmSess k.val none).spdmSay 0x6C))) ∧
  (∀ (sess : Option (Fin 4)) (chunk : BitVec 16) (s : State),
    let data := s.rot.spdm.large
    let part := (data.drop (4096 * chunk.toNat)).take 4096
    part ≠ [] → exec (.chunkGet sess true chunk) s = .next ((s.modSpdm fun q => { q with
      large := if data.length ≤ 4096 * (chunk.toNat + 1) then [] else data }).emit (.spdm 0x06 part))) ∧
  (∀ (t : Nat) (s : State), s.rot.spdm.lockTo = some t → t ≤ s.now →
    exec .spdmLockoutEnd s = .next (s.modSpdm fun q => { q with lockTo := none })) ∧
  (∀ (sess : Option (Fin 4)) (s : State) (i : Instr),
    (i ∈ [.getVersion sess false, .getCapabilities sess false, .negotiateAlgorithms sess false, .getDigests sess false,
      .challenge sess false true, .kemEncap sess false, .pskFinish sess false, .keyUpdate sess false,
      .spdmHeartbeat sess false, .endSession sess false] → exec i s = .next (s.spdmFail sess 0x01)) ∧
    (s.spdmSecured sess = false → i ∈ [.keyUpdate sess true, .spdmHeartbeat sess true, .endSession sess true] →
      exec i s = .next (s.spdmFail sess 0x04)))

/-- R395-R397: streams and interfaces. -/
def Obligations.StreamsAndInterfacesKeepTheirStates : Prop :=
  (∀ (sess : Option (Fin 4)) (c : CompNo) (s : State), let n := c.val
    s.spdmSecured sess = true →
    exec (.keyProg sess true c) s = .next
      ((if (s.comp n).stream = .insecure then s.setStream n .programmed else s).spdmSay 0x7E [3]) ∧
    ((s.comp n).stream ≠ .insecure → exec (.kSetGo sess true c) s = .next ((s.setStream n .secure).spdmSay 0x7E [6])) ∧
    ((s.comp n).stream = .secure → exec (.kSetStop sess true c) s = .next
      (((s.setStream n .insecure).tdiError n).spdmSay 0x7E [6])) ∧
    (s.tdi n = 0 → exec (.lockInterface sess true c) s = .next
      (if (s.comp n).stream = .secure ∧ ((s.comp n).st = .attested ∨ (s.comp n).st = .running ∨ (s.comp n).st = .held) then
        (s.setObjC Obj.rotCompTdiState n 1).spdmSay 0x7E [3] else s.spdmErr 0x01)) ∧
    (s.tdi n = 1 ∨ s.tdi n = 2 → exec (.getDeviceInterfaceReport sess true c) s = .next
      (s.spdmSay 0x7E (4 :: leBytes 48 (s.objC Obj.rotCompTerms n)))) ∧
    (s.tdi n = 1 → exec (.startInterface sess true c) s = .next ((s.setObjC Obj.rotCompTdiState n 2).spdmSay 0x7E [6])) ∧
    exec (.stopInterface sess true c) s = .next ((s.setObjC Obj.rotCompTdiState n 0).spdmSay 0x7E [7])) ∧
  (∀ (sess : Option (Fin 4)) (c : CompNo) (s : State) (i : Instr), s.spdmSecured sess = false →
    i ∈ [.keyProg sess true c, .kSetGo sess true c, .kSetStop sess true c, .lockInterface sess true c,
      .getDeviceInterfaceReport sess true c, .startInterface sess true c, .stopInterface sess true c] →
    exec i s = .next (s.spdmFail sess 0x04)) ∧
  (∀ (c : CompNo) (lost : Bool) (s : State), let n := c.val
    let s1 := if lost then s.setStream n .insecure else s
    exec (.tdiError c lost) s = .next
      (if s.objC Obj.rotCompTdiState n = 1 ∨ s.objC Obj.rotCompTdiState n = 2 then
        ((s1.setObjC Obj.rotCompTdiState n 3).fault 0x0C0D n).raise 4 n else s1))

/-- R409-R415, R418: the checkpoint of one compartment. -/
def Obligations.DovetailCopiesPostsAndCommits : Prop :=
  (∀ (c : CompNo) (rem : Option SpanReply) (bs : List Byte) (s s1 : State), let n := c.val
    let k := (s.comp n).ckpt
    let w := leNat bs
    let step := fld w 63 0
    (s.comp n).st = .running ∨ (s.comp n).st = .held → s.advances n unitBoundary (s.objC Obj.ckptCompBoundaryPeg n) ≠ 0 →
    k.dove = none → s.mode ≠ .holdup → (s.comp n).closeAt = none →
    s.unitFetch n (s.objC Obj.ckptCompBoundaryAddr n) 64 rem = (some bs, s1) →
    ((∀ b, k.lastBoundary = some b → b < step) → step = Ctl.lastStep (s.control n) → w >>> 64 = 0 → k.set ≠ [] →
      exec (.boundaryTake c rem) s = .next ((s1.actOn n unitBoundary).startDovetail n step)) ∧
    ((∃ b, k.lastBoundary = some b ∧ step ≤ b) ∨ step ≠ Ctl.lastStep (s.control n) ∨ w >>> 64 ≠ 0 ∨ k.set = [] →
      exec (.boundaryTake c rem) s = .next
        (((s1.actOn n unitBoundary).fault 0x0D02 n 0 0 step).unitPost n (s.objC Obj.ckptCompArmedPeg n)))) ∧
  (∀ (c : CompNo) (page : BitVec 40) (d : Dovetail) (s : State), let n := c.val
    let x := s.spage n page.toNat
    (s.comp n).ckpt.dove = some d → x.pending = true →
    ((∀ q ∈ (s.comp n).pages, page.toNat ≤ q.1 ∨ q.2.pending = false ∨ q.2.ahead.isSome = true) →
      exec (.ckptPageCopy c page) s = .next (s.dovetailCopy n page.toNat d)) ∧
    (x.ahead.isSome = true → exec (.copyAheadDone c page) s = .next (s.dovetailCopy n page.toNat d)) ∧
    (∀ t, x.ahead = some t → t + s.obj Obj.ckptAheadTimeoutMs * 1000000 ≤ s.now →
      exec (.copyAheadTimeout c page) s = .next (s.abandonDovetail n 0x0D06 true))) ∧
  (∀ (c : CompNo) (module : BitVec 16) (step : W64) (digest : BitVec 384) (bytes : W64) (locs : List (W32 × W32))
      (d : Dovetail) (s : State), let n := c.val
    (s.comp n).ckpt.dove = some d → module.toNat < s.objC Obj.spanCompJobModules n →
    let p : ShardPost := ⟨module.toNat, step.toNat, digest.toNat, bytes.toNat, locs.map fun l => (l.1.toNat, l.2.toNat)⟩
    exec (.shardPostReceive c module step digest bytes locs) s = .next
      (if step.toNat = d.step ∨ step.toNat = d.step + 1 then ((s.modCkpt n fun q => { q with
         posts := ((s.comp n).ckpt.posts.filter fun q => q.module ≠ p.module || q.step ≠ p.step) ++ [p] }).tryRecord n).reply
           .ok
       else s.reply .notReady)) ∧
  (∀ (c : CompNo) (module : BitVec 16) (d : Dovetail) (node : Nat) (s : State), let n := c.val
    (s.comp n).ckpt.dove = some d → s.nodeOf n module.toNat = some node → d.posted = true →
    exec (.shardPostRetry c module) s = .next (s.emit (.post 2 node ([s.objC Obj.spanCompModuleIndex n, d.step,
      (s.ckptSlot n d.slot).digest, s.shardBytes n] ++ (s.copyLocs n d.slot).flatMap fun l => [l.1, l.2])))) ∧
  (∀ (c : CompNo) (d : Dovetail) (s : State), let n := c.val
    (s.comp n).ckpt.dove = some d →
    (d.record = true → exec (.dovetailCommit c) s = .next
      ((((((s.modCkpt n fun q => { q with
        dove := none, posts := q.posts.filter fun p => decide (d.step < p.step),
        slots := kmod CkptSlot.init q.slots d.slot fun k => { k with step := some d.step } }).setObjC
          Obj.ckptCompLastCommitted n d.step).setObjC Obj.ckptCompHints n
            ((s.copyLocs n d.slot).foldr (fun l a => l.1 + l.2 * 2 ^ 32 + a * 2 ^ 64) 0)).setObjC Obj.ckptCompLastStatus n
              0).setObjC Obj.ckptCompInProgress n 0).unitPost n (s.objC Obj.ckptCompCommitPeg n))) ∧
    (d.armedAt + s.objC Obj.ckptCompDovetailMs n * 1000000 ≤ s.now →
      exec (.dovetailTimeout c) s = .next (s.abandonDovetail n 0x0D05 true)) ∧
    (∀ step : W64, d.step = step.toNat → exec (.abandonPostReceive c step) s = .next (s.abandonDovetail n 0x0D05 false))) ∧
  (∀ (c : CompNo) (s : State), s.mode = .holdup →
    s.modeAt + (s.obj Obj.holdupBudgetS * 1000000000 - s.obj Obj.ckptHoldupMarginMs * 1000000) ≤ s.now →
    exec (.ckptHoldupDeadline c) s = .next (s.abandonDovetail c.val 0x0D05 true)) ∧
  (∀ (c : CompNo) (slot copy : Fin 3) (y : CkptCopy) (s : State), let n := c.val
    let k := slot.val
    let x := s.ckptSlot n k
    x.copies[copy.val]? = some y → s.copyGone n y = true →
    let left := x.copies.eraseIdx copy.val
    let s1 := y.leases.foldl (fun a l => a.dropLease n l)
      ((s.setCkptSlot n k { x with copies := left }).fault 0x0D04 n 0 0 (x.step.getD 0))
    (left ≠ [] → exec (.ckptCopyLost c slot copy) s =
      .next (let s2 := s1.modCkpt n fun q => { q with rebuilding := q.rebuilding ++ [(k, copy.val)] }
             (s2.askCopy n k).getD s2)) ∧
    (left = [] → (∀ d, (s.comp n).ckpt.dove = some d → d.slot ≠ k) → exec (.ckptCopyLost c slot copy) s =
      .next (s1.setCkptSlot n k { x with copies := left, step := none, record := [] }))) ∧
  (∀ (c : CompNo) (slot : Fin 3) (s t : State), let n := c.val
    let k := slot.val
    (∃ q ∈ (s.comp n).ckpt.rebuilding, q.1 = k) → (∃ y ∈ (s.ckptSlot n k).copies, y.whole = true) →
    s.addCopy n k true = some t →
    exec (.ckptCopyRebuilt c slot) s = .next (((t.modCkpt n fun q => { q with
      rebuilding := q.rebuilding.eraseP fun z => decide (z.1 = k) }).incC Obj.ckptCompCopiesRebuilt n).tryPosts n))

/-- R420-R423: a restore. -/
def Obligations.RestoreAgreesWritesAndEnds : Prop :=
  (∀ (r : Role) (c : CompNo) (v : BitVec 512) (found : List RecFound) (s : State), let n := c.val
    let rid := fld v.toNat 63 0
    let j := s.judge n (fld v.toNat 127 64) found
    let me := s.objC Obj.spanCompModuleIndex n
    let count := j.2.2.foldl (fun a q => a + q.2.length) 0
    s.checkWrite r (objAt Obj.ckptCompRestore n) v.toNat = .ok →
    ((s.comp n).ckpt.rest.isSome = true → exec (.restoreRequest r c v found) s = .next
      ((s.fault 0x0D0A n 0 0 (fld v.toNat 127 64)).reply .stateConflict 0x0D0A)) ∧
    ((s.comp n).ckpt.rest = none → rid = 0 ∨ fld v.toNat 511 384 ≠ 0 → exec (.restoreRequest r c v found) s = .next (s.reply .outOfRange)) ∧
    ((s.comp n).ckpt.rest = none → rid ≠ 0 → fld v.toNat 511 384 = 0 → ((s.comp n).st = .attested → s.keysReady n = true) →
      ((s.comp n).st = .held → s.contribUnver n = false) →
      exec (.restoreRequest r c v found) s = .next
        (let s1 := if count = 0 then s else (s.incC Obj.ckptCompCorruptCopies n count).faultOnce 0x0D0C n
         let x : Restore := ⟨rid, s.now, j.2.1, j.1, j.2.2, [(me, j.1)], none⟩
         let s2 := (s1.modCkpt n fun q => { q with rest := some x }).restoreStatus n 0 1 0 rid
         ((s2.postAll n 5 ([rid, me] ++ j.1.flatMap fun q => [q.1, q.2])).chooseRestore n).reply .ok))) ∧
  (∀ (c : CompNo) (rid : W64) (module : BitVec 16) (set : List (W64 × BitVec 384)) (x : Restore) (s : State), let n := c.val
    (s.comp n).ckpt.rest = some x → x.rid = rid.toNat → x.step = none → module.toNat < s.objC Obj.spanCompJobModules n →
    (∀ q ∈ x.sets, q.1 ≠ module.toNat) →
    exec (.restoreSetReceive c rid module set) s = .next ((s.modCkpt n fun q => { q with rest := some { x with
      sets := x.sets ++ [(module.toNat, set.map fun q => (q.1.toNat, q.2.toNat))] } }).chooseRestore n)) ∧
  (∀ (c : CompNo) (x : Restore) (s : State), let n := c.val
    (s.comp n).ckpt.rest = some x →
    (x.step = none → x.since + s.obj Obj.ckptRestoreMs * 1000000 ≤ s.now →
      exec (.restoreTimeout c) s = .next (s.finishRestore n 0x0D09 0)) ∧
    (∀ rid : W64, x.rid = rid.toNat → exec (.restoreAbortPost c rid) s = .next (s.finishRestore n 0x0D0E 0)) ∧
    (∀ (img : Option ShardImg) (step e : Nat), x.step = some step → s.restoreSource n step img = .error e →
      exec (.restoreWriteDone c img) s = .next (s.finishRestore n e step)) ∧
    (∀ (img : Option ShardImg) (step e : Nat) (s1 s2 : State) (pols : List (Nat × Nat)) (pages : List ShardPage),
      x.step = some step → s.restoreSource n step img = .ok (s1, pols, pages) →
      (s1.restorePols n pols).restorePages n pages = (e, s2) →
      exec (.restoreWriteDone c img) s = .next
        (if e = 0 then
          let q := (s2.restoreUnits n step).repair n step ((x.corrupt.filter fun q => decide (q.1 = step)).flatMap (·.2))
          q.2.finishRestore n (if q.1 = 0 then 0 else 0x0D0D) step
         else s2.finishRestore n e step)))

/-- R439-R441, R480, R481, R483: phases and counters. -/
def Obligations.PhasesSelectionsAndSnapshots : Prop :=
  (∀ (c : CompNo) (rem : Option SpanReply) (bs : List Byte) (s s1 : State), let n := c.val
    let i := (s.comp n).phTaken
    let e := leNat bs
    s.running n = true → ((s.peg (s.objC Obj.phaseCompRingPeg n)).value + 2 ^ 32 - i % 2 ^ 32) % 2 ^ 32 ≠ 0 →
    s.unitFetch n (s.objC Obj.phaseCompRingAddr n + i % max 1 (s.objC Obj.phaseCompRingEntries n) * 64) 64 rem =
      (some bs, s1) →
    let s2 := (s1.modComp n fun c =>
      { c with phTaken := i + 1, stamps := c.stamps.filter fun q => !seqReached (i + 1) q.1 }).unitPost n
        (s.objC Obj.phaseCompTakenPeg n)
    exec (.phaseMarkTake c rem) s = .next
      (if s2.markRefused n e = true then s2.incC Obj.phaseCompMarksRefused n
       else ((s2.nextPhase n (Mk.phase e) (Mk.step e) (s.stampOf n i)).incC Obj.phaseCompMarks n).compEvent n 0xE4 1)) ∧
  (∀ (c : CompNo) (s : State), let n := c.val
    let p := s.objC Obj.phaseCompCurrent n
    s.running n = true → p ≠ 0 → p ≠ 255 → s.objC Obj.phaseCompCurrentSince n + 2000 * Pl.us (s.planEntry n p) ≤ s.now →
    exec (.phaseOverrun c) s = .next (if (s.comp n).phOver = true then s
      else (s.modComp n fun c => { c with phOver := true }).incC Obj.phaseCompOverruns n)) ∧
  (∀ (r : Role) (c : CompNo) (v : W64) (s t : State) (st : Status),
    s.checkWrite r (objAt Obj.evCompTileSel c.val) v.toNat = .ok → s.tileSelAct r c.val v.toNat = (st, t) →
    exec (.tileSelWrite r c v) s = .next (if st = .ok then t.reply .ok else t.selRefused c.val st)) ∧
  (∀ (r : Role) (c : CompNo) (j : Fin 64) (v : BitVec 128) (s t : State) (st : Status),
    s.checkWrite r (aggKey c.val j.val) v.toNat = .ok → s.aggAct r c.val j.val v.toNat = (st, t) →
    exec (.aggWrite r c j v) s = .next (if st = .ok then t.reply .ok else t.selRefused c.val st)) ∧
  (∀ (c : CompNo) (s : State), exec (.evSelectEffect c) s = .next (s.modComp c.val fun x =>
    { x with selFrom := if x.selFrom ≤ s.now then 0 else x.selFrom,
             aggFrom := x.aggFrom.filter fun q => decide (s.now < q.2) })) ∧
  (∀ (c : CompNo) (s : State), (s.comp c.val).st ≠ .free → s.advances c.val unitSnap (s.objC Obj.evCompSnapReqPeg c.val) ≠ 0 →
    exec (.snapReq c) s = .next ((s.actOn c.val unitSnap).snapshot c.val)) ∧
  (∀ (r : Role) (c : CompNo) (s : State), s.checkWrite r (objAt Obj.evCompSnapNow c.val) 1 = .ok →
    exec (.snapNow r c true) s = .next ((s.snapshot c.val).reply .ok))

/-- R444, R464, R465, R519, R543, R544, R561: the supply. -/
def Obligations.SupplyEventsMoveTheModule : Prop :=
  (∀ (mv : BitVec 16) (bad : List (BitVec 24)) (s : State),
    (s.mode = .off → 44000 ≤ mv.toNat → exec (.inputApplied mv bad) s = .next
      (bad.foldl (fun a k => if persClass k.toNat = 1 then (a.setObj k.toNat (objDefault k.toNat)).fault 0x1109 else a)
        (((s.enterMode .standby).setInput mv.toNat).setObj Obj.holdupBusWarning (b2n s.pins.busWarn)))) ∧
    (mv.toNat < 44000 → exec (.inputApplied mv bad) s = .next s) ∧
    (s.mode ≠ .off → 44000 ≤ mv.toNat → exec (.inputApplied mv bad) s = .next (s.setInput mv.toNat))) ∧
  (∀ (mv : BitVec 16) (s : State), s.mode ≠ .off →
    (mv.toNat < 44000 → exec (.inputLow mv) s = .next ((s.setInput mv.toNat).supplyFails 0x0E01)) ∧
    (mv.toNat < 40000 → exec (.inputLoss mv) s = .next (s.powerLoss mv.toNat)) ∧
    (58000 < mv.toNat → exec (.inputOvervoltage mv) s = .next ((s.setInput mv.toNat).failModule 0x0E05))) ∧
  (∀ s : State, let s1 := { s with pins := { s.pins with busWarn := true } }
    s.pins.busWarn = false → exec .busWarnAssert s = .next
      (if s.mode = .off then s1 else (s1.setObj Obj.holdupBusWarning 1).supplyFails 0x0E02)) ∧
  (∀ s : State, let s2 := { s with pins := { s.pins with busWarn := false } }.setObj Obj.holdupBusWarning 0
    s.mode ≠ .off → exec .busWarnDeassert s = .next
      (if (s.mode = .standby ∧ s.startPending = true) ∨ s2.autoReady = true then s2.enterVerify else s2)) ∧
  (∀ s : State, s.mode = .holdup → s.power.paused = false → s.modeAt + s.obj Obj.holdupBudgetS * 1000000000 ≤ s.now →
    exec .holdupPause s = .next ({ s.fault 0x0E04 with power := { s.power with paused := true } }.recapAll)) ∧
  (∀ (mv : BitVec 16) (s : State), s.mode = .holdup → 46000 ≤ mv.toNat → mv.toNat ≤ 58000 → s.pins.busWarn = false →
    s.modeAt + s.obj Obj.holdupClearMs * 1000000 ≤ s.now →
    let s1 := ((s.setInput mv.toNat).fault 0x0E03).enterMode
      (if ((List.range 8).any fun n => s.running n) then .run else .ready)
    exec (.holdupExit mv) s = .next (({ s1 with power := { s1.power with paused := false } }.recapAll).raiseAll 2))

/-- R445, R448-R456: input power and the governor. -/
def Obligations.InputPowerIsHeldToItsLimit : Prop :=
  (∀ (watts common : BitVec 16) (s : State), s.mode ≠ .off →
    let limit := s.obj Obj.powerInputLimitW
    let w := watts.toNat
    let s1 := ((s.setObj Obj.powerInputW w).setObj Obj.powerCommonW common.toNat).inc Obj.powerEnergyMj w
    let p := s1.power
    let s2 := { s1 with power := { p with
      overP := p.overP || decide (limit < w), calm := p.calm && decide (10 * w < 9 * limit) } }
    exec (.inputPowerSample watts common) s = .next
      (if p.factor = 0 ∧ limit < w then
        (let s3 := if p.due.isSome then s2 else s2.fault 0x0E06
         if p.setAt + 100000000 ≤ s.now then s3.setFactor (dropLevel limit w)
         else { s3 with power := { s3.power with due := some (max (dropLevel limit w) (p.due.getD 0)) } })
       else s2)) ∧
  (∀ s : State, s.mode ≠ .off → s.power.powerNo < s.now / 100000000 →
    let p := s.power
    let s1 := { s with power := { p with powerNo := s.now / 100000000, overP := false, calm := true, due := none } }
    exec .powerLimitEval s = .next
      (match p.due with
       | some l => s1.setFactor l
       | none => if p.overP = true then (if p.factor < 3 then (s1.fault 0x0E06).setFactor (p.factor + 1) else s1)
           else if p.calm = true then s1.setFactor (p.factor - 1) else s1)) ∧
  (∀ s : State, s.mode ≠ .off → s.power.windowNo < s.now / 100000 →
    let s1 := { s with power := { s.power with windowNo := s.now / 100000 } }
    let s2 := (List.range 8).foldl (fun a n =>
      a.tickFresh.govern n (if (a.comp n).st = .free then 0 else Config.workDraw a.fresh)) s1
    exec .governorWindow s = .next (s2.setObj Obj.bevelFillerW
      (min 65535 (roundDiv ((List.range 8).foldl (fun a n => a + (s2.comp n).gov.filler) 0) 1000))))

/-- R386, R498-R500, R502, R511: the six loads. -/
def Obligations.QueueLoadsWriteTheirTables : Prop :=
  ∀ (f : FuncNo) (q : PairNo) (bs : List Byte) (s : State) (t : Taken), s.headOf f.val q.val = some t →
    let n := f.val - 1
    let e := t.raw
    let b := padTo (Sq.len e) bs
    let at_ (k : Nat) : Prop := Sq.opcode e = 1 ∧ Sq.kind e = k ∧ s.hostLink = true
    let free (k : Nat) : Prop := at_ k ∧ s.hostRefusal f.val e true (loadShape k) forming = none
    let digested (x : State) : State := x.modComp n fun c =>
      { c with loadDigest := digest48 (leBytes 48 c.loadDigest ++ leBytes 1 (Sq.kind e) ++ leBytes 8 (Sq.target e) ++
          leBytes 48 (digest48 b)) }
    let loaded (x : State) : State := (digested x).finish f.val q.val .ok 0 b.length
    let stored (a : Nat) (mark : State → State) : State :=
      let w := s.hostStore n .unit .unit a b
      if w.1 = 0 then loaded (mark w.2.2)
      else (s.storeRefused w.2.2 n a w.1).finish f.val q.val (hostStatus w.1) w.1 0
    let ends (k : Nat) (i : HostRead → Instr) (t : State) : Prop :=
      (free k → exec (i (.data bs)) s = .next t) ∧
      (free k → exec (i .failed) s =
        .next ((s.hostViolation f.val (some q.val) 0x1007).finish f.val q.val .accessDenied 0x1007 0)) ∧
      (∀ (st : Status) (code : Nat) (d : HostRead), at_ k → s.hostRefusal f.val e true (loadShape k) forming = some (st, code) →
        exec (i d) s = .next (s.hostRefuse f.val q.val st code))
    let base := s.objC Obj.updCompLayerTable n
    let count := s.objC Obj.updCompLayerCount n
    ends 1 (.loadProgram f q) (loaded (s.modTile (Sq.target e) fun y => { y with prog := writeBytes y.prog 0 b })) ∧
    (s.inSpan n (Sq.target e) b.length = true →
      ((pagesIn (Sq.target e) b.length).any fun p => (s.contribOf n (s.rangeAt n p)).isSome) = false →
      (pagesIn (Sq.target e) b.length).any (s.tableBarred n) = false →
      ends 2 (.loadSpan f q) (stored (Sq.target e) id)) ∧
    ends 3 (.loadMapTable f q)
      (if s.mapImageOk n b = true then loaded (s.loadMaps n b) else s.finish f.val q.val .outOfRange 0 0) ∧
    ends 4 (.loadPhasePlan f q)
      (if s.planImageOk n b = true then loaded (s.loadPlan n b) else s.finish f.val q.val .outOfRange 0 0) ∧
    ends 5 (.loadScaleTable f q)
      (if s.scalePlaceOk n (s.tableAt n) = true ∧ scaleImageOk b = true then
        stored (s.tableAt n) fun x => x.modUpd n fun u => { u with scaleLoaded := true }
       else (s.fault 0x0508 n).finish f.val q.val .outOfRange 0x0508 0) ∧
    ends 6 (.loadLayerTable f q)
      (if s.layerPlaceOk n base count = true ∧ s.layerImageOk n count b = true then
        stored base fun x => x.modUpd n fun u => { u with layerLoaded := true }
       else (s.updEvent n 0x0601 0 0 false).finish f.val q.val .outOfRange 0x0601 0)

/-- R242, R372, R498, R501-R503: the queue commands other than loads and mailboxes. -/
def Obligations.QueueCommandsMoveDataAndOperatePegs : Prop :=
  ∀ (f : FuncNo) (q : PairNo) (s : State) (t : Taken), s.headOf f.val q.val = some t →
    let n := f.val - 1
    let e := t.raw
    let done (x : State) (st : Status) (fault value : Nat) := x.finish f.val q.val st fault value
    let free (op : Nat) (moves data : Bool) (shape : State → Nat → Nat → Bool) (states : CState → Bool) : Prop :=
      Sq.opcode e = op ∧ (moves = true → s.hostLink = true) ∧ s.hostRefusal f.val e data shape states = none
    let turnsAway (op : Nat) (moves data : Bool) (shape : State → Nat → Nat → Bool) (states : CState → Bool) (i : Instr) : Prop :=
      ∀ (st : Status) (code : Nat), Sq.opcode e = op → (moves = true → s.hostLink = true) →
        s.hostRefusal f.val e data shape states = some (st, code) → exec i s = .next (s.hostRefuse f.val q.val st code)
    (free 0 false false noShape (fun _ => true) → exec (.nop f q) s = .next (done s .ok 0 0)) ∧
    turnsAway 0 false false noShape (fun _ => true) (.nop f q) ∧
    (∀ (bs : List Byte) (opened : Option (List Byte)), let b := padTo (Sq.len e) bs
      let slot := leNat (slice b 8 1)
      let a := leNat (slice b 24 8)
      let key := objAt Obj.integCompImportSeq n + slot
      let r := s.rangeAt n (pageOf a)
      free 2 true true importShape attestedOrRunning → leNat (slice b 9 7) = 0 → leNat (slice b 32 32) = 0 → slot < 8 →
      a % 65536 = 0 → (∃ i g, s.owner n a = .page i g) ∨ (∃ m, s.owner n a = .module m) →
      (s.objC Obj.compContribKeyed n).testBit slot = true → leNat (slice b 0 8) = s.objC Obj.spanCompJobId n →
      s.obj key < leNat (slice b 16 8) → s.objOf n (pageOf a) ≠ 0 → (fld (s.contrib n slot) 23 8).testBit r = true →
      exec (.importBlock f q (.data bs) opened) s = .next (match opened with
        | none => done ((s.integEvent n 0x0B0A r (pageOf a) 0).incC Obj.integCompImportRefused n) .accessDenied 0x0B0A 0
        | some p =>
          let w := s.hostStore n .unit .unit a (padTo 65536 p)
          if w.1 = 0 then done ((w.2.2.setObj key (leNat (slice b 16 8))).incC Obj.integCompImports n) .ok 0 65616
          else done (s.storeRefused w.2.2 n a w.1) (hostStatus w.1) w.1 0)) ∧
    (∀ (d : HostRead) (o : Option (List Byte)), turnsAway 2 true true importShape attestedOrRunning (.importBlock f q d o)) ∧
    (∀ (bs : List Byte) (remote : Option SpanReply), let a := Sq.target e
      let w := s.hostStore n (.host f.val q.val) .host a (padTo (Sq.len e) bs)
      let s2 := w.2.2.markPosted f.val q.val
      free 3 true true spanWriteShape attestedToHeld → t.posted = false → (∀ m, s.owner n a ≠ .module m) →
      exec (.spanWrite f q (.data bs) remote) s = .next
        (if w.1 ≠ 0 then done w.2.2 (hostStatus w.1) w.1 w.2.1
         else if s2.hostHeld n f.val q.val = true then s2 else done s2 .ok 0 (Sq.len e))) ∧
    (∀ (d : HostRead) (o : Option SpanReply), turnsAway 3 true true spanWriteShape attestedToHeld (.spanWrite f q d o)) ∧
    (∀ bad : Option (Fin 1024 × Integ), let p := pageOf (Sq.target e)
      let r := s.readPage n p bad
      let s1 := r.s.tickFresh
      free 4 true true exportShape runningOrHeld → s.objC Obj.rotCompJobKeyInstalled n ≠ 0 →
      s.contribOf n (s.rangeAt n p) = none → exec (.exportPage f q bad) s = .next
        (if r.unver ≠ 0 then done r.s .unverifiable r.unver 0
         else done (s1.tickFresh.emit (.hostWrite (Sq.addr e) (recordHead p (s.objOf n p) r.s.draw256 r.poison r.zero ++
           leBytes 65552 (Config.choice s1.fresh % 256 ^ 65552)))) .ok 0 65872)) ∧
    (∀ bad : Option (Fin 1024 × Integ), turnsAway 4 true true exportShape runningOrHeld (.exportPage f q bad)) ∧
    (∀ bad : Option (Fin 1024 × Integ), let p := pageOf (Sq.target e)
      let r := s.readPage n p bad
      free 5 true true releasedShape heldOnly → s.isReleased n p = true → s.homedHere n p = true →
      exec (.readReleased f q bad) s = .next
        (if r.unver ≠ 0 then done r.s .unverifiable r.unver 0
         else if r.poison ≠ 0 then done r.s .poisoned 0 0
         else done (r.s.emit (.hostWrite (Sq.addr e) r.bytes)) .ok 0 65536)) ∧
    (∀ bad : Option (Fin 1024 × Integ), turnsAway 5 true true releasedShape heldOnly (.readReleased f q bad)) ∧
    (let peg (op : PegOp) := (s.compEvent n 0xA1 1).pegPerform n op (Hnd.peg (Sq.target e)) (Sq.arg e)
     let runs (op : Nat) (o : PegOp) (i : Instr) : Prop :=
       turnsAway op false true pegShape attestedToHeld i ∧
       ∀ s1 : State, free op false true pegShape attestedToHeld → Hnd.bad (Sq.target e) = false →
        (∀ v, peg o = (.done v, s1) → exec i s = .next (done s1 .ok 0 v)) ∧
        (peg o = (.wait, s1) → exec i s = .next (done s1 .ok 0 1)) ∧
        (∀ c, peg o = (.refused c, s1) → exec i s = .next
          (done (s1.compEvent n 0xA3 1) (if c = 0x0705 then .accessDenied else .outOfRange) c 0))
     runs 8 .post (.hostPegPost f q) ∧ runs 9 .try_ (.hostPegTry f q) ∧ runs 0x0A .read (.hostPegRead f q))

/-- R498, R502, R504-R506: the result mailboxes. -/
def Obligations.ResultsArePublishedReadAndRetired : Prop :=
  (∀ (c : CompNo) (k : Nat) (ring src : Option SpanReply) (s : State), let n := c.val
    s.unitsRun n = true → (((s.pubTake n ring).comp n).pub.opened)[k]? = none →
    exec (.publishEntry c k ring src) s = .next (s.pubTake n ring)) ∧
  (∀ (c : CompNo) (k e : Nat) (bs : List Byte) (ring src : Option SpanReply) (s s1 : State),
    let n := c.val
    let b := Pb.mbox e
    s.unitsRun n = true → s.objC Obj.hostCompPubRingAddr n = 0 → ((s.comp n).pub.opened)[k]? = some e →
    (s.mbox n b).ready = false → (((s.comp n).pub.opened.take k).any fun x => Pb.mbox x = b) = false →
    (s.spanRead n .unit (Pb.src e) (Pb.len e)).1 = .done bs → (s.spanRead n .unit (Pb.src e) (Pb.len e)).2.2 = s1 →
    let g := ((s.mbox n b).gen + 1) % 2 ^ 32
    let s2 := (s1.setMBox n b ⟨if g = 0 then 1 else g, true, 0, Pb.len e, s1.now, Pb.rtag e, bs⟩).incC Obj.hostCompPublishes n
    exec (.publishEntry c k ring src) s = .next
      (((s2.modComp n fun x => { x with pub := { x.pub with opened := x.pub.opened.eraseIdx k } }).vector (n + 1)
        (s2.objC Obj.hostCompMboxVectorBase n + b)).pubPost n e)) ∧
  (∀ (f : FuncNo) (q : PairNo) (s : State) (t : Taken), s.headOf f.val q.val = some t →
    let n := f.val - 1
    let e := t.raw
    let k := Sq.kind e
    let m := s.mbox n k
    let m1 := { m with readCount := (m.readCount + 1) % 2 ^ 32 }
    (Sq.opcode e = 0x10 → s.hostLink = true →
      (s.hostRefusal f.val e true mboxReadShape attestedToHeld = none →
        (m.ready = true → exec (.mboxRead f q) s = .next
          ((((s.setMBox n k m1).incC Obj.hostCompMboxReads n).emit
            (.hostWrite (Sq.addr e) (leBytes 64 m1.header ++ padTo 4032 m.payload))).finish f.val q.val .ok 0 m.gen)) ∧
        (m.ready = false → exec (.mboxRead f q) s = .next
          ((((s.incC Obj.hostCompNotReadyReads n).faultOnce 0x100A n f.val).emit
            (.hostWrite (Sq.addr e) (leBytes 64 m.header ++ padTo 4032 []))).finish f.val q.val .notReady 0x100A 0))) ∧
      (∀ (st : Status) (code : Nat), s.hostRefusal f.val e true mboxReadShape attestedToHeld = some (st, code) →
        exec (.mboxRead f q) s = .next (s.hostRefuse f.val q.val st code))) ∧
    (Sq.opcode e = 0x11 →
      (s.hostRefusal f.val e true mboxAckShape attestedToHeld = none →
        (m.ready = true ∧ Sq.arg e = m.gen → exec (.mboxAck f q) s = .next
          ((s.setMBox n k { MBox.init with gen := m.gen }).finish f.val q.val .ok 0 m.gen)) ∧
        (m.ready = false ∨ Sq.arg e ≠ m.gen → exec (.mboxAck f q) s = .next
          (((s.incC Obj.hostCompStaleAcks n).hostViolation f.val (some q.val) 0x100B).finish f.val q.val .stateConflict 0x100B
            m.gen))) ∧
      (∀ (st : Status) (code : Nat), s.hostRefusal f.val e true mboxAckShape attestedToHeld = some (st, code) →
        exec (.mboxAck f q) s = .next (s.hostRefuse f.val q.val st code))))

/-- R493, R496, R497, R508, R511: the registers of BAR0. -/
def Obligations.QueueRegistersMoveTheirPair : Prop :=
  ∀ (f : FuncNo) (q : PairNo) (s : State),
    let x := s.pair f.val q.val
    let bad (code : Nat) : Host.Outcome State Machine.Fault Refusal := .next (s.hostViolation f.val (some q.val) code)
    (s.hostUp f.val = true →
      (∀ (v : W32) (es : List (Option (BitVec 512))), let d := (v.toNat + 2 ^ 32 - x.sqTaken) % 2 ^ 32
        x.qstate = 1 →
        (d < 2 ^ 31 → d ≤ x.entries → exec (.sqTail f q v es) s = .next
          ((s.setPair f.val q.val { x with tail := v.toNat }).takeNow f.val q.val es)) ∧
        (2 ^ 31 ≤ d ∨ x.entries < d → exec (.sqTail f q v es) s = bad 0x1004)) ∧
      (∀ (v : W32) (es : List (Option (BitVec 512))), x.qstate ≠ 1 → exec (.sqTail f q v es) s = .next s) ∧
      (∀ (v : W32) (es : List (Option (BitVec 512))), let ahead := (v.toNat + 2 ^ 32 - x.head) % 2 ^ 32
        let short := (x.produced + 2 ^ 32 - v.toNat) % 2 ^ 32
        (x.qstate = 0 → exec (.cqHead f q v es) s = .next s) ∧
        (x.qstate ≠ 0 → ahead < 2 ^ 31 → short < 2 ^ 31 → exec (.cqHead f q v es) s = .next
          ((s.setPair f.val q.val { x with head := v.toNat }).takeNow f.val q.val es)) ∧
        (x.qstate ≠ 0 → 2 ^ 31 ≤ ahead ∨ 2 ^ 31 ≤ short → exec (.cqHead f q v es) s = bad 0x1005)) ∧
      exec (.queueEnable f q 0) s = .next (s.disablePair f.val q.val) ∧
      exec (.queueEnable f q 1) s = .next (if x.enable = true then s else s.setPair f.val q.val
        { x with enable := true, qstate := 1, sqTaken := 0, tail := 0, produced := 1, head := 1 }) ∧
      (∀ v : Byte, 1 < v.toNat → exec (.queueEnable f q v) s = bad 0x1008) ∧
      (∀ (reg : Fin 4) (v : W64), x.qstate ≠ 0 → exec (.queueRegisterWrite f q reg v) s = bad 0x1006) ∧
      (∀ v : W64, x.qstate = 0 →
        exec (.queueRegisterWrite f q 0 v) s = (if v.toNat % 4096 = 0 then .next (s.setPair f.val q.val { x with sqBase := v })
          else bad 0x1008) ∧
        exec (.queueRegisterWrite f q 1 v) s = (if v.toNat % 4096 = 0 then .next (s.setPair f.val q.val { x with cqBase := v })
          else bad 0x1008) ∧
        exec (.queueRegisterWrite f q 2 v) s = (if 4 ≤ v.toNat ∧ v.toNat ≤ 16 then
          .next (s.setPair f.val q.val { x with depth := v.toNat }) else bad 0x1008) ∧
        exec (.queueRegisterWrite f q 3 v) s = (if v.toNat ≤ 2047 then
          .next (s.setPair f.val q.val { x with vector := v.toNat }) else bad 0x1008)) ∧
      (∀ v : W64,
        exec (.causeWrite f 0 v) s = .next (s.modFunc f.val fun y => { y with cause := (BitVec.ofNat 64 y.cause &&& ~~~v).toNat }) ∧
        exec (.causeWrite f 1 v) s = .next (s.modFunc f.val fun y => { y with mask := v }) ∧
        exec (.causeWrite f 2 v) s = .next (if v.toNat ≤ 2047 then s.modFunc f.val fun y => { y with vector := v.toNat }
          else s.hostViolation f.val none 0x1008)) ∧
      (∀ at_ : Option (Fin 17), exec (.hostBarViolation f at_) s = .next (s.hostViolation f.val (at_.map (·.val)) 0x1008))) ∧
    (s.hostUp f.val = false → ∀ (v : W32) (es : List (Option (BitVec 512))) (e : Byte) (r4 : Fin 4) (r3 : Fin 3) (w : W64)
      (at_ : Option (Fin 17)), ∀ i ∈ [Instr.sqTail f q v es, .cqHead f q v es, .queueEnable f q e, .queueRegisterWrite f q r4 w,
        .causeWrite f r3 w, .hostBarViolation f at_], exec i s = .next s)

/-- R489, R493, R509-R511, R537, R538, R548: the endpoint and the dictionary mailbox. -/
def Obligations.EndpointLinksResetsAndItsMailbox : Prop :=
  (∀ s : State, s.hostLink = true → exec .hostLinkDown s = .next
    { ((((s.setObj Obj.hostLinkWidth 0).setObj Obj.hostLinkGts 0).setObj Obj.hostFlitMode 0).inc Obj.hostLinkDowns).fault 0x100E with
      hostLink := false }) ∧
  (∀ s : State, s.hostLink = false → exec .hostLinkDown s = .next s) ∧
  (∀ (w : Fin 9) (g : Byte) (vfs : Fin 9) (s : State),
    s.mode ∈ [.bringup, .ready, .run, .holdup, .service] → w.val ∈ [1, 2, 4, 8] → g.toNat ∈ [2, 5, 8, 16, 32, 64, 128] →
    let num := if s.hostLink = true ∧ s.obj Obj.hostNumVfs ≠ 0 then s.obj Obj.hostNumVfs else vfs.val
    let s1 := (((s.setObj Obj.hostLinkWidth w.val).setObj Obj.hostLinkGts g.toNat).setObj Obj.hostFlitMode
      (b2n (decide (64 ≤ g.toNat)))).setObj Obj.hostNumVfs num
    let s2 : State := { s1 with hostLink := true, pins := { s1.pins with perstLow := false } }
    exec (.hostLinkUp w g vfs) s = .next
      ((List.range 9).foldl State.deliverFunc (if w.val < 8 ∨ g.toNat < 128 then s2.fault 0x1001 else s2))) ∧
  (∀ (f : FuncNo) (s : State), s.hostUp f.val = true → let s1 := s.fault 0x100F (funcComp f.val) f.val
    exec (.hostFlr f) s = .next (if f.val = 0 then ((List.range 8).foldl State.tdiError s1).resetEndpoint
      else (s1.tdiError (f.val - 1)).resetFunc f.val)) ∧
  (∀ (perst : Bool) (s : State), s.mode ≠ .off →
    let s1 : State := { (s.setObj Obj.moduleLastReset 1).fault 0x100F with
        pins := { s.pins with perstLow := s.pins.perstLow || perst }, startPending := false }
    exec (.endpointReset perst) s = .next ((List.range 8).foldl State.tdiError s1).resetEndpoint) ∧
  (∀ (f : FuncNo) (g : MbRegs) (v : W32) (req : HostRead) (ext : List DictExt) (s : State), s.hostUp f.val = true →
    let y := s.func f.val
    let fits : Prop := y.mbStatus ≠ 1 ∧ y.mbStatus ≠ 3 ∧ v = 1 ∧ g.reqLen ≠ 0 ∧ g.reqLen.toNat ≤ 65536 ∧ 64 ≤ g.repLen.toNat ∧
      g.repLen.toNat ≤ 262144 ∧ g.vec.toNat ≤ 2047
    let s1 := s.setFunc f.val { y with
      mbReqAddr := g.reqAddr, mbReqLen := g.reqLen.toNat, mbRepLen := g.repLen.toNat, mbRepAddr := g.repAddr,
      mbVector := g.vec.toNat, mbStatus := 1 }
    (¬ fits → exec (.mbDoorbell f g v req ext) s = .next (s.hostViolation f.val (some 16) 0x1008)) ∧
    (fits → exec (.mbDoorbell f g v .failed ext) s = .next
      ((s1.modFunc f.val fun z => { z with mbStatus := 0 }).hostViolation f.val (some 16) 0x1007)) ∧
    (∀ bs : List Byte, fits → let b := padTo g.reqLen.toNat bs
      let m := s1.doMessage (funcRole f.val) false false g.repLen.toNat b ext
      let s2 := m.s.modFunc f.val fun z => { z with mbParts := m.parts, mbMsgId := msgId b }
      let s3 := m.holds.foldl (fun a h => a.modComp h.1 fun c => { c with closeTo := some (.mailbox f.val h.2) }) s2
      exec (.mbDoorbell f g v (.data bs) ext) s = .next (if (m.s.func f.val).mbStatus ≠ 1 then m.s
        else if m.holds.isEmpty = true then s3.mailboxReply f.val (message 1 (msgId b) m.parts) else s3))) ∧
  (∀ (f : FuncNo) (s : State), exec (.mbQuarantineEnd f) s = .next
    (if (s.func f.val).mbStatus = 3 ∧ (s.func f.val).mbQuarAt + 1000000000 ≤ s.now then
      s.setFunc f.val { s.func f.val with mbStatus := 0, mbViol := [] } else s))

/-- R517, R521-R526: one entry. -/
def Obligations.DictionaryEntriesAreCheckedInOrder : Prop :=
  ∀ (r : Role) (index : BitVec 16) (sub : Byte) (s : State), let key := index.toNat * 256 + sub.toNat
    let type : Nat := (objRow key).elim 0 (·.type)
    let reply (t : State) (code fault total : Nat) (data : List Byte) : Host.Outcome State Machine.Fault Refusal :=
      .next (t.emit (.dictReply code type t.mode.code (t.stateFor key) fault total data))
    let refused (st : Status) (total : Nat) := reply s st.code 0 total []
    (∀ (off len : W32) (ty : Byte) (bs : List Byte) (x : DictExt), s.mode = .off →
      exec (.dictRead r index sub off len) s = .next s ∧ exec (.dictWrite r index sub ty bs x) s = .next s ∧
      exec (.dictDescribe r index sub) s = .next s) ∧
    (s.mode ≠ .off →
      (objRow key = none → ∀ (off len : W32) (ty : Byte) (bs : List Byte) (x : DictExt),
        exec (.dictRead r index sub off len) s = refused .outOfRange 0 ∧
        exec (.dictWrite r index sub ty bs x) s = refused .outOfRange 0 ∧
        exec (.dictDescribe r index sub) s = refused .outOfRange 0) ∧
      (∀ row : ObjRow, objRow key = some row →
        (∀ off len : W32, let n := if len.toNat = 0 then row.size - off.toNat else len.toNat
          let fits : Bool := if row.type = 16 then
              decide (off.toNat < row.size) && (len.toNat = 0 || decide (off.toNat + len.toNat ≤ row.size))
            else off.toNat = 0 && len.toNat = 0
          exec (.dictRead r index sub off len) s =
            if roleReads r row key = false then refused .accessDenied row.size
            else if fits = false then refused .outOfRange row.size
            else if s.notReady row key = true then refused .notReady row.size
            else if 262128 < 24 + (n + 7) / 8 * 8 then refused .replySpace row.size
            else reply s 0 0 row.size (((leBytes row.size (s.dictValue r row key)).drop off.toNat).take n)) ∧
        (∀ (ty : Byte) (bs : List Byte) (x : DictExt), let w := s.writeValue r row key (leNat bs) x
          exec (.dictWrite r index sub ty bs x) s =
            if roleWrites r row key = false then refused .accessDenied row.size
            else if s.stateAllows row key = false then refused .stateConflict row.size
            else if ty.toNat ≠ row.type then refused .typeMismatch row.size
            else if bs.length ≠ row.size then refused .outOfRange row.size
            else if w.held = true then .next w.s
            else reply w.s w.st.code w.fault row.size w.data) ∧
        (∀ (v : Nat) (x : DictExt), let i := key / 256 - row.base / 256
          typeOk row v = true → s.checkWrite r key v = .ok → s.valueStatus row.base i v = .ok →
          (row.pers = 1 → x.stored = true) →
          ((commandWrites s r i (key % 256 - row.base % 256) v row.size x).find? fun q => q.1 = row.base) = none →
          s.writeValue r row key v x = ⟨.ok, 0, [], false, s.storeObj row.base i key v⟩) ∧
        exec (.dictDescribe r index sub) s =
          if roleReads r row key = false ∧ roleWrites r row key = false then refused .accessDenied row.size
          else reply s 0 0 row.size (describe r row key)))

/-- R530, R532, R534, R536: sessions. -/
def Obligations.SessionsOpenAndEnd : Prop :=
  (∀ (m : InitSeg) (s : State), let src := m.src.toNat
    let id := s.xiesk.nextIdent
    let refused := (s.refuseWith src 0 .accessDenied).sourceFault src 0x1102
    let waiting := (s.xiesk.hands.filter fun h => !h.accepted).length
    s.hears src = true →
    (m.sound = false ∨ sessionRole m.role = false → exec (.xieskInit m) s = .next refused) ∧
    (m.sound = true → sessionRole m.role = true →
      (s.obj Obj.sessMaxSessions ≤ s.sessionsOpen → exec (.xieskInit m) s = .next (s.refuseWith src 0 .rateLimited)) ∧
      (s.sessionsOpen < s.obj Obj.sessMaxSessions →
        (4 ≤ waiting → exec (.xieskInit m) s = .next (s.sourceFault src 0x1103)) ∧
        (waiting < 4 → (s.anchored m = false ∨ s.roleLives m.role = false → exec (.xieskInit m) s = .next refused) ∧
          (s.anchored m = true → s.roleLives m.role = true → exec (.xieskInit m) s = .next
            (State.acceptWaiting { s with xiesk := { s.xiesk with
              hands := s.xiesk.hands ++ [⟨src, id, m.role, m.cert.toNat, s.now, false, 0⟩],
              nextIdent := if id + 1 < 2 ^ 32 then id + 1 else 1 } })))))) ∧
  (∀ (m : ConfirmSeg) (s : State), let src := m.src.toNat
    let id := m.ident.toNat
    s.hears src = true → m.sound = true →
    ((s.xiesk.hands.find? fun h => h.ident = id && h.source = src && h.accepted) = none →
      exec (.xieskConfirm m) s = .next (s.sourceFault src 0x1101)) ∧
    (∀ h : Handshake, (s.xiesk.hands.find? fun h => h.ident = id && h.source = src && h.accepted) = some h →
      let s1 := s.setHands (s.xiesk.hands.filter fun x => decide (x.ident ≠ id))
      (m.tagOk = false → exec (.xieskConfirm m) s = .next (s.sourceFault src 0x1104)) ∧
      (m.tagOk = true → m.signed = false ∨ s.roleLives h.role = false → exec (.xieskConfirm m) s = .next
        (((s1.emit (.segment src 3 id (leBytes 1 Status.accessDenied.code))).refuseWith src id .accessDenied).sourceFault src
          0x1102)) ∧
      (∀ k : Nat, m.tagOk = true → m.signed = true → s.roleLives h.role = true → s1.freeSess = some k →
        exec (.xieskConfirm m) s = .next
          ((s1.setSess k (some ⟨h.role, id, src, h.cert, s.now, s.now, 0, 0, [], 1, [], 2, h.keys, []⟩)).emit
            (.segment src 3 id [0]))))) ∧
  (∀ (src : BitVec 128) (ident : W32) (k : Nat) (s : State), s.hears src.toNat = true → s.slotOf ident.toNat = some k →
    exec (.xieskClose src ident true true) s = .next (s.endSession k) ∧
    exec (.xieskClose src ident true false) s = .next (s.authDrop k src.toNat)) ∧
  (∀ (r : Role) (k : Byte) (s : State), s.checkWrite r Obj.sessClose k.toNat = .ok →
    exec (.sessClose r k) s = .next ((s.endSession k.toNat).reply .ok)) ∧
  (∀ (k : Fin 8) (x : Sess) (s : State), s.sess k.val = some x →
    exec (.sessionIdleTimeout k) s = .next
      (if x.last + s.obj Obj.sessIdleTimeoutS * 1000000000 ≤ s.now then s.endSession k.val else s) ∧
    exec (.sessionLifetime k) s = .next
      (if x.opened + s.obj Obj.sessLifetimeS * 1000000000 ≤ s.now ∨ 2 ^ 32 ≤ x.rxHigh ∨ 2 ^ 32 < x.txNext then s.endSession k.val
       else s)) ∧
  (∀ (id : W32) (s : State), exec (.handshakeTimeout id) s = .next
    (s.setHands (s.xiesk.hands.filter fun h => decide (h.ident ≠ id.toNat) || decide (s.now < h.since + 10000000000)))) ∧
  (∀ (src : BitVec 128) (t : Nat) (s : State), (s.source src.toNat).ignoreTo = some t →
    exec (.sourceIgnoreEnd src) s = .next (if t ≤ s.now then s.setSource src.toNat ⟨[], none⟩ else s))

/-- R531, R533, R535, R536, R539, R540: messages of a session and fabric reads. -/
def Obligations.SessionMessagesAndFabricReadsAreAnswered : Prop :=
  (∀ (m : DataSeg) (ext : List DictExt) (s : State) (k : Nat) (x : Sess), let src := m.src.toNat
    let c := m.counter.toNat
    let joins (y : Sess) : Host.Outcome State Machine.Fault Refusal :=
      .next ((y.join m s.now).2.elim (s.setSess k (some (y.join m s.now).1)) fun b =>
        (s.setSess k (some (y.join m s.now).1)).sessionMessage k (y.join m s.now).1 b ext)
    s.hears src = true → m.sound = true → segFits m = true → s.slotOf m.ident.toNat = some k → s.sess k = some x →
    (m.tagOk = false → exec (.xieskData m ext) s = .next (s.authDrop k src)) ∧
    (m.tagOk = true →
      ((x.parts.find? fun p => p.counter = c) = none →
        (x.fresh c = false → exec (.xieskData m ext) s = .next (s.authDrop k src)) ∧
        (x.fresh c = true → (8 ≤ x.parts.length ∧ 1 < m.count.toNat → exec (.xieskData m ext) s = .next s) ∧
          (x.parts.length < 8 ∨ m.count.toNat ≤ 1 → exec (.xieskData m ext) s = joins (x.accept c)))) ∧
      (∀ p : Partial, (x.parts.find? fun p => p.counter = c) = some p → exec (.xieskData m ext) s =
        if p.count = m.count.toNat ∧ p.bytes = m.bytes.toNat then joins x else .next (s.sourceFault src 0x1101)))) ∧
  (∀ (k : Fin 8) (c : W64) (x : Sess) (s : State), s.sess k.val = some x →
    exec (.partialMessageTimeout k c) s = .next (s.setSess k.val (some { x with
      parts := x.parts.filter fun p => decide (p.counter ≠ c.toNat) || decide (s.now < p.since + 1000000000) }))) ∧
  (∀ (p : PortNo) (node : BitVec 16) (tag : W32) (op : BitVec 256) (s : State), let o := op.toNat
    let key := Ro.index o * 256 + Ro.sub o
    let k := s.roCount node.toNat
    let s1 : State := { s with xiesk := { s.xiesk with
      roCounts := kput (0, 0) s.xiesk.roCounts node.toNat (s.now / 1000000000, k) } }
    let refused (code : Status) (type total : Nat) : State :=
      (s1.faultOnce 0x110A noComp p.val).roReply node.toNat tag.toNat o code.code type total []
    (s.port p.val).st = .up →
    (s.obj Obj.sessFabricRoRate < k → exec (.dictRoRequest p node tag op) s =
      .next (s1.roReply node.toNat tag.toNat o Status.rateLimited.code 0 0 [])) ∧
    (k ≤ s.obj Obj.sessFabricRoRate →
      (Ro.sound o = false → exec (.dictRoRequest p node tag op) s = .next ((refused .outOfRange 0 0).limitViolation p.val)) ∧
      (Ro.sound o = true → objRow key = none → exec (.dictRoRequest p node tag op) s = .next (refused .outOfRange 0 0)) ∧
      (∀ row : ObjRow, Ro.sound o = true → objRow key = some row → exec (.dictRoRequest p node tag op) s = .next
        (if roleReads .fabricPeer row key = false then refused .accessDenied row.type row.size
         else if row.size < Ro.off o + Ro.len o then (refused .outOfRange row.type row.size).limitViolation p.val
         else s1.roReply node.toNat tag.toNat o Status.ok.code row.type row.size
           (slice (leBytes row.size (s.dictValue .fabricPeer row key)) (Ro.off o) (Ro.len o))))))

/-- R271, R543, R544, R548, R549, R562: module.command, its resets and pins. -/
def Obligations.ModuleCommandsMoveTheMode : Prop :=
  (∀ (r : Role) (s : State),
    let allFree : Prop := ∀ n, n < 8 → (s.comp n).st = .free
    let write (i : Role → Instr) (code : Nat) (allowed : Prop) (t : State) : Prop :=
      (s.checkWrite r Obj.moduleCommand code ≠ .ok → exec (i r) s = .next (s.reply (s.checkWrite r Obj.moduleCommand code))) ∧
      (s.checkWrite r Obj.moduleCommand code = .ok →
        (allowed → exec (i r) s = .next (t.reply .ok)) ∧
        (¬ allowed → exec (i r) s = .next ((s.fault 0x1201).reply .stateConflict 0x1201 s.mode.code)))
    write .moduleStart 1 (s.mode = .standby ∧ s.pins.resetLow = false)
      (if s.pins.busWarn = true then { s with startPending := true } else s.enterVerify) ∧
    write .moduleService 2 (s.mode = .ready ∧ allFree) (s.await .toService) ∧
    write .exitService 3 (s.mode = .service) (s.enterMode .ready) ∧
    write .moduleStandby 4 ((s.mode = .ready ∧ allFree) ∨ s.mode = .service) (s.await .toStandby) ∧
    write .resetModule 5 (s.mode ≠ .off) (s.resetAct false) ∧
    write .resetFull 6 (s.mode ≠ .off) (s.resetAct true)) ∧
  (∀ s : State, exec .autoStart s = .next (if s.autoReady = true then s.enterVerify else s)) ∧
  (∀ (low : Bool) (s : State), let s1 : State := { s with pins := { s.pins with resetLow := low } }
    exec (.resetPinAssert low) s = .next (if low = true ∧ s.pins.resetLow = false ∧ s.mode ≠ .off then s1.resetAct true else s1)) ∧
  (∀ s : State, s.going ≠ none → s.leasesHome = true ∨ s.goingAt + s.obj Obj.tierLendReclaimDeadlineMs * 1000000 ≤ s.now →
    exec .lenderReclaimDeadline s = .next s.goOn) ∧
  (∀ s : State, s.going = none → exec .lenderReclaimDeadline s = .next s) ∧
  (∀ (k : Nat) (s : State), s.going = some (.resetModule k) →
    s.goOn.mode = .verify ∧ s.goOn.obj Obj.moduleLastReset = 2 ∧ s.goOn.going = none) ∧
  (∀ (k : Nat) (s : State), s.going = some (.resetFull k) → s.goOn.mode = .standby ∧
    s.goOn.obj Obj.moduleLastReset = 3 ∧ s.goOn.time = 0 ∧ s.goOn.log.entries = s.goOn.log.mirror ∧ s.goOn.going = none)

/-- R377, R379-R381, R543, R546, R547: VERIFY and BRINGUP. -/
def Obligations.BootAndBringUpEndInTheirMode : Prop :=
  (∀ (ok_ : Bool) (slots : List (FwSlot × FwSlot)) (s : State),
    let b := ((s.setObj Obj.rotMr 0).extendMr 0 0xFF 0 (Config.identity 0 % 2 ^ 384)).bootFrom slots 6 0
    (s.mode ≠ .verify → exec (.verifyPass ok_ slots) s = .next s) ∧
    (s.mode = .verify → exec (.verifyPass false slots) s = .next (s.failModule 0x0C05) ∧
      (b.1 = true → exec (.verifyPass true slots) s = .next (b.2.enterMode .bringup)) ∧
      (b.1 = false → exec (.verifyPass true slots) s = .next (b.2.failModule 0x0C02)))) ∧
  (∀ (c : Nat) (x y : FwSlot) (s : State), let h := s.slotHdr (2 * c) x
    (x.intact = true → s.svnFused c ≤ h.svn → (s.bootClass c x y).1 = true) ∧
    (x.intact = true → h.svn < s.svnFused c → y.intact = true → (s.slotHdr (2 * c + 1) y).svn < s.svnFused c →
      s.bootClass c x y = (false, (s.fault 0x0C03).fault 0x0C03)) ∧
    (x.intact = false → y.intact = false → s.bootClass c x y = (false, (s.fault 0x0C01).fault 0x0C01))) ∧
  (∀ (rails : Bool) (st : List (Fin 12)) (fl : List (Fin 32)) (ts : List TileNo) (sp : BitVec 256) (s : State),
    let s1 := (s.failUnits st fl ts).setObj Obj.tierFlashSparePct sp.toNat
    let s2 : State := { s1.setObj Obj.compFlashErasing (s1.obj Obj.compFlashErasing ||| s1.flashOld) with flashOld := 0 }
    let s3 := (s2.setObj Obj.rotDeliveryEk (Config.random s2.fresh % 2 ^ 12544)).tickFresh
    (s.mode ≠ .bringup → exec (.bringupComplete rails st fl ts sp) s = .next s) ∧
    (s.mode = .bringup → exec (.bringupComplete false st fl ts sp) s = .next (s.failModule 0x1203) ∧
      exec (.bringupComplete true st fl ts sp) s = .next (if s1.unusable = true then s1.failModule 0x1207
        else ((s3.setObj Obj.moduleBringupMs ((s.now - s.modeAt) / 1000000)).enterMode .ready).fabRestart))) ∧
  (∀ s : State, exec .verifyTimeout s = .next
    (if s.mode = .verify ∧ s.modeAt + 485000000 ≤ s.now then s.failModule 0x1202 else s)) ∧
  (∀ s : State, exec .bringupTimeout s = .next
    (if s.mode = .bringup ∧ s.modeAt + 6000000000 ≤ s.now then s.failModule 0x1204 else s))

/-- R519, R550-R552: firmware staging, what is stored, and the request watchdog. -/
def Obligations.FirmwareFaultLogAndWatchdogWork : Prop :=
  (∀ (r : Role) (v : List Byte) (s : State), let b := padTo 32768 v
    let len := leNat (b.take 4)
    let off := leNat ((b.drop 4).take 4)
    let sound : Prop := 0 < len ∧ len ≤ 32752 ∧ leNat ((b.drop 8).take 8) = 0 ∧ (∀ x ∈ b.drop (16 + len), x = 0) ∧
      off = s.fwStage.length ∧ off + len ≤ 16777216
    (s.checkWrite r Obj.moduleFwStage 0 = .ok →
      (sound → exec (.fwStage r v) s = .next
        (State.reply { s with fwStage := s.fwStage ++ (b.drop 16).take len } .ok)) ∧
      (¬ sound → exec (.fwStage r v) s = .next (s.reply .outOfRange))) ∧
    (s.checkWrite r Obj.moduleFwStage 0 ≠ .ok → exec (.fwStage r v) s = .next (s.reply (s.checkWrite r Obj.moduleFwStage 0)))) ∧
  (∀ (r : Role) (cls : Byte) (signed : Bool) (s : State), let k := cls.toNat
    let h : FwHdr := ⟨leNat ((s.fwStage.drop 8).take 8), leNat ((s.fwStage.drop 32).take 48)⟩
    let old := (s.boot.find? fun q => decide (q.1 = 2 * k)).elim [] fun q => [(2 * k + 1, q.2)]
    (s.checkWrite r Obj.moduleFwCommit k = .ok →
      (k ≤ 5 ∧ s.imageOk k signed = true → exec (.fwCommit r cls signed) s = .next (State.reply { s.fault 0x120B with
        fwStage := [], boot := (s.boot.filter fun q => decide (q.1 / 2 ≠ k)) ++ [(2 * k, h)] ++ old } .ok 0)) ∧
      (5 < k ∨ s.imageOk k signed = false → exec (.fwCommit r cls signed) s = .next
        (State.reply { s.fault 0x120A with fwStage := [] } .outOfRange 0x120A))) ∧
    (s.checkWrite r Obj.moduleFwCommit k ≠ .ok →
      exec (.fwCommit r cls signed) s = .next (s.reply (s.checkWrite r Obj.moduleFwCommit k)))) ∧
  (∀ s : State, s.mode ≠ .off → exec .faultLogMirror s = .next { s with log := { s.log with mirror := s.log.entries } }) ∧
  (∀ s : State, s.mode ≠ .off → exec .persistentCounterStore s = .next
    { s with stored := counterKeys.foldl (fun m k => kput 0 m k (s.obj k)) s.stored }) ∧
  (∀ s : State, s.mode = .off → exec .faultLogMirror s = .next s ∧ exec .persistentCounterStore s = .next s) ∧
  (∀ (t : TileNo) (slot : Fin 256) (x : Slot) (s : State), s.slotAt t.val slot.val = some x →
    let n := s.compNo t.val
    let s1 := (if n < 8 then s.lostAccess n 0x1209 x.addr else s).faultOnce 0x1209 n x.target.subject
    (∀ m, x.target ≠ .module m) → x.reply = none → x.issued + s.obj Obj.moduleSlotWatchdogUs * 1000 ≤ s.now →
    (∀ k, x.who = .pegOp k → exec (.requestWatchdog t slot) s = .next
      ((s1.setSlot t.val slot.val none).pegEnd k 0x1209 false)) ∧
    ((∀ k, x.who ≠ .pegOp k) → exec (.requestWatchdog t slot) s = .next (s1.answerSlot t.val slot.val 0x1209 []))) ∧
  (∀ (t : TileNo) (slot : Fin 256) (s : State), (∀ x, s.slotAt t.val slot.val = some x →
      (∃ m, x.target = .module m) ∨ x.reply ≠ none ∨ s.now < x.issued + s.obj Obj.moduleSlotWatchdogUs * 1000) →
    exec (.requestWatchdog t slot) s = .next s)

/-- R457-R462, R568: the cooling loop. -/
def Obligations.CoolingIsControlledAndProtects : Prop :=
  ∀ (x : Sensors) (s : State), let t := s.takeSensors x
    let p := t.power
    let raised (u : State) : State := if u.obj Obj.thermalStatus < 2 then u.setThermal 2 else u
    (s.sensing = false → ∀ i ∈ [Instr.valveTick x, .coolantFlowLow x, .coolantInletRange x, .thermalEval x, .thermalEmergency x,
      .thermalFault x], exec i s = .next s) ∧
    (s.sensing = true →
      (s.power.valveNo < s.now / 10000000 →
        let pff := (List.range 8).foldl (fun a n => if (t.comp n).st = .free then a
          else fadd32 a (t.plannedW n (t.now + t.obj Obj.valveLeadMs * 1000000))) (ratio32 (t.obj Obj.powerCommonW) 1)
        let target := ratio32 (t.obj Obj.valveTOutTargetC) 1
        let dt := fmax32 (fsub32 target (ratio32 p.tIn 100)) (ratio32 5 1)
        let fff := fdiv32 pff (fmul32 (ratio32 60 1) dt)
        let e := fmax32 (fsub32 (ratio32 (hottest x.hot) 10) (ratio32 (t.obj Obj.valveTHotTargetC) 1))
          (fsub32 (ratio32 p.tOut 100) target)
        let low := ratio32 15 10
        let high := ratio32 16 1
        let i := if flt32 low p.flowSet = true ∧ flt32 p.flowSet high = true then
            fclamp32 (fadd32 p.integ (fmul32 (fmul32 (t.obj Obj.valveKi) e) (ratio32 1 100))) (ratio32 (-4) 1) high
          else p.integ
        let f := fclamp32 (fadd32 (fadd32 fff (fmul32 (t.obj Obj.valveKp) e)) i) low high
        let q := { p with valveNo := t.now / 10000000, integ := i, flowSet := f, valveOpen := decide (t.obj Obj.thermalStatus = 3) }
        exec (.valveTick x) s = .next (State.setObj { t with power := q } Obj.valveFlowSet q.flowSet100)) ∧
      (s.now / 10000000 ≤ s.power.valveNo → exec (.valveTick x) s = .next s) ∧
      exec (.coolantFlowLow x) s = .next
        (if p.flowLow = false ∧ 2 * x.flow < p.flowSet100 ∧ 100 ≤ x.valve then
          raised { t.fault 0x0E0C with power := { p with flowLow := true } } else t) ∧
      exec (.coolantInletRange x) s = .next
        (if p.inletBad = false ∧ (p.tIn < 2000 ∨ 4500 < p.tIn) then
          raised { t.fault 0x0E0D with power := { p with inletBad := true } } else t) ∧
      (s.power.thermNo < s.now / 100000000 →
        let u : State := { t with power := { p with thermNo := s.now / 100000000 } }
        let cur := u.obj Obj.thermalStatus
        exec (.thermalEval x) s = .next
          (if cur < u.thermalLevel 0 then u.setThermal (u.thermalLevel 0)
           else if cur ≤ u.thermalLevel 30 then { u with power := { u.power with seenAt := u.now } }
           else if u.power.seenAt + 100000000 ≤ u.now then u.setThermal (u.thermalLevel 0) else u)) ∧
      (s.now / 100000000 ≤ s.power.thermNo → exec (.thermalEval x) s = .next s) ∧
      exec (.thermalEmergency x) s = .next (if t.thermalLevel 0 = 3 then t.setThermal 3 else t) ∧
      exec (.thermalFault x) s = .next
        (if (t.obj Obj.thermalStatus = 3 ∧ p.emergAt + 10000000000 ≤ t.now) ∨ 1200 < hottest x.hot then t.failModule 0x0E0B
         else t))

/-- R471, R472, R474-R478: time. -/
def Obligations.TimeMessagesAreTakenAndSent : Prop :=
  (∀ (x : PtpIn) (s t : State),
    (s.ptpIn 0 x = (none, t) → exec (.ptpSync x) s = .next t) ∧ (s.ptpIn 1 x = (none, t) → exec (.ptpFollowUp x) s = .next t) ∧
    (s.ptpIn 2 x = (none, t) → exec (.ptpDelayReq x) s = .next t) ∧ (s.ptpIn 3 x = (none, t) → exec (.ptpDelayResp x) s = .next t) ∧
    (s.ptpIn 4 x = (none, t) → exec (.ptpAnnounce x) s = .next t) ∧
    (∀ m : PtpMsg, let y := t.ptpPort m.port
      (s.ptpIn 0 x = (some m, t) → exec (.ptpSync x) s = .next (if m.oneStep = true then
        t.measure m.port m.ts (t.timestamp m.port)
        else t.modPtp m.port fun z => { z with sync := some (m.seq, t.timestamp m.port) })) ∧
      (s.ptpIn 1 x = (some m, t) → exec (.ptpFollowUp x) s = .next
        (y.sync.elim t fun q => if q.1 = m.seq then t.measure m.port m.ts q.2 else t)) ∧
      (s.ptpIn 2 x = (some m, t) → exec (.ptpDelayReq x) s = .next (if m.port = mgmtPort then t
        else (t.ptpFrame m.port (pack [(0, 3), (8, m.seq), (32, t.timestamp m.port)])).getD t)) ∧
      (∀ t1 t2 t3 : Nat, s.ptpIn 3 x = (some m, t) → y.req = some (m.seq, t3) → y.pair = some (t1, t2) →
        exec (.ptpDelayResp x) s = .next (t.takeDelay m.port ((((t2 : Int) - t1) + ((m.ts : Int) - t3)) / 2))) ∧
      (s.ptpIn 3 x = (some m, t) → y.req = none ∨ y.pair = none ∨ (∀ q t3, y.req = some (q, t3) → q ≠ m.seq) →
        exec (.ptpDelayResp x) s = .next t) ∧
      (s.ptpIn 4 x = (some m, t) → exec (.ptpAnnounce x) s = .next
        (t.modPtp m.port fun z => { z with heard := some m.ds, heardAt := t.time, interval := m.interval }).selectSource))) ∧
  (∀ (p : PortNo) (s s1 s2 : State), let x := s.ptpPort p.val
    s.isMaster p.val = true →
    (s.ptpDue x.syncAt (secUnits / 16) = true → s.ptpFrame p.val (pack [(0, 0), (8, x.syncSeq)]) = some s1 →
      s1.ptpFrame p.val (pack [(0, 1), (8, x.syncSeq), (32, s.timestamp p.val)]) = some s2 →
      exec (.ptpSyncSend p) s = .next
        (s2.modPtp p.val fun y => { y with syncSeq := (y.syncSeq + 1) % 65536, syncAt := some s.time })) ∧
    (s.ptpDue x.annAt secUnits = true → s.ptpFrame p.val (pack [(0, 4), (8, x.annSeq)] + s.announced) = some s1 →
      exec (.ptpAnnounceSend p) s = .next
        (s1.modPtp p.val fun y => { y with annSeq := (y.annSeq + 1) % 65536, annAt := some s.time }))) ∧
  (∀ (p : PortNo) (s : State), s.isMaster p.val = false →
    exec (.ptpSyncSend p) s = .next s ∧ exec (.ptpAnnounceSend p) s = .next s) ∧
  (∀ (p : Fin 33) (s : State), s.mode ≠ .off → let x := s.ptpPort p.val
    let sent (t : State) : State := t.modPtp p.val fun y =>
      { y with req := some (y.reqSeq, s.timestamp p.val), reqSeq := (y.reqSeq + 1) % 65536, reqAt := some s.time }
    (p.val = mgmtPort → exec (.ptpDelayReqSend p) s = .next
      (if x.heard = none then s else sent (s.emit (.ptp mgmtPort 2 [x.reqSeq])))) ∧
    (∀ s1 : State, p.val ≠ mgmtPort → s.ptpDue x.reqAt (secUnits / 8) = true →
      s.ptpFrame p.val (pack [(0, 2), (8, x.reqSeq)]) = some s1 → exec (.ptpDelayReqSend p) s = .next (sent s1))) ∧
  (∀ (p : Nat) (s : State), s.mode ≠ .off → s.sourcePort = some p →
    exec .timeSourceLost s = .next (if s.qualifies p = true then s else s.selectSource)) ∧
  (∀ s : State, s.mode ≠ .off → exec .timeHoldoverLimit s = .next
    (if s.obj Obj.timeState = 3 ∧ s.obj Obj.timeHoldoverLimitS ≤ s.holdoverSeconds then (s.setObj Obj.timeState 4).fault 0x0F03 else s))

/-- The commands in the order they arrive; with none, R469 and R471. The queue and the tick of an empty queue are the model's choice. -/
def Obligations.StepRunsTheFrontCommandOrATick : Prop :=
  ((∀ (c : Instr) (rest : List Instr) (s : State),
    step { s with pending := c :: rest } = exec c { s with pending := rest }) ∧
  (∀ (s : State) (nbits w : Nat), decodeTableWord nbits w = none → s.withFetchWord nbits w = s)) ∧
  (∀ s : State, s.pending = [] →
    (s.mode = .off → step s = .next s) ∧ (s.mode ≠ .off → step s = .next { s with time := s.time + s.clock.incr }))

/-- R8, R9, R543, R553: the state after reset. -/
def Obligations.ResetHoldsWhatTheSpecGives : Prop :=
  State.reset.mode = .off ∧ State.reset.pending = [] ∧ State.reset.out = [] ∧ State.reset.hostLink = false ∧
  (∀ n, (State.reset.comp n).st = .free ∧ (State.reset.comp n).mem = [] ∧ (State.reset.comp n).segs = []) ∧
  (∀ t, (State.reset.tile t).dom = .off ∧ (State.reset.tile t).store = [] ∧ (State.reset.tile t).mxQueue = [] ∧
    (State.reset.tile t).vxQueue = []) ∧
  (∀ k, (State.reset.peg k).value = 0 ∧ (State.reset.peg k).waiters = []) ∧
  (∀ p, (State.reset.port p).st = .off) ∧
  State.reset.log.entries = [] ∧ State.reset.log.mirror = [] ∧
  (∀ key, State.reset.obj key = objDefault key)

/-- R25: tile blocks and dies. -/
def Obligations.TileBlocksLieOnTheirDies : Prop :=
  (∀ x y : Fin 32, let t := 32 * y.val + x.val
    blockOf t = 4 * (y.val / 8) + x.val / 8 ∧ blockOf t < 16 ∧ dieOf t = dieOfBlock (blockOf t)) ∧
  (∀ b : Fin 16, (dieOfBlock b.val = 0 ↔ b.val ∈ [0, 1, 4, 5]) ∧ (dieOfBlock b.val = 1 ↔ b.val ∈ [2, 3, 6, 7]) ∧
    (dieOfBlock b.val = 2 ↔ b.val ∈ [8, 9, 12, 13]) ∧ (dieOfBlock b.val = 3 ↔ b.val ∈ [10, 11, 14, 15]))

/-- R12: an object that is not defined. -/
def Obligations.UndefinedObjectsAreOutOfRange : Prop :=
  ∀ (r : Role) (index : BitVec 16) (sub type : Byte) (off len : W32) (v : List Byte) (x : DictExt) (s : State),
    objRow (index.toNat * 256 + sub.toNat) = none → s.mode ≠ .off →
    ∀ i ∈ [Instr.dictRead r index sub off len, .dictWrite r index sub type v x, .dictDescribe r index sub],
      exec i s = .next (s.emit (.dictReply Status.outOfRange.code 0 s.mode.code
        (s.stateFor (index.toNat * 256 + sub.toNat)) 0 0 []))

/-- R506: the acknowledge. -/
def Obligations.AcknowledgeRetiresOnlyItsGeneration : Prop :=
  ∀ (f : FuncNo) (q : PairNo) (s : State) (t : Taken), s.headOf f.val q.val = some t → Sq.opcode t.raw = 0x11 →
    s.hostRefusal f.val t.raw true mboxAckShape attestedToHeld = none →
    let n := f.val - 1
    let k := Sq.kind t.raw
    let m := s.mbox n k
    (m.ready = true → Sq.arg t.raw % 2 ^ 32 = m.gen → ∃ s1 : State,
      exec (.mboxAck f q) s = .next (s1.finish f.val q.val .ok 0 m.gen) ∧
      (s1.mbox n k).ready = false ∧ (s1.mbox n k).payload = [] ∧ (s1.mbox n k).len = 0 ∧ (s1.mbox n k).readCount = 0 ∧
      (s1.mbox n k).rtag = 0 ∧ (s1.mbox n k).gen = m.gen) ∧
    (m.ready = false ∨ Sq.arg t.raw % 2 ^ 32 ≠ m.gen → ∃ s1 : State,
      exec (.mboxAck f q) s = .next (s1.finish f.val q.val .stateConflict 0x100B m.gen) ∧ s1.mboxes = s.mboxes ∧
      s1 = (s.incC Obj.hostCompStaleAcks n).hostViolation f.val (some q.val) 0x100B)

/-- R90, R124, R172, R194, R217, R222, R249, R281, R289, R316, R373, R484: the frame of a compartment's own writes. -/
def Obligations.CompartmentWritesTouchNoOther : Prop :=
  ∀ (r : Role) (c : CompNo) (v : BitVec 256) (w : BitVec 512) (b : Bool) (s t : State),
    ∀ i ∈ [Instr.segWrite r c v, .segClear r c b, .nodeMapWrite r c w, .nodeMapClear r c b, .mxTrapClear r c b, .vxTrapClear r c b,
      .prepFaultClear r c b, .numEventClear r c b, .updEventClear r c b, .tierEventClear r c b, .integEventClear r c b,
      .phaseClear r c b], exec i s = .next t →
    (∀ n, n ≠ c.val → t.comp n = s.comp n) ∧ (t.comp c.val).mem = (s.comp c.val).mem ∧ (t.comp c.val).st = (s.comp c.val).st ∧
    t.tiles = s.tiles ∧ t.threads = s.threads ∧ t.cores = s.cores ∧ t.pegs = s.pegs ∧ t.ports = s.ports ∧ t.funcs = s.funcs ∧
    t.mboxes = s.mboxes ∧ t.xiesk = s.xiesk ∧ t.mode = s.mode ∧ t.time = s.time ∧ t.pending = s.pending

/-- R563: the attention line. -/
def Obligations.AttentionFollowsTheState : Prop :=
  (∀ s : State, s.attention = true ↔ s.mode = .fault ∨ s.mode = .service) ∧
  (∀ s : State, s.mode = .off → s.attention = false) ∧
  (∀ (s : State) (code : Nat), s.mode ≠ .off → (s.failModule code).attention = true) ∧
  (∀ (s : State) (mv : Nat), (s.powerLoss mv).attention = false)

/-- R552, R553: the invariant of the fault log holds at reset. -/
def Obligations.ResetFaultLogIsInOrder : Prop := State.reset.log.Sound

/-- R552: the invariant of the fault log, kept by all 284 commands and by the tick. -/
def Obligations.EveryStepKeepsTheFaultLogInOrder : Prop :=
  ∀ s t : State, s.log.Sound → step s = .next t → t.log.Sound

/-- Every command completes, with any operands, in any state whose fault log is in order. -/
def Obligations.EveryStepGoesOnAndTakesOneCommand : Prop :=
  ∀ s : State, s.log.Sound → ∃ t : State, step s = .next t ∧ t.pending = s.pending.tail

/-- A run over any queue of commands: it never stops and works the queue off in order. -/
def Obligations.AWaitingQueueIsWorkedOff : Prop :=
  ∀ (s : State) (k : Nat), s.log.Sound → k ≤ s.pending.length →
    ∃ t : State, Reaches s k t ∧ t.pending = s.pending.drop k ∧ t.log.Sound
end

