-- ==== Sys2Proof/Laws/KMap.lean ====
section
/-! SUPPORT. Laws of the sparse maps and of byte memory: what a read finds after a write, and that every operation keeps
the canonical form. -/

namespace Sys2Proof.Machine
open Sys2Proof

variable {α : Type}

/-! Reads. -/

@[simp] theorem kget_nil (d : α) (k : Nat) : kget d [] k = d := rfl

theorem kget_cons (d : α) (a : Nat) (v : α) (r : List (Nat × α)) (k : Nat) :
    kget d ((a, v) :: r) k = if a = k then v else kget d r k := rfl

theorem kget_kerase_self (d : α) (m : List (Nat × α)) (k : Nat) : kget d (kerase m k) k = d := by
  induction m with
  | nil => rfl
  | cons p r ih => obtain ⟨a, v⟩ := p; by_cases h : a = k <;> simp [kerase, kget_cons, h, ih]

theorem kget_kerase_other (d : α) (m : List (Nat × α)) (k j : Nat) (h : j ≠ k) : kget d (kerase m k) j = kget d m j := by
  induction m with
  | nil => rfl
  | cons p r ih =>
    obtain ⟨a, v⟩ := p
    by_cases ha : a = k
    · subst ha; simp [kerase, kget_cons, ih, Ne.symm h]
    · simp [kerase, kget_cons, ha, ih]

theorem kget_kins_self (d : α) (m : List (Nat × α)) (k : Nat) (x : α) (h : kget d m k = d ∨ True)
    (hk : ∀ p ∈ m, p.1 ≠ k) : kget d (kins m k x) k = x := by
  induction m with
  | nil => simp [kins, kget_cons]
  | cons p r ih =>
    obtain ⟨a, v⟩ := p
    have ha : a ≠ k := hk (a, v) (by simp)
    simp only [kins]
    split
    · simp [kget_cons]
    · simp [kget_cons, ha, ih (Or.inr trivial) (fun q hq => hk q (List.mem_cons_of_mem _ hq))]

theorem kget_kins_other (d : α) (m : List (Nat × α)) (k j : Nat) (x : α) (h : j ≠ k) :
    kget d (kins m k x) j = kget d m j := by
  induction m with
  | nil => simp [kins, kget_cons, Ne.symm h]
  | cons p r ih =>
    obtain ⟨a, v⟩ := p
    simp only [kins]
    split
    · simp [kget_cons, Ne.symm h]
    · simp [kget_cons, ih]

theorem kerase_keys (m : List (Nat × α)) (k : Nat) : ∀ p ∈ kerase m k, p.1 ≠ k := by
  induction m with
  | nil => simp [kerase]
  | cons p r ih =>
    obtain ⟨a, v⟩ := p
    intro q hq
    simp only [kerase] at hq
    split at hq
    · exact ih q hq
    · rcases List.mem_cons.1 hq with h | h
      · subst h; assumption
      · exact ih q h

variable [DecidableEq α]

/-- A read of the key just put finds what was put. -/
@[simp] theorem kget_kput_self (d : α) (m : List (Nat × α)) (k : Nat) (x : α) : kget d (kput d m k x) k = x := by
  unfold kput
  split
  · simp [kget_kerase_self, *]
  · exact kget_kins_self d _ k x (Or.inr trivial) (kerase_keys m k)

/-- A read of any other key finds what was there. -/
theorem kget_kput_other (d : α) (m : List (Nat × α)) (k j : Nat) (x : α) (h : j ≠ k) :
    kget d (kput d m k x) j = kget d m j := by
  unfold kput
  split
  · exact kget_kerase_other d m k j h
  · rw [kget_kins_other d _ k j x h, kget_kerase_other d m k j h]

/-- The same where the two keys have defaults of their own. -/
theorem kget_kput_ne (d e : α) (m : List (Nat × α)) (k j : Nat) (x : α) (h : j ≠ k) :
    kget d (kput e m k x) j = kget d m j := by
  unfold kput
  split
  · exact kget_kerase_other d m k j h
  · rw [kget_kins_other d _ k j x h, kget_kerase_other d m k j h]

theorem kget_kput (d : α) (m : List (Nat × α)) (k j : Nat) (x : α) :
    kget d (kput d m k x) j = if j = k then x else kget d m j := by
  by_cases h : j = k
  · subst h; simp
  · simp [h, kget_kput_other]

/-! Canonical form. -/

/-- Every key of a map is above a bound, keys rise, and no default is listed. -/
def kwfAbove (d : α) (b : Nat) : List (Nat × α) → Prop
  | [] => True
  | (a, v) :: r => b ≤ a ∧ v ≠ d ∧ kwfAbove d (a + 1) r

omit [DecidableEq α] in
theorem kwfAbove_mono (d : α) (m : List (Nat × α)) (b c : Nat) (h : c ≤ b) (hm : kwfAbove d b m) : kwfAbove d c m := by
  cases m with
  | nil => trivial
  | cons p r => obtain ⟨a, v⟩ := p; exact ⟨Nat.le_trans h hm.1, hm.2⟩

theorem kwf_cons_iff (d : α) (r : List (Nat × α)) : ∀ (a : Nat) (v : α),
    kwf d ((a, v) :: r) = true ↔ v ≠ d ∧ kwfAbove d (a + 1) r := by
  induction r with
  | nil => intro a v; simp [kwf, kwfAbove]
  | cons p r ih =>
    intro a v
    obtain ⟨b, w⟩ := p
    simp only [kwf, Bool.and_eq_true, decide_eq_true_eq, ih b w, kwfAbove]
    constructor
    · rintro ⟨⟨h1, h2⟩, h3, h4⟩; exact ⟨h1, h2, h3, h4⟩
    · rintro ⟨h1, h2, h3, h4⟩; exact ⟨⟨h1, h2⟩, h3, h4⟩

theorem kwf_iff (d : α) (m : List (Nat × α)) : kwf d m = true ↔ kwfAbove d 0 m := by
  cases m with
  | nil => simp [kwf, kwfAbove]
  | cons p r => obtain ⟨a, v⟩ := p; rw [kwf_cons_iff]; simp [kwfAbove]

omit [DecidableEq α] in
theorem kerase_above (d : α) (m : List (Nat × α)) (k : Nat) : ∀ b, kwfAbove d b m → kwfAbove d b (kerase m k) := by
  induction m with
  | nil => intro b _; trivial
  | cons p r ih =>
    obtain ⟨a, v⟩ := p
    intro b ⟨h1, h2, h3⟩
    by_cases ha : a = k
    · simp only [kerase, ha, if_true]
      exact kwfAbove_mono d _ _ _ (by omega) (ih _ h3)
    · simp only [kerase, ha, if_false]
      exact ⟨h1, h2, ih _ h3⟩

omit [DecidableEq α] in
theorem kins_above (d : α) (m : List (Nat × α)) (k : Nat) (x : α) (hx : x ≠ d) (hk : ∀ p ∈ m, p.1 ≠ k) :
    ∀ b, b ≤ k → kwfAbove d b m → kwfAbove d b (kins m k x) := by
  induction m with
  | nil => intro b hb _; exact ⟨hb, hx, trivial⟩
  | cons p r ih =>
    obtain ⟨a, v⟩ := p
    intro b hb ⟨h1, h2, h3⟩
    have ha : a ≠ k := hk (a, v) (by simp)
    simp only [kins]
    split
    · rename_i hlt
      exact ⟨hb, hx, by omega, h2, h3⟩
    · rename_i hge
      exact ⟨h1, h2, ih (fun q hq => hk q (List.mem_cons_of_mem _ hq)) (a + 1) (by omega) h3⟩

/-- A put keeps the canonical form. -/
theorem kput_kwf (d : α) (m : List (Nat × α)) (k : Nat) (x : α) (h : kwf d m = true) : kwf d (kput d m k x) = true := by
  rw [kwf_iff] at *
  have he := kerase_above d m k 0 h
  unfold kput
  split
  · exact he
  · rename_i hx
    exact kins_above d _ k x hx (kerase_keys m k) 0 (Nat.zero_le _) he

theorem kmod_kwf (d : α) (m : List (Nat × α)) (k : Nat) (f : α → α) (h : kwf d m = true) : kwf d (kmod d m k f) = true :=
  kput_kwf d m k _ h

theorem kwf_filter (d : α) (m : List (Nat × α)) (p : Nat × α → Bool) : kwf d m = true → kwf d (m.filter p) = true := by
  rw [kwf_iff, kwf_iff]
  suffices ∀ b, kwfAbove d b m → kwfAbove d b (m.filter p) from this 0
  induction m with
  | nil => intro b _; trivial
  | cons q r ih =>
    obtain ⟨a, v⟩ := q
    intro b ⟨h1, h2, h3⟩
    rw [List.filter_cons]
    split
    · exact ⟨h1, h2, ih _ h3⟩
    · exact kwfAbove_mono d _ _ _ (by omega) (ih _ h3)

omit [DecidableEq α] in
theorem kget_of_above (d : α) (m : List (Nat × α)) : ∀ b, kwfAbove d b m → ∀ k, k < b → kget d m k = d := by
  induction m with
  | nil => intros; rfl
  | cons p r ih =>
    obtain ⟨a, v⟩ := p
    intro b ⟨h1, _, h3⟩ k hk
    rw [kget_cons, if_neg (by omega)]
    exact ih _ h3 k (by omega)

omit [DecidableEq α] in
theorem kwf_ext_above (d : α) : ∀ (m n : List (Nat × α)) (b : Nat), kwfAbove d b m → kwfAbove d b n →
    (∀ k, kget d m k = kget d n k) → m = n := by
  intro m
  induction m with
  | nil =>
    intro n b _ hn h
    cases n with
    | nil => rfl
    | cons q r =>
      obtain ⟨a, v⟩ := q
      have := h a
      simp [kget_cons] at this
      exact absurd this.symm hn.2.1
  | cons p r ih =>
    obtain ⟨a, v⟩ := p
    intro n b hm hn h
    cases n with
    | nil =>
      have := h a
      simp [kget_cons] at this
      exact absurd this hm.2.1
    | cons q r' =>
      obtain ⟨c, w⟩ := q
      have hac : a = c := by
        rcases Nat.lt_trichotomy a c with hlt | heq | hgt
        · have := h a
          rw [kget_cons, if_pos rfl, kget_cons, if_neg (by omega), kget_of_above d r' _ hn.2.2 a (by omega)] at this
          exact absurd this hm.2.1
        · exact heq
        · have := h c
          rw [kget_cons, if_neg (by omega), kget_cons, if_pos rfl, kget_of_above d r _ hm.2.2 c (by omega)] at this
          exact absurd this.symm hn.2.1
      subst hac
      have hv := h a
      simp [kget_cons] at hv
      subst hv
      refine congrArg _ (ih r' (a + 1) hm.2.2 hn.2.2 fun k => ?_)
      by_cases hk : a = k
      · subst hk
        rw [kget_of_above d r _ hm.2.2 a (by omega), kget_of_above d r' _ hn.2.2 a (by omega)]
      · have := h k
        simpa [kget_cons, hk] using this

/-- Maps in canonical form that read alike are one list. -/
theorem kwf_ext (d : α) (m n : List (Nat × α)) (hm : kwf d m = true) (hn : kwf d n = true)
    (h : ∀ k, kget d m k = kget d n k) : m = n :=
  kwf_ext_above d m n 0 ((kwf_iff d m).1 hm) ((kwf_iff d n).1 hn) h

/-! Byte memory. -/

@[simp] theorem readBytes_length (m : List (Nat × Byte)) (n : Nat) : ∀ a, (readBytes m a n).length = n := by
  induction n with
  | zero => intro a; rfl
  | succ n ih => intro a; simp [readBytes, ih]

/-- A byte outside the written range reads as before. -/
theorem kget_writeBytes_other (bs : List Byte) : ∀ (m : List (Nat × Byte)) (a k : Nat), (k < a ∨ a + bs.length ≤ k) →
    kget 0 (writeBytes m a bs) k = kget 0 m k := by
  induction bs with
  | nil => intros; rfl
  | cons b bs ih =>
    intro m a k h
    simp only [List.length_cons] at h
    rw [writeBytes, ih _ _ _ (by omega), kget_kput_other _ _ _ _ _ (by omega)]

/-- A byte of the written range reads as written. -/
theorem kget_writeBytes_in (bs : List Byte) : ∀ (m : List (Nat × Byte)) (a i : Nat) (h : i < bs.length),
    kget 0 (writeBytes m a bs) (a + i) = bs[i] := by
  induction bs with
  | nil => intro m a i h; simp at h
  | cons b bs ih =>
    intro m a i h
    cases i with
    | zero =>
      rw [writeBytes, kget_writeBytes_other _ _ _ _ (by omega)]
      simp
    | succ i =>
      have := ih (kput 0 m a b) (a + 1) i (by simpa using h)
      rw [writeBytes, show a + (i + 1) = a + 1 + i by omega, this]
      simp

/-- What was written is read back. -/
theorem readBytes_writeBytes (bs : List Byte) (m : List (Nat × Byte)) (a : Nat) :
    readBytes (writeBytes m a bs) a bs.length = bs := by
  suffices ∀ (n : Nat) (m : List (Nat × Byte)) (a : Nat), readBytes m a n = (List.range n).map fun i => kget 0 m (a + i) by
    rw [this]
    apply List.ext_getElem
    · simp
    · intro i h1 h2
      simp only [List.getElem_map, List.getElem_range]
      exact kget_writeBytes_in bs m a i h2
  intro n
  induction n with
  | zero => intros; rfl
  | succ n ih =>
    intro m a
    rw [readBytes, ih, List.range_succ_eq_map, List.map_cons, List.map_map]
    simp [Function.comp_def, Nat.add_assoc, Nat.add_comm 1]

/-- A write keeps the canonical form of memory. -/
theorem writeBytes_wf (bs : List Byte) : ∀ (m : List (Nat × Byte)) (a : Nat), Memory.wf m = true →
    Memory.wf (writeBytes m a bs) = true := by
  induction bs with
  | nil => intro m a h; exact h
  | cons b bs ih => intro m a h; exact ih _ _ (kput_kwf 0 m a b h)

/-- Dropping bytes keeps the canonical form. -/
theorem filter_wf (m : List (Nat × Byte)) (p : Nat × Byte → Bool) (h : Memory.wf m = true) : Memory.wf (m.filter p) = true :=
  kwf_filter 0 m p h

end Sys2Proof.Machine
end

