-- ==== Sys2Proof/Laws/Fields.lean ====
section
/-! SUPPORT. Bit fields of a record: what a field reads after one field has been replaced. -/

namespace Sys2Proof.Machine

theorem fld_eq (w hi lo : Nat) : fld w hi lo = w / 2 ^ lo % 2 ^ (hi + 1 - lo) := by
  simp [fld, Nat.shiftRight_eq_div_pow]

theorem fld_lt (w hi lo : Nat) : fld w hi lo < 2 ^ (hi + 1 - lo) := by
  rw [fld_eq]; exact Nat.mod_lt _ (Nat.two_pow_pos _)

/-- A replaced field: what lies above, the new value, what lies below. -/
theorem putFld_eq (w hi lo v : Nat) (h : lo ≤ hi) :
    putFld w hi lo v = 2 ^ (hi + 1) * (w / 2 ^ (hi + 1)) + 2 ^ lo * (v % 2 ^ (hi + 1 - lo)) + w % 2 ^ lo := by
  have hp : 2 ^ (hi + 1) = 2 ^ lo * 2 ^ (hi + 1 - lo) := by rw [← Nat.pow_add]; congr 1; omega
  have h1 := Nat.div_add_mod w (2 ^ lo)
  have h2 := Nat.div_add_mod (w / 2 ^ lo) (2 ^ (hi + 1 - lo))
  rw [Nat.div_div_eq_div_mul, ← hp] at h2
  simp only [putFld, fld_eq, Nat.shiftLeft_eq]
  generalize w / 2 ^ (hi + 1) = a at *
  generalize hb : w / 2 ^ lo % 2 ^ (hi + 1 - lo) = b at *
  have h3 : w = 2 ^ (hi + 1) * a + 2 ^ lo * b + w % 2 ^ lo := by
    rw [hp, Nat.mul_assoc, ← Nat.mul_add, h2, h1]
  rw [Nat.mul_comm b, Nat.mul_comm (v % _)]
  omega

/-- The field replaced reads as written. -/
theorem fld_putFld_self (w hi lo v : Nat) (h : lo ≤ hi) : fld (putFld w hi lo v) hi lo = v % 2 ^ (hi + 1 - lo) := by
  have hp : 2 ^ (hi + 1) = 2 ^ lo * 2 ^ (hi + 1 - lo) := by rw [← Nat.pow_add]; congr 1; omega
  rw [putFld_eq w hi lo v h, fld_eq, hp, Nat.mul_assoc, ← Nat.mul_add, Nat.mul_add_div (Nat.two_pow_pos lo),
    Nat.div_eq_of_lt (Nat.mod_lt _ (Nat.two_pow_pos lo)), Nat.add_zero, Nat.mul_add_mod, Nat.mod_mod]

/-- A field below the one replaced reads as before. -/
theorem fld_putFld_below (w hi lo v hi' lo' : Nat) (h : lo ≤ hi) (h1 : hi' < lo) (h2 : lo' ≤ hi') :
    fld (putFld w hi lo v) hi' lo' = fld w hi' lo' := by
  have key : ∀ x : Nat, x / 2 ^ lo' % 2 ^ (hi' + 1 - lo') = x % 2 ^ lo % 2 ^ (hi' + 1) / 2 ^ lo' := by
    intro x
    rw [Nat.mod_mod_of_dvd _ (Nat.pow_dvd_pow 2 (by omega)),
      show 2 ^ (hi' + 1) = 2 ^ lo' * 2 ^ (hi' + 1 - lo') by rw [← Nat.pow_add]; congr 1; omega, Nat.mod_mul_right_div_self]
  rw [fld_eq, fld_eq, key, key]
  congr 2
  have hp : 2 ^ (hi + 1) = 2 ^ lo * 2 ^ (hi + 1 - lo) := by rw [← Nat.pow_add]; congr 1; omega
  rw [putFld_eq w hi lo v h, hp, Nat.mul_assoc, ← Nat.mul_add, Nat.mul_add_mod, Nat.mod_mod]

/-- A field above the one replaced reads as before. -/
theorem fld_putFld_above (w hi lo v hi' lo' : Nat) (h : lo ≤ hi) (h1 : hi < lo') :
    fld (putFld w hi lo v) hi' lo' = fld w hi' lo' := by
  rw [fld_eq, fld_eq]
  congr 1
  have hd : 2 ^ lo' = 2 ^ (hi + 1) * 2 ^ (lo' - (hi + 1)) := by rw [← Nat.pow_add]; congr 1; omega
  rw [hd, ← Nat.div_div_eq_div_mul, ← Nat.div_div_eq_div_mul]
  congr 1
  have hp : 2 ^ (hi + 1) = 2 ^ lo * 2 ^ (hi + 1 - lo) := by rw [← Nat.pow_add]; congr 1; omega
  have hlt : 2 ^ lo * (v % 2 ^ (hi + 1 - lo)) + w % 2 ^ lo < 2 ^ (hi + 1) := by
    have h3 := Nat.mod_lt v (Nat.two_pow_pos (hi + 1 - lo))
    have h4 := Nat.mod_lt w (Nat.two_pow_pos lo)
    calc 2 ^ lo * (v % 2 ^ (hi + 1 - lo)) + w % 2 ^ lo < 2 ^ lo * (v % 2 ^ (hi + 1 - lo)) + 2 ^ lo := by omega
      _ = 2 ^ lo * (v % 2 ^ (hi + 1 - lo) + 1) := by rw [Nat.mul_add, Nat.mul_one]
      _ ≤ 2 ^ lo * 2 ^ (hi + 1 - lo) := Nat.mul_le_mul_left _ h3
      _ = 2 ^ (hi + 1) := hp.symm
  rw [putFld_eq w hi lo v h, Nat.add_assoc, Nat.mul_add_div (Nat.two_pow_pos _), Nat.div_eq_of_lt hlt, Nat.add_zero]

end Sys2Proof.Machine
end

