-- ==== Sys2Proof/Laws/State.lean ====
section
/-! SUPPORT. One lemma per field per update of the state: what an update leaves alone, and what it writes. The updates put one
part of the state in its place; every operation is made of them. -/

namespace Sys2Proof.Machine
open Sys2Proof

/-! setTile. -/

@[simp] theorem State.setTile_pending (s : State) (t : Nat) (x : Tile) : (s.setTile t x).pending = s.pending := rfl
@[simp] theorem State.setTile_out (s : State) (t : Nat) (x : Tile) : (s.setTile t x).out = s.out := rfl
@[simp] theorem State.setTile_fresh (s : State) (t : Nat) (x : Tile) : (s.setTile t x).fresh = s.fresh := rfl
@[simp] theorem State.setTile_time (s : State) (t : Nat) (x : Tile) : (s.setTile t x).time = s.time := rfl
@[simp] theorem State.setTile_mode (s : State) (t : Nat) (x : Tile) : (s.setTile t x).mode = s.mode := rfl
@[simp] theorem State.setTile_modeAt (s : State) (t : Nat) (x : Tile) : (s.setTile t x).modeAt = s.modeAt := rfl
@[simp] theorem State.setTile_startPending (s : State) (t : Nat) (x : Tile) : (s.setTile t x).startPending = s.startPending := rfl
@[simp] theorem State.setTile_going (s : State) (t : Nat) (x : Tile) : (s.setTile t x).going = s.going := rfl
@[simp] theorem State.setTile_goingAt (s : State) (t : Nat) (x : Tile) : (s.setTile t x).goingAt = s.goingAt := rfl
@[simp] theorem State.setTile_cleanEnd (s : State) (t : Nat) (x : Tile) : (s.setTile t x).cleanEnd = s.cleanEnd := rfl
@[simp] theorem State.setTile_windowAt (s : State) (t : Nat) (x : Tile) : (s.setTile t x).windowAt = s.windowAt := rfl
@[simp] theorem State.setTile_pins (s : State) (t : Nat) (x : Tile) : (s.setTile t x).pins = s.pins := rfl
@[simp] theorem State.setTile_objs (s : State) (t : Nat) (x : Tile) : (s.setTile t x).objs = s.objs := rfl
@[simp] theorem State.setTile_stored (s : State) (t : Nat) (x : Tile) : (s.setTile t x).stored = s.stored := rfl
@[simp] theorem State.setTile_log (s : State) (t : Nat) (x : Tile) : (s.setTile t x).log = s.log := rfl
@[simp] theorem State.setTile_fwStage (s : State) (t : Nat) (x : Tile) : (s.setTile t x).fwStage = s.fwStage := rfl
@[simp] theorem State.setTile_dies (s : State) (t : Nat) (x : Tile) : (s.setTile t x).dies = s.dies := rfl
@[simp] theorem State.setTile_cores (s : State) (t : Nat) (x : Tile) : (s.setTile t x).cores = s.cores := rfl
@[simp] theorem State.setTile_threads (s : State) (t : Nat) (x : Tile) : (s.setTile t x).threads = s.threads := rfl
@[simp] theorem State.setTile_seams (s : State) (t : Nat) (x : Tile) : (s.setTile t x).seams = s.seams := rfl
@[simp] theorem State.setTile_pegs (s : State) (t : Nat) (x : Tile) : (s.setTile t x).pegs = s.pegs := rfl
@[simp] theorem State.setTile_comps (s : State) (t : Nat) (x : Tile) : (s.setTile t x).comps = s.comps := rfl
@[simp] theorem State.setTile_ports (s : State) (t : Nat) (x : Tile) : (s.setTile t x).ports = s.ports := rfl
@[simp] theorem State.setTile_egress (s : State) (t : Nat) (x : Tile) : (s.setTile t x).egress = s.egress := rfl
@[simp] theorem State.setTile_leasesOut (s : State) (t : Nat) (x : Tile) : (s.setTile t x).leasesOut = s.leasesOut := rfl
@[simp] theorem State.setTile_funcs (s : State) (t : Nat) (x : Tile) : (s.setTile t x).funcs = s.funcs := rfl
@[simp] theorem State.setTile_mboxes (s : State) (t : Nat) (x : Tile) : (s.setTile t x).mboxes = s.mboxes := rfl
@[simp] theorem State.setTile_hostLink (s : State) (t : Nat) (x : Tile) : (s.setTile t x).hostLink = s.hostLink := rfl
@[simp] theorem State.setTile_rot (s : State) (t : Nat) (x : Tile) : (s.setTile t x).rot = s.rot := rfl
@[simp] theorem State.setTile_xiesk (s : State) (t : Nat) (x : Tile) : (s.setTile t x).xiesk = s.xiesk := rfl
@[simp] theorem State.setTile_power (s : State) (t : Nat) (x : Tile) : (s.setTile t x).power = s.power := rfl
@[simp] theorem State.setTile_clock (s : State) (t : Nat) (x : Tile) : (s.setTile t x).clock = s.clock := rfl
@[simp] theorem State.setTile_flashOld (s : State) (t : Nat) (x : Tile) : (s.setTile t x).flashOld = s.flashOld := rfl
@[simp] theorem State.setTile_boot (s : State) (t : Nat) (x : Tile) : (s.setTile t x).boot = s.boot := rfl
@[simp] theorem State.setTile_get_die (s : State) (t : Nat) (x : Tile) (i : Nat) : (s.setTile t x).die i = s.die i := rfl
@[simp] theorem State.setTile_get_core (s : State) (t : Nat) (x : Tile) (i : Nat) : (s.setTile t x).core i = s.core i := rfl
@[simp] theorem State.setTile_get_thread (s : State) (t : Nat) (x : Tile) (i : Nat) : (s.setTile t x).thread i = s.thread i := rfl
@[simp] theorem State.setTile_get_seam (s : State) (t : Nat) (x : Tile) (i : Nat) : (s.setTile t x).seam i = s.seam i := rfl
@[simp] theorem State.setTile_get_peg (s : State) (t : Nat) (x : Tile) (i : Nat) : (s.setTile t x).peg i = s.peg i := rfl
@[simp] theorem State.setTile_get_comp (s : State) (t : Nat) (x : Tile) (i : Nat) : (s.setTile t x).comp i = s.comp i := rfl
@[simp] theorem State.setTile_get_func (s : State) (t : Nat) (x : Tile) (i : Nat) : (s.setTile t x).func i = s.func i := rfl
@[simp] theorem State.setTile_get_mbox (s : State) (t : Nat) (x : Tile) (i j : Nat) : (s.setTile t x).mbox i j = s.mbox i j := rfl
@[simp] theorem State.setTile_get_port (s : State) (t : Nat) (x : Tile) (i : Nat) : (s.setTile t x).port i = s.port i := rfl
@[simp] theorem State.setTile_get_obj (s : State) (t : Nat) (x : Tile) (i : Nat) : (s.setTile t x).obj i = s.obj i := rfl
@[simp] theorem State.setTile_get_objC (s : State) (t : Nat) (x : Tile) (i j : Nat) : (s.setTile t x).objC i j = s.objC i j := rfl
@[simp] theorem State.setTile_get_now (s : State) (t : Nat) (x : Tile) : (s.setTile t x).now = s.now := rfl
@[simp] theorem State.setTile_get_stamp (s : State) (t : Nat) (x : Tile) : (s.setTile t x).stamp = s.stamp := rfl

/-! setDie. -/

@[simp] theorem State.setDie_pending (s : State) (d : Nat) (x : Die) : (s.setDie d x).pending = s.pending := rfl
@[simp] theorem State.setDie_out (s : State) (d : Nat) (x : Die) : (s.setDie d x).out = s.out := rfl
@[simp] theorem State.setDie_fresh (s : State) (d : Nat) (x : Die) : (s.setDie d x).fresh = s.fresh := rfl
@[simp] theorem State.setDie_time (s : State) (d : Nat) (x : Die) : (s.setDie d x).time = s.time := rfl
@[simp] theorem State.setDie_mode (s : State) (d : Nat) (x : Die) : (s.setDie d x).mode = s.mode := rfl
@[simp] theorem State.setDie_modeAt (s : State) (d : Nat) (x : Die) : (s.setDie d x).modeAt = s.modeAt := rfl
@[simp] theorem State.setDie_startPending (s : State) (d : Nat) (x : Die) : (s.setDie d x).startPending = s.startPending := rfl
@[simp] theorem State.setDie_going (s : State) (d : Nat) (x : Die) : (s.setDie d x).going = s.going := rfl
@[simp] theorem State.setDie_goingAt (s : State) (d : Nat) (x : Die) : (s.setDie d x).goingAt = s.goingAt := rfl
@[simp] theorem State.setDie_cleanEnd (s : State) (d : Nat) (x : Die) : (s.setDie d x).cleanEnd = s.cleanEnd := rfl
@[simp] theorem State.setDie_windowAt (s : State) (d : Nat) (x : Die) : (s.setDie d x).windowAt = s.windowAt := rfl
@[simp] theorem State.setDie_pins (s : State) (d : Nat) (x : Die) : (s.setDie d x).pins = s.pins := rfl
@[simp] theorem State.setDie_objs (s : State) (d : Nat) (x : Die) : (s.setDie d x).objs = s.objs := rfl
@[simp] theorem State.setDie_stored (s : State) (d : Nat) (x : Die) : (s.setDie d x).stored = s.stored := rfl
@[simp] theorem State.setDie_log (s : State) (d : Nat) (x : Die) : (s.setDie d x).log = s.log := rfl
@[simp] theorem State.setDie_fwStage (s : State) (d : Nat) (x : Die) : (s.setDie d x).fwStage = s.fwStage := rfl
@[simp] theorem State.setDie_tiles (s : State) (d : Nat) (x : Die) : (s.setDie d x).tiles = s.tiles := rfl
@[simp] theorem State.setDie_cores (s : State) (d : Nat) (x : Die) : (s.setDie d x).cores = s.cores := rfl
@[simp] theorem State.setDie_threads (s : State) (d : Nat) (x : Die) : (s.setDie d x).threads = s.threads := rfl
@[simp] theorem State.setDie_seams (s : State) (d : Nat) (x : Die) : (s.setDie d x).seams = s.seams := rfl
@[simp] theorem State.setDie_pegs (s : State) (d : Nat) (x : Die) : (s.setDie d x).pegs = s.pegs := rfl
@[simp] theorem State.setDie_comps (s : State) (d : Nat) (x : Die) : (s.setDie d x).comps = s.comps := rfl
@[simp] theorem State.setDie_ports (s : State) (d : Nat) (x : Die) : (s.setDie d x).ports = s.ports := rfl
@[simp] theorem State.setDie_egress (s : State) (d : Nat) (x : Die) : (s.setDie d x).egress = s.egress := rfl
@[simp] theorem State.setDie_leasesOut (s : State) (d : Nat) (x : Die) : (s.setDie d x).leasesOut = s.leasesOut := rfl
@[simp] theorem State.setDie_funcs (s : State) (d : Nat) (x : Die) : (s.setDie d x).funcs = s.funcs := rfl
@[simp] theorem State.setDie_mboxes (s : State) (d : Nat) (x : Die) : (s.setDie d x).mboxes = s.mboxes := rfl
@[simp] theorem State.setDie_hostLink (s : State) (d : Nat) (x : Die) : (s.setDie d x).hostLink = s.hostLink := rfl
@[simp] theorem State.setDie_rot (s : State) (d : Nat) (x : Die) : (s.setDie d x).rot = s.rot := rfl
@[simp] theorem State.setDie_xiesk (s : State) (d : Nat) (x : Die) : (s.setDie d x).xiesk = s.xiesk := rfl
@[simp] theorem State.setDie_power (s : State) (d : Nat) (x : Die) : (s.setDie d x).power = s.power := rfl
@[simp] theorem State.setDie_clock (s : State) (d : Nat) (x : Die) : (s.setDie d x).clock = s.clock := rfl
@[simp] theorem State.setDie_flashOld (s : State) (d : Nat) (x : Die) : (s.setDie d x).flashOld = s.flashOld := rfl
@[simp] theorem State.setDie_boot (s : State) (d : Nat) (x : Die) : (s.setDie d x).boot = s.boot := rfl
@[simp] theorem State.setDie_get_tile (s : State) (d : Nat) (x : Die) (i : Nat) : (s.setDie d x).tile i = s.tile i := rfl
@[simp] theorem State.setDie_get_core (s : State) (d : Nat) (x : Die) (i : Nat) : (s.setDie d x).core i = s.core i := rfl
@[simp] theorem State.setDie_get_thread (s : State) (d : Nat) (x : Die) (i : Nat) : (s.setDie d x).thread i = s.thread i := rfl
@[simp] theorem State.setDie_get_seam (s : State) (d : Nat) (x : Die) (i : Nat) : (s.setDie d x).seam i = s.seam i := rfl
@[simp] theorem State.setDie_get_peg (s : State) (d : Nat) (x : Die) (i : Nat) : (s.setDie d x).peg i = s.peg i := rfl
@[simp] theorem State.setDie_get_comp (s : State) (d : Nat) (x : Die) (i : Nat) : (s.setDie d x).comp i = s.comp i := rfl
@[simp] theorem State.setDie_get_func (s : State) (d : Nat) (x : Die) (i : Nat) : (s.setDie d x).func i = s.func i := rfl
@[simp] theorem State.setDie_get_mbox (s : State) (d : Nat) (x : Die) (i j : Nat) : (s.setDie d x).mbox i j = s.mbox i j := rfl
@[simp] theorem State.setDie_get_port (s : State) (d : Nat) (x : Die) (i : Nat) : (s.setDie d x).port i = s.port i := rfl
@[simp] theorem State.setDie_get_obj (s : State) (d : Nat) (x : Die) (i : Nat) : (s.setDie d x).obj i = s.obj i := rfl
@[simp] theorem State.setDie_get_objC (s : State) (d : Nat) (x : Die) (i j : Nat) : (s.setDie d x).objC i j = s.objC i j := rfl
@[simp] theorem State.setDie_get_now (s : State) (d : Nat) (x : Die) : (s.setDie d x).now = s.now := rfl
@[simp] theorem State.setDie_get_stamp (s : State) (d : Nat) (x : Die) : (s.setDie d x).stamp = s.stamp := rfl

/-! setCore. -/

@[simp] theorem State.setCore_pending (s : State) (c : Nat) (x : Core) : (s.setCore c x).pending = s.pending := rfl
@[simp] theorem State.setCore_out (s : State) (c : Nat) (x : Core) : (s.setCore c x).out = s.out := rfl
@[simp] theorem State.setCore_fresh (s : State) (c : Nat) (x : Core) : (s.setCore c x).fresh = s.fresh := rfl
@[simp] theorem State.setCore_time (s : State) (c : Nat) (x : Core) : (s.setCore c x).time = s.time := rfl
@[simp] theorem State.setCore_mode (s : State) (c : Nat) (x : Core) : (s.setCore c x).mode = s.mode := rfl
@[simp] theorem State.setCore_modeAt (s : State) (c : Nat) (x : Core) : (s.setCore c x).modeAt = s.modeAt := rfl
@[simp] theorem State.setCore_startPending (s : State) (c : Nat) (x : Core) : (s.setCore c x).startPending = s.startPending := rfl
@[simp] theorem State.setCore_going (s : State) (c : Nat) (x : Core) : (s.setCore c x).going = s.going := rfl
@[simp] theorem State.setCore_goingAt (s : State) (c : Nat) (x : Core) : (s.setCore c x).goingAt = s.goingAt := rfl
@[simp] theorem State.setCore_cleanEnd (s : State) (c : Nat) (x : Core) : (s.setCore c x).cleanEnd = s.cleanEnd := rfl
@[simp] theorem State.setCore_windowAt (s : State) (c : Nat) (x : Core) : (s.setCore c x).windowAt = s.windowAt := rfl
@[simp] theorem State.setCore_pins (s : State) (c : Nat) (x : Core) : (s.setCore c x).pins = s.pins := rfl
@[simp] theorem State.setCore_objs (s : State) (c : Nat) (x : Core) : (s.setCore c x).objs = s.objs := rfl
@[simp] theorem State.setCore_stored (s : State) (c : Nat) (x : Core) : (s.setCore c x).stored = s.stored := rfl
@[simp] theorem State.setCore_log (s : State) (c : Nat) (x : Core) : (s.setCore c x).log = s.log := rfl
@[simp] theorem State.setCore_fwStage (s : State) (c : Nat) (x : Core) : (s.setCore c x).fwStage = s.fwStage := rfl
@[simp] theorem State.setCore_dies (s : State) (c : Nat) (x : Core) : (s.setCore c x).dies = s.dies := rfl
@[simp] theorem State.setCore_tiles (s : State) (c : Nat) (x : Core) : (s.setCore c x).tiles = s.tiles := rfl
@[simp] theorem State.setCore_threads (s : State) (c : Nat) (x : Core) : (s.setCore c x).threads = s.threads := rfl
@[simp] theorem State.setCore_seams (s : State) (c : Nat) (x : Core) : (s.setCore c x).seams = s.seams := rfl
@[simp] theorem State.setCore_pegs (s : State) (c : Nat) (x : Core) : (s.setCore c x).pegs = s.pegs := rfl
@[simp] theorem State.setCore_comps (s : State) (c : Nat) (x : Core) : (s.setCore c x).comps = s.comps := rfl
@[simp] theorem State.setCore_ports (s : State) (c : Nat) (x : Core) : (s.setCore c x).ports = s.ports := rfl
@[simp] theorem State.setCore_egress (s : State) (c : Nat) (x : Core) : (s.setCore c x).egress = s.egress := rfl
@[simp] theorem State.setCore_leasesOut (s : State) (c : Nat) (x : Core) : (s.setCore c x).leasesOut = s.leasesOut := rfl
@[simp] theorem State.setCore_funcs (s : State) (c : Nat) (x : Core) : (s.setCore c x).funcs = s.funcs := rfl
@[simp] theorem State.setCore_mboxes (s : State) (c : Nat) (x : Core) : (s.setCore c x).mboxes = s.mboxes := rfl
@[simp] theorem State.setCore_hostLink (s : State) (c : Nat) (x : Core) : (s.setCore c x).hostLink = s.hostLink := rfl
@[simp] theorem State.setCore_rot (s : State) (c : Nat) (x : Core) : (s.setCore c x).rot = s.rot := rfl
@[simp] theorem State.setCore_xiesk (s : State) (c : Nat) (x : Core) : (s.setCore c x).xiesk = s.xiesk := rfl
@[simp] theorem State.setCore_power (s : State) (c : Nat) (x : Core) : (s.setCore c x).power = s.power := rfl
@[simp] theorem State.setCore_clock (s : State) (c : Nat) (x : Core) : (s.setCore c x).clock = s.clock := rfl
@[simp] theorem State.setCore_flashOld (s : State) (c : Nat) (x : Core) : (s.setCore c x).flashOld = s.flashOld := rfl
@[simp] theorem State.setCore_boot (s : State) (c : Nat) (x : Core) : (s.setCore c x).boot = s.boot := rfl
@[simp] theorem State.setCore_get_tile (s : State) (c : Nat) (x : Core) (i : Nat) : (s.setCore c x).tile i = s.tile i := rfl
@[simp] theorem State.setCore_get_die (s : State) (c : Nat) (x : Core) (i : Nat) : (s.setCore c x).die i = s.die i := rfl
@[simp] theorem State.setCore_get_thread (s : State) (c : Nat) (x : Core) (i : Nat) : (s.setCore c x).thread i = s.thread i := rfl
@[simp] theorem State.setCore_get_seam (s : State) (c : Nat) (x : Core) (i : Nat) : (s.setCore c x).seam i = s.seam i := rfl
@[simp] theorem State.setCore_get_peg (s : State) (c : Nat) (x : Core) (i : Nat) : (s.setCore c x).peg i = s.peg i := rfl
@[simp] theorem State.setCore_get_comp (s : State) (c : Nat) (x : Core) (i : Nat) : (s.setCore c x).comp i = s.comp i := rfl
@[simp] theorem State.setCore_get_func (s : State) (c : Nat) (x : Core) (i : Nat) : (s.setCore c x).func i = s.func i := rfl
@[simp] theorem State.setCore_get_mbox (s : State) (c : Nat) (x : Core) (i j : Nat) : (s.setCore c x).mbox i j = s.mbox i j := rfl
@[simp] theorem State.setCore_get_port (s : State) (c : Nat) (x : Core) (i : Nat) : (s.setCore c x).port i = s.port i := rfl
@[simp] theorem State.setCore_get_obj (s : State) (c : Nat) (x : Core) (i : Nat) : (s.setCore c x).obj i = s.obj i := rfl
@[simp] theorem State.setCore_get_objC (s : State) (c : Nat) (x : Core) (i j : Nat) : (s.setCore c x).objC i j = s.objC i j := rfl
@[simp] theorem State.setCore_get_now (s : State) (c : Nat) (x : Core) : (s.setCore c x).now = s.now := rfl
@[simp] theorem State.setCore_get_stamp (s : State) (c : Nat) (x : Core) : (s.setCore c x).stamp = s.stamp := rfl

/-! setThread. -/

@[simp] theorem State.setThread_pending (s : State) (k : Nat) (x : Thread) : (s.setThread k x).pending = s.pending := rfl
@[simp] theorem State.setThread_out (s : State) (k : Nat) (x : Thread) : (s.setThread k x).out = s.out := rfl
@[simp] theorem State.setThread_fresh (s : State) (k : Nat) (x : Thread) : (s.setThread k x).fresh = s.fresh := rfl
@[simp] theorem State.setThread_time (s : State) (k : Nat) (x : Thread) : (s.setThread k x).time = s.time := rfl
@[simp] theorem State.setThread_mode (s : State) (k : Nat) (x : Thread) : (s.setThread k x).mode = s.mode := rfl
@[simp] theorem State.setThread_modeAt (s : State) (k : Nat) (x : Thread) : (s.setThread k x).modeAt = s.modeAt := rfl
@[simp] theorem State.setThread_startPending (s : State) (k : Nat) (x : Thread) : (s.setThread k x).startPending = s.startPending := rfl
@[simp] theorem State.setThread_going (s : State) (k : Nat) (x : Thread) : (s.setThread k x).going = s.going := rfl
@[simp] theorem State.setThread_goingAt (s : State) (k : Nat) (x : Thread) : (s.setThread k x).goingAt = s.goingAt := rfl
@[simp] theorem State.setThread_cleanEnd (s : State) (k : Nat) (x : Thread) : (s.setThread k x).cleanEnd = s.cleanEnd := rfl
@[simp] theorem State.setThread_windowAt (s : State) (k : Nat) (x : Thread) : (s.setThread k x).windowAt = s.windowAt := rfl
@[simp] theorem State.setThread_pins (s : State) (k : Nat) (x : Thread) : (s.setThread k x).pins = s.pins := rfl
@[simp] theorem State.setThread_objs (s : State) (k : Nat) (x : Thread) : (s.setThread k x).objs = s.objs := rfl
@[simp] theorem State.setThread_stored (s : State) (k : Nat) (x : Thread) : (s.setThread k x).stored = s.stored := rfl
@[simp] theorem State.setThread_log (s : State) (k : Nat) (x : Thread) : (s.setThread k x).log = s.log := rfl
@[simp] theorem State.setThread_fwStage (s : State) (k : Nat) (x : Thread) : (s.setThread k x).fwStage = s.fwStage := rfl
@[simp] theorem State.setThread_dies (s : State) (k : Nat) (x : Thread) : (s.setThread k x).dies = s.dies := rfl
@[simp] theorem State.setThread_tiles (s : State) (k : Nat) (x : Thread) : (s.setThread k x).tiles = s.tiles := rfl
@[simp] theorem State.setThread_cores (s : State) (k : Nat) (x : Thread) : (s.setThread k x).cores = s.cores := rfl
@[simp] theorem State.setThread_seams (s : State) (k : Nat) (x : Thread) : (s.setThread k x).seams = s.seams := rfl
@[simp] theorem State.setThread_pegs (s : State) (k : Nat) (x : Thread) : (s.setThread k x).pegs = s.pegs := rfl
@[simp] theorem State.setThread_comps (s : State) (k : Nat) (x : Thread) : (s.setThread k x).comps = s.comps := rfl
@[simp] theorem State.setThread_ports (s : State) (k : Nat) (x : Thread) : (s.setThread k x).ports = s.ports := rfl
@[simp] theorem State.setThread_egress (s : State) (k : Nat) (x : Thread) : (s.setThread k x).egress = s.egress := rfl
@[simp] theorem State.setThread_leasesOut (s : State) (k : Nat) (x : Thread) : (s.setThread k x).leasesOut = s.leasesOut := rfl
@[simp] theorem State.setThread_funcs (s : State) (k : Nat) (x : Thread) : (s.setThread k x).funcs = s.funcs := rfl
@[simp] theorem State.setThread_mboxes (s : State) (k : Nat) (x : Thread) : (s.setThread k x).mboxes = s.mboxes := rfl
@[simp] theorem State.setThread_hostLink (s : State) (k : Nat) (x : Thread) : (s.setThread k x).hostLink = s.hostLink := rfl
@[simp] theorem State.setThread_rot (s : State) (k : Nat) (x : Thread) : (s.setThread k x).rot = s.rot := rfl
@[simp] theorem State.setThread_xiesk (s : State) (k : Nat) (x : Thread) : (s.setThread k x).xiesk = s.xiesk := rfl
@[simp] theorem State.setThread_power (s : State) (k : Nat) (x : Thread) : (s.setThread k x).power = s.power := rfl
@[simp] theorem State.setThread_clock (s : State) (k : Nat) (x : Thread) : (s.setThread k x).clock = s.clock := rfl
@[simp] theorem State.setThread_flashOld (s : State) (k : Nat) (x : Thread) : (s.setThread k x).flashOld = s.flashOld := rfl
@[simp] theorem State.setThread_boot (s : State) (k : Nat) (x : Thread) : (s.setThread k x).boot = s.boot := rfl
@[simp] theorem State.setThread_get_tile (s : State) (k : Nat) (x : Thread) (i : Nat) : (s.setThread k x).tile i = s.tile i := rfl
@[simp] theorem State.setThread_get_die (s : State) (k : Nat) (x : Thread) (i : Nat) : (s.setThread k x).die i = s.die i := rfl
@[simp] theorem State.setThread_get_core (s : State) (k : Nat) (x : Thread) (i : Nat) : (s.setThread k x).core i = s.core i := rfl
@[simp] theorem State.setThread_get_seam (s : State) (k : Nat) (x : Thread) (i : Nat) : (s.setThread k x).seam i = s.seam i := rfl
@[simp] theorem State.setThread_get_peg (s : State) (k : Nat) (x : Thread) (i : Nat) : (s.setThread k x).peg i = s.peg i := rfl
@[simp] theorem State.setThread_get_comp (s : State) (k : Nat) (x : Thread) (i : Nat) : (s.setThread k x).comp i = s.comp i := rfl
@[simp] theorem State.setThread_get_func (s : State) (k : Nat) (x : Thread) (i : Nat) : (s.setThread k x).func i = s.func i := rfl
@[simp] theorem State.setThread_get_mbox (s : State) (k : Nat) (x : Thread) (i j : Nat) : (s.setThread k x).mbox i j = s.mbox i j := rfl
@[simp] theorem State.setThread_get_port (s : State) (k : Nat) (x : Thread) (i : Nat) : (s.setThread k x).port i = s.port i := rfl
@[simp] theorem State.setThread_get_obj (s : State) (k : Nat) (x : Thread) (i : Nat) : (s.setThread k x).obj i = s.obj i := rfl
@[simp] theorem State.setThread_get_objC (s : State) (k : Nat) (x : Thread) (i j : Nat) : (s.setThread k x).objC i j = s.objC i j := rfl
@[simp] theorem State.setThread_get_now (s : State) (k : Nat) (x : Thread) : (s.setThread k x).now = s.now := rfl
@[simp] theorem State.setThread_get_stamp (s : State) (k : Nat) (x : Thread) : (s.setThread k x).stamp = s.stamp := rfl

/-! setSeam. -/

@[simp] theorem State.setSeam_pending (s : State) (l : Nat) (x : Seam) : (s.setSeam l x).pending = s.pending := rfl
@[simp] theorem State.setSeam_out (s : State) (l : Nat) (x : Seam) : (s.setSeam l x).out = s.out := rfl
@[simp] theorem State.setSeam_fresh (s : State) (l : Nat) (x : Seam) : (s.setSeam l x).fresh = s.fresh := rfl
@[simp] theorem State.setSeam_time (s : State) (l : Nat) (x : Seam) : (s.setSeam l x).time = s.time := rfl
@[simp] theorem State.setSeam_mode (s : State) (l : Nat) (x : Seam) : (s.setSeam l x).mode = s.mode := rfl
@[simp] theorem State.setSeam_modeAt (s : State) (l : Nat) (x : Seam) : (s.setSeam l x).modeAt = s.modeAt := rfl
@[simp] theorem State.setSeam_startPending (s : State) (l : Nat) (x : Seam) : (s.setSeam l x).startPending = s.startPending := rfl
@[simp] theorem State.setSeam_going (s : State) (l : Nat) (x : Seam) : (s.setSeam l x).going = s.going := rfl
@[simp] theorem State.setSeam_goingAt (s : State) (l : Nat) (x : Seam) : (s.setSeam l x).goingAt = s.goingAt := rfl
@[simp] theorem State.setSeam_cleanEnd (s : State) (l : Nat) (x : Seam) : (s.setSeam l x).cleanEnd = s.cleanEnd := rfl
@[simp] theorem State.setSeam_windowAt (s : State) (l : Nat) (x : Seam) : (s.setSeam l x).windowAt = s.windowAt := rfl
@[simp] theorem State.setSeam_pins (s : State) (l : Nat) (x : Seam) : (s.setSeam l x).pins = s.pins := rfl
@[simp] theorem State.setSeam_objs (s : State) (l : Nat) (x : Seam) : (s.setSeam l x).objs = s.objs := rfl
@[simp] theorem State.setSeam_stored (s : State) (l : Nat) (x : Seam) : (s.setSeam l x).stored = s.stored := rfl
@[simp] theorem State.setSeam_log (s : State) (l : Nat) (x : Seam) : (s.setSeam l x).log = s.log := rfl
@[simp] theorem State.setSeam_fwStage (s : State) (l : Nat) (x : Seam) : (s.setSeam l x).fwStage = s.fwStage := rfl
@[simp] theorem State.setSeam_dies (s : State) (l : Nat) (x : Seam) : (s.setSeam l x).dies = s.dies := rfl
@[simp] theorem State.setSeam_tiles (s : State) (l : Nat) (x : Seam) : (s.setSeam l x).tiles = s.tiles := rfl
@[simp] theorem State.setSeam_cores (s : State) (l : Nat) (x : Seam) : (s.setSeam l x).cores = s.cores := rfl
@[simp] theorem State.setSeam_threads (s : State) (l : Nat) (x : Seam) : (s.setSeam l x).threads = s.threads := rfl
@[simp] theorem State.setSeam_pegs (s : State) (l : Nat) (x : Seam) : (s.setSeam l x).pegs = s.pegs := rfl
@[simp] theorem State.setSeam_comps (s : State) (l : Nat) (x : Seam) : (s.setSeam l x).comps = s.comps := rfl
@[simp] theorem State.setSeam_ports (s : State) (l : Nat) (x : Seam) : (s.setSeam l x).ports = s.ports := rfl
@[simp] theorem State.setSeam_egress (s : State) (l : Nat) (x : Seam) : (s.setSeam l x).egress = s.egress := rfl
@[simp] theorem State.setSeam_leasesOut (s : State) (l : Nat) (x : Seam) : (s.setSeam l x).leasesOut = s.leasesOut := rfl
@[simp] theorem State.setSeam_funcs (s : State) (l : Nat) (x : Seam) : (s.setSeam l x).funcs = s.funcs := rfl
@[simp] theorem State.setSeam_mboxes (s : State) (l : Nat) (x : Seam) : (s.setSeam l x).mboxes = s.mboxes := rfl
@[simp] theorem State.setSeam_hostLink (s : State) (l : Nat) (x : Seam) : (s.setSeam l x).hostLink = s.hostLink := rfl
@[simp] theorem State.setSeam_rot (s : State) (l : Nat) (x : Seam) : (s.setSeam l x).rot = s.rot := rfl
@[simp] theorem State.setSeam_xiesk (s : State) (l : Nat) (x : Seam) : (s.setSeam l x).xiesk = s.xiesk := rfl
@[simp] theorem State.setSeam_power (s : State) (l : Nat) (x : Seam) : (s.setSeam l x).power = s.power := rfl
@[simp] theorem State.setSeam_clock (s : State) (l : Nat) (x : Seam) : (s.setSeam l x).clock = s.clock := rfl
@[simp] theorem State.setSeam_flashOld (s : State) (l : Nat) (x : Seam) : (s.setSeam l x).flashOld = s.flashOld := rfl
@[simp] theorem State.setSeam_boot (s : State) (l : Nat) (x : Seam) : (s.setSeam l x).boot = s.boot := rfl
@[simp] theorem State.setSeam_get_tile (s : State) (l : Nat) (x : Seam) (i : Nat) : (s.setSeam l x).tile i = s.tile i := rfl
@[simp] theorem State.setSeam_get_die (s : State) (l : Nat) (x : Seam) (i : Nat) : (s.setSeam l x).die i = s.die i := rfl
@[simp] theorem State.setSeam_get_core (s : State) (l : Nat) (x : Seam) (i : Nat) : (s.setSeam l x).core i = s.core i := rfl
@[simp] theorem State.setSeam_get_thread (s : State) (l : Nat) (x : Seam) (i : Nat) : (s.setSeam l x).thread i = s.thread i := rfl
@[simp] theorem State.setSeam_get_peg (s : State) (l : Nat) (x : Seam) (i : Nat) : (s.setSeam l x).peg i = s.peg i := rfl
@[simp] theorem State.setSeam_get_comp (s : State) (l : Nat) (x : Seam) (i : Nat) : (s.setSeam l x).comp i = s.comp i := rfl
@[simp] theorem State.setSeam_get_func (s : State) (l : Nat) (x : Seam) (i : Nat) : (s.setSeam l x).func i = s.func i := rfl
@[simp] theorem State.setSeam_get_mbox (s : State) (l : Nat) (x : Seam) (i j : Nat) : (s.setSeam l x).mbox i j = s.mbox i j := rfl
@[simp] theorem State.setSeam_get_port (s : State) (l : Nat) (x : Seam) (i : Nat) : (s.setSeam l x).port i = s.port i := rfl
@[simp] theorem State.setSeam_get_obj (s : State) (l : Nat) (x : Seam) (i : Nat) : (s.setSeam l x).obj i = s.obj i := rfl
@[simp] theorem State.setSeam_get_objC (s : State) (l : Nat) (x : Seam) (i j : Nat) : (s.setSeam l x).objC i j = s.objC i j := rfl
@[simp] theorem State.setSeam_get_now (s : State) (l : Nat) (x : Seam) : (s.setSeam l x).now = s.now := rfl
@[simp] theorem State.setSeam_get_stamp (s : State) (l : Nat) (x : Seam) : (s.setSeam l x).stamp = s.stamp := rfl

/-! setPeg. -/

@[simp] theorem State.setPeg_pending (s : State) (p : Nat) (x : Peg) : (s.setPeg p x).pending = s.pending := rfl
@[simp] theorem State.setPeg_out (s : State) (p : Nat) (x : Peg) : (s.setPeg p x).out = s.out := rfl
@[simp] theorem State.setPeg_fresh (s : State) (p : Nat) (x : Peg) : (s.setPeg p x).fresh = s.fresh := rfl
@[simp] theorem State.setPeg_time (s : State) (p : Nat) (x : Peg) : (s.setPeg p x).time = s.time := rfl
@[simp] theorem State.setPeg_mode (s : State) (p : Nat) (x : Peg) : (s.setPeg p x).mode = s.mode := rfl
@[simp] theorem State.setPeg_modeAt (s : State) (p : Nat) (x : Peg) : (s.setPeg p x).modeAt = s.modeAt := rfl
@[simp] theorem State.setPeg_startPending (s : State) (p : Nat) (x : Peg) : (s.setPeg p x).startPending = s.startPending := rfl
@[simp] theorem State.setPeg_going (s : State) (p : Nat) (x : Peg) : (s.setPeg p x).going = s.going := rfl
@[simp] theorem State.setPeg_goingAt (s : State) (p : Nat) (x : Peg) : (s.setPeg p x).goingAt = s.goingAt := rfl
@[simp] theorem State.setPeg_cleanEnd (s : State) (p : Nat) (x : Peg) : (s.setPeg p x).cleanEnd = s.cleanEnd := rfl
@[simp] theorem State.setPeg_windowAt (s : State) (p : Nat) (x : Peg) : (s.setPeg p x).windowAt = s.windowAt := rfl
@[simp] theorem State.setPeg_pins (s : State) (p : Nat) (x : Peg) : (s.setPeg p x).pins = s.pins := rfl
@[simp] theorem State.setPeg_objs (s : State) (p : Nat) (x : Peg) : (s.setPeg p x).objs = s.objs := rfl
@[simp] theorem State.setPeg_stored (s : State) (p : Nat) (x : Peg) : (s.setPeg p x).stored = s.stored := rfl
@[simp] theorem State.setPeg_log (s : State) (p : Nat) (x : Peg) : (s.setPeg p x).log = s.log := rfl
@[simp] theorem State.setPeg_fwStage (s : State) (p : Nat) (x : Peg) : (s.setPeg p x).fwStage = s.fwStage := rfl
@[simp] theorem State.setPeg_dies (s : State) (p : Nat) (x : Peg) : (s.setPeg p x).dies = s.dies := rfl
@[simp] theorem State.setPeg_tiles (s : State) (p : Nat) (x : Peg) : (s.setPeg p x).tiles = s.tiles := rfl
@[simp] theorem State.setPeg_cores (s : State) (p : Nat) (x : Peg) : (s.setPeg p x).cores = s.cores := rfl
@[simp] theorem State.setPeg_threads (s : State) (p : Nat) (x : Peg) : (s.setPeg p x).threads = s.threads := rfl
@[simp] theorem State.setPeg_seams (s : State) (p : Nat) (x : Peg) : (s.setPeg p x).seams = s.seams := rfl
@[simp] theorem State.setPeg_comps (s : State) (p : Nat) (x : Peg) : (s.setPeg p x).comps = s.comps := rfl
@[simp] theorem State.setPeg_ports (s : State) (p : Nat) (x : Peg) : (s.setPeg p x).ports = s.ports := rfl
@[simp] theorem State.setPeg_egress (s : State) (p : Nat) (x : Peg) : (s.setPeg p x).egress = s.egress := rfl
@[simp] theorem State.setPeg_leasesOut (s : State) (p : Nat) (x : Peg) : (s.setPeg p x).leasesOut = s.leasesOut := rfl
@[simp] theorem State.setPeg_funcs (s : State) (p : Nat) (x : Peg) : (s.setPeg p x).funcs = s.funcs := rfl
@[simp] theorem State.setPeg_mboxes (s : State) (p : Nat) (x : Peg) : (s.setPeg p x).mboxes = s.mboxes := rfl
@[simp] theorem State.setPeg_hostLink (s : State) (p : Nat) (x : Peg) : (s.setPeg p x).hostLink = s.hostLink := rfl
@[simp] theorem State.setPeg_rot (s : State) (p : Nat) (x : Peg) : (s.setPeg p x).rot = s.rot := rfl
@[simp] theorem State.setPeg_xiesk (s : State) (p : Nat) (x : Peg) : (s.setPeg p x).xiesk = s.xiesk := rfl
@[simp] theorem State.setPeg_power (s : State) (p : Nat) (x : Peg) : (s.setPeg p x).power = s.power := rfl
@[simp] theorem State.setPeg_clock (s : State) (p : Nat) (x : Peg) : (s.setPeg p x).clock = s.clock := rfl
@[simp] theorem State.setPeg_flashOld (s : State) (p : Nat) (x : Peg) : (s.setPeg p x).flashOld = s.flashOld := rfl
@[simp] theorem State.setPeg_boot (s : State) (p : Nat) (x : Peg) : (s.setPeg p x).boot = s.boot := rfl
@[simp] theorem State.setPeg_get_tile (s : State) (p : Nat) (x : Peg) (i : Nat) : (s.setPeg p x).tile i = s.tile i := rfl
@[simp] theorem State.setPeg_get_die (s : State) (p : Nat) (x : Peg) (i : Nat) : (s.setPeg p x).die i = s.die i := rfl
@[simp] theorem State.setPeg_get_core (s : State) (p : Nat) (x : Peg) (i : Nat) : (s.setPeg p x).core i = s.core i := rfl
@[simp] theorem State.setPeg_get_thread (s : State) (p : Nat) (x : Peg) (i : Nat) : (s.setPeg p x).thread i = s.thread i := rfl
@[simp] theorem State.setPeg_get_seam (s : State) (p : Nat) (x : Peg) (i : Nat) : (s.setPeg p x).seam i = s.seam i := rfl
@[simp] theorem State.setPeg_get_comp (s : State) (p : Nat) (x : Peg) (i : Nat) : (s.setPeg p x).comp i = s.comp i := rfl
@[simp] theorem State.setPeg_get_func (s : State) (p : Nat) (x : Peg) (i : Nat) : (s.setPeg p x).func i = s.func i := rfl
@[simp] theorem State.setPeg_get_mbox (s : State) (p : Nat) (x : Peg) (i j : Nat) : (s.setPeg p x).mbox i j = s.mbox i j := rfl
@[simp] theorem State.setPeg_get_port (s : State) (p : Nat) (x : Peg) (i : Nat) : (s.setPeg p x).port i = s.port i := rfl
@[simp] theorem State.setPeg_get_obj (s : State) (p : Nat) (x : Peg) (i : Nat) : (s.setPeg p x).obj i = s.obj i := rfl
@[simp] theorem State.setPeg_get_objC (s : State) (p : Nat) (x : Peg) (i j : Nat) : (s.setPeg p x).objC i j = s.objC i j := rfl
@[simp] theorem State.setPeg_get_now (s : State) (p : Nat) (x : Peg) : (s.setPeg p x).now = s.now := rfl
@[simp] theorem State.setPeg_get_stamp (s : State) (p : Nat) (x : Peg) : (s.setPeg p x).stamp = s.stamp := rfl

/-! setComp. -/

@[simp] theorem State.setComp_pending (s : State) (n : Nat) (x : Comp) : (s.setComp n x).pending = s.pending := rfl
@[simp] theorem State.setComp_out (s : State) (n : Nat) (x : Comp) : (s.setComp n x).out = s.out := rfl
@[simp] theorem State.setComp_fresh (s : State) (n : Nat) (x : Comp) : (s.setComp n x).fresh = s.fresh := rfl
@[simp] theorem State.setComp_time (s : State) (n : Nat) (x : Comp) : (s.setComp n x).time = s.time := rfl
@[simp] theorem State.setComp_mode (s : State) (n : Nat) (x : Comp) : (s.setComp n x).mode = s.mode := rfl
@[simp] theorem State.setComp_modeAt (s : State) (n : Nat) (x : Comp) : (s.setComp n x).modeAt = s.modeAt := rfl
@[simp] theorem State.setComp_startPending (s : State) (n : Nat) (x : Comp) : (s.setComp n x).startPending = s.startPending := rfl
@[simp] theorem State.setComp_going (s : State) (n : Nat) (x : Comp) : (s.setComp n x).going = s.going := rfl
@[simp] theorem State.setComp_goingAt (s : State) (n : Nat) (x : Comp) : (s.setComp n x).goingAt = s.goingAt := rfl
@[simp] theorem State.setComp_cleanEnd (s : State) (n : Nat) (x : Comp) : (s.setComp n x).cleanEnd = s.cleanEnd := rfl
@[simp] theorem State.setComp_windowAt (s : State) (n : Nat) (x : Comp) : (s.setComp n x).windowAt = s.windowAt := rfl
@[simp] theorem State.setComp_pins (s : State) (n : Nat) (x : Comp) : (s.setComp n x).pins = s.pins := rfl
@[simp] theorem State.setComp_objs (s : State) (n : Nat) (x : Comp) : (s.setComp n x).objs = s.objs := rfl
@[simp] theorem State.setComp_stored (s : State) (n : Nat) (x : Comp) : (s.setComp n x).stored = s.stored := rfl
@[simp] theorem State.setComp_log (s : State) (n : Nat) (x : Comp) : (s.setComp n x).log = s.log := rfl
@[simp] theorem State.setComp_fwStage (s : State) (n : Nat) (x : Comp) : (s.setComp n x).fwStage = s.fwStage := rfl
@[simp] theorem State.setComp_dies (s : State) (n : Nat) (x : Comp) : (s.setComp n x).dies = s.dies := rfl
@[simp] theorem State.setComp_tiles (s : State) (n : Nat) (x : Comp) : (s.setComp n x).tiles = s.tiles := rfl
@[simp] theorem State.setComp_cores (s : State) (n : Nat) (x : Comp) : (s.setComp n x).cores = s.cores := rfl
@[simp] theorem State.setComp_threads (s : State) (n : Nat) (x : Comp) : (s.setComp n x).threads = s.threads := rfl
@[simp] theorem State.setComp_seams (s : State) (n : Nat) (x : Comp) : (s.setComp n x).seams = s.seams := rfl
@[simp] theorem State.setComp_pegs (s : State) (n : Nat) (x : Comp) : (s.setComp n x).pegs = s.pegs := rfl
@[simp] theorem State.setComp_ports (s : State) (n : Nat) (x : Comp) : (s.setComp n x).ports = s.ports := rfl
@[simp] theorem State.setComp_egress (s : State) (n : Nat) (x : Comp) : (s.setComp n x).egress = s.egress := rfl
@[simp] theorem State.setComp_leasesOut (s : State) (n : Nat) (x : Comp) : (s.setComp n x).leasesOut = s.leasesOut := rfl
@[simp] theorem State.setComp_funcs (s : State) (n : Nat) (x : Comp) : (s.setComp n x).funcs = s.funcs := rfl
@[simp] theorem State.setComp_mboxes (s : State) (n : Nat) (x : Comp) : (s.setComp n x).mboxes = s.mboxes := rfl
@[simp] theorem State.setComp_hostLink (s : State) (n : Nat) (x : Comp) : (s.setComp n x).hostLink = s.hostLink := rfl
@[simp] theorem State.setComp_rot (s : State) (n : Nat) (x : Comp) : (s.setComp n x).rot = s.rot := rfl
@[simp] theorem State.setComp_xiesk (s : State) (n : Nat) (x : Comp) : (s.setComp n x).xiesk = s.xiesk := rfl
@[simp] theorem State.setComp_power (s : State) (n : Nat) (x : Comp) : (s.setComp n x).power = s.power := rfl
@[simp] theorem State.setComp_clock (s : State) (n : Nat) (x : Comp) : (s.setComp n x).clock = s.clock := rfl
@[simp] theorem State.setComp_flashOld (s : State) (n : Nat) (x : Comp) : (s.setComp n x).flashOld = s.flashOld := rfl
@[simp] theorem State.setComp_boot (s : State) (n : Nat) (x : Comp) : (s.setComp n x).boot = s.boot := rfl
@[simp] theorem State.setComp_get_tile (s : State) (n : Nat) (x : Comp) (i : Nat) : (s.setComp n x).tile i = s.tile i := rfl
@[simp] theorem State.setComp_get_die (s : State) (n : Nat) (x : Comp) (i : Nat) : (s.setComp n x).die i = s.die i := rfl
@[simp] theorem State.setComp_get_core (s : State) (n : Nat) (x : Comp) (i : Nat) : (s.setComp n x).core i = s.core i := rfl
@[simp] theorem State.setComp_get_thread (s : State) (n : Nat) (x : Comp) (i : Nat) : (s.setComp n x).thread i = s.thread i := rfl
@[simp] theorem State.setComp_get_seam (s : State) (n : Nat) (x : Comp) (i : Nat) : (s.setComp n x).seam i = s.seam i := rfl
@[simp] theorem State.setComp_get_peg (s : State) (n : Nat) (x : Comp) (i : Nat) : (s.setComp n x).peg i = s.peg i := rfl
@[simp] theorem State.setComp_get_func (s : State) (n : Nat) (x : Comp) (i : Nat) : (s.setComp n x).func i = s.func i := rfl
@[simp] theorem State.setComp_get_mbox (s : State) (n : Nat) (x : Comp) (i j : Nat) : (s.setComp n x).mbox i j = s.mbox i j := rfl
@[simp] theorem State.setComp_get_port (s : State) (n : Nat) (x : Comp) (i : Nat) : (s.setComp n x).port i = s.port i := rfl
@[simp] theorem State.setComp_get_obj (s : State) (n : Nat) (x : Comp) (i : Nat) : (s.setComp n x).obj i = s.obj i := rfl
@[simp] theorem State.setComp_get_objC (s : State) (n : Nat) (x : Comp) (i j : Nat) : (s.setComp n x).objC i j = s.objC i j := rfl
@[simp] theorem State.setComp_get_now (s : State) (n : Nat) (x : Comp) : (s.setComp n x).now = s.now := rfl
@[simp] theorem State.setComp_get_stamp (s : State) (n : Nat) (x : Comp) : (s.setComp n x).stamp = s.stamp := rfl

/-! setFunc. -/

@[simp] theorem State.setFunc_pending (s : State) (f : Nat) (x : Func) : (s.setFunc f x).pending = s.pending := rfl
@[simp] theorem State.setFunc_out (s : State) (f : Nat) (x : Func) : (s.setFunc f x).out = s.out := rfl
@[simp] theorem State.setFunc_fresh (s : State) (f : Nat) (x : Func) : (s.setFunc f x).fresh = s.fresh := rfl
@[simp] theorem State.setFunc_time (s : State) (f : Nat) (x : Func) : (s.setFunc f x).time = s.time := rfl
@[simp] theorem State.setFunc_mode (s : State) (f : Nat) (x : Func) : (s.setFunc f x).mode = s.mode := rfl
@[simp] theorem State.setFunc_modeAt (s : State) (f : Nat) (x : Func) : (s.setFunc f x).modeAt = s.modeAt := rfl
@[simp] theorem State.setFunc_startPending (s : State) (f : Nat) (x : Func) : (s.setFunc f x).startPending = s.startPending := rfl
@[simp] theorem State.setFunc_going (s : State) (f : Nat) (x : Func) : (s.setFunc f x).going = s.going := rfl
@[simp] theorem State.setFunc_goingAt (s : State) (f : Nat) (x : Func) : (s.setFunc f x).goingAt = s.goingAt := rfl
@[simp] theorem State.setFunc_cleanEnd (s : State) (f : Nat) (x : Func) : (s.setFunc f x).cleanEnd = s.cleanEnd := rfl
@[simp] theorem State.setFunc_windowAt (s : State) (f : Nat) (x : Func) : (s.setFunc f x).windowAt = s.windowAt := rfl
@[simp] theorem State.setFunc_pins (s : State) (f : Nat) (x : Func) : (s.setFunc f x).pins = s.pins := rfl
@[simp] theorem State.setFunc_objs (s : State) (f : Nat) (x : Func) : (s.setFunc f x).objs = s.objs := rfl
@[simp] theorem State.setFunc_stored (s : State) (f : Nat) (x : Func) : (s.setFunc f x).stored = s.stored := rfl
@[simp] theorem State.setFunc_log (s : State) (f : Nat) (x : Func) : (s.setFunc f x).log = s.log := rfl
@[simp] theorem State.setFunc_fwStage (s : State) (f : Nat) (x : Func) : (s.setFunc f x).fwStage = s.fwStage := rfl
@[simp] theorem State.setFunc_dies (s : State) (f : Nat) (x : Func) : (s.setFunc f x).dies = s.dies := rfl
@[simp] theorem State.setFunc_tiles (s : State) (f : Nat) (x : Func) : (s.setFunc f x).tiles = s.tiles := rfl
@[simp] theorem State.setFunc_cores (s : State) (f : Nat) (x : Func) : (s.setFunc f x).cores = s.cores := rfl
@[simp] theorem State.setFunc_threads (s : State) (f : Nat) (x : Func) : (s.setFunc f x).threads = s.threads := rfl
@[simp] theorem State.setFunc_seams (s : State) (f : Nat) (x : Func) : (s.setFunc f x).seams = s.seams := rfl
@[simp] theorem State.setFunc_pegs (s : State) (f : Nat) (x : Func) : (s.setFunc f x).pegs = s.pegs := rfl
@[simp] theorem State.setFunc_comps (s : State) (f : Nat) (x : Func) : (s.setFunc f x).comps = s.comps := rfl
@[simp] theorem State.setFunc_ports (s : State) (f : Nat) (x : Func) : (s.setFunc f x).ports = s.ports := rfl
@[simp] theorem State.setFunc_egress (s : State) (f : Nat) (x : Func) : (s.setFunc f x).egress = s.egress := rfl
@[simp] theorem State.setFunc_leasesOut (s : State) (f : Nat) (x : Func) : (s.setFunc f x).leasesOut = s.leasesOut := rfl
@[simp] theorem State.setFunc_mboxes (s : State) (f : Nat) (x : Func) : (s.setFunc f x).mboxes = s.mboxes := rfl
@[simp] theorem State.setFunc_hostLink (s : State) (f : Nat) (x : Func) : (s.setFunc f x).hostLink = s.hostLink := rfl
@[simp] theorem State.setFunc_rot (s : State) (f : Nat) (x : Func) : (s.setFunc f x).rot = s.rot := rfl
@[simp] theorem State.setFunc_xiesk (s : State) (f : Nat) (x : Func) : (s.setFunc f x).xiesk = s.xiesk := rfl
@[simp] theorem State.setFunc_power (s : State) (f : Nat) (x : Func) : (s.setFunc f x).power = s.power := rfl
@[simp] theorem State.setFunc_clock (s : State) (f : Nat) (x : Func) : (s.setFunc f x).clock = s.clock := rfl
@[simp] theorem State.setFunc_flashOld (s : State) (f : Nat) (x : Func) : (s.setFunc f x).flashOld = s.flashOld := rfl
@[simp] theorem State.setFunc_boot (s : State) (f : Nat) (x : Func) : (s.setFunc f x).boot = s.boot := rfl
@[simp] theorem State.setFunc_get_tile (s : State) (f : Nat) (x : Func) (i : Nat) : (s.setFunc f x).tile i = s.tile i := rfl
@[simp] theorem State.setFunc_get_die (s : State) (f : Nat) (x : Func) (i : Nat) : (s.setFunc f x).die i = s.die i := rfl
@[simp] theorem State.setFunc_get_core (s : State) (f : Nat) (x : Func) (i : Nat) : (s.setFunc f x).core i = s.core i := rfl
@[simp] theorem State.setFunc_get_thread (s : State) (f : Nat) (x : Func) (i : Nat) : (s.setFunc f x).thread i = s.thread i := rfl
@[simp] theorem State.setFunc_get_seam (s : State) (f : Nat) (x : Func) (i : Nat) : (s.setFunc f x).seam i = s.seam i := rfl
@[simp] theorem State.setFunc_get_peg (s : State) (f : Nat) (x : Func) (i : Nat) : (s.setFunc f x).peg i = s.peg i := rfl
@[simp] theorem State.setFunc_get_comp (s : State) (f : Nat) (x : Func) (i : Nat) : (s.setFunc f x).comp i = s.comp i := rfl
@[simp] theorem State.setFunc_get_mbox (s : State) (f : Nat) (x : Func) (i j : Nat) : (s.setFunc f x).mbox i j = s.mbox i j := rfl
@[simp] theorem State.setFunc_get_port (s : State) (f : Nat) (x : Func) (i : Nat) : (s.setFunc f x).port i = s.port i := rfl
@[simp] theorem State.setFunc_get_obj (s : State) (f : Nat) (x : Func) (i : Nat) : (s.setFunc f x).obj i = s.obj i := rfl
@[simp] theorem State.setFunc_get_objC (s : State) (f : Nat) (x : Func) (i j : Nat) : (s.setFunc f x).objC i j = s.objC i j := rfl
@[simp] theorem State.setFunc_get_now (s : State) (f : Nat) (x : Func) : (s.setFunc f x).now = s.now := rfl
@[simp] theorem State.setFunc_get_stamp (s : State) (f : Nat) (x : Func) : (s.setFunc f x).stamp = s.stamp := rfl

/-! setMBox. -/

@[simp] theorem State.setMBox_pending (s : State) (n m : Nat) (x : MBox) : (s.setMBox n m x).pending = s.pending := rfl
@[simp] theorem State.setMBox_out (s : State) (n m : Nat) (x : MBox) : (s.setMBox n m x).out = s.out := rfl
@[simp] theorem State.setMBox_fresh (s : State) (n m : Nat) (x : MBox) : (s.setMBox n m x).fresh = s.fresh := rfl
@[simp] theorem State.setMBox_time (s : State) (n m : Nat) (x : MBox) : (s.setMBox n m x).time = s.time := rfl
@[simp] theorem State.setMBox_mode (s : State) (n m : Nat) (x : MBox) : (s.setMBox n m x).mode = s.mode := rfl
@[simp] theorem State.setMBox_modeAt (s : State) (n m : Nat) (x : MBox) : (s.setMBox n m x).modeAt = s.modeAt := rfl
@[simp] theorem State.setMBox_startPending (s : State) (n m : Nat) (x : MBox) : (s.setMBox n m x).startPending = s.startPending := rfl
@[simp] theorem State.setMBox_going (s : State) (n m : Nat) (x : MBox) : (s.setMBox n m x).going = s.going := rfl
@[simp] theorem State.setMBox_goingAt (s : State) (n m : Nat) (x : MBox) : (s.setMBox n m x).goingAt = s.goingAt := rfl
@[simp] theorem State.setMBox_cleanEnd (s : State) (n m : Nat) (x : MBox) : (s.setMBox n m x).cleanEnd = s.cleanEnd := rfl
@[simp] theorem State.setMBox_windowAt (s : State) (n m : Nat) (x : MBox) : (s.setMBox n m x).windowAt = s.windowAt := rfl
@[simp] theorem State.setMBox_pins (s : State) (n m : Nat) (x : MBox) : (s.setMBox n m x).pins = s.pins := rfl
@[simp] theorem State.setMBox_objs (s : State) (n m : Nat) (x : MBox) : (s.setMBox n m x).objs = s.objs := rfl
@[simp] theorem State.setMBox_stored (s : State) (n m : Nat) (x : MBox) : (s.setMBox n m x).stored = s.stored := rfl
@[simp] theorem State.setMBox_log (s : State) (n m : Nat) (x : MBox) : (s.setMBox n m x).log = s.log := rfl
@[simp] theorem State.setMBox_fwStage (s : State) (n m : Nat) (x : MBox) : (s.setMBox n m x).fwStage = s.fwStage := rfl
@[simp] theorem State.setMBox_dies (s : State) (n m : Nat) (x : MBox) : (s.setMBox n m x).dies = s.dies := rfl
@[simp] theorem State.setMBox_tiles (s : State) (n m : Nat) (x : MBox) : (s.setMBox n m x).tiles = s.tiles := rfl
@[simp] theorem State.setMBox_cores (s : State) (n m : Nat) (x : MBox) : (s.setMBox n m x).cores = s.cores := rfl
@[simp] theorem State.setMBox_threads (s : State) (n m : Nat) (x : MBox) : (s.setMBox n m x).threads = s.threads := rfl
@[simp] theorem State.setMBox_seams (s : State) (n m : Nat) (x : MBox) : (s.setMBox n m x).seams = s.seams := rfl
@[simp] theorem State.setMBox_pegs (s : State) (n m : Nat) (x : MBox) : (s.setMBox n m x).pegs = s.pegs := rfl
@[simp] theorem State.setMBox_comps (s : State) (n m : Nat) (x : MBox) : (s.setMBox n m x).comps = s.comps := rfl
@[simp] theorem State.setMBox_ports (s : State) (n m : Nat) (x : MBox) : (s.setMBox n m x).ports = s.ports := rfl
@[simp] theorem State.setMBox_egress (s : State) (n m : Nat) (x : MBox) : (s.setMBox n m x).egress = s.egress := rfl
@[simp] theorem State.setMBox_leasesOut (s : State) (n m : Nat) (x : MBox) : (s.setMBox n m x).leasesOut = s.leasesOut := rfl
@[simp] theorem State.setMBox_funcs (s : State) (n m : Nat) (x : MBox) : (s.setMBox n m x).funcs = s.funcs := rfl
@[simp] theorem State.setMBox_hostLink (s : State) (n m : Nat) (x : MBox) : (s.setMBox n m x).hostLink = s.hostLink := rfl
@[simp] theorem State.setMBox_rot (s : State) (n m : Nat) (x : MBox) : (s.setMBox n m x).rot = s.rot := rfl
@[simp] theorem State.setMBox_xiesk (s : State) (n m : Nat) (x : MBox) : (s.setMBox n m x).xiesk = s.xiesk := rfl
@[simp] theorem State.setMBox_power (s : State) (n m : Nat) (x : MBox) : (s.setMBox n m x).power = s.power := rfl
@[simp] theorem State.setMBox_clock (s : State) (n m : Nat) (x : MBox) : (s.setMBox n m x).clock = s.clock := rfl
@[simp] theorem State.setMBox_flashOld (s : State) (n m : Nat) (x : MBox) : (s.setMBox n m x).flashOld = s.flashOld := rfl
@[simp] theorem State.setMBox_boot (s : State) (n m : Nat) (x : MBox) : (s.setMBox n m x).boot = s.boot := rfl
@[simp] theorem State.setMBox_get_tile (s : State) (n m : Nat) (x : MBox) (i : Nat) : (s.setMBox n m x).tile i = s.tile i := rfl
@[simp] theorem State.setMBox_get_die (s : State) (n m : Nat) (x : MBox) (i : Nat) : (s.setMBox n m x).die i = s.die i := rfl
@[simp] theorem State.setMBox_get_core (s : State) (n m : Nat) (x : MBox) (i : Nat) : (s.setMBox n m x).core i = s.core i := rfl
@[simp] theorem State.setMBox_get_thread (s : State) (n m : Nat) (x : MBox) (i : Nat) : (s.setMBox n m x).thread i = s.thread i := rfl
@[simp] theorem State.setMBox_get_seam (s : State) (n m : Nat) (x : MBox) (i : Nat) : (s.setMBox n m x).seam i = s.seam i := rfl
@[simp] theorem State.setMBox_get_peg (s : State) (n m : Nat) (x : MBox) (i : Nat) : (s.setMBox n m x).peg i = s.peg i := rfl
@[simp] theorem State.setMBox_get_comp (s : State) (n m : Nat) (x : MBox) (i : Nat) : (s.setMBox n m x).comp i = s.comp i := rfl
@[simp] theorem State.setMBox_get_func (s : State) (n m : Nat) (x : MBox) (i : Nat) : (s.setMBox n m x).func i = s.func i := rfl
@[simp] theorem State.setMBox_get_port (s : State) (n m : Nat) (x : MBox) (i : Nat) : (s.setMBox n m x).port i = s.port i := rfl
@[simp] theorem State.setMBox_get_obj (s : State) (n m : Nat) (x : MBox) (i : Nat) : (s.setMBox n m x).obj i = s.obj i := rfl
@[simp] theorem State.setMBox_get_objC (s : State) (n m : Nat) (x : MBox) (i j : Nat) : (s.setMBox n m x).objC i j = s.objC i j := rfl
@[simp] theorem State.setMBox_get_now (s : State) (n m : Nat) (x : MBox) : (s.setMBox n m x).now = s.now := rfl
@[simp] theorem State.setMBox_get_stamp (s : State) (n m : Nat) (x : MBox) : (s.setMBox n m x).stamp = s.stamp := rfl

/-! setPort. -/

@[simp] theorem State.setPort_pending (s : State) (p : Nat) (x : Port) : (s.setPort p x).pending = s.pending := rfl
@[simp] theorem State.setPort_out (s : State) (p : Nat) (x : Port) : (s.setPort p x).out = s.out := rfl
@[simp] theorem State.setPort_fresh (s : State) (p : Nat) (x : Port) : (s.setPort p x).fresh = s.fresh := rfl
@[simp] theorem State.setPort_time (s : State) (p : Nat) (x : Port) : (s.setPort p x).time = s.time := rfl
@[simp] theorem State.setPort_mode (s : State) (p : Nat) (x : Port) : (s.setPort p x).mode = s.mode := rfl
@[simp] theorem State.setPort_modeAt (s : State) (p : Nat) (x : Port) : (s.setPort p x).modeAt = s.modeAt := rfl
@[simp] theorem State.setPort_startPending (s : State) (p : Nat) (x : Port) : (s.setPort p x).startPending = s.startPending := rfl
@[simp] theorem State.setPort_going (s : State) (p : Nat) (x : Port) : (s.setPort p x).going = s.going := rfl
@[simp] theorem State.setPort_goingAt (s : State) (p : Nat) (x : Port) : (s.setPort p x).goingAt = s.goingAt := rfl
@[simp] theorem State.setPort_cleanEnd (s : State) (p : Nat) (x : Port) : (s.setPort p x).cleanEnd = s.cleanEnd := rfl
@[simp] theorem State.setPort_windowAt (s : State) (p : Nat) (x : Port) : (s.setPort p x).windowAt = s.windowAt := rfl
@[simp] theorem State.setPort_pins (s : State) (p : Nat) (x : Port) : (s.setPort p x).pins = s.pins := rfl
@[simp] theorem State.setPort_objs (s : State) (p : Nat) (x : Port) : (s.setPort p x).objs = s.objs := rfl
@[simp] theorem State.setPort_stored (s : State) (p : Nat) (x : Port) : (s.setPort p x).stored = s.stored := rfl
@[simp] theorem State.setPort_log (s : State) (p : Nat) (x : Port) : (s.setPort p x).log = s.log := rfl
@[simp] theorem State.setPort_fwStage (s : State) (p : Nat) (x : Port) : (s.setPort p x).fwStage = s.fwStage := rfl
@[simp] theorem State.setPort_dies (s : State) (p : Nat) (x : Port) : (s.setPort p x).dies = s.dies := rfl
@[simp] theorem State.setPort_tiles (s : State) (p : Nat) (x : Port) : (s.setPort p x).tiles = s.tiles := rfl
@[simp] theorem State.setPort_cores (s : State) (p : Nat) (x : Port) : (s.setPort p x).cores = s.cores := rfl
@[simp] theorem State.setPort_threads (s : State) (p : Nat) (x : Port) : (s.setPort p x).threads = s.threads := rfl
@[simp] theorem State.setPort_seams (s : State) (p : Nat) (x : Port) : (s.setPort p x).seams = s.seams := rfl
@[simp] theorem State.setPort_pegs (s : State) (p : Nat) (x : Port) : (s.setPort p x).pegs = s.pegs := rfl
@[simp] theorem State.setPort_comps (s : State) (p : Nat) (x : Port) : (s.setPort p x).comps = s.comps := rfl
@[simp] theorem State.setPort_egress (s : State) (p : Nat) (x : Port) : (s.setPort p x).egress = s.egress := rfl
@[simp] theorem State.setPort_leasesOut (s : State) (p : Nat) (x : Port) : (s.setPort p x).leasesOut = s.leasesOut := rfl
@[simp] theorem State.setPort_funcs (s : State) (p : Nat) (x : Port) : (s.setPort p x).funcs = s.funcs := rfl
@[simp] theorem State.setPort_mboxes (s : State) (p : Nat) (x : Port) : (s.setPort p x).mboxes = s.mboxes := rfl
@[simp] theorem State.setPort_hostLink (s : State) (p : Nat) (x : Port) : (s.setPort p x).hostLink = s.hostLink := rfl
@[simp] theorem State.setPort_rot (s : State) (p : Nat) (x : Port) : (s.setPort p x).rot = s.rot := rfl
@[simp] theorem State.setPort_xiesk (s : State) (p : Nat) (x : Port) : (s.setPort p x).xiesk = s.xiesk := rfl
@[simp] theorem State.setPort_power (s : State) (p : Nat) (x : Port) : (s.setPort p x).power = s.power := rfl
@[simp] theorem State.setPort_clock (s : State) (p : Nat) (x : Port) : (s.setPort p x).clock = s.clock := rfl
@[simp] theorem State.setPort_flashOld (s : State) (p : Nat) (x : Port) : (s.setPort p x).flashOld = s.flashOld := rfl
@[simp] theorem State.setPort_boot (s : State) (p : Nat) (x : Port) : (s.setPort p x).boot = s.boot := rfl
@[simp] theorem State.setPort_get_tile (s : State) (p : Nat) (x : Port) (i : Nat) : (s.setPort p x).tile i = s.tile i := rfl
@[simp] theorem State.setPort_get_die (s : State) (p : Nat) (x : Port) (i : Nat) : (s.setPort p x).die i = s.die i := rfl
@[simp] theorem State.setPort_get_core (s : State) (p : Nat) (x : Port) (i : Nat) : (s.setPort p x).core i = s.core i := rfl
@[simp] theorem State.setPort_get_thread (s : State) (p : Nat) (x : Port) (i : Nat) : (s.setPort p x).thread i = s.thread i := rfl
@[simp] theorem State.setPort_get_seam (s : State) (p : Nat) (x : Port) (i : Nat) : (s.setPort p x).seam i = s.seam i := rfl
@[simp] theorem State.setPort_get_peg (s : State) (p : Nat) (x : Port) (i : Nat) : (s.setPort p x).peg i = s.peg i := rfl
@[simp] theorem State.setPort_get_comp (s : State) (p : Nat) (x : Port) (i : Nat) : (s.setPort p x).comp i = s.comp i := rfl
@[simp] theorem State.setPort_get_func (s : State) (p : Nat) (x : Port) (i : Nat) : (s.setPort p x).func i = s.func i := rfl
@[simp] theorem State.setPort_get_mbox (s : State) (p : Nat) (x : Port) (i j : Nat) : (s.setPort p x).mbox i j = s.mbox i j := rfl
@[simp] theorem State.setPort_get_obj (s : State) (p : Nat) (x : Port) (i : Nat) : (s.setPort p x).obj i = s.obj i := rfl
@[simp] theorem State.setPort_get_objC (s : State) (p : Nat) (x : Port) (i j : Nat) : (s.setPort p x).objC i j = s.objC i j := rfl
@[simp] theorem State.setPort_get_now (s : State) (p : Nat) (x : Port) : (s.setPort p x).now = s.now := rfl
@[simp] theorem State.setPort_get_stamp (s : State) (p : Nat) (x : Port) : (s.setPort p x).stamp = s.stamp := rfl

/-! setObj. -/

@[simp] theorem State.setObj_pending (s : State) (k v : Nat) : (s.setObj k v).pending = s.pending := rfl
@[simp] theorem State.setObj_out (s : State) (k v : Nat) : (s.setObj k v).out = s.out := rfl
@[simp] theorem State.setObj_fresh (s : State) (k v : Nat) : (s.setObj k v).fresh = s.fresh := rfl
@[simp] theorem State.setObj_time (s : State) (k v : Nat) : (s.setObj k v).time = s.time := rfl
@[simp] theorem State.setObj_mode (s : State) (k v : Nat) : (s.setObj k v).mode = s.mode := rfl
@[simp] theorem State.setObj_modeAt (s : State) (k v : Nat) : (s.setObj k v).modeAt = s.modeAt := rfl
@[simp] theorem State.setObj_startPending (s : State) (k v : Nat) : (s.setObj k v).startPending = s.startPending := rfl
@[simp] theorem State.setObj_going (s : State) (k v : Nat) : (s.setObj k v).going = s.going := rfl
@[simp] theorem State.setObj_goingAt (s : State) (k v : Nat) : (s.setObj k v).goingAt = s.goingAt := rfl
@[simp] theorem State.setObj_cleanEnd (s : State) (k v : Nat) : (s.setObj k v).cleanEnd = s.cleanEnd := rfl
@[simp] theorem State.setObj_windowAt (s : State) (k v : Nat) : (s.setObj k v).windowAt = s.windowAt := rfl
@[simp] theorem State.setObj_pins (s : State) (k v : Nat) : (s.setObj k v).pins = s.pins := rfl
@[simp] theorem State.setObj_stored (s : State) (k v : Nat) : (s.setObj k v).stored = s.stored := rfl
@[simp] theorem State.setObj_log (s : State) (k v : Nat) : (s.setObj k v).log = s.log := rfl
@[simp] theorem State.setObj_fwStage (s : State) (k v : Nat) : (s.setObj k v).fwStage = s.fwStage := rfl
@[simp] theorem State.setObj_dies (s : State) (k v : Nat) : (s.setObj k v).dies = s.dies := rfl
@[simp] theorem State.setObj_tiles (s : State) (k v : Nat) : (s.setObj k v).tiles = s.tiles := rfl
@[simp] theorem State.setObj_cores (s : State) (k v : Nat) : (s.setObj k v).cores = s.cores := rfl
@[simp] theorem State.setObj_threads (s : State) (k v : Nat) : (s.setObj k v).threads = s.threads := rfl
@[simp] theorem State.setObj_seams (s : State) (k v : Nat) : (s.setObj k v).seams = s.seams := rfl
@[simp] theorem State.setObj_pegs (s : State) (k v : Nat) : (s.setObj k v).pegs = s.pegs := rfl
@[simp] theorem State.setObj_comps (s : State) (k v : Nat) : (s.setObj k v).comps = s.comps := rfl
@[simp] theorem State.setObj_ports (s : State) (k v : Nat) : (s.setObj k v).ports = s.ports := rfl
@[simp] theorem State.setObj_egress (s : State) (k v : Nat) : (s.setObj k v).egress = s.egress := rfl
@[simp] theorem State.setObj_leasesOut (s : State) (k v : Nat) : (s.setObj k v).leasesOut = s.leasesOut := rfl
@[simp] theorem State.setObj_funcs (s : State) (k v : Nat) : (s.setObj k v).funcs = s.funcs := rfl
@[simp] theorem State.setObj_mboxes (s : State) (k v : Nat) : (s.setObj k v).mboxes = s.mboxes := rfl
@[simp] theorem State.setObj_hostLink (s : State) (k v : Nat) : (s.setObj k v).hostLink = s.hostLink := rfl
@[simp] theorem State.setObj_rot (s : State) (k v : Nat) : (s.setObj k v).rot = s.rot := rfl
@[simp] theorem State.setObj_xiesk (s : State) (k v : Nat) : (s.setObj k v).xiesk = s.xiesk := rfl
@[simp] theorem State.setObj_power (s : State) (k v : Nat) : (s.setObj k v).power = s.power := rfl
@[simp] theorem State.setObj_clock (s : State) (k v : Nat) : (s.setObj k v).clock = s.clock := rfl
@[simp] theorem State.setObj_flashOld (s : State) (k v : Nat) : (s.setObj k v).flashOld = s.flashOld := rfl
@[simp] theorem State.setObj_boot (s : State) (k v : Nat) : (s.setObj k v).boot = s.boot := rfl
@[simp] theorem State.setObj_get_tile (s : State) (k v : Nat) (i : Nat) : (s.setObj k v).tile i = s.tile i := rfl
@[simp] theorem State.setObj_get_die (s : State) (k v : Nat) (i : Nat) : (s.setObj k v).die i = s.die i := rfl
@[simp] theorem State.setObj_get_core (s : State) (k v : Nat) (i : Nat) : (s.setObj k v).core i = s.core i := rfl
@[simp] theorem State.setObj_get_thread (s : State) (k v : Nat) (i : Nat) : (s.setObj k v).thread i = s.thread i := rfl
@[simp] theorem State.setObj_get_seam (s : State) (k v : Nat) (i : Nat) : (s.setObj k v).seam i = s.seam i := rfl
@[simp] theorem State.setObj_get_peg (s : State) (k v : Nat) (i : Nat) : (s.setObj k v).peg i = s.peg i := rfl
@[simp] theorem State.setObj_get_comp (s : State) (k v : Nat) (i : Nat) : (s.setObj k v).comp i = s.comp i := rfl
@[simp] theorem State.setObj_get_func (s : State) (k v : Nat) (i : Nat) : (s.setObj k v).func i = s.func i := rfl
@[simp] theorem State.setObj_get_mbox (s : State) (k v : Nat) (i j : Nat) : (s.setObj k v).mbox i j = s.mbox i j := rfl
@[simp] theorem State.setObj_get_port (s : State) (k v : Nat) (i : Nat) : (s.setObj k v).port i = s.port i := rfl
@[simp] theorem State.setObj_get_now (s : State) (k v : Nat) : (s.setObj k v).now = s.now := rfl
@[simp] theorem State.setObj_get_stamp (s : State) (k v : Nat) : (s.setObj k v).stamp = s.stamp := rfl

/-! emit. -/

@[simp] theorem State.emit_pending (s : State) (o : Output) : (s.emit o).pending = s.pending := rfl
@[simp] theorem State.emit_fresh (s : State) (o : Output) : (s.emit o).fresh = s.fresh := rfl
@[simp] theorem State.emit_time (s : State) (o : Output) : (s.emit o).time = s.time := rfl
@[simp] theorem State.emit_mode (s : State) (o : Output) : (s.emit o).mode = s.mode := rfl
@[simp] theorem State.emit_modeAt (s : State) (o : Output) : (s.emit o).modeAt = s.modeAt := rfl
@[simp] theorem State.emit_startPending (s : State) (o : Output) : (s.emit o).startPending = s.startPending := rfl
@[simp] theorem State.emit_going (s : State) (o : Output) : (s.emit o).going = s.going := rfl
@[simp] theorem State.emit_goingAt (s : State) (o : Output) : (s.emit o).goingAt = s.goingAt := rfl
@[simp] theorem State.emit_cleanEnd (s : State) (o : Output) : (s.emit o).cleanEnd = s.cleanEnd := rfl
@[simp] theorem State.emit_windowAt (s : State) (o : Output) : (s.emit o).windowAt = s.windowAt := rfl
@[simp] theorem State.emit_pins (s : State) (o : Output) : (s.emit o).pins = s.pins := rfl
@[simp] theorem State.emit_objs (s : State) (o : Output) : (s.emit o).objs = s.objs := rfl
@[simp] theorem State.emit_stored (s : State) (o : Output) : (s.emit o).stored = s.stored := rfl
@[simp] theorem State.emit_log (s : State) (o : Output) : (s.emit o).log = s.log := rfl
@[simp] theorem State.emit_fwStage (s : State) (o : Output) : (s.emit o).fwStage = s.fwStage := rfl
@[simp] theorem State.emit_dies (s : State) (o : Output) : (s.emit o).dies = s.dies := rfl
@[simp] theorem State.emit_tiles (s : State) (o : Output) : (s.emit o).tiles = s.tiles := rfl
@[simp] theorem State.emit_cores (s : State) (o : Output) : (s.emit o).cores = s.cores := rfl
@[simp] theorem State.emit_threads (s : State) (o : Output) : (s.emit o).threads = s.threads := rfl
@[simp] theorem State.emit_seams (s : State) (o : Output) : (s.emit o).seams = s.seams := rfl
@[simp] theorem State.emit_pegs (s : State) (o : Output) : (s.emit o).pegs = s.pegs := rfl
@[simp] theorem State.emit_comps (s : State) (o : Output) : (s.emit o).comps = s.comps := rfl
@[simp] theorem State.emit_ports (s : State) (o : Output) : (s.emit o).ports = s.ports := rfl
@[simp] theorem State.emit_egress (s : State) (o : Output) : (s.emit o).egress = s.egress := rfl
@[simp] theorem State.emit_leasesOut (s : State) (o : Output) : (s.emit o).leasesOut = s.leasesOut := rfl
@[simp] theorem State.emit_funcs (s : State) (o : Output) : (s.emit o).funcs = s.funcs := rfl
@[simp] theorem State.emit_mboxes (s : State) (o : Output) : (s.emit o).mboxes = s.mboxes := rfl
@[simp] theorem State.emit_hostLink (s : State) (o : Output) : (s.emit o).hostLink = s.hostLink := rfl
@[simp] theorem State.emit_rot (s : State) (o : Output) : (s.emit o).rot = s.rot := rfl
@[simp] theorem State.emit_xiesk (s : State) (o : Output) : (s.emit o).xiesk = s.xiesk := rfl
@[simp] theorem State.emit_power (s : State) (o : Output) : (s.emit o).power = s.power := rfl
@[simp] theorem State.emit_clock (s : State) (o : Output) : (s.emit o).clock = s.clock := rfl
@[simp] theorem State.emit_flashOld (s : State) (o : Output) : (s.emit o).flashOld = s.flashOld := rfl
@[simp] theorem State.emit_boot (s : State) (o : Output) : (s.emit o).boot = s.boot := rfl
@[simp] theorem State.emit_get_tile (s : State) (o : Output) (i : Nat) : (s.emit o).tile i = s.tile i := rfl
@[simp] theorem State.emit_get_die (s : State) (o : Output) (i : Nat) : (s.emit o).die i = s.die i := rfl
@[simp] theorem State.emit_get_core (s : State) (o : Output) (i : Nat) : (s.emit o).core i = s.core i := rfl
@[simp] theorem State.emit_get_thread (s : State) (o : Output) (i : Nat) : (s.emit o).thread i = s.thread i := rfl
@[simp] theorem State.emit_get_seam (s : State) (o : Output) (i : Nat) : (s.emit o).seam i = s.seam i := rfl
@[simp] theorem State.emit_get_peg (s : State) (o : Output) (i : Nat) : (s.emit o).peg i = s.peg i := rfl
@[simp] theorem State.emit_get_comp (s : State) (o : Output) (i : Nat) : (s.emit o).comp i = s.comp i := rfl
@[simp] theorem State.emit_get_func (s : State) (o : Output) (i : Nat) : (s.emit o).func i = s.func i := rfl
@[simp] theorem State.emit_get_mbox (s : State) (o : Output) (i j : Nat) : (s.emit o).mbox i j = s.mbox i j := rfl
@[simp] theorem State.emit_get_port (s : State) (o : Output) (i : Nat) : (s.emit o).port i = s.port i := rfl
@[simp] theorem State.emit_get_obj (s : State) (o : Output) (i : Nat) : (s.emit o).obj i = s.obj i := rfl
@[simp] theorem State.emit_get_objC (s : State) (o : Output) (i j : Nat) : (s.emit o).objC i j = s.objC i j := rfl
@[simp] theorem State.emit_get_now (s : State) (o : Output) : (s.emit o).now = s.now := rfl
@[simp] theorem State.emit_get_stamp (s : State) (o : Output) : (s.emit o).stamp = s.stamp := rfl

/-! tickFresh. -/

@[simp] theorem State.tickFresh_pending (s : State) : s.tickFresh.pending = s.pending := rfl
@[simp] theorem State.tickFresh_out (s : State) : s.tickFresh.out = s.out := rfl
@[simp] theorem State.tickFresh_time (s : State) : s.tickFresh.time = s.time := rfl
@[simp] theorem State.tickFresh_mode (s : State) : s.tickFresh.mode = s.mode := rfl
@[simp] theorem State.tickFresh_modeAt (s : State) : s.tickFresh.modeAt = s.modeAt := rfl
@[simp] theorem State.tickFresh_startPending (s : State) : s.tickFresh.startPending = s.startPending := rfl
@[simp] theorem State.tickFresh_going (s : State) : s.tickFresh.going = s.going := rfl
@[simp] theorem State.tickFresh_goingAt (s : State) : s.tickFresh.goingAt = s.goingAt := rfl
@[simp] theorem State.tickFresh_cleanEnd (s : State) : s.tickFresh.cleanEnd = s.cleanEnd := rfl
@[simp] theorem State.tickFresh_windowAt (s : State) : s.tickFresh.windowAt = s.windowAt := rfl
@[simp] theorem State.tickFresh_pins (s : State) : s.tickFresh.pins = s.pins := rfl
@[simp] theorem State.tickFresh_objs (s : State) : s.tickFresh.objs = s.objs := rfl
@[simp] theorem State.tickFresh_stored (s : State) : s.tickFresh.stored = s.stored := rfl
@[simp] theorem State.tickFresh_log (s : State) : s.tickFresh.log = s.log := rfl
@[simp] theorem State.tickFresh_fwStage (s : State) : s.tickFresh.fwStage = s.fwStage := rfl
@[simp] theorem State.tickFresh_dies (s : State) : s.tickFresh.dies = s.dies := rfl
@[simp] theorem State.tickFresh_tiles (s : State) : s.tickFresh.tiles = s.tiles := rfl
@[simp] theorem State.tickFresh_cores (s : State) : s.tickFresh.cores = s.cores := rfl
@[simp] theorem State.tickFresh_threads (s : State) : s.tickFresh.threads = s.threads := rfl
@[simp] theorem State.tickFresh_seams (s : State) : s.tickFresh.seams = s.seams := rfl
@[simp] theorem State.tickFresh_pegs (s : State) : s.tickFresh.pegs = s.pegs := rfl
@[simp] theorem State.tickFresh_comps (s : State) : s.tickFresh.comps = s.comps := rfl
@[simp] theorem State.tickFresh_ports (s : State) : s.tickFresh.ports = s.ports := rfl
@[simp] theorem State.tickFresh_egress (s : State) : s.tickFresh.egress = s.egress := rfl
@[simp] theorem State.tickFresh_leasesOut (s : State) : s.tickFresh.leasesOut = s.leasesOut := rfl
@[simp] theorem State.tickFresh_funcs (s : State) : s.tickFresh.funcs = s.funcs := rfl
@[simp] theorem State.tickFresh_mboxes (s : State) : s.tickFresh.mboxes = s.mboxes := rfl
@[simp] theorem State.tickFresh_hostLink (s : State) : s.tickFresh.hostLink = s.hostLink := rfl
@[simp] theorem State.tickFresh_rot (s : State) : s.tickFresh.rot = s.rot := rfl
@[simp] theorem State.tickFresh_xiesk (s : State) : s.tickFresh.xiesk = s.xiesk := rfl
@[simp] theorem State.tickFresh_power (s : State) : s.tickFresh.power = s.power := rfl
@[simp] theorem State.tickFresh_clock (s : State) : s.tickFresh.clock = s.clock := rfl
@[simp] theorem State.tickFresh_flashOld (s : State) : s.tickFresh.flashOld = s.flashOld := rfl
@[simp] theorem State.tickFresh_boot (s : State) : s.tickFresh.boot = s.boot := rfl
@[simp] theorem State.tickFresh_get_tile (s : State) (i : Nat) : s.tickFresh.tile i = s.tile i := rfl
@[simp] theorem State.tickFresh_get_die (s : State) (i : Nat) : s.tickFresh.die i = s.die i := rfl
@[simp] theorem State.tickFresh_get_core (s : State) (i : Nat) : s.tickFresh.core i = s.core i := rfl
@[simp] theorem State.tickFresh_get_thread (s : State) (i : Nat) : s.tickFresh.thread i = s.thread i := rfl
@[simp] theorem State.tickFresh_get_seam (s : State) (i : Nat) : s.tickFresh.seam i = s.seam i := rfl
@[simp] theorem State.tickFresh_get_peg (s : State) (i : Nat) : s.tickFresh.peg i = s.peg i := rfl
@[simp] theorem State.tickFresh_get_comp (s : State) (i : Nat) : s.tickFresh.comp i = s.comp i := rfl
@[simp] theorem State.tickFresh_get_func (s : State) (i : Nat) : s.tickFresh.func i = s.func i := rfl
@[simp] theorem State.tickFresh_get_mbox (s : State) (i j : Nat) : s.tickFresh.mbox i j = s.mbox i j := rfl
@[simp] theorem State.tickFresh_get_port (s : State) (i : Nat) : s.tickFresh.port i = s.port i := rfl
@[simp] theorem State.tickFresh_get_obj (s : State) (i : Nat) : s.tickFresh.obj i = s.obj i := rfl
@[simp] theorem State.tickFresh_get_objC (s : State) (i j : Nat) : s.tickFresh.objC i j = s.objC i j := rfl
@[simp] theorem State.tickFresh_get_now (s : State) : s.tickFresh.now = s.now := rfl
@[simp] theorem State.tickFresh_get_stamp (s : State) : s.tickFresh.stamp = s.stamp := rfl

/-! enterMode. -/

@[simp] theorem State.enterMode_pending (s : State) (m : ModState) : (s.enterMode m).pending = s.pending := rfl
@[simp] theorem State.enterMode_out (s : State) (m : ModState) : (s.enterMode m).out = s.out := rfl
@[simp] theorem State.enterMode_fresh (s : State) (m : ModState) : (s.enterMode m).fresh = s.fresh := rfl
@[simp] theorem State.enterMode_time (s : State) (m : ModState) : (s.enterMode m).time = s.time := rfl
@[simp] theorem State.enterMode_startPending (s : State) (m : ModState) : (s.enterMode m).startPending = s.startPending := rfl
@[simp] theorem State.enterMode_going (s : State) (m : ModState) : (s.enterMode m).going = s.going := rfl
@[simp] theorem State.enterMode_goingAt (s : State) (m : ModState) : (s.enterMode m).goingAt = s.goingAt := rfl
@[simp] theorem State.enterMode_cleanEnd (s : State) (m : ModState) : (s.enterMode m).cleanEnd = s.cleanEnd := rfl
@[simp] theorem State.enterMode_windowAt (s : State) (m : ModState) : (s.enterMode m).windowAt = s.windowAt := rfl
@[simp] theorem State.enterMode_pins (s : State) (m : ModState) : (s.enterMode m).pins = s.pins := rfl
@[simp] theorem State.enterMode_objs (s : State) (m : ModState) : (s.enterMode m).objs = s.objs := rfl
@[simp] theorem State.enterMode_stored (s : State) (m : ModState) : (s.enterMode m).stored = s.stored := rfl
@[simp] theorem State.enterMode_log (s : State) (m : ModState) : (s.enterMode m).log = s.log := rfl
@[simp] theorem State.enterMode_fwStage (s : State) (m : ModState) : (s.enterMode m).fwStage = s.fwStage := rfl
@[simp] theorem State.enterMode_dies (s : State) (m : ModState) : (s.enterMode m).dies = s.dies := rfl
@[simp] theorem State.enterMode_tiles (s : State) (m : ModState) : (s.enterMode m).tiles = s.tiles := rfl
@[simp] theorem State.enterMode_cores (s : State) (m : ModState) : (s.enterMode m).cores = s.cores := rfl
@[simp] theorem State.enterMode_threads (s : State) (m : ModState) : (s.enterMode m).threads = s.threads := rfl
@[simp] theorem State.enterMode_seams (s : State) (m : ModState) : (s.enterMode m).seams = s.seams := rfl
@[simp] theorem State.enterMode_pegs (s : State) (m : ModState) : (s.enterMode m).pegs = s.pegs := rfl
@[simp] theorem State.enterMode_comps (s : State) (m : ModState) : (s.enterMode m).comps = s.comps := rfl
@[simp] theorem State.enterMode_ports (s : State) (m : ModState) : (s.enterMode m).ports = s.ports := rfl
@[simp] theorem State.enterMode_egress (s : State) (m : ModState) : (s.enterMode m).egress = s.egress := rfl
@[simp] theorem State.enterMode_leasesOut (s : State) (m : ModState) : (s.enterMode m).leasesOut = s.leasesOut := rfl
@[simp] theorem State.enterMode_funcs (s : State) (m : ModState) : (s.enterMode m).funcs = s.funcs := rfl
@[simp] theorem State.enterMode_mboxes (s : State) (m : ModState) : (s.enterMode m).mboxes = s.mboxes := rfl
@[simp] theorem State.enterMode_hostLink (s : State) (m : ModState) : (s.enterMode m).hostLink = s.hostLink := rfl
@[simp] theorem State.enterMode_rot (s : State) (m : ModState) : (s.enterMode m).rot = s.rot := rfl
@[simp] theorem State.enterMode_xiesk (s : State) (m : ModState) : (s.enterMode m).xiesk = s.xiesk := rfl
@[simp] theorem State.enterMode_power (s : State) (m : ModState) : (s.enterMode m).power = s.power := rfl
@[simp] theorem State.enterMode_clock (s : State) (m : ModState) : (s.enterMode m).clock = s.clock := rfl
@[simp] theorem State.enterMode_flashOld (s : State) (m : ModState) : (s.enterMode m).flashOld = s.flashOld := rfl
@[simp] theorem State.enterMode_boot (s : State) (m : ModState) : (s.enterMode m).boot = s.boot := rfl
@[simp] theorem State.enterMode_get_tile (s : State) (m : ModState) (i : Nat) : (s.enterMode m).tile i = s.tile i := rfl
@[simp] theorem State.enterMode_get_die (s : State) (m : ModState) (i : Nat) : (s.enterMode m).die i = s.die i := rfl
@[simp] theorem State.enterMode_get_core (s : State) (m : ModState) (i : Nat) : (s.enterMode m).core i = s.core i := rfl
@[simp] theorem State.enterMode_get_thread (s : State) (m : ModState) (i : Nat) : (s.enterMode m).thread i = s.thread i := rfl
@[simp] theorem State.enterMode_get_seam (s : State) (m : ModState) (i : Nat) : (s.enterMode m).seam i = s.seam i := rfl
@[simp] theorem State.enterMode_get_peg (s : State) (m : ModState) (i : Nat) : (s.enterMode m).peg i = s.peg i := rfl
@[simp] theorem State.enterMode_get_comp (s : State) (m : ModState) (i : Nat) : (s.enterMode m).comp i = s.comp i := rfl
@[simp] theorem State.enterMode_get_func (s : State) (m : ModState) (i : Nat) : (s.enterMode m).func i = s.func i := rfl
@[simp] theorem State.enterMode_get_mbox (s : State) (m : ModState) (i j : Nat) : (s.enterMode m).mbox i j = s.mbox i j := rfl
@[simp] theorem State.enterMode_get_port (s : State) (m : ModState) (i : Nat) : (s.enterMode m).port i = s.port i := rfl
@[simp] theorem State.enterMode_get_obj (s : State) (m : ModState) (i : Nat) : (s.enterMode m).obj i = s.obj i := rfl
@[simp] theorem State.enterMode_get_objC (s : State) (m : ModState) (i j : Nat) : (s.enterMode m).objC i j = s.objC i j := rfl
@[simp] theorem State.enterMode_get_now (s : State) (m : ModState) : (s.enterMode m).now = s.now := rfl
@[simp] theorem State.enterMode_get_stamp (s : State) (m : ModState) : (s.enterMode m).stamp = s.stamp := rfl

/-! What an update writes. -/

@[simp] theorem State.tile_setTile_self (s : State) (k : Nat) (x : Tile) : (s.setTile k x).tile k = x := kget_kput_self _ _ _ _
@[simp] theorem State.tile_setTile_other (s : State) (k j : Nat) (x : Tile) (h : j ≠ k) : (s.setTile k x).tile j = s.tile j :=
  kget_kput_other _ _ _ _ _ h
theorem State.tile_setTile (s : State) (k j : Nat) (x : Tile) : (s.setTile k x).tile j = if j = k then x else s.tile j :=
  kget_kput _ _ _ _ _
@[simp] theorem State.die_setDie_self (s : State) (k : Nat) (x : Die) : (s.setDie k x).die k = x := kget_kput_self _ _ _ _
@[simp] theorem State.die_setDie_other (s : State) (k j : Nat) (x : Die) (h : j ≠ k) : (s.setDie k x).die j = s.die j :=
  kget_kput_other _ _ _ _ _ h
theorem State.die_setDie (s : State) (k j : Nat) (x : Die) : (s.setDie k x).die j = if j = k then x else s.die j :=
  kget_kput _ _ _ _ _
@[simp] theorem State.core_setCore_self (s : State) (k : Nat) (x : Core) : (s.setCore k x).core k = x := kget_kput_self _ _ _ _
@[simp] theorem State.core_setCore_other (s : State) (k j : Nat) (x : Core) (h : j ≠ k) : (s.setCore k x).core j = s.core j :=
  kget_kput_other _ _ _ _ _ h
theorem State.core_setCore (s : State) (k j : Nat) (x : Core) : (s.setCore k x).core j = if j = k then x else s.core j :=
  kget_kput _ _ _ _ _
@[simp] theorem State.thread_setThread_self (s : State) (k : Nat) (x : Thread) : (s.setThread k x).thread k = x := kget_kput_self _ _ _ _
@[simp] theorem State.thread_setThread_other (s : State) (k j : Nat) (x : Thread) (h : j ≠ k) : (s.setThread k x).thread j = s.thread j :=
  kget_kput_other _ _ _ _ _ h
theorem State.thread_setThread (s : State) (k j : Nat) (x : Thread) : (s.setThread k x).thread j = if j = k then x else s.thread j :=
  kget_kput _ _ _ _ _
@[simp] theorem State.seam_setSeam_self (s : State) (k : Nat) (x : Seam) : (s.setSeam k x).seam k = x := kget_kput_self _ _ _ _
@[simp] theorem State.seam_setSeam_other (s : State) (k j : Nat) (x : Seam) (h : j ≠ k) : (s.setSeam k x).seam j = s.seam j :=
  kget_kput_other _ _ _ _ _ h
theorem State.seam_setSeam (s : State) (k j : Nat) (x : Seam) : (s.setSeam k x).seam j = if j = k then x else s.seam j :=
  kget_kput _ _ _ _ _
@[simp] theorem State.peg_setPeg_self (s : State) (k : Nat) (x : Peg) : (s.setPeg k x).peg k = x := kget_kput_self _ _ _ _
@[simp] theorem State.peg_setPeg_other (s : State) (k j : Nat) (x : Peg) (h : j ≠ k) : (s.setPeg k x).peg j = s.peg j :=
  kget_kput_other _ _ _ _ _ h
theorem State.peg_setPeg (s : State) (k j : Nat) (x : Peg) : (s.setPeg k x).peg j = if j = k then x else s.peg j :=
  kget_kput _ _ _ _ _
@[simp] theorem State.comp_setComp_self (s : State) (k : Nat) (x : Comp) : (s.setComp k x).comp k = x := kget_kput_self _ _ _ _
@[simp] theorem State.comp_setComp_other (s : State) (k j : Nat) (x : Comp) (h : j ≠ k) : (s.setComp k x).comp j = s.comp j :=
  kget_kput_other _ _ _ _ _ h
theorem State.comp_setComp (s : State) (k j : Nat) (x : Comp) : (s.setComp k x).comp j = if j = k then x else s.comp j :=
  kget_kput _ _ _ _ _
@[simp] theorem State.func_setFunc_self (s : State) (k : Nat) (x : Func) : (s.setFunc k x).func k = x := kget_kput_self _ _ _ _
@[simp] theorem State.func_setFunc_other (s : State) (k j : Nat) (x : Func) (h : j ≠ k) : (s.setFunc k x).func j = s.func j :=
  kget_kput_other _ _ _ _ _ h
theorem State.func_setFunc (s : State) (k j : Nat) (x : Func) : (s.setFunc k x).func j = if j = k then x else s.func j :=
  kget_kput _ _ _ _ _
@[simp] theorem State.port_setPort_self (s : State) (k : Nat) (x : Port) : (s.setPort k x).port k = x := kget_kput_self _ _ _ _
@[simp] theorem State.port_setPort_other (s : State) (k j : Nat) (x : Port) (h : j ≠ k) : (s.setPort k x).port j = s.port j :=
  kget_kput_other _ _ _ _ _ h
theorem State.port_setPort (s : State) (k j : Nat) (x : Port) : (s.setPort k x).port j = if j = k then x else s.port j :=
  kget_kput _ _ _ _ _
@[simp] theorem State.mbox_setMBox_self (s : State) (n m : Nat) (x : MBox) : (s.setMBox n m x).mbox n m = x :=
  kget_kput_self _ _ _ _
@[simp] theorem State.mbox_setMBox_other (s : State) (n m i j : Nat) (x : MBox) (h : 64 * i + j ≠ 64 * n + m) :
    (s.setMBox n m x).mbox i j = s.mbox i j := kget_kput_other _ _ _ _ _ h
@[simp] theorem State.obj_setObj_self (s : State) (k v : Nat) : (s.setObj k v).obj k = v := kget_kput_self _ _ _ _
@[simp] theorem State.obj_setObj_other (s : State) (k j v : Nat) (h : j ≠ k) : (s.setObj k v).obj j = s.obj j :=
  kget_kput_ne _ _ _ _ _ _ h
@[simp] theorem State.emit_out (s : State) (o : Output) : (s.emit o).out = o :: s.out := rfl
@[simp] theorem State.tickFresh_fresh (s : State) : s.tickFresh.fresh = s.fresh + 1 := rfl
@[simp] theorem State.enterMode_mode (s : State) (m : ModState) : (s.enterMode m).mode = m := rfl
@[simp] theorem State.enterMode_modeAt (s : State) (m : ModState) : (s.enterMode m).modeAt = s.now := rfl

/-! Updates made of one update. -/

theorem State.modTile_eq (s : State) (t : Nat) (f : Tile → Tile) : s.modTile t f = s.setTile t (f (s.tile t)) := rfl
theorem State.modThread_eq (s : State) (k : Nat) (f : Thread → Thread) : s.modThread k f = s.setThread k (f (s.thread k)) := rfl
theorem State.modComp_eq (s : State) (n : Nat) (f : Comp → Comp) : s.modComp n f = s.setComp n (f (s.comp n)) := rfl
theorem State.modFunc_eq (s : State) (n : Nat) (f : Func → Func) : s.modFunc n f = s.setFunc n (f (s.func n)) := rfl

/-! Registers of a thread: x0 reads zero and discards writes (R134). -/

@[simp] theorem Thread.getX_zero (t : Thread) : t.getX 0 = 0 := rfl
@[simp] theorem Thread.setX_zero (t : Thread) (v : W64) : t.setX 0 v = t := rfl
theorem Thread.getX_setX (t : Thread) (r q : Nat) (v : W64) :
    (t.setX r v).getX q = if q = r ∧ r ≠ 0 then v else t.getX q := by
  by_cases hq : q = 0
  · subst hq; by_cases hr : r = 0 <;> simp [hr, Thread.getX] ; intro h; exact absurd h.symm hr
  · by_cases hr : r = 0
    · subst hr; simp [hq]
    · simp [Thread.getX, Thread.setX, hq, hr, kget_kput]

end Sys2Proof.Machine
end

