-- ==== Sys2Proof/Laws/Kept.lean ====
section
/-! SUPPORT. What every operation of a command keeps: the queue of waiting commands, and the order of the fault log (R552). Kept cmds t
says that t has the queue cmds and a log in order; an operation keeps both, so a meaning made of operations does. -/

namespace Sys2Proof.Machine
open Sys2Proof

/-- The queue is cmds and the fault log is in order. -/
structure Kept (cmds : List Instr) (t : State) : Prop where
  queue : t.pending = cmds
  sound : t.log.Sound

variable {cmds : List Instr}

namespace Kept

/-- A state changed in neither part. -/
theorem same {s t : State} (h : Kept cmds s) (h1 : t.pending = s.pending := by rfl) (h2 : t.log = s.log := by rfl) :
    Kept cmds t := ⟨h1.trans h.queue, h2 ▸ h.sound⟩
theorem log {s : State} (h : Kept cmds s) (g : FaultLog) (hg : g.Sound) : Kept cmds { s with log := g } := ⟨h.queue, hg⟩

/-- A state made of another's queue and log and of anything else. -/
theorem raw {s : State} (h : Kept cmds s)
    (out : List Output) (fresh : Nat) (time : Nat) (mode : ModState) (modeAt : Nat) (startPending : Bool) (going :
    Option Going) (goingAt : Nat) (cleanEnd : Bool) (windowAt : Nat) (pins : Pins) (objs : List (Nat × Nat)) (stored
    : List (Nat × Nat)) (fwStage : List Byte) (dies : List (Nat × Die)) (tiles : List (Nat × Tile)) (cores : List
    (Nat × Core)) (threads : List (Nat × Thread)) (seams : List (Nat × Seam)) (pegs : List (Nat × Peg)) (comps :
    List (Nat × Comp)) (ports : List (Nat × Port)) (egress : List QPkt) (leasesOut : List (Nat × Option LeaseOut))
    (funcs : List (Nat × Func)) (mboxes : List (Nat × MBox)) (hostLink : Bool) (rot : Rot) (xiesk : Xiesk) (power :
    Power) (clock : Clock) (flashOld : Nat) (boot : List (Nat × FwHdr)) :
    Kept cmds (State.mk
      s.pending out fresh time mode modeAt startPending going goingAt cleanEnd windowAt pins objs stored s.log
      fwStage dies tiles cores threads seams pegs comps ports egress leasesOut funcs mboxes hostLink rot xiesk
      power clock flashOld boot) :=
  ⟨h.queue, h.sound⟩

theorem setTile {s : State} (h : Kept cmds s) (t : Nat) (y : Tile) : Kept cmds (s.setTile t y) := h.same
theorem modTile {s : State} (h : Kept cmds s) (t : Nat) (f : Tile → Tile) : Kept cmds (s.modTile t f) := h.same
theorem setComp {s : State} (h : Kept cmds s) (n : Nat) (c : Comp) : Kept cmds (s.setComp n c) := h.same
theorem modComp {s : State} (h : Kept cmds s) (n : Nat) (f : Comp → Comp) : Kept cmds (s.modComp n f) := h.same
theorem modUpd {s : State} (h : Kept cmds s) (n : Nat) (f : Upd → Upd) : Kept cmds (s.modUpd n f) := h.same
theorem setDie {s : State} (h : Kept cmds s) (k : Nat) (x : Die) : Kept cmds (s.setDie k x) := h.same
theorem setCore {s : State} (h : Kept cmds s) (k : Nat) (x : Core) : Kept cmds (s.setCore k x) := h.same
theorem setThread {s : State} (h : Kept cmds s) (k : Nat) (x : Thread) : Kept cmds (s.setThread k x) := h.same
theorem modThread {s : State} (h : Kept cmds s) (k : Nat) (f : Thread → Thread) : Kept cmds (s.modThread k f) := h.same
theorem setSeam {s : State} (h : Kept cmds s) (k : Nat) (x : Seam) : Kept cmds (s.setSeam k x) := h.same
theorem setPeg {s : State} (h : Kept cmds s) (k : Nat) (x : Peg) : Kept cmds (s.setPeg k x) := h.same
theorem setFunc {s : State} (h : Kept cmds s) (k : Nat) (x : Func) : Kept cmds (s.setFunc k x) := h.same
theorem modFunc {s : State} (h : Kept cmds s) (k : Nat) (f : Func → Func) : Kept cmds (s.modFunc k f) := h.same
theorem setMBox {s : State} (h : Kept cmds s) (n m : Nat) (x : MBox) : Kept cmds (s.setMBox n m x) := h.same
theorem setPort {s : State} (h : Kept cmds s) (k : Nat) (x : Port) : Kept cmds (s.setPort k x) := h.same
theorem setObj {s : State} (h : Kept cmds s) (k v : Nat) : Kept cmds (s.setObj k v) := h.same
theorem setObjC {s : State} (h : Kept cmds s) (k n v : Nat) : Kept cmds (s.setObjC k n v) := h.same
theorem inc {s : State} (h : Kept cmds s) (k v : Nat) : Kept cmds (s.inc k v) := h.same
theorem incC {s : State} (h : Kept cmds s) (k n v : Nat) : Kept cmds (s.incC k n v) := h.same
theorem emit {s : State} (h : Kept cmds s) (o : Output) : Kept cmds (s.emit o) := h.same
theorem tickFresh {s : State} (h : Kept cmds s) : Kept cmds s.tickFresh := h.same
theorem enterMode {s : State} (h : Kept cmds s) (m : ModState) : Kept cmds (s.enterMode m) := h.same
theorem reply {s : State} (h : Kept cmds s) (st : Status) (a b : Nat) : Kept cmds (s.reply st a b) := h.same

/-- A fold of operations that each keep. -/
theorem foldl {α : Type} {f : State → α → State} (hf : ∀ (a : State) (x : α), Kept cmds a → Kept cmds (f a x)) :
    ∀ (l : List α) {s : State}, Kept cmds s → Kept cmds (l.foldl f s)
  | [], _, h => h
  | x :: l, _, h => foldl hf l (hf _ x h)

/-- A fold that carries something beside the state. -/
theorem foldl_snd {α β : Type} {f : β × State → α → β × State} (hf : ∀ a x, Kept cmds a.2 → Kept cmds (f a x).2) :
    ∀ (l : List α) {a : β × State}, Kept cmds a.2 → Kept cmds (l.foldl f a).2
  | [], _, h => h
  | x :: l, _, h => foldl_snd hf l (hf _ x h)

/-- A fold that carries something before the state. -/
theorem foldl_fst {α β : Type} {f : State × β → α → State × β} (hf : ∀ a x, Kept cmds a.1 → Kept cmds (f a x).1) :
    ∀ (l : List α) {a : State × β}, Kept cmds a.1 → Kept cmds (l.foldl f a).1
  | [], _, h => h
  | x :: l, _, h => foldl_fst hf l (hf _ x h)

/-- A fold that carries two things beside the state. -/
theorem foldl_snd2 {α β γ : Type} {f : β × γ × State → α → β × γ × State}
    (hf : ∀ a x, Kept cmds a.2.2 → Kept cmds (f a x).2.2) :
    ∀ (l : List α) {a : β × γ × State}, Kept cmds a.2.2 → Kept cmds (l.foldl f a).2.2
  | [], _, h => h
  | x :: l, _, h => foldl_snd2 hf l (hf _ x h)

theorem snd2_of_eq {β γ : Type} {p : β × γ × State} {b : β} {c : γ} {t : State} (e : p = (b, c, t))
    (h : Kept cmds p.2.2) : Kept cmds t := by
  subst e; exact h
theorem getD {o : Option State} {d : State} (ho : ∀ t, o = some t → Kept cmds t) (hd : Kept cmds d) :
    Kept cmds (o.getD d) := by
  cases o with
  | none => exact hd
  | some t => exact ho t rfl
theorem snd_of_eq {β : Type} {p : β × State} {b : β} {t : State} (e : p = (b, t)) (h : Kept cmds p.2) : Kept cmds t := by
  subst e; exact h
theorem fst_of_eq {β : Type} {p : State × β} {b : β} {t : State} (e : p = (t, b)) (h : Kept cmds p.1) : Kept cmds t := by
  subst e; exact h

end Kept

/-! The fault log (R552). -/

theorem LogOrder.mono {es : List LogEntry} {a b : Nat} (h : LogOrder es a) (hab : a ≤ b) : LogOrder es b :=
  ⟨h.count, h.rising, fun e he => Nat.lt_of_lt_of_le (h.below e he) hab⟩

theorem LogOrder.tail {es : List LogEntry} {a : Nat} (h : LogOrder es a) : LogOrder (es.drop 1) a :=
  ⟨by have := h.count; simp only [List.length_drop]; omega,
   by rw [List.map_drop]; exact h.rising.sublist (List.drop_sublist _ _),
   fun e he => h.below e (List.mem_of_mem_drop he)⟩

theorem LogOrder.append {es : List LogEntry} {a : Nat} (h : LogOrder es a) (e : LogEntry) (he : e.seq = a)
    (hl : es.length < 1024) : LogOrder (es ++ [e]) (a + 1) := by
  refine ⟨by simp only [List.length_append, List.length_singleton]; omega, ?_, ?_⟩
  · rw [List.map_append, List.pairwise_append]
    refine ⟨h.rising, by simp, ?_⟩
    intro x hx y hy
    obtain ⟨z, hz, rfl⟩ := List.mem_map.1 hx
    simp only [List.map_cons, List.map_nil, List.mem_singleton] at hy
    subst hy
    have := h.below z hz
    show z.seq < e.seq
    omega
  · intro x hx
    rcases List.mem_append.1 hx with h1 | h1
    · exact Nat.lt_succ_of_lt (h.below x h1)
    · simp only [List.mem_singleton] at h1
      subst h1
      omega

theorem FaultLog.init_sound : FaultLog.init.Sound :=
  ⟨⟨by decide, by decide, fun _ h => nomatch h⟩, ⟨by decide, by decide, fun _ h => nomatch h⟩, by decide⟩

/-- An entry logged keeps the order of the log. -/
theorem FaultLog.Sound.add {g : FaultLog} (h : g.Sound) (e : LogEntry) (he : e.seq = g.nextSeq) :
    FaultLog.Sound { g with entries := (if decide (g.entries.length ≥ 1024) then g.entries.drop 1 else g.entries) ++ [e],
                            nextSeq := g.nextSeq + 1,
                            ceiling := if g.nextSeq = g.ceiling then g.ceiling + 4096 else g.ceiling } := by
  refine ⟨?_, h.mirror.mono (Nat.le_succ _), ?_⟩
  · by_cases hf : g.entries.length ≥ 1024
    · simp only [hf, decide_true, if_true]
      exact h.entries.tail.append e he (by have := h.entries.count; simp only [List.length_drop]; omega)
    · simp only [hf, decide_false]
      exact h.entries.append e he (by omega)
  · have := h.ceiling
    show g.nextSeq + 1 ≤ if g.nextSeq = g.ceiling then g.ceiling + 4096 else g.ceiling
    split <;> omega

theorem FaultLog.Sound.win {g : FaultLog} (h : g.Sound) (w : List (Nat × Nat)) : FaultLog.Sound { g with lastWin := w } :=
  ⟨h.entries, h.mirror, h.ceiling⟩

end Sys2Proof.Machine
end

