-- ==== Sys2Proof/Laws/KeptOps.lean ====
section
/-! SUPPORT. Every operation of Ops, Events, Threads, Tiles, Keeper, Hold keeps the queue and the bounds (Laws/Kept.lean). -/

namespace Sys2Proof.Machine
open Sys2Proof

variable {cmds : List Instr}

/-! Ops. -/

theorem Kept.emits {s : State} (h : Kept cmds s) (os : List Output) : Kept cmds (s.emits os) :=
  Kept.foldl (fun _ _ ha => ha.emit _) os h

theorem Kept.logEntry {s : State} (h : Kept cmds s) (code comp subject cause d0 d1 : Nat) :
    Kept cmds (s.logEntry code comp subject cause d0 d1) := by
  have hs := h.log _ (h.sound.add
    { code := code, comp := comp, mstate := s.mode.code, subject := subject, cause := cause, time := s.time,
      seq := s.log.nextSeq, d0 := d0, d1 := d1 } rfl)
  unfold State.logEntry
  by_cases hf : s.log.entries.length ≥ 1024
  · simp only [hf, decide_true, if_true] at hs ⊢
    exact hs.inc _ _
  · simp only [hf, decide_false] at hs ⊢
    exact hs

theorem Kept.fault {s : State} (h : Kept cmds s) (code : Nat) (comp : Nat) (subject : Nat) (cause : Nat) (d0 : Nat) (d1 : Nat) :
    Kept cmds (State.fault s code comp subject cause d0 d1) := by
  unfold State.fault
  try dsimp only
  repeat' first
    | with_reducible assumption
    | with_reducible apply Kept.logEntry

theorem Kept.faultOnce {s : State} (h : Kept cmds s) (code comp subject d0 : Nat) :
    Kept cmds (s.faultOnce code comp subject d0) := by
  unfold State.faultOnce
  split
  · exact h
  · have h1 := h.logEntry code comp subject 0 d0 0
    exact h1.log _ (h1.sound.win _)

theorem Kept.faultFirst {s : State} (h : Kept cmds s) (n : Nat) (code : Nat) (subject : Nat) (d0 : Nat) (d1 : Nat) :
    Kept cmds (State.faultFirst s n code subject d0 d1) := by
  unfold State.faultFirst
  try dsimp only
  repeat' first
    | with_reducible assumption
    | with_reducible apply Kept.modComp
    | with_reducible apply Kept.fault
    | split

theorem Kept.rearmLog {s : State} (h : Kept cmds s) (n : Nat) (family : Nat) :
    Kept cmds (State.rearmLog s n family) := by
  unfold State.rearmLog
  try dsimp only
  repeat' first
    | with_reducible assumption
    | with_reducible apply Kept.modComp

theorem Kept.raiseOn {s : State} (h : Kept cmds s) (f : Nat) (b : Nat) :
    Kept cmds (State.raiseOn s f b) := by
  unfold State.raiseOn
  try dsimp only
  repeat' first
    | with_reducible assumption
    | with_reducible apply Kept.setFunc
    | with_reducible apply Kept.emit
    | split

theorem Kept.raise {s : State} (h : Kept cmds s) (b : Nat) (n : Nat) :
    Kept cmds (State.raise s b n) := by
  unfold State.raise
  try dsimp only
  repeat' first
    | with_reducible assumption
    | with_reducible apply Kept.raiseOn

theorem Kept.raiseAll {s : State} (h : Kept cmds s) (b : Nat) :
    Kept cmds (State.raiseAll s b) := by
  unfold State.raiseAll
  try dsimp only
  repeat' first
    | with_reducible assumption
    | with_reducible apply Kept.raiseOn
    | with_reducible refine Kept.foldl (fun _ _ _ => ?_) _ ?_

theorem Kept.followComps {s : State} (h : Kept cmds s) :
    Kept cmds (State.followComps s) := by
  unfold State.followComps
  try dsimp only
  repeat' first
    | with_reducible assumption
    | with_reducible apply Kept.enterMode
    | split

theorem Kept.setCState {s : State} (h : Kept cmds s) (n : Nat) (st : CState) :
    Kept cmds (State.setCState s n st) := by
  unfold State.setCState
  try dsimp only
  repeat' first
    | with_reducible assumption
    | with_reducible apply Kept.modComp
    | with_reducible apply Kept.raise
    | with_reducible apply Kept.followComps

theorem Kept.breakResv {s : State} (h : Kept cmds s) (t : Nat) (a : Nat) (n : Nat) :
    Kept cmds (State.breakResv s t a n) := by
  unfold State.breakResv
  try dsimp only
  repeat' first
    | (with_reducible apply Kept.raw; first | with_reducible assumption)

theorem Kept.tsWrite {s : State} (h : Kept cmds s) (t : Nat) (a : Nat) (bs : List Byte) :
    Kept cmds (State.tsWrite s t a bs) := by
  unfold State.tsWrite
  try dsimp only
  repeat' first
    | with_reducible assumption
    | with_reducible apply Kept.modTile
    | with_reducible apply Kept.breakResv
    | split

theorem Kept.respond {s : State} (h : Kept cmds s) (n : Nat) (node : Nat) (tag : Nat) (status : Nat) (operand : Nat) (data : List Byte) :
    Kept cmds (State.respond s n node tag status operand data) := by
  unfold State.respond
  try dsimp only
  repeat' first
    | split
    | (with_reducible apply Kept.raw; first | with_reducible assumption)

theorem Kept.purge {s : State} (h : Kept cmds s) (k : Nat) :
    Kept cmds (State.purge s k) := by
  unfold State.purge
  try dsimp only
  repeat' first
    | with_reducible assumption
    | with_reducible apply Kept.setCore
    | split

theorem Kept.wake {s : State} (h : Kept cmds s) (w : Waiter) :
    Kept cmds (State.wake s w) := by
  unfold State.wake
  try dsimp only
  repeat' first
    | with_reducible assumption
    | with_reducible apply Kept.modThread
    | with_reducible apply Kept.setObjC
    | with_reducible apply Kept.respond
    | with_reducible apply Kept.purge
    | split

theorem Kept.stampRing {s : State} (h : Kept cmds s) (p : Nat) (v : Nat) :
    Kept cmds (State.stampRing s p v) := by
  unfold State.stampRing
  try dsimp only
  repeat' first
    | with_reducible assumption
    | with_reducible apply Kept.modComp
    | split

theorem Kept.pegAdd {s : State} (h : Kept cmds s) (seq : Bool) (p : Nat) (n : Nat) :
    ∀ t', State.pegAdd s seq p n = some t' → Kept cmds t' := by
  intro t' e
  unfold State.pegAdd at e
  try dsimp only at e
  revert e
  repeat' first
    | (intro e; cases e; done)
    | (intro e; injection e with e; subst e)
    | with_reducible assumption
    | with_reducible apply Kept.setPeg
    | with_reducible apply Kept.wake
    | with_reducible apply Kept.stampRing
    | with_reducible refine Kept.foldl (fun _ _ _ => ?_) _ ?_
    | split

theorem Kept.unitPost {s : State} (h : Kept cmds s) (n : Nat) (p : Nat) :
    Kept cmds (State.unitPost s n p) := by
  unfold State.unitPost
  try dsimp only
  repeat' first
    | with_reducible assumption
    | with_reducible apply Kept.incC
    | with_reducible apply Kept.faultOnce
    | with_reducible refine Kept.pegAdd ?_ _ _ _ _ (by assumption)
    | split

theorem Kept.actOn {s : State} (h : Kept cmds s) (n : Nat) (unit : Nat) :
    Kept cmds (State.actOn s n unit) := by
  unfold State.actOn
  try dsimp only
  repeat' first
    | with_reducible assumption
    | with_reducible apply Kept.modComp

theorem Kept.copyPage {s : State} (h : Kept cmds s) (n : Nat) (p : Nat) :
    Kept cmds (State.copyPage s n p) := by
  unfold State.copyPage
  try dsimp only
  repeat' first
    | with_reducible assumption
    | with_reducible apply Kept.modComp
    | split

theorem Kept.copyAhead {s : State} (h : Kept cmds s) (n : Nat) (p : Nat) :
    Kept cmds (State.copyAhead s n p) := by
  unfold State.copyAhead
  try dsimp only
  repeat' first
    | with_reducible assumption
    | with_reducible apply Kept.incC
    | with_reducible apply Kept.copyPage
    | split

/-- An outcome that goes on, to a state that keeps the queue and the bounds. -/
def Goes (cmds : List Instr) (o : Host.Outcome State Fault Refusal) : Prop := ∃ t, o = .next t ∧ Kept cmds t

theorem Goes.ok {s : State} (h : Kept cmds s) : Goes cmds (ok s) := ⟨s, rfl, h⟩

theorem Kept.clearWrite {s : State} (h : Kept cmds s) (r : Role) (key : Nat) (v : Bool) (f : State → State)
    (hf : Kept cmds (f s)) : Kept cmds (s.clearWrite r key v f) := by
  unfold State.clearWrite
  split
  · split
    · exact hf.reply _ _ _
    · exact h.reply _ _ _
  · exact h.reply _ _ _


/-! Events. -/

theorem Kept.aggCount {s : State} (h : Kept cmds s) (n : Nat) (j : Nat) (k : Nat) :
    Kept cmds (State.aggCount s n j k) := by
  unfold State.aggCount
  try dsimp only
  repeat' first
    | with_reducible assumption
    | with_reducible apply Kept.setObj
    | split

theorem Kept.tileEvent {s : State} (h : Kept cmds s) (t : Nat) (code : Nat) (k : Nat) :
    Kept cmds (State.tileEvent s t code k) := by
  unfold State.tileEvent
  try dsimp only
  repeat' first
    | with_reducible assumption
    | with_reducible apply Kept.modTile
    | with_reducible apply Kept.aggCount
    | with_reducible refine Kept.foldl (fun _ _ _ => ?_) _ ?_
    | split

theorem Kept.compEvent {s : State} (h : Kept cmds s) (n : Nat) (code : Nat) (k : Nat) :
    Kept cmds (State.compEvent s n code k) := by
  unfold State.compEvent
  try dsimp only
  repeat' first
    | with_reducible assumption
    | with_reducible apply Kept.aggCount
    | with_reducible refine Kept.foldl (fun _ _ _ => ?_) _ ?_
    | split


/-! Threads. -/

theorem Kept.beatTouch {s : State} (h : Kept cmds s) (k : Nat) :
    Kept cmds (State.beatTouch s k) := by
  unfold State.beatTouch
  try dsimp only
  repeat' first
    | with_reducible assumption
    | with_reducible apply Kept.modTile

theorem Kept.beat {s : State} (h : Kept cmds s) (t : ThreadId) (n : Nat) :
    Kept cmds (State.beat s t n) := by
  unfold State.beat
  try dsimp only
  repeat' first
    | with_reducible assumption
    | with_reducible apply Kept.modTile
    | with_reducible apply Kept.setCore
    | with_reducible apply Kept.tileEvent
    | with_reducible apply Kept.beatTouch
    | split

theorem Kept.retire {s : State} (h : Kept cmds s) (t : ThreadId) (rd : Nat) (v : Nat) (len : Nat) :
    Kept cmds (State.retire s t rd v len) := by
  unfold State.retire
  try dsimp only
  repeat' first
    | with_reducible assumption
    | with_reducible apply Kept.modThread
    | with_reducible apply Kept.tileEvent

theorem Kept.haltThread {s : State} (h : Kept cmds s) (t : ThreadId) (n : Nat) (code : Nat) :
    Kept cmds (State.haltThread s t n code) := by
  unfold State.haltThread
  try dsimp only
  repeat' first
    | with_reducible assumption
    | with_reducible apply Kept.modThread
    | with_reducible apply Kept.setObjC
    | with_reducible apply Kept.fault
    | split

theorem Kept.divert {s : State} (h : Kept cmds s) (t : ThreadId) (n : Nat) (code : Nat) (tval : Nat) :
    Kept cmds (State.divert s t n code tval) := by
  unfold State.divert
  try dsimp only
  repeat' first
    | with_reducible assumption
    | with_reducible apply Kept.modThread
    | with_reducible apply Kept.haltThread
    | split

theorem Kept.exception {s : State} (h : Kept cmds s) (t : ThreadId) (n : Nat) (code : Nat) (tval : Nat) :
    Kept cmds (State.exception s t n code tval) := by
  unfold State.exception
  try dsimp only
  repeat' first
    | with_reducible assumption
    | with_reducible apply Kept.incC
    | with_reducible apply Kept.fault
    | with_reducible apply Kept.tileEvent
    | with_reducible apply Kept.divert
    | split

theorem Kept.raStop {s : State} (h : Kept cmds s) (t : ThreadId) :
    Kept cmds (State.raStop s t) := by
  unfold State.raStop
  try dsimp only
  repeat' first
    | with_reducible assumption
    | with_reducible apply Kept.modThread

theorem Kept.raSkip {s : State} (h : Kept cmds s) (t : ThreadId) (rd : Nat) (len : Nat) :
    Kept cmds (State.raSkip s t rd len) := by
  unfold State.raSkip
  try dsimp only
  repeat' first
    | with_reducible assumption
    | with_reducible apply Kept.modThread

theorem Kept.issue {s : State} (h : Kept cmds s) (t : ThreadId) (rd : Nat) (f : State → Nat → State)
    (hf : ∀ a n, Kept cmds a → Kept cmds (f a n)) : Kept cmds (s.issue t rd f) := by
  unfold State.issue
  split
  · exact h
  · split
    · exact (h.beat t _).raSkip t rd _
    · exact hf _ _ (h.beat t _)

theorem Kept.signal {s : State} (h : Kept cmds s) (thread : Nat) (bitNo : Nat) (status : Nat) (recAddr : Nat) :
    Kept cmds (State.signal s thread bitNo status recAddr) := by
  unfold State.signal
  try dsimp only
  repeat' first
    | with_reducible assumption
    | with_reducible apply Kept.modThread
    | split

theorem Kept.unstall {s : State} (h : Kept cmds s) (tile : Nat) (e : Engine) :
    Kept cmds (State.unstall s tile e) := by
  unfold State.unstall
  try dsimp only
  repeat' first
    | (with_reducible apply Kept.raw; first | with_reducible assumption)


/-! Tiles. -/

theorem Kept.dropTileWaiters {s : State} (h : Kept cmds s) (t : Nat) :
    Kept cmds (State.dropTileWaiters s t) := by
  unfold State.dropTileWaiters
  try dsimp only
  repeat' first
    | (with_reducible apply Kept.raw; first | with_reducible assumption)

theorem Kept.dropThreads {s : State} (h : Kept cmds s) (t : Nat) :
    Kept cmds (State.dropThreads s t) := by
  unfold State.dropThreads
  try dsimp only
  repeat' first
    | with_reducible assumption
    | (with_reducible apply Kept.raw; first | with_reducible assumption | with_reducible apply Kept.dropTileWaiters)

theorem Kept.fenceTile {s : State} (h : Kept cmds s) (t : Nat) (cause : Nat) :
    Kept cmds (State.fenceTile s t cause) := by
  unfold State.fenceTile
  try dsimp only
  repeat' first
    | with_reducible assumption
    | with_reducible apply Kept.setTile
    | with_reducible apply Kept.setObj
    | with_reducible apply Kept.fault
    | with_reducible apply Kept.raiseOn
    | with_reducible apply Kept.raise
    | with_reducible apply Kept.dropThreads
    | split

theorem Kept.fenceFor {s : State} (h : Kept cmds s) (t : Nat) (code : Nat) :
    Kept cmds (State.fenceFor s t code) := by
  unfold State.fenceFor
  try dsimp only
  repeat' first
    | with_reducible assumption
    | with_reducible apply Kept.fault
    | with_reducible apply Kept.fenceTile
    | split

theorem Kept.latchCadence {s : State} (h : Kept cmds s) (x : CadSample) :
    Kept cmds (State.latchCadence s x) := by
  unfold State.latchCadence
  try dsimp only
  repeat' first
    | with_reducible assumption
    | with_reducible apply Kept.setTile
    | with_reducible apply Kept.fenceFor
    | split

theorem Goes.execCadenceWindow {s : State} (h : Kept cmds s) (samples : List CadSample) :
    Goes cmds (Machine.execCadenceWindow samples s) := by
  unfold Machine.execCadenceWindow
  try dsimp only
  repeat' first
    | with_reducible apply Goes.ok
    | with_reducible assumption
    | with_reducible apply Kept.latchCadence
    | with_reducible refine Kept.foldl (fun _ _ _ => ?_) _ ?_
    | split
    | (with_reducible apply Kept.raw; first | with_reducible assumption | with_reducible apply Goes.ok | with_reducible apply Kept.latchCadence)

theorem Goes.execBoostEntry {s : State} (h : Kept cmds s) (d : DieNo) :
    Goes cmds (Machine.execBoostEntry d s) := by
  unfold Machine.execBoostEntry
  try dsimp only
  repeat' first
    | with_reducible apply Goes.ok
    | with_reducible assumption
    | with_reducible apply Kept.setDie
    | split

theorem Goes.execBoostRailStep {s : State} (h : Kept cmds s) (d : DieNo) (lowest : Nat) :
    Goes cmds (Machine.execBoostRailStep d lowest s) := by
  unfold Machine.execBoostRailStep
  try dsimp only
  repeat' first
    | with_reducible apply Goes.ok
    | with_reducible assumption
    | with_reducible apply Kept.setDie
    | split

theorem Goes.execBoostExit {s : State} (h : Kept cmds s) (d : DieNo) :
    Goes cmds (Machine.execBoostExit d s) := by
  unfold Machine.execBoostExit
  try dsimp only
  repeat' first
    | with_reducible apply Goes.ok
    | with_reducible assumption
    | with_reducible apply Kept.setDie
    | split

theorem Kept.permitTile {s : State} (h : Kept cmds s) (deficit : List Nat) (n : Nat) (t : Nat) :
    Kept cmds (State.permitTile deficit n s t) := by
  unfold State.permitTile
  try dsimp only
  repeat' first
    | with_reducible assumption
    | with_reducible apply Kept.setTile
    | with_reducible apply Kept.incC
    | with_reducible apply Kept.faultOnce
    | with_reducible apply Kept.tileEvent
    | split

theorem Goes.execPacerPermit {s : State} (h : Kept cmds s) (c : CompNo) (deficit : List TileNo) :
    Goes cmds (Machine.execPacerPermit c deficit s) := by
  unfold Machine.execPacerPermit
  try dsimp only
  repeat' first
    | with_reducible apply Goes.ok
    | with_reducible assumption
    | with_reducible apply Kept.setComp
    | with_reducible apply Kept.permitTile
    | with_reducible refine Kept.foldl (fun _ _ _ => ?_) _ ?_
    | split

theorem Kept.touch {s : State} (h : Kept cmds s) (t : Nat) :
    Kept cmds (State.touch s t) := by
  unfold State.touch
  try dsimp only
  repeat' first
    | with_reducible assumption
    | with_reducible apply Kept.modTile

theorem Goes.execRetainEntry {s : State} (h : Kept cmds s) (t : TileNo) :
    Goes cmds (Machine.execRetainEntry t s) := by
  unfold Machine.execRetainEntry
  try dsimp only
  repeat' first
    | with_reducible apply Goes.ok
    | with_reducible assumption
    | with_reducible apply Kept.setTile
    | split

theorem Kept.wakeTile {s : State} (h : Kept cmds s) (t : Nat) :
    Kept cmds (State.wakeTile s t) := by
  unfold State.wakeTile
  try dsimp only
  repeat' first
    | with_reducible assumption
    | with_reducible apply Kept.modTile
    | with_reducible apply Kept.tileEvent
    | split

theorem Goes.execTileWake {s : State} (h : Kept cmds s) (t : TileNo) :
    Goes cmds (Machine.execTileWake t s) := by
  unfold Machine.execTileWake
  try dsimp only
  repeat' first
    | with_reducible apply Goes.ok
    | with_reducible assumption
    | with_reducible apply Kept.wakeTile

theorem Goes.execTileHandshakeTimeout {s : State} (h : Kept cmds s) (t : TileNo) (waitedUs : Nat) :
    Goes cmds (Machine.execTileHandshakeTimeout t waitedUs s) := by
  unfold Machine.execTileHandshakeTimeout
  try dsimp only
  repeat' first
    | with_reducible apply Goes.ok
    | with_reducible assumption
    | with_reducible apply Kept.fenceFor
    | split

theorem Goes.execTilePowerFail {s : State} (h : Kept cmds s) (t : TileNo) :
    Goes cmds (Machine.execTilePowerFail t s) := by
  unfold Machine.execTilePowerFail
  try dsimp only
  repeat' first
    | with_reducible apply Goes.ok
    | with_reducible assumption
    | with_reducible apply Kept.fenceFor
    | split

theorem Goes.execTileStoreError {s : State} (h : Kept cmds s) (t : TileNo) (word : Fin 65536) (uncorrectable : Bool) :
    Goes cmds (Machine.execTileStoreError t word uncorrectable s) := by
  unfold Machine.execTileStoreError
  try dsimp only
  repeat' first
    | with_reducible apply Goes.ok
    | with_reducible assumption
    | with_reducible apply Kept.setTile
    | with_reducible apply Kept.fault
    | with_reducible apply Kept.fenceTile
    | with_reducible apply Kept.fenceFor
    | split

theorem Goes.execUnfence {s : State} (h : Kept cmds s) (r : Role) (tileNo : Nat) (passes : Bool) :
    Goes cmds (Machine.execUnfence r tileNo passes s) := by
  unfold Machine.execUnfence
  try dsimp only
  repeat' first
    | with_reducible apply Goes.ok
    | with_reducible assumption
    | with_reducible apply Kept.setObj
    | with_reducible apply Kept.fault
    | with_reducible apply Kept.reply
    | split

theorem Goes.execSeamFrameReceive {s : State} (h : Kept cmds s) (l : LinkNo) (tagOk : Bool) :
    Goes cmds (Machine.execSeamFrameReceive l tagOk s) := by
  unfold Machine.execSeamFrameReceive
  try dsimp only
  repeat' first
    | with_reducible apply Goes.ok
    | with_reducible assumption
    | with_reducible apply Kept.setSeam
    | with_reducible apply Kept.emit
    | with_reducible apply Kept.setObj
    | with_reducible apply Kept.fault
    | split


/-! Keeper. -/

theorem Kept.spanPut {s : State} (h : Kept cmds s) (n : Nat) (addr : Nat) (len : Nat) (v : Nat) :
    Kept cmds (State.spanPut s n addr len v) := by
  unfold State.spanPut
  try dsimp only
  repeat' first
    | with_reducible assumption
    | with_reducible apply Kept.modComp
    | with_reducible apply Kept.copyAhead

theorem Kept.setControl {s : State} (h : Kept cmds s) (n : Nat) (v : Nat) :
    Kept cmds (State.setControl s n v) := by
  unfold State.setControl
  try dsimp only
  repeat' first
    | with_reducible assumption
    | with_reducible apply Kept.spanPut

theorem Kept.setRecord {s : State} (h : Kept cmds s) (n : Nat) (i : Nat) (v : Nat) :
    Kept cmds (State.setRecord s n i v) := by
  unfold State.setRecord
  try dsimp only
  repeat' first
    | with_reducible assumption
    | with_reducible apply Kept.spanPut

theorem Kept.est16 {s : State} (h : Kept cmds s) (i : Int) :
    Kept cmds (State.est16 s i).2 := by
  unfold State.est16
  try dsimp only
  repeat' first
    | with_reducible assumption
    | with_reducible apply Kept.tickFresh
    | split

theorem Kept.numEvent {s : State} (h : Kept cmds s) (n : Nat) (code : Nat) (idx : Nat) (step : Nat) :
    Kept cmds (State.numEvent s n code idx step) := by
  unfold State.numEvent
  try dsimp only
  repeat' first
    | with_reducible assumption
    | with_reducible apply Kept.setObjC
    | with_reducible apply Kept.faultFirst
    | split

theorem Kept.scaleReport {s : State} (h : Kept cmds s) (n : Nat) (idx : Nat) (c : Int) (m : Option (Nat × Int)) (v : Option (Nat × Int)) :
    Kept cmds (State.scaleReport s n idx c m v) := by
  unfold State.scaleReport
  try dsimp only
  repeat' first
    | with_reducible assumption
    | with_reducible apply Kept.incC
    | with_reducible apply Kept.fault
    | with_reducible apply Kept.setControl
    | with_reducible apply Kept.setRecord
    | with_reducible apply Kept.est16
    | with_reducible apply Kept.numEvent
    | split

theorem Kept.reportTile {s : State} (h : Kept cmds s) (n : Nat) (tensor : Nat) (c : Int) (m : Option (Nat × Int)) (v : Option (Nat × Int)) :
    Kept cmds (State.reportTile s n tensor c m v) := by
  unfold State.reportTile
  try dsimp only
  repeat' first
    | with_reducible assumption
    | with_reducible apply Kept.scaleReport
    | split


/-! Hold. -/

theorem Kept.nextPhase {s : State} (h : Kept cmds s) (n : Nat) (p : Nat) (step : Nat) (at_ : Nat) :
    Kept cmds (State.nextPhase s n p step at_) := by
  unfold State.nextPhase
  try dsimp only
  repeat' first
    | with_reducible assumption
    | with_reducible apply Kept.modComp
    | with_reducible apply Kept.setObjC

theorem Kept.closePhaseNow {s : State} (h : Kept cmds s) (n : Nat) (p : Nat) :
    Kept cmds (State.closePhaseNow s n p) := by
  unfold State.closePhaseNow
  try dsimp only
  repeat' first
    | with_reducible assumption
    | with_reducible apply Kept.tickFresh
    | with_reducible apply Kept.nextPhase

theorem Kept.enterHeld {s : State} (h : Kept cmds s) (n : Nat) :
    Kept cmds (State.enterHeld s n) := by
  unfold State.enterHeld
  try dsimp only
  repeat' first
    | with_reducible apply Kept.setCState
    | with_reducible apply Kept.closePhaseNow
    | (with_reducible apply Kept.raw; first | with_reducible assumption | with_reducible apply Kept.setCState | with_reducible apply Kept.closePhaseNow)

theorem Kept.holdComp {s : State} (h : Kept cmds s) (n : Nat) (code : Nat) :
    Kept cmds (State.holdComp s n code) := by
  unfold State.holdComp
  try dsimp only
  repeat' first
    | with_reducible assumption
    | with_reducible apply Kept.setObjC
    | with_reducible apply Kept.enterHeld
    | split

theorem Kept.integEvent {s : State} (h : Kept cmds s) (n : Nat) (code : Nat) (range : Nat) (page : Nat) (d1 : Nat) :
    Kept cmds (State.integEvent s n code range page d1) := by
  unfold State.integEvent
  try dsimp only
  repeat' first
    | with_reducible assumption
    | with_reducible apply Kept.setObjC
    | with_reducible apply Kept.fault
    | with_reducible apply Kept.faultFirst
    | split

theorem Kept.tierEvent {s : State} (h : Kept cmds s) (n : Nat) (code : Nat) (obj : Nat) (page : Nat) :
    Kept cmds (State.tierEvent s n code obj page) := by
  unfold State.tierEvent
  try dsimp only
  repeat' first
    | with_reducible assumption
    | with_reducible apply Kept.setObjC
    | with_reducible apply Kept.fault
    | with_reducible apply Kept.faultFirst
    | split

theorem Kept.quotaBlocked {s : State} (h : Kept cmds s) (n : Nat) (obj : Nat) (page : Nat) :
    Kept cmds (State.quotaBlocked s n obj page) := by
  unfold State.quotaBlocked
  try dsimp only
  repeat' first
    | with_reducible assumption
    | with_reducible apply Kept.incC
    | with_reducible apply Kept.tierEvent

end Sys2Proof.Machine
end

