-- ==== Sys2Proof/Laws/KeptSpan.lean ====
section
/-! SUPPORT. Every operation of Span, Route, Pegs, Tiers, Integ keeps the queue and the bounds (Laws/Kept.lean). -/

namespace Sys2Proof.Machine
open Sys2Proof

variable {cmds : List Instr}

/-! Span. -/

theorem Kept.setPObj {s : State} (h : Kept cmds s) (n : Nat) (id : Nat) (o : Option PObj) :
    Kept cmds (State.setPObj s n id o) := by
  unfold State.setPObj
  try dsimp only
  repeat' first
    | with_reducible assumption
    | with_reducible apply Kept.modComp

theorem Kept.setPage {s : State} (h : Kept cmds s) (n : Nat) (p : Nat) (x : Page) :
    Kept cmds (State.setPage s n p x) := by
  unfold State.setPage
  try dsimp only
  repeat' first
    | with_reducible assumption
    | with_reducible apply Kept.modComp

theorem Kept.drawMajors {s : State} (h : Kept cmds s) (n : Nat) (r : Nat) :
    Kept cmds (State.drawMajors s n r).2 := by
  unfold State.drawMajors
  try dsimp only
  repeat' first
    | with_reducible assumption
    | with_reducible apply Kept.setObj

theorem Kept.programmed {s : State} (h : Kept cmds s) (n : Nat) (l : PLoc) :
    Kept cmds (State.programmed s n l) := by
  unfold State.programmed
  try dsimp only
  repeat' first
    | with_reducible assumption
    | with_reducible apply Kept.inc
    | with_reducible apply Kept.compEvent
    | split

theorem Kept.placePage {s : State} (h : Kept cmds s) (n : Nat) (p : Nat) (l : PLoc) :
    Kept cmds (State.placePage s n p l) := by
  unfold State.placePage
  try dsimp only
  repeat' first
    | with_reducible assumption
    | with_reducible apply Kept.tickFresh
    | with_reducible apply Kept.setPage
    | with_reducible apply Kept.drawMajors
    | with_reducible apply Kept.programmed

theorem Kept.invalidate {s : State} (h : Kept cmds s) (n : Nat) (p : Nat) :
    Kept cmds (State.invalidate s n p) := by
  unfold State.invalidate
  try dsimp only
  repeat' first
    | (with_reducible apply Kept.raw; first | with_reducible assumption)

theorem Kept.ownStep {s : State} (h : Kept cmds s) (n : Nat) (p : Nat) (l : PLoc) :
    Kept cmds (State.ownStep s n p l) := by
  unfold State.ownStep
  try dsimp only
  repeat' first
    | with_reducible assumption
    | with_reducible apply Kept.incC
    | with_reducible apply Kept.compEvent
    | with_reducible apply Kept.placePage
    | with_reducible apply Kept.invalidate

theorem Kept.addUnver {s : State} (h : Kept cmds s) (n : Nat) (u : Unver) (page : Nat) :
    Kept cmds (State.addUnver s n u page) := by
  unfold State.addUnver
  try dsimp only
  repeat' first
    | with_reducible assumption
    | with_reducible apply Kept.modComp
    | with_reducible apply Kept.setObjC
    | with_reducible apply Kept.holdComp
    | with_reducible apply Kept.integEvent
    | split

theorem Kept.cacheChain {s : State} (h : Kept cmds s) (n : Nat) (g : Nat) (chain : List MetaEnt) (write : Bool) :
    Kept cmds (State.cacheChain s n g chain write) := by
  unfold State.cacheChain
  try dsimp only
  repeat' first
    | with_reducible assumption
    | with_reducible apply Kept.modComp

theorem Kept.poisonLine {s : State} (h : Kept cmds s) (n : Nat) (r : Nat) (p : Nat) (line : Nat) (code : Nat) :
    Kept cmds (State.poisonLine s n r p line code) := by
  unfold State.poisonLine
  try dsimp only
  repeat' first
    | with_reducible assumption
    | with_reducible apply Kept.modComp
    | with_reducible apply Kept.incC
    | with_reducible apply Kept.compEvent
    | with_reducible apply Kept.integEvent
    | with_reducible apply Kept.tierEvent
    | split

theorem Kept.seal {s : State} (h : Kept cmds s) (n : Nat) (p : Nat) (line : Nat) :
    Kept cmds (State.seal s n p line) := by
  unfold State.seal
  try dsimp only
  repeat' first
    | with_reducible assumption
    | with_reducible apply Kept.setObj
    | with_reducible apply Kept.incC
    | with_reducible apply Kept.compEvent
    | with_reducible apply Kept.integEvent
    | with_reducible apply Kept.setPage
    | split

theorem Kept.commitLine {s : State} (h : Kept cmds s) (n : Nat) (p : Nat) (off : Nat) (bs : List Byte) :
    Kept cmds (State.commitLine s n p off bs) := by
  unfold State.commitLine
  try dsimp only
  repeat' first
    | with_reducible assumption
    | with_reducible apply Kept.modComp
    | with_reducible apply Kept.setPage
    | with_reducible apply Kept.seal

theorem Kept.hbmRoom {s : State} (h : Kept cmds s) (n p : Nat) :
    ∀ t', s.hbmRoom n p = some t' → Kept cmds t'.2 := by
  intro t' e
  unfold State.hbmRoom at e
  dsimp only at e
  split at e
  · cases e; exact h
  · split at e
    · cases e
    · split at e
      · cases e
      · obtain ⟨f, _, rfl⟩ := Option.map_eq_some_iff.1 e
        exact h.ownStep _ _ _

theorem Kept.firstFrame {s : State} (h : Kept cmds s) (n p : Nat) :
    ∀ t', s.firstFrame n p = some t' → Kept cmds t'.2 := by
  intro t' e
  have ht : ∀ t : Nat, (if (!Pol.permits (s.policyAt n p) t) = true then none
      else if t = 0 then s.hbmRoom n p
      else (s.freeFrame n (Pol.range (s.policyAt n p)) t).map fun l => (l, s)) = some t' → Kept cmds t'.2 := by
    intro t e
    split at e
    · cases e
    · split at e
      · exact h.hbmRoom _ _ _ e
      · obtain ⟨f, _, rfl⟩ := Option.map_eq_some_iff.1 e
        exact h
  unfold State.firstFrame at e
  simp only [Option.orElse_eq_or, Option.or_eq_some_iff] at e
  rcases e with (e | ⟨_, e⟩) | ⟨_, e | ⟨_, e⟩⟩
  · exact ht _ e
  · exact ht _ e
  · exact ht _ e
  · exact ht _ e

theorem Kept.leaveFlash {s : State} (h : Kept cmds s) (n : Nat) (p : Nat) :
    ∀ t', State.leaveFlash s n p = some t' → Kept cmds t' := by
  intro t' e
  unfold State.leaveFlash at e
  try dsimp only at e
  revert e
  repeat' first
    | (intro e; cases e; done)
    | (intro e; injection e with e; subst e)
    | with_reducible assumption
    | with_reducible apply Kept.ownStep
    | with_reducible refine Kept.hbmRoom ?_ _ _ _ (by assumption)
    | split

theorem Kept.poisonSector {s : State} (h : Kept cmds s) (n r p tier : Nat) (it : Integ) :
    Kept cmds (s.poisonSector n r p tier it) := by
  unfold State.poisonSector
  split
  · split
    · exact Kept.foldl (fun _ _ ha => ha.poisonLine _ _ _ _ _) _ h
    · exact h
  · exact h

theorem Kept.placedAccess {s : State} (h : Kept cmds s) (n : Nat) (k : AccKind) (p : Nat) (off : Nat) (len : Nat) (data : List Byte) (it : Integ) :
    Kept cmds (State.placedAccess s n k p off len data it).2 := by
  unfold State.placedAccess
  try dsimp only
  repeat' first
    | with_reducible assumption
    | with_reducible apply Kept.modComp
    | with_reducible apply Kept.inc
    | with_reducible apply Kept.incC
    | with_reducible apply Kept.compEvent
    | with_reducible apply Kept.integEvent
    | with_reducible apply Kept.setPage
    | with_reducible apply Kept.addUnver
    | with_reducible apply Kept.cacheChain
    | with_reducible apply Kept.poisonLine
    | with_reducible apply Kept.commitLine
    | with_reducible apply Kept.poisonSector
    | split

theorem Kept.homeAccess {s : State} (h : Kept cmds s) (n : Nat) (k : AccKind) (p : Nat) (off : Nat) (len : Nat) (data : List Byte) (it : Integ) :
    Kept cmds (State.homeAccess s n k p off len data it).2 := by
  unfold State.homeAccess
  try dsimp only
  repeat' first
    | with_reducible assumption
    | with_reducible apply Kept.tickFresh
    | with_reducible apply Kept.quotaBlocked
    | with_reducible apply Kept.setPage
    | with_reducible apply Kept.placePage
    | with_reducible refine Kept.firstFrame ?_ _ _ _ (by assumption)
    | with_reducible refine Kept.leaveFlash ?_ _ _ _ (by assumption)
    | with_reducible apply Kept.placedAccess
    | split

theorem Kept.storeAccess {s : State} (h : Kept cmds s) (n : Nat) (k : AccKind) (t : Nat) (off : Nat) (len : Nat) (data : List Byte) :
    Kept cmds (State.storeAccess s n k t off len data).2 := by
  unfold State.storeAccess
  try dsimp only
  repeat' first
    | with_reducible assumption
    | with_reducible apply Kept.tsWrite
    | with_reducible apply Kept.touch
    | with_reducible apply Kept.wakeTile
    | split

theorem Kept.spanAccess {s : State} (h : Kept cmds s) (n : Nat) (ag : Agent) (k : AccKind) (a : Nat) (len : Nat) (data : List Byte) (it : Integ) :
    Kept cmds (State.spanAccess s n ag k a len data it).2 := by
  unfold State.spanAccess
  try dsimp only
  repeat' first
    | with_reducible assumption
    | with_reducible apply Kept.homeAccess
    | with_reducible apply Kept.storeAccess
    | split

theorem Kept.spanRead {s : State} (h : Kept cmds s) (n : Nat) (ag : Agent) (a : Nat) (len : Nat) :
    Kept cmds (State.spanRead s n ag a len).2.2 := by
  unfold State.spanRead
  try dsimp only
  repeat' first
    | with_reducible assumption
    | with_reducible apply Kept.spanAccess
    | with_reducible refine Kept.foldl_snd2 (fun _ _ _ => ?_) _ ?_
    | with_reducible refine Kept.snd_of_eq (by assumption) ?_
    | split

theorem Kept.spanWrite {s : State} (h : Kept cmds s) (n : Nat) (ag : Agent) (a : Nat) (bs : List Byte) :
    Kept cmds (State.spanWrite s n ag a bs).2.2 := by
  unfold State.spanWrite
  try dsimp only
  repeat' first
    | with_reducible assumption
    | with_reducible apply Kept.spanAccess
    | with_reducible refine Kept.foldl_snd2 (fun _ _ _ => ?_) _ ?_
    | with_reducible refine Kept.snd_of_eq (by assumption) ?_
    | split

theorem Kept.unitRead {s : State} (h : Kept cmds s) (n : Nat) (a : Nat) (len : Nat) :
    Kept cmds (State.unitRead s n a len).2 := by
  unfold State.unitRead
  try dsimp only
  repeat' first
    | with_reducible assumption
    | with_reducible apply Kept.spanRead
    | with_reducible refine Kept.snd2_of_eq (by assumption) ?_
    | split

theorem Kept.dropLa {s : State} (h : Kept cmds s) (n : Nat) (why : Nat) :
    Kept cmds (State.dropLa s n why) := by
  unfold State.dropLa
  try dsimp only
  repeat' first
    | with_reducible assumption
    | with_reducible apply Kept.incC
    | split

theorem Kept.lookAhead {s : State} (h : Kept cmds s) (n : Nat) (a : Nat) (len : Nat) (it : Integ) :
    Kept cmds (State.lookAhead s n a len it).2 := by
  unfold State.lookAhead
  try dsimp only
  repeat' first
    | with_reducible assumption
    | with_reducible apply Kept.incC
    | with_reducible apply Kept.cacheChain
    | with_reducible apply Kept.dropLa
    | split

theorem Kept.translate {s : State} (h : Kept cmds s) (n : Nat) (t : Nat) (p : Nat) :
    Kept cmds (State.translate s n t p) := by
  unfold State.translate
  try dsimp only
  repeat' first
    | with_reducible assumption
    | with_reducible apply Kept.modTile
    | with_reducible apply Kept.tickFresh
    | with_reducible apply Kept.incC
    | with_reducible apply Kept.compEvent
    | split


/-! Route. -/

theorem Kept.setSlot {s : State} (h : Kept cmds s) (t : Nat) (k : Nat) (x : Option Slot) :
    Kept cmds (State.setSlot s t k x) := by
  unfold State.setSlot
  try dsimp only
  repeat' first
    | with_reducible assumption
    | with_reducible apply Kept.modTile

theorem Kept.lostAccess {s : State} (h : Kept cmds s) (n : Nat) (code : Nat) (a : Nat) :
    Kept cmds (State.lostAccess s n code a) := by
  unfold State.lostAccess
  try dsimp only
  repeat' first
    | with_reducible assumption
    | with_reducible apply Kept.incC
    | with_reducible apply Kept.fault

theorem Kept.takeSlot {s : State} (h : Kept cmds s) (n : Nat) (t : Nat) (k : Nat) (r : Parked) (look : Bool) :
    Kept cmds (State.takeSlot s n t k r look) := by
  unfold State.takeSlot
  try dsimp only
  repeat' first
    | with_reducible assumption
    | with_reducible apply Kept.setSlot
    | with_reducible apply Kept.lostAccess
    | split
    | (with_reducible apply Kept.raw; first | with_reducible assumption | with_reducible apply Kept.reply | with_reducible apply Kept.lookAhead | with_reducible apply Kept.setSlot | with_reducible apply Kept.lostAccess)

theorem Kept.request {s : State} (h : Kept cmds s) (n : Nat) (t : Nat) (r : Parked) :
    Kept cmds (State.request s n t r).2 := by
  unfold State.request
  try dsimp only
  repeat' first
    | with_reducible assumption
    | with_reducible apply Kept.modTile
    | with_reducible apply Kept.incC
    | with_reducible apply Kept.tileEvent
    | with_reducible apply Kept.takeSlot
    | split

theorem Kept.answerSlot {s : State} (h : Kept cmds s) (t : Nat) (k : Nat) (fault : Nat) (data : List Byte) :
    Kept cmds (State.answerSlot s t k fault data) := by
  unfold State.answerSlot
  try dsimp only
  repeat' first
    | with_reducible assumption
    | with_reducible apply Kept.setSlot
    | split


/-! Pegs. -/

theorem Goes.execSegWrite {s : State} (h : Kept cmds s) (r : Role) (c : CompNo) (v : BitVec 256) :
    Goes cmds (Machine.execSegWrite r c v s) := by
  unfold Machine.execSegWrite
  try dsimp only
  repeat' first
    | with_reducible apply Goes.ok
    | with_reducible assumption
    | with_reducible apply Kept.modComp
    | with_reducible apply Kept.fault
    | with_reducible apply Kept.reply
    | split

theorem Goes.execSegClear {s : State} (h : Kept cmds s) (r : Role) (c : CompNo) (v : Bool) :
    Goes cmds (Machine.execSegClear r c v s) := by
  unfold Machine.execSegClear
  try dsimp only
  repeat' first
    | with_reducible apply Goes.ok
    | with_reducible assumption
    | with_reducible apply Kept.modComp
    | with_reducible apply Kept.clearWrite

theorem Kept.pegPerform {s : State} (h : Kept cmds s) (n : Nat) (op : PegOp) (p : Nat) (v : Nat) :
    Kept cmds (State.pegPerform s n op p v).2 := by
  unfold State.pegPerform
  try dsimp only
  repeat' first
    | with_reducible assumption
    | with_reducible apply Kept.setPeg
    | with_reducible apply Kept.incC
    | with_reducible apply Kept.faultOnce
    | with_reducible refine Kept.pegAdd ?_ _ _ _ _ (by assumption)
    | split

theorem Kept.badHandle {s : State} (h : Kept cmds s) (n : Nat) :
    Kept cmds (State.badHandle s n) := by
  unfold State.badHandle
  try dsimp only
  repeat' first
    | with_reducible assumption
    | with_reducible apply Kept.incC
    | with_reducible apply Kept.faultOnce

theorem Kept.pegDo {s : State} (h : Kept cmds s) (t : ThreadId) (n : Nat) (rd : Nat) (h : Nat) (v : Nat) (op : PegOp) :
    Kept cmds (State.pegDo s t n rd h v op) := by
  unfold State.pegDo
  try dsimp only
  repeat' first
    | with_reducible assumption
    | with_reducible apply Kept.modThread
    | with_reducible apply Kept.setPeg
    | with_reducible apply Kept.purge
    | with_reducible apply Kept.compEvent
    | with_reducible apply Kept.retire
    | with_reducible apply Kept.request
    | with_reducible apply Kept.pegPerform
    | with_reducible apply Kept.badHandle
    | with_reducible refine Kept.snd_of_eq (by assumption) ?_
    | split

theorem Kept.pegIssue {s : State} (h : Kept cmds s) (t : ThreadId) (rd : Nat) (rs1 : Nat) (rs2 : Nat) (op : PegOp) :
    Kept cmds (State.pegIssue s t rd rs1 rs2 op) := by
  unfold State.pegIssue
  try dsimp only
  repeat' first
    | with_reducible assumption
    | with_reducible apply Kept.issue
    | with_reducible apply Kept.pegDo
    | intro _
    | split

theorem Goes.execPegPost {s : State} (h : Kept cmds s) (t : ThreadId) (rd : Fin 32) (rs1 : Fin 32) (rs2 : Fin 32) :
    Goes cmds (Machine.execPegPost t rd rs1 rs2 s) := by
  unfold Machine.execPegPost
  try dsimp only
  repeat' first
    | with_reducible apply Goes.ok
    | with_reducible assumption
    | with_reducible apply Kept.pegIssue

theorem Goes.execPegWait {s : State} (h : Kept cmds s) (t : ThreadId) (rd : Fin 32) (rs1 : Fin 32) (rs2 : Fin 32) :
    Goes cmds (Machine.execPegWait t rd rs1 rs2 s) := by
  unfold Machine.execPegWait
  try dsimp only
  repeat' first
    | with_reducible apply Goes.ok
    | with_reducible assumption
    | with_reducible apply Kept.pegIssue

theorem Goes.execPegTry {s : State} (h : Kept cmds s) (t : ThreadId) (rd : Fin 32) (rs1 : Fin 32) (rs2 : Fin 32) :
    Goes cmds (Machine.execPegTry t rd rs1 rs2 s) := by
  unfold Machine.execPegTry
  try dsimp only
  repeat' first
    | with_reducible apply Goes.ok
    | with_reducible assumption
    | with_reducible apply Kept.pegIssue

theorem Goes.execPegRead {s : State} (h : Kept cmds s) (t : ThreadId) (rd : Fin 32) (rs1 : Fin 32) (rs2 : Fin 32) :
    Goes cmds (Machine.execPegRead t rd rs1 rs2 s) := by
  unfold Machine.execPegRead
  try dsimp only
  repeat' first
    | with_reducible apply Goes.ok
    | with_reducible assumption
    | with_reducible apply Kept.pegIssue

theorem Kept.remoteDenied {s : State} (h : Kept cmds s) (node : Nat) (tag : Nat) (job : Nat) (page : Nat) :
    Kept cmds (State.remoteDenied s node tag job page) := by
  unfold State.remoteDenied
  try dsimp only
  repeat' first
    | with_reducible assumption
    | with_reducible apply Kept.inc
    | (with_reducible apply Kept.raw; first | with_reducible assumption | with_reducible apply Kept.inc | with_reducible apply Kept.fault)

theorem Goes.execRemotePegOperation {s : State} (h : Kept cmds s) (node : BitVec 16) (tag : W32) (job : W64) (op : PegOp) (peg : Fin 16384) (rs2 : W64) :
    Goes cmds (Machine.execRemotePegOperation node tag job op peg rs2 s) := by
  unfold Machine.execRemotePegOperation
  try dsimp only
  repeat' first
    | with_reducible apply Goes.ok
    | with_reducible assumption
    | with_reducible apply Kept.setPeg
    | with_reducible apply Kept.setObjC
    | with_reducible apply Kept.fault
    | with_reducible apply Kept.respond
    | with_reducible apply Kept.pegPerform
    | with_reducible apply Kept.remoteDenied
    | with_reducible refine Kept.snd_of_eq (by assumption) ?_
    | split

theorem Kept.pegEnd {s : State} (h : Kept cmds s) (k : Nat) (v : Nat) (acquire : Bool) :
    Kept cmds (State.pegEnd s k v acquire) := by
  unfold State.pegEnd
  try dsimp only
  repeat' first
    | with_reducible assumption
    | with_reducible apply Kept.modThread
    | with_reducible apply Kept.purge
    | split

theorem Goes.execRemotePegReply {s : State} (h : Kept cmds s) (t : ThreadId) (status : BitVec 16) (value : W64) (registered : Bool) :
    Goes cmds (Machine.execRemotePegReply t status value registered s) := by
  unfold Machine.execRemotePegReply
  try dsimp only
  repeat' first
    | with_reducible apply Goes.ok
    | with_reducible assumption
    | with_reducible apply Kept.modThread
    | with_reducible apply Kept.setSlot
    | with_reducible apply Kept.pegEnd
    | split

theorem Goes.execRemoteTimeout {s : State} (h : Kept cmds s) (t : TileNo) (slot : Fin 256) :
    Goes cmds (Machine.execRemoteTimeout t slot s) := by
  unfold Machine.execRemoteTimeout
  try dsimp only
  repeat' first
    | with_reducible apply Goes.ok
    | with_reducible assumption
    | with_reducible apply Kept.setSlot
    | with_reducible apply Kept.lostAccess
    | with_reducible apply Kept.answerSlot
    | with_reducible apply Kept.pegEnd
    | split


/-! Tiers. -/

theorem Kept.answer {s : State} (h : Kept cmds s) (n : Nat) (src : AccSrc) (a : Nat) (o : AccOut) :
    Kept cmds (State.answer s n src a o) := by
  unfold State.answer
  try dsimp only
  repeat' first
    | with_reducible assumption
    | with_reducible apply Kept.modTile
    | with_reducible apply Kept.modFunc
    | with_reducible apply Kept.respond
    | with_reducible apply Kept.answerSlot
    | split

theorem Kept.performOrHold {s : State} (h : Kept cmds s) (n : Nat) (src : AccSrc) (ag : Agent) (k : AccKind) (a : Nat) (len : Nat) (data : List Byte) (it : Integ) :
    Kept cmds (State.performOrHold s n src ag k a len data it) := by
  unfold State.performOrHold
  try dsimp only
  repeat' first
    | with_reducible assumption
    | with_reducible apply Kept.modComp
    | with_reducible apply Kept.spanAccess
    | with_reducible apply Kept.answer
    | with_reducible refine Kept.snd_of_eq (by assumption) ?_
    | split

theorem Kept.release {s : State} (h : Kept cmds s) (n : Nat) (p : Nat) :
    Kept cmds (State.release s n p) := by
  unfold State.release
  try dsimp only
  repeat' first
    | with_reducible assumption
    | with_reducible apply Kept.modComp
    | with_reducible apply Kept.performOrHold
    | with_reducible refine Kept.foldl (fun _ _ _ => ?_) _ ?_

theorem Kept.unitWrite {s : State} (h : Kept cmds s) (n : Nat) (a : Nat) (bs : List Byte) :
    Kept cmds (State.unitWrite s n a bs) := by
  unfold State.unitWrite
  try dsimp only
  repeat' first
    | with_reducible assumption
    | with_reducible apply Kept.performOrHold
    | with_reducible refine Kept.foldl (fun _ _ _ => ?_) _ ?_
    | split
    | (with_reducible apply Kept.raw; first | with_reducible assumption | with_reducible apply Kept.performOrHold)

theorem Kept.unitFetch {s : State} (h : Kept cmds s) (n : Nat) (a : Nat) (len : Nat) (remote : Option SpanReply) :
    Kept cmds (State.unitFetch s n a len remote).2 := by
  unfold State.unitFetch
  try dsimp only
  repeat' first
    | with_reducible assumption
    | with_reducible apply Kept.spanRead
    | with_reducible refine Kept.snd2_of_eq (by assumption) ?_
    | split

theorem Kept.peFinish {s : State} (h : Kept cmds s) (n : Nat) (e : Nat) (status : Nat) (deferred : Bool) (moved : Nat) (slots : Nat) (ahead : Nat) (at_ : Nat) :
    Kept cmds (State.peFinish s n e status deferred moved slots ahead at_) := by
  unfold State.peFinish
  try dsimp only
  repeat' first
    | with_reducible assumption
    | with_reducible apply Kept.unitPost
    | with_reducible apply Kept.unitWrite
    | split

theorem Kept.peRefuse {s : State} (h : Kept cmds s) (n : Nat) (e : Nat) :
    Kept cmds (State.peRefuse s n e) := by
  unfold State.peRefuse
  try dsimp only
  repeat' first
    | with_reducible assumption
    | with_reducible apply Kept.tierEvent
    | with_reducible apply Kept.peFinish

theorem Kept.peTake {s : State} (h : Kept cmds s) (n : Nat) (kinds : Nat → Bool) (remote : Option SpanReply) :
    ∀ t', State.peTake s n kinds remote = some t' → Kept cmds t'.2.2 := by
  intro t' e
  unfold State.peTake at e
  try dsimp only at e
  revert e
  repeat' first
    | (intro e; cases e; done)
    | (intro e; injection e with e; subst e)
    | with_reducible assumption
    | with_reducible apply Kept.modComp
    | with_reducible apply Kept.unitPost
    | with_reducible apply Kept.unitFetch
    | with_reducible refine Kept.snd_of_eq (by assumption) ?_
    | split

theorem Kept.endEntries {s : State} (h : Kept cmds s) (n : Nat) (status : Nat) (deferred : Bool) (m : Move) (at_ : Nat) :
    Kept cmds (State.endEntries s n status deferred m at_) := by
  unfold State.endEntries
  try dsimp only
  repeat' first
    | with_reducible assumption
    | with_reducible apply Kept.modComp
    | with_reducible apply Kept.peFinish
    | with_reducible refine Kept.foldl (fun _ _ _ => ?_) _ ?_

theorem Kept.settle {s : State} (h : Kept cmds s) (n id fuel : Nat) : Kept cmds (s.settle n id fuel) := by
  induction fuel generalizing s with
  | zero => exact h
  | succ k ih =>
    unfold State.settle
    split
    · split
      · split
        · exact ih ((h.setPObj _ _ _).endEntries _ _ _ _ _)
        · exact h
      · exact h
    · exact h

theorem Kept.define {s : State} (h : Kept cmds s) (n : Nat) (e : Nat) :
    Kept cmds (State.define s n e).2 := by
  unfold State.define
  try dsimp only
  repeat' first
    | with_reducible assumption
    | with_reducible apply Kept.setPObj
    | with_reducible apply Kept.settle
    | split

theorem Goes.execDefineWrite {s : State} (h : Kept cmds s) (r : Role) (c : CompNo) (v : BitVec 512) :
    Goes cmds (Machine.execDefineWrite r c v s) := by
  unfold Machine.execDefineWrite
  try dsimp only
  repeat' first
    | with_reducible apply Goes.ok
    | with_reducible assumption
    | with_reducible apply Kept.reply
    | with_reducible apply Kept.tierEvent
    | with_reducible apply Kept.define
    | with_reducible refine Kept.snd_of_eq (by assumption) ?_
    | split

theorem Goes.execPlaceDefine {s : State} (h : Kept cmds s) (c : CompNo) (remote : Option SpanReply) :
    Goes cmds (Machine.execPlaceDefine c remote s) := by
  unfold Machine.execPlaceDefine
  try dsimp only
  repeat' first
    | with_reducible apply Goes.ok
    | with_reducible assumption
    | with_reducible apply Kept.tierEvent
    | with_reducible apply Kept.peFinish
    | with_reducible apply Kept.peRefuse
    | with_reducible refine Kept.peTake ?_ _ _ _ _ (by assumption)
    | with_reducible apply Kept.define
    | with_reducible refine Kept.snd_of_eq (by assumption) ?_
    | split

theorem Kept.abandonPage {s : State} (h : Kept cmds s) (n : Nat) (p : Nat) :
    Kept cmds (State.abandonPage s n p) := by
  unfold State.abandonPage
  try dsimp only
  repeat' first
    | with_reducible assumption
    | with_reducible apply Kept.setPage
    | with_reducible apply Kept.release

theorem Kept.abandonMoves {s : State} (h : Kept cmds s) (n : Nat) (o : PObj) :
    Kept cmds (State.abandonMoves s n o) := by
  unfold State.abandonMoves
  try dsimp only
  repeat' first
    | with_reducible assumption
    | with_reducible apply Kept.abandonPage
    | with_reducible refine Kept.foldl (fun _ _ _ => ?_) _ ?_

theorem Kept.openMove {s : State} (h : Kept cmds s) (n : Nat) (q : Nat × Nat) (k : MoveKind) (f : PObj → PObj) :
    Kept cmds (State.openMove s n q k f) := by
  unfold State.openMove
  try dsimp only
  repeat' first
    | with_reducible assumption
    | with_reducible apply Kept.modComp
    | with_reducible apply Kept.setPObj
    | with_reducible apply Kept.settle
    | split

theorem Goes.execPlacePromote {s : State} (h : Kept cmds s) (c : CompNo) (remote : Option SpanReply) :
    Goes cmds (Machine.execPlacePromote c remote s) := by
  unfold Machine.execPlacePromote
  try dsimp only
  repeat' first
    | with_reducible apply Goes.ok
    | with_reducible assumption
    | with_reducible apply Kept.setPObj
    | with_reducible apply Kept.peRefuse
    | with_reducible refine Kept.peTake ?_ _ _ _ _ (by assumption)
    | with_reducible apply Kept.endEntries
    | with_reducible apply Kept.abandonMoves
    | with_reducible apply Kept.openMove
    | split

theorem Goes.execPlaceEvict {s : State} (h : Kept cmds s) (c : CompNo) (remote : Option SpanReply) :
    Goes cmds (Machine.execPlaceEvict c remote s) := by
  unfold Machine.execPlaceEvict
  try dsimp only
  repeat' first
    | with_reducible apply Goes.ok
    | with_reducible assumption
    | with_reducible apply Kept.quotaBlocked
    | with_reducible apply Kept.setPObj
    | with_reducible apply Kept.peFinish
    | with_reducible apply Kept.peRefuse
    | with_reducible refine Kept.peTake ?_ _ _ _ _ (by assumption)
    | with_reducible apply Kept.openMove
    | split

theorem Goes.execPlaceUnpin {s : State} (h : Kept cmds s) (c : CompNo) (remote : Option SpanReply) :
    Goes cmds (Machine.execPlaceUnpin c remote s) := by
  unfold Machine.execPlaceUnpin
  try dsimp only
  repeat' first
    | with_reducible apply Goes.ok
    | with_reducible assumption
    | with_reducible apply Kept.setPObj
    | with_reducible apply Kept.peFinish
    | with_reducible apply Kept.peRefuse
    | with_reducible refine Kept.peTake ?_ _ _ _ _ (by assumption)
    | with_reducible apply Kept.settle
    | split

theorem Goes.execPlaceRetire {s : State} (h : Kept cmds s) (c : CompNo) (remote : Option SpanReply) :
    Goes cmds (Machine.execPlaceRetire c remote s) := by
  unfold Machine.execPlaceRetire
  try dsimp only
  repeat' first
    | with_reducible apply Goes.ok
    | with_reducible assumption
    | with_reducible apply Kept.tierEvent
    | with_reducible apply Kept.setPObj
    | with_reducible apply Kept.peFinish
    | with_reducible apply Kept.peRefuse
    | with_reducible refine Kept.peTake ?_ _ _ _ _ (by assumption)
    | split

theorem Kept.keepWant {t : State} (h : Kept cmds t) (s : State) (n p : Nat) : Kept cmds (t.keepWant s n p) := by
  unfold State.keepWant
  exact h.setPage _ _ _

theorem Kept.slotRead {s : State} (h : Kept cmds s) (n : Nat) (a : Nat) (remote : Option SpanReply) :
    Kept cmds (State.slotRead s n a remote).2 := by
  unfold State.slotRead
  try dsimp only
  repeat' first
    | with_reducible assumption
    | with_reducible apply Kept.spanRead
    | with_reducible apply Kept.keepWant
    | split

theorem Kept.streamSlot {s : State} (h : Kept cmds s) (n : Nat) (e : Nat) (i : Nat) (marks : Bool) (remote : Option SpanReply) :
    Kept cmds (State.streamSlot s n e i marks remote).2 := by
  unfold State.streamSlot
  try dsimp only
  repeat' first
    | with_reducible assumption
    | with_reducible apply Kept.modTile
    | with_reducible apply Kept.tsWrite
    | with_reducible apply Kept.touch
    | with_reducible apply Kept.wakeTile
    | with_reducible apply Kept.slotRead
    | with_reducible refine Kept.snd_of_eq (by assumption) ?_
    | split

theorem Kept.streamFrom {s : State} (h : Kept cmds s) (n e : Nat) (remote : List (Option SpanReply)) (k i : Nat) :
    Kept cmds (s.streamFrom n e remote k i).2.2 := by
  induction k generalizing s i with
  | zero => exact h
  | succ k ih =>
    unfold State.streamFrom
    split
    · exact ih (Kept.snd_of_eq (by assumption) (h.streamSlot _ _ _ _ _)) _
    · exact Kept.snd_of_eq (by assumption) (h.streamSlot _ _ _ _ _)

theorem Kept.streamAhead {s : State} (h : Kept cmds s) (n : Nat) (e : Nat) :
    Kept cmds (State.streamAhead s n e).2 := by
  unfold State.streamAhead
  try dsimp only
  repeat' first
    | with_reducible assumption
    | with_reducible apply Kept.incC
    | with_reducible apply Kept.lookAhead
    | with_reducible refine Kept.foldl_snd (fun _ _ _ => ?_) _ ?_
    | with_reducible refine Kept.snd_of_eq (by assumption) ?_
    | split

theorem Kept.streamEnd {s : State} (h : Kept cmds s) (n : Nat) (e : Nat) (r : Except (Nat × Nat) Unit) (done : Nat) :
    Kept cmds (State.streamEnd s n e r done) := by
  unfold State.streamEnd
  try dsimp only
  repeat' first
    | with_reducible assumption
    | with_reducible apply Kept.tierEvent
    | with_reducible apply Kept.peFinish
    | with_reducible apply Kept.streamAhead
    | split

theorem Goes.execPlaceStream {s : State} (h : Kept cmds s) (c : CompNo) (remote : Option SpanReply) (slots : List (Option SpanReply)) :
    Goes cmds (Machine.execPlaceStream c remote slots s) := by
  unfold Machine.execPlaceStream
  try dsimp only
  repeat' first
    | with_reducible apply Goes.ok
    | with_reducible assumption
    | with_reducible apply Kept.modComp
    | with_reducible apply Kept.peRefuse
    | with_reducible refine Kept.peTake ?_ _ _ _ _ (by assumption)
    | with_reducible apply Kept.streamSlot
    | with_reducible apply Kept.streamFrom
    | with_reducible apply Kept.streamEnd
    | with_reducible refine Kept.snd_of_eq (by assumption) ?_
    | split

theorem Kept.moveFrame {s : State} (h : Kept cmds s) (n : Nat) (p : Nat) :
    ∀ t', State.moveFrame s n p = some t' → Kept cmds t'.2 := by
  intro t' e
  unfold State.moveFrame at e
  try dsimp only at e
  revert e
  repeat' first
    | (intro e; cases e; done)
    | (intro e; injection e with e; subst e)
    | contradiction
    | with_reducible assumption
    | with_reducible refine Kept.hbmRoom ?_ _ _ _ (by assumption)
    | split

theorem Kept.stopMove {s : State} (h : Kept cmds s) (n : Nat) (id : Nat) (status : Nat) (p : Nat) :
    Kept cmds (State.stopMove s n id status p) := by
  unfold State.stopMove
  try dsimp only
  repeat' first
    | with_reducible assumption
    | with_reducible apply Kept.setPObj
    | with_reducible apply Kept.endEntries
    | with_reducible apply Kept.settle
    | split

theorem Goes.execPageMoveStart {s : State} (h : Kept cmds s) (c : CompNo) (page : BitVec 40) :
    Goes cmds (Machine.execPageMoveStart c page s) := by
  unfold Machine.execPageMoveStart
  try dsimp only
  repeat' first
    | with_reducible apply Goes.ok
    | with_reducible assumption
    | with_reducible apply Kept.tickFresh
    | with_reducible apply Kept.quotaBlocked
    | with_reducible apply Kept.setPage
    | with_reducible apply Kept.invalidate
    | with_reducible refine Kept.moveFrame ?_ _ _ _ (by assumption)
    | with_reducible apply Kept.stopMove
    | split

theorem Kept.moved {s : State} (h : Kept cmds s) (n : Nat) (p : Nat) (evac : Bool) :
    Kept cmds (State.moved s n p evac) := by
  unfold State.moved
  try dsimp only
  repeat' first
    | with_reducible assumption
    | with_reducible apply Kept.incC
    | with_reducible apply Kept.setPObj
    | with_reducible apply Kept.release
    | with_reducible apply Kept.settle
    | split

theorem Goes.execPageOwnershipStep {s : State} (h : Kept cmds s) (c : CompNo) (page : BitVec 40) (verifies : Bool) :
    Goes cmds (Machine.execPageOwnershipStep c page verifies s) := by
  unfold Machine.execPageOwnershipStep
  try dsimp only
  repeat' first
    | with_reducible apply Goes.ok
    | with_reducible assumption
    | with_reducible apply Kept.setPage
    | with_reducible apply Kept.ownStep
    | with_reducible apply Kept.abandonPage
    | with_reducible apply Kept.moved
    | split

theorem Goes.execFlashProgramDone {s : State} (h : Kept cmds s) (c : CompNo) (page : BitVec 40) :
    Goes cmds (Machine.execFlashProgramDone c page s) := by
  unfold Machine.execFlashProgramDone
  try dsimp only
  repeat' first
    | with_reducible apply Goes.ok
    | with_reducible assumption
    | with_reducible apply Kept.modComp
    | with_reducible apply Kept.incC
    | with_reducible apply Kept.ownStep
    | with_reducible apply Kept.placedAccess
    | with_reducible apply Kept.answer
    | with_reducible apply Kept.moved
    | with_reducible refine Kept.foldl (fun _ _ _ => ?_) _ ?_
    | split

theorem Goes.execLendOfferWrite {s : State} (h : Kept cmds s) (r : Role) (v : W64) :
    Goes cmds (Machine.execLendOfferWrite r v s) := by
  unfold Machine.execLendOfferWrite
  try dsimp only
  repeat' first
    | with_reducible apply Goes.ok
    | with_reducible assumption
    | with_reducible apply Kept.setObj
    | with_reducible apply Kept.reply
    | split

theorem Kept.setLeaseOut {s : State} (h : Kept cmds s) (k : Nat) (x : Option LeaseOut) :
    Kept cmds (State.setLeaseOut s k x) := by
  unfold State.setLeaseOut
  try dsimp only
  repeat' first
    | (with_reducible apply Kept.raw; first | with_reducible assumption)

theorem Goes.execLeaseRequest {s : State} (h : Kept cmds s) (node : BitVec 16) (job : W64) (comp : CompNo) (ckpt : Bool) :
    Goes cmds (Machine.execLeaseRequest node job comp ckpt s) := by
  unfold Machine.execLeaseRequest
  try dsimp only
  repeat' first
    | with_reducible apply Goes.ok
    | with_reducible assumption
    | with_reducible apply Kept.emit
    | with_reducible apply Kept.tickFresh
    | with_reducible apply Kept.setLeaseOut
    | split

theorem Goes.execLeaseHeartbeat {s : State} (h : Kept cmds s) (side : LeaseSide) :
    Goes cmds (Machine.execLeaseHeartbeat side s) := by
  unfold Machine.execLeaseHeartbeat
  try dsimp only
  repeat' first
    | with_reducible apply Goes.ok
    | with_reducible assumption
    | with_reducible apply Kept.modComp
    | with_reducible apply Kept.emit
    | with_reducible apply Kept.setLeaseOut
    | split

theorem Kept.dropLease {s : State} (h : Kept cmds s) (n : Nat) (key : Nat) :
    Kept cmds (State.dropLease s n key) := by
  unfold State.dropLease
  try dsimp only
  repeat' first
    | with_reducible assumption
    | with_reducible apply Kept.modComp
    | with_reducible apply Kept.emit
    | split

theorem Goes.execLeaseRelease {s : State} (h : Kept cmds s) (side : LeaseSide) :
    Goes cmds (Machine.execLeaseRelease side s) := by
  unfold Machine.execLeaseRelease
  try dsimp only
  repeat' first
    | with_reducible apply Goes.ok
    | with_reducible assumption
    | with_reducible apply Kept.setLeaseOut
    | with_reducible apply Kept.dropLease
    | split

theorem Goes.execLeaseScrubDone {s : State} (h : Kept cmds s) (lease : W32) :
    Goes cmds (Machine.execLeaseScrubDone lease s) := by
  unfold Machine.execLeaseScrubDone
  try dsimp only
  repeat' first
    | with_reducible apply Goes.ok
    | with_reducible assumption
    | with_reducible apply Kept.setLeaseOut
    | split

theorem Kept.reclaimGroup {s : State} (h : Kept cmds s) (g : Nat) :
    Kept cmds (State.reclaimGroup s g) := by
  unfold State.reclaimGroup
  try dsimp only
  repeat' first
    | with_reducible assumption
    | with_reducible apply Kept.emit
    | with_reducible apply Kept.setObj
    | with_reducible apply Kept.setLeaseOut
    | with_reducible refine Kept.foldl (fun _ _ _ => ?_) _ ?_
    | split

theorem Kept.reclaimAll {s : State} (h : Kept cmds s) :
    Kept cmds (State.reclaimAll s) := by
  unfold State.reclaimAll
  try dsimp only
  repeat' first
    | with_reducible assumption
    | with_reducible apply Kept.reclaimGroup
    | with_reducible refine Kept.foldl (fun _ _ _ => ?_) _ ?_
    | split

theorem Goes.execReclaim {s : State} (h : Kept cmds s) (r : Role) (group : Byte) :
    Goes cmds (Machine.execReclaim r group s) := by
  unfold Machine.execReclaim
  try dsimp only
  repeat' first
    | with_reducible apply Goes.ok
    | with_reducible assumption
    | with_reducible apply Kept.reply
    | with_reducible apply Kept.reclaimGroup
    | split

theorem Kept.notice {s : State} (h : Kept cmds s) (n : Nat) (key : Nat) (dMs : Nat) :
    Kept cmds (State.notice s n key dMs) := by
  unfold State.notice
  try dsimp only
  repeat' first
    | with_reducible assumption
    | with_reducible apply Kept.modComp
    | split

theorem Goes.execReclaimNoticeReceive {s : State} (h : Kept cmds s) (c : CompNo) (node : BitVec 16) (lease : W32) (dMs : BitVec 16) :
    Goes cmds (Machine.execReclaimNoticeReceive c node lease dMs s) := by
  unfold Machine.execReclaimNoticeReceive
  try dsimp only
  repeat' first
    | with_reducible apply Goes.ok
    | with_reducible assumption
    | with_reducible apply Kept.notice

theorem Goes.execReclaimDeadline {s : State} (h : Kept cmds s) (c : CompNo) (node : BitVec 16) (lease : W32) :
    Goes cmds (Machine.execReclaimDeadline c node lease s) := by
  unfold Machine.execReclaimDeadline
  try dsimp only
  repeat' first
    | with_reducible apply Goes.ok
    | with_reducible assumption
    | with_reducible apply Kept.holdComp
    | with_reducible apply Kept.tierEvent
    | with_reducible apply Kept.dropLease
    | split

theorem Kept.loseLease {s : State} (h : Kept cmds s) (n : Nat) (key : Nat) :
    Kept cmds (State.loseLease s n key) := by
  unfold State.loseLease
  try dsimp only
  repeat' first
    | with_reducible assumption
    | with_reducible apply Kept.modComp
    | with_reducible apply Kept.setObjC
    | with_reducible apply Kept.integEvent
    | split

theorem Goes.execForceRelease {s : State} (h : Kept cmds s) (side : ForceSide) :
    Goes cmds (Machine.execForceRelease side s) := by
  unfold Machine.execForceRelease
  try dsimp only
  repeat' first
    | with_reducible apply Goes.ok
    | with_reducible assumption
    | with_reducible apply Kept.reply
    | with_reducible apply Kept.holdComp
    | with_reducible apply Kept.tierEvent
    | with_reducible apply Kept.setLeaseOut
    | with_reducible apply Kept.dropLease
    | with_reducible apply Kept.loseLease
    | split

theorem Goes.execHeartbeatMissLimit {s : State} (h : Kept cmds s) (c : CompNo) (node : BitVec 16) (lease : W32) :
    Goes cmds (Machine.execHeartbeatMissLimit c node lease s) := by
  unfold Machine.execHeartbeatMissLimit
  try dsimp only
  repeat' first
    | with_reducible apply Goes.ok
    | with_reducible assumption
    | with_reducible apply Kept.notice
    | split

theorem Goes.execLenderIsolated {s : State} (h : Kept cmds s) (c : CompNo) (node : BitVec 16) :
    Goes cmds (Machine.execLenderIsolated c node s) := by
  unfold Machine.execLenderIsolated
  try dsimp only
  repeat' first
    | with_reducible apply Goes.ok
    | with_reducible assumption
    | with_reducible apply Kept.holdComp
    | with_reducible apply Kept.tierEvent
    | with_reducible apply Kept.loseLease
    | with_reducible refine Kept.foldl (fun _ _ _ => ?_) _ ?_
    | split

theorem Goes.execTierLeaseOrphaned {s : State} (h : Kept cmds s) (lease : W32) :
    Goes cmds (Machine.execTierLeaseOrphaned lease s) := by
  unfold Machine.execTierLeaseOrphaned
  try dsimp only
  repeat' first
    | with_reducible apply Goes.ok
    | with_reducible assumption
    | with_reducible apply Kept.fault
    | with_reducible apply Kept.setLeaseOut
    | split

theorem Goes.execFlashGc {s : State} (h : Kept cmds s) (c : CompNo) (page : BitVec 40) :
    Goes cmds (Machine.execFlashGc c page s) := by
  unfold Machine.execFlashGc
  try dsimp only
  repeat' first
    | with_reducible apply Goes.ok
    | with_reducible assumption
    | with_reducible apply Kept.incC
    | with_reducible apply Kept.placePage
    | with_reducible apply Kept.invalidate
    | split

theorem Goes.execFlashBlockRetire {s : State} (h : Kept cmds s) (ch : Fin 32) (sparePct : Fin 101) :
    Goes cmds (Machine.execFlashBlockRetire ch sparePct s) := by
  unfold Machine.execFlashBlockRetire
  try dsimp only
  repeat' first
    | with_reducible apply Goes.ok
    | with_reducible assumption
    | with_reducible apply Kept.setObj
    | with_reducible apply Kept.fault
    | split

theorem Goes.execQuotaWrite {s : State} (h : Kept cmds s) (r : Role) (c : CompNo) (which : Fin 3) (v : W32) :
    Goes cmds (Machine.execQuotaWrite r c which v s) := by
  unfold Machine.execQuotaWrite
  try dsimp only
  repeat' first
    | with_reducible apply Goes.ok
    | with_reducible assumption
    | with_reducible apply Kept.setObj
    | with_reducible apply Kept.reply
    | split

theorem Goes.execTierEventClear {s : State} (h : Kept cmds s) (r : Role) (c : CompNo) (v : Bool) :
    Goes cmds (Machine.execTierEventClear r c v s) := by
  unfold Machine.execTierEventClear
  try dsimp only
  repeat' first
    | with_reducible apply Goes.ok
    | with_reducible assumption
    | with_reducible apply Kept.setObjC
    | with_reducible apply Kept.rearmLog
    | with_reducible apply Kept.clearWrite


/-! Integ. -/

theorem Goes.execKrDescWrite {s : State} (h : Kept cmds s) (r : Role) (c : CompNo) (range : Fin 16) (v : BitVec 128) :
    Goes cmds (Machine.execKrDescWrite r c range v s) := by
  unfold Machine.execKrDescWrite
  try dsimp only
  repeat' first
    | with_reducible apply Goes.ok
    | with_reducible assumption
    | with_reducible apply Kept.setObj
    | with_reducible apply Kept.reply
    | with_reducible apply Kept.integEvent
    | split

theorem Goes.execMetacacheUncorrectable {s : State} (h : Kept cmds s) (c : CompNo) (group : Fin 48) (entry : Nat) :
    Goes cmds (Machine.execMetacacheUncorrectable c group entry s) := by
  unfold Machine.execMetacacheUncorrectable
  try dsimp only
  repeat' first
    | with_reducible apply Goes.ok
    | with_reducible assumption
    | with_reducible apply Kept.modComp
    | with_reducible apply Kept.addUnver
    | split

theorem Goes.execIntegEventClear {s : State} (h : Kept cmds s) (r : Role) (c : CompNo) (v : Bool) :
    Goes cmds (Machine.execIntegEventClear r c v s) := by
  unfold Machine.execIntegEventClear
  try dsimp only
  repeat' first
    | with_reducible apply Goes.ok
    | with_reducible assumption
    | with_reducible apply Kept.setObjC
    | with_reducible apply Kept.rearmLog
    | with_reducible apply Kept.clearWrite

end Sys2Proof.Machine
end

