-- ==== Sys2Proof/Laws/KeptEngines.lean ====
section
/-! SUPPORT. Every operation of Matrix, Vector, Gather, Prep keeps the queue and the bounds (Laws/Kept.lean). -/

namespace Sys2Proof.Machine
open Sys2Proof

variable {cmds : List Instr}

/-! Matrix. -/

/-- What a post comes to, where it did something. -/
def Posted.Kept (cmds : List Instr) (p : Posted) : Prop := ∀ s c, p = .done s c → Machine.Kept cmds s

theorem Kept.mxPost {s : State} (h : Kept cmds s) (t : ThreadId) (n off : Nat) : (s.mxPost t n off).Kept cmds := by
  intro s' c e
  unfold State.mxPost at e
  extract_lets k d at e
  split at e
  · cases e
  · split at e
    · injection e with e1 e2; subst e1; exact h
    · split at e
      · cases e; exact (((h.incC _ _ _).tileEvent _ _ _).fault _ _ _ _ _ _)
      · cases e; exact (h.modTile _ _).tileEvent _ _ _

theorem Kept.posted {s : State} (h : Kept cmds s) (t : ThreadId) (rd : Nat) (e : Engine) (p : Posted)
    (hp : p.Kept cmds) : Kept cmds (s.posted t rd e p) := by
  unfold State.posted
  split
  · exact (hp _ _ rfl).retire _ _ _ _
  · exact h.modThread _ _

theorem Goes.execMxPost {s : State} (h : Kept cmds s) (t : ThreadId) (rd : Fin 32) (rs1 : Fin 32) :
    Goes cmds (Machine.execMxPost t rd rs1 s) := by
  unfold Machine.execMxPost
  try dsimp only
  repeat' first
    | with_reducible apply Goes.ok
    | with_reducible assumption
    | with_reducible apply Kept.issue
    | with_reducible apply Kept.mxPost
    | with_reducible apply Kept.posted
    | intro _

theorem Kept.firstTrap {s : State} (h : Kept cmds s) (n : Nat) (t : Nat) (status : Nat) (record : Nat) (traps : Nat) (first : Nat) :
    Kept cmds (State.firstTrap s n t status record traps first) := by
  unfold State.firstTrap
  try dsimp only
  repeat' first
    | with_reducible assumption
    | with_reducible apply Kept.setObjC
    | with_reducible apply Kept.incC
    | with_reducible apply Kept.fault
    | split

theorem Kept.mxFinish {s : State} (h : Kept cmds s) (n : Nat) (t : Nat) (x : MxDesc) (g : EFlags) (status : Nat) (record : Nat) :
    Kept cmds (State.mxFinish s n t x g status record) := by
  unfold State.mxFinish
  try dsimp only
  repeat' first
    | with_reducible assumption
    | with_reducible apply Kept.incC
    | with_reducible apply Kept.fault
    | with_reducible apply Kept.tsWrite
    | with_reducible apply Kept.unitPost
    | with_reducible apply Kept.tileEvent
    | with_reducible apply Kept.signal
    | with_reducible apply Kept.firstTrap
    | split

theorem Goes.execMxOpExecute {s : State} (h : Kept cmds s) (t : TileNo) :
    Goes cmds (Machine.execMxOpExecute t s) := by
  unfold Machine.execMxOpExecute
  try dsimp only
  repeat' first
    | with_reducible apply Goes.ok
    | with_reducible assumption
    | with_reducible apply Kept.modTile
    | with_reducible apply Kept.tickFresh
    | with_reducible apply Kept.incC
    | with_reducible apply Kept.tileEvent
    | with_reducible apply Kept.unstall
    | with_reducible apply Kept.mxFinish
    | split

theorem Kept.mxDrainFp16 {s : State} (h : Kept cmds s) (t : Nat) (r : MxRun) (g : EFlags) (draws : List Nat) :
    Kept cmds (s.mxDrainFp16 t r g draws).1 := by
  unfold State.mxDrainFp16
  dsimp only
  with_reducible apply Kept.tsWrite
  with_reducible apply Kept.tsWrite
  with_reducible apply Kept.modTile
  exact h

theorem Kept.mxDrainFp32 {s : State} (h : Kept cmds s) (t : Nat) (r : MxRun) (g : EFlags) :
    Kept cmds (s.mxDrainFp32 t r g).1 := by
  unfold State.mxDrainFp32
  dsimp only
  with_reducible apply Kept.tsWrite
  exact h

theorem Kept.mxDrain {s : State} (h : Kept cmds s) (n : Nat) (k : Nat) (r : MxRun) (g : EFlags) :
    Kept cmds (State.mxDrain s n k r g).1 := by
  unfold State.mxDrain
  try dsimp only
  repeat' first
    | with_reducible assumption
    | with_reducible apply Kept.modTile
    | with_reducible apply Kept.mxDrainFp16
    | with_reducible apply Kept.mxDrainFp32
    | split

theorem Goes.execMxOpComplete {s : State} (h : Kept cmds s) (t : TileNo) :
    Goes cmds (Machine.execMxOpComplete t s) := by
  unfold Machine.execMxOpComplete
  try dsimp only
  repeat' first
    | with_reducible apply Goes.ok
    | with_reducible assumption
    | with_reducible apply Kept.modTile
    | with_reducible apply Kept.tileEvent
    | with_reducible apply Kept.reportTile
    | with_reducible apply Kept.mxFinish
    | with_reducible apply Kept.mxDrain
    | split

theorem Goes.execMxAccUncorrectable {s : State} (h : Kept cmds s) (t : TileNo) (acc : Fin 8) :
    Goes cmds (Machine.execMxAccUncorrectable t acc s) := by
  unfold Machine.execMxAccUncorrectable
  try dsimp only
  repeat' first
    | with_reducible apply Goes.ok
    | with_reducible assumption
    | with_reducible apply Kept.modTile
    | with_reducible apply Kept.tickFresh
    | with_reducible apply Kept.fenceTile
    | with_reducible apply Kept.mxFinish
    | split

theorem Goes.execMxTrapClear {s : State} (h : Kept cmds s) (r : Role) (c : CompNo) (v : Bool) :
    Goes cmds (Machine.execMxTrapClear r c v s) := by
  unfold Machine.execMxTrapClear
  try dsimp only
  repeat' first
    | with_reducible apply Goes.ok
    | with_reducible assumption
    | with_reducible apply Kept.setObjC
    | with_reducible apply Kept.clearWrite


/-! Vector. -/

theorem Kept.vxPost {s : State} (h : Kept cmds s) (t : ThreadId) (n off : Nat) : (s.vxPost t n off).Kept cmds := by
  intro s' c e
  unfold State.vxPost at e
  extract_lets k code0 ch at e
  split at e
  · cases e
  · split at e
    · injection e with e1 e2; subst e1; exact h
    · split at e
      · injection e with e1 e2; subst e1; exact (h.incC _ _ _).fault _ _ _ _ _ _
      · injection e with e1 e2; subst e1; exact (h.modTile _ _).tileEvent _ _ _

theorem Goes.execVxPost {s : State} (h : Kept cmds s) (t : ThreadId) (rd : Fin 32) (rs1 : Fin 32) :
    Goes cmds (Machine.execVxPost t rd rs1 s) := by
  unfold Machine.execVxPost
  try dsimp only
  repeat' first
    | with_reducible apply Goes.ok
    | with_reducible assumption
    | with_reducible apply Kept.issue
    | with_reducible apply Kept.posted
    | with_reducible apply Kept.vxPost
    | intro _

theorem Kept.vxLinear {x : VxExec} (h : Kept cmds x.s) (seed t g act o : Nat) (v : VVal) :
    Kept cmds (Machine.vxLinear seed t g act o v x).s := by
  unfold Machine.vxLinear
  exact h.tsWrite _ _ _
theorem Kept.report {x : VxExec} (h : Kept cmds x.s) (oi : Nat) (m v : Option (Nat × Int)) :
    Kept cmds (x.report oi m v).s := h
theorem Kept.ite_s {c : Prop} [Decidable c] {a b : VxExec} (ha : Kept cmds a.s) (hb : Kept cmds b.s) :
    Kept cmds (if c then a else b).s := by split <;> assumption
theorem Kept.ite {c : Prop} [Decidable c] {a b : State} (ha : Kept cmds a) (hb : Kept cmds b) :
    Kept cmds (if c then a else b) := by split <;> assumption
theorem Kept.vxTile {x : VxExec} (h : Kept cmds x.s) (seed t g : Nat) (trav : Bool) (oi o hdr : Nat) (v : VVal) :
    Kept cmds (Machine.vxTile seed t g trav oi o hdr v x).s := by
  unfold Machine.vxTile
  dsimp only
  repeat' first
    | with_reducible assumption
    | with_reducible apply Kept.tsWrite
    | with_reducible apply Kept.breakResv
    | with_reducible apply Kept.modTile
    | with_reducible apply Kept.report
    | with_reducible apply Kept.ite_s
    | with_reducible apply Kept.ite
theorem vxStage_s (seed t g act : Nat) (trav armed : Bool) (ins : List VVal) (si stage : Nat)
    (st : VxExec × List (Nat × VVal) × List (Nat × List Nat)) :
    (vxStage seed t g act trav armed ins si stage st).1.s = st.1.s := by
  unfold vxStage
  dsimp only
  repeat' first
    | rfl
    | split
theorem vxFold_s (stages : List Nat) (x : VxExec) (f : Nat × List Nat) : (vxFold stages x f).s = x.s := by
  unfold vxFold
  rfl
theorem Kept.vxOutputs {x : VxExec} (h : Kept cmds x.s) (seed t g act seg : Nat) (trav : Bool) (ins outs stages : List Nat)
    (regs : List (Nat × VVal)) : Kept cmds (Machine.vxOutputs seed t g act seg trav ins outs stages regs x).s := by
  have fold {α : Type} (f : VxExec → α → VxExec) (hf : ∀ x a, Kept cmds x.s → Kept cmds (f x a).s) :
      ∀ (l : List α) (x : VxExec), Kept cmds x.s → Kept cmds (l.foldl f x).s := by
    intro l
    induction l with
    | nil => intro x hx; exact hx
    | cons a l ih => intro x hx; exact ih _ (hf _ _ hx)
  unfold Machine.vxOutputs
  extract_lets one x1 j segs write x2 counted src
  have h1 : Kept cmds x1.s := by
    refine fold one ?_ _ _ h
    intro y a hy
    simp only [one]
    split
    · exact hy
    · split
      · exact hy
      · split
        · exact Kept.vxTile hy _ _ _ _ _ _ _ _
        · exact Kept.vxLinear hy _ _ _ _ _ _
  have h2 : Kept cmds x2.s := by
    refine fold write ?_ _ _ h1
    intro y a hy
    simp only [write]
    split
    · exact hy
    · split
      · exact hy
      · dsimp only
        with_reducible apply Kept.tsWrite
        exact hy
  split
  · exact h1
  · exact h2
theorem Kept.vxGroup {x : VxExec} (h : Kept cmds x.s) (seed t : Nat) (c : List Byte) (armed : Bool) (failAt : Option Nat)
    (g : Nat) : Kept cmds (Machine.vxGroup seed t c armed failAt x g).s := by
  have h1 : ∀ (acts trav armed vals stages) (l : List Nat) (st : VxExec × List (Nat × VVal) × List (Nat × List Nat)),
      Kept cmds st.1.s →
      Kept cmds (l.foldl (fun st si => vxStage seed t g acts trav armed vals si (vlane stages si) st) st).1.s := by
    intro a b c d e l
    induction l with
    | nil => intro st hs; exact hs
    | cons a l ih => intro st hs; exact ih _ (by rw [vxStage_s]; exact hs)
  have h2 : ∀ stages (l : List (Nat × List Nat)) (y : VxExec), Kept cmds y.s →
      Kept cmds (l.foldl (vxFold stages) y).s := by
    intro _ l
    induction l with
    | nil => intro y hy; exact hy
    | cons a l ih => intro y hy; exact ih _ (by rw [vxFold_s]; exact hy)
  unfold Machine.vxGroup
  dsimp only
  repeat' first
    | with_reducible assumption
    | with_reducible apply Kept.vxOutputs
    | with_reducible apply h2
    | with_reducible apply h1
    | split
theorem Kept.vxRun {s : State} (h : Kept cmds s) (n t : Nat) (c : List Byte) (failAt : Option Nat) :
    Kept cmds (s.vxRun n t c failAt).s := by
  unfold State.vxRun
  extract_lets hd armed
  have : ∀ (l : List Nat) (y : VxExec), Kept cmds y.s →
      Kept cmds (l.foldl (Machine.vxGroup (s.comp n).seed t c armed failAt) y).s := by
    intro l
    induction l with
    | nil => intro y hy; exact hy
    | cons a l ih => intro y hy; exact ih _ (Kept.vxGroup hy _ _ _ _ _ _)
  exact this _ _ h
theorem Kept.vxExecute {s : State} (h : Kept cmds s) (t : Nat) (failAt : Option Nat) :
    Kept cmds (s.vxExecute t failAt) := by
  unfold State.vxExecute
  split
  · split
    · exact h
    · have hx := fun q => h.vxRun (cmds := cmds) ‹Nat› t q failAt
      apply Kept.modTile
      apply Kept.tileEvent
      apply Kept.tileEvent
      apply Kept.incC
      apply Kept.incC
      apply Kept.tileEvent
      apply Kept.tileEvent
      apply Kept.tileEvent
      apply Kept.incC
      refine Kept.foldl (fun a oi ha => ?_) _ ?_
      · split
        · exact ha
        · exact ha.reportTile _ _ _ _ _
      · apply Kept.unstall
        apply Kept.modTile
        exact ⟨(hx _).queue, (hx _).sound⟩
  · exact h

theorem Goes.execVxChainExecute {s : State} (h : Kept cmds s) (t : TileNo) :
    Goes cmds (Machine.execVxChainExecute t s) := by
  unfold Machine.execVxChainExecute
  try dsimp only
  repeat' first
    | with_reducible apply Goes.ok
    | with_reducible assumption
    | with_reducible apply Kept.vxExecute

theorem Goes.execVxRegUncorrectable {s : State} (h : Kept cmds s) (t : TileNo) (group : Nat) :
    Goes cmds (Machine.execVxRegUncorrectable t group s) := by
  unfold Machine.execVxRegUncorrectable
  try dsimp only
  repeat' first
    | with_reducible apply Goes.ok
    | with_reducible assumption
    | with_reducible apply Kept.modTile
    | with_reducible apply Kept.fenceFor
    | with_reducible apply Kept.vxExecute
    | split

theorem Goes.execVxChainComplete {s : State} (h : Kept cmds s) (t : TileNo) :
    Goes cmds (Machine.execVxChainComplete t s) := by
  unfold Machine.execVxChainComplete
  try dsimp only
  repeat' first
    | with_reducible apply Goes.ok
    | with_reducible assumption
    | with_reducible apply Kept.modTile
    | with_reducible apply Kept.incC
    | with_reducible apply Kept.fault
    | with_reducible apply Kept.tsWrite
    | with_reducible apply Kept.unitPost
    | with_reducible apply Kept.tileEvent
    | with_reducible apply Kept.signal
    | with_reducible apply Kept.firstTrap
    | split

theorem Goes.execVxTrapClear {s : State} (h : Kept cmds s) (r : Role) (c : CompNo) (v : Bool) :
    Goes cmds (Machine.execVxTrapClear r c v s) := by
  unfold Machine.execVxTrapClear
  try dsimp only
  repeat' first
    | with_reducible apply Goes.ok
    | with_reducible assumption
    | with_reducible apply Kept.setObjC
    | with_reducible apply Kept.clearWrite


/-! Gather. -/

theorem Kept.setGx {s : State} (h : Kept cmds s) (t : Nat) (eng : Bool) (g : Gather) :
    Kept cmds (State.setGx s t eng g) := by
  unfold State.setGx
  try dsimp only
  repeat' first
    | with_reducible assumption
    | with_reducible apply Kept.modTile

theorem Kept.gxPost {s : State} (h : Kept cmds s) (t : ThreadId) (n off : Nat) (eng : Bool) :
    (s.gxPost t n off eng).Kept cmds := by
  intro s' c e
  unfold State.gxPost at e
  extract_lets k g d at e
  split at e
  · cases e
  · split at e
    · injection e with e1 e2; subst e1; exact h
    · split at e
      · cases e; exact (h.incC _ _ _).fault _ _ _ _ _ _
      · cases e; exact (h.setGx _ _ _).tileEvent _ _ _

theorem Goes.execGxPost {s : State} (h : Kept cmds s) (t : ThreadId) (rd : Fin 32) (rs1 : Fin 32) (rs2 : Fin 32) :
    Goes cmds (Machine.execGxPost t rd rs1 rs2 s) := by
  unfold Machine.execGxPost
  try dsimp only
  repeat' first
    | with_reducible apply Goes.ok
    | with_reducible assumption
    | with_reducible apply Kept.issue
    | with_reducible apply Kept.posted
    | with_reducible apply Kept.gxPost
    | intro _

theorem Kept.tallyAdd {s : State} (h : Kept cmds s) (n : Nat) (key : Nat) :
    Kept cmds (State.tallyAdd s n key) := by
  unfold State.tallyAdd
  try dsimp only
  repeat' first
    | with_reducible assumption
    | with_reducible apply Kept.modComp
    | with_reducible apply Kept.incC
    | split

theorem Kept.gxRead {s : State} (h : Kept cmds s) (n : Nat) (a : Nat) (len : Nat) (remote : Option SpanReply) (bad : Option Integ) :
    Kept cmds (State.gxRead s n a len remote bad).2.2 := by
  unfold State.gxRead
  try dsimp only
  repeat' first
    | with_reducible assumption
    | with_reducible apply Kept.spanAccess
    | with_reducible refine Kept.foldl_snd2 (fun _ _ _ => ?_) _ ?_
    | with_reducible refine Kept.snd_of_eq (by assumption) ?_
    | split

theorem Kept.gxWrite {s : State} (h : Kept cmds s) (n : Nat) (a : Nat) (bs : List Byte) (bad : Option Integ) (src : AccSrc) :
    Kept cmds (State.gxWrite s n a bs bad src).2.2 := by
  unfold State.gxWrite
  try dsimp only
  repeat' first
    | with_reducible assumption
    | with_reducible apply Kept.modComp
    | with_reducible apply Kept.compEvent
    | with_reducible apply Kept.spanAccess
    | with_reducible apply Kept.lostAccess
    | with_reducible apply Kept.unitWrite
    | with_reducible refine Kept.foldl_snd2 (fun _ _ _ => ?_) _ ?_
    | with_reducible refine Kept.snd_of_eq (by assumption) ?_
    | split

theorem Kept.gxLand {s : State} (h : Kept cmds s) (n : Nat) (t : Nat) (d : Nat) (i : Nat) (a : Nat) (bs : List Byte) (run : GxRun) :
    Kept cmds (State.gxLand s n t d i a bs run).2 := by
  unfold State.gxLand
  try dsimp only
  repeat' first
    | with_reducible assumption
    | with_reducible apply Kept.tsWrite
    | with_reducible apply Kept.unitPost
    | with_reducible apply Kept.tileEvent
    | with_reducible apply Kept.tallyAdd
    | split

theorem Kept.gxElem {s : State} (h : Kept cmds s) (n : Nat) (t : Nat) (eng : Bool) (run : GxRun) (remote : List (Nat × SpanReply)) (bad : Option (Nat × Integ)) :
    Kept cmds (State.gxElem s n t eng run remote bad).2.2 := by
  unfold State.gxElem
  try dsimp only
  repeat' first
    | with_reducible assumption
    | with_reducible apply Kept.tickFresh
    | with_reducible apply Kept.tileEvent
    | with_reducible apply Kept.translate
    | with_reducible apply Kept.lostAccess
    | with_reducible apply Kept.gxRead
    | with_reducible apply Kept.gxWrite
    | with_reducible apply Kept.gxLand
    | with_reducible refine Kept.snd2_of_eq (by assumption) ?_
    | split

theorem Kept.gxRun {s : State} (h : Kept cmds s) (n t : Nat) (eng : Bool) (run : GxRun) (remote : List (Nat × SpanReply))
    (bad : Option (Nat × Integ)) (fuel : Nat) : Kept cmds (s.gxRun n t eng run remote bad fuel).2 := by
  induction fuel generalizing s run with
  | zero => exact h
  | succ k ih =>
    unfold State.gxRun
    split
    · exact h
    · split
      · exact ih (Kept.snd2_of_eq (by assumption) (h.gxElem _ _ _ _ _ _)) _
      · exact Kept.snd2_of_eq (by assumption) (h.gxElem _ _ _ _ _ _)
      · exact Kept.snd2_of_eq (by assumption) (h.gxElem _ _ _ _ _ _)

theorem Kept.gxWindow {s : State} (h : Kept cmds s) (n : Nat) (t : Nat) (run : GxRun) :
    Kept cmds (State.gxWindow s n t run).2 := by
  unfold State.gxWindow
  try dsimp only
  repeat' first
    | with_reducible assumption
    | with_reducible apply Kept.incC
    | with_reducible apply Kept.tileEvent
    | with_reducible apply Kept.dropLa
    | with_reducible apply Kept.lookAhead
    | with_reducible refine Kept.foldl_snd (fun _ _ _ => ?_) _ ?_
    | with_reducible refine Kept.snd_of_eq (by assumption) ?_
    | split

theorem Kept.gxGo {s : State} (h : Kept cmds s) (n : Nat) (t : Nat) (eng : Bool) (run : GxRun) (remote : List (Nat × SpanReply)) (bad : Option (Nat × Integ)) :
    Kept cmds (State.gxGo s n t eng run remote bad) := by
  unfold State.gxGo
  try dsimp only
  repeat' first
    | with_reducible assumption
    | with_reducible apply Kept.beatTouch
    | with_reducible apply Kept.setGx
    | with_reducible apply Kept.gxRun
    | with_reducible apply Kept.gxWindow

theorem Goes.execGxDescExecute {s : State} (h : Kept cmds s) (t : TileNo) (eng : Bool) (remote : List (Nat × SpanReply)) (bad : Option (Nat × Integ)) :
    Goes cmds (Machine.execGxDescExecute t eng remote bad s) := by
  unfold Machine.execGxDescExecute
  try dsimp only
  repeat' first
    | with_reducible apply Goes.ok
    | with_reducible assumption
    | with_reducible apply Kept.unstall
    | with_reducible apply Kept.setGx
    | with_reducible apply Kept.gxGo
    | split

theorem Goes.execGxRingAdvance {s : State} (h : Kept cmds s) (t : TileNo) (eng : Bool) (remote : List (Nat × SpanReply)) (bad : Option (Nat × Integ)) :
    Goes cmds (Machine.execGxRingAdvance t eng remote bad s) := by
  unfold Machine.execGxRingAdvance
  try dsimp only
  repeat' first
    | with_reducible apply Goes.ok
    | with_reducible assumption
    | with_reducible apply Kept.gxGo
    | split

theorem Goes.execGxComplete {s : State} (h : Kept cmds s) (t : TileNo) (eng : Bool) :
    Goes cmds (Machine.execGxComplete t eng s) := by
  unfold Machine.execGxComplete
  try dsimp only
  repeat' first
    | with_reducible apply Goes.ok
    | with_reducible assumption
    | with_reducible apply Kept.fault
    | with_reducible apply Kept.tsWrite
    | with_reducible apply Kept.unitPost
    | with_reducible apply Kept.tileEvent
    | with_reducible apply Kept.signal
    | with_reducible apply Kept.setGx
    | split


/-! Prep. -/

theorem Kept.retireLoad {s : State} (h : Kept cmds s) (t : ThreadId) (rd : Nat) (float : Bool) (v : Nat) (len : Nat) :
    Kept cmds (State.retireLoad s t rd float v len) := by
  unfold State.retireLoad
  try dsimp only
  repeat' first
    | with_reducible assumption
    | with_reducible apply Kept.modThread
    | with_reducible apply Kept.retire
    | split

theorem Kept.dropLine {s : State} (h : Kept cmds s) (k : Nat) (line : Nat) :
    Kept cmds (State.dropLine s k line) := by
  unfold State.dropLine
  try dsimp only
  repeat' first
    | with_reducible assumption
    | with_reducible apply Kept.setCore
    | split

theorem Kept.misaligned {s : State} (h : Kept cmds s) (t : ThreadId) (n : Nat) (a : Nat) (len : Nat) (f : State → State) (hf : ∀ a, Kept cmds a → Kept cmds (f a)) :
    Kept cmds (State.misaligned s t n a len f) := by
  unfold State.misaligned
  try dsimp only
  repeat' first
    | with_reducible assumption
    | with_reducible apply Kept.exception
    | with_reducible apply hf
    | split

theorem Kept.spanCheck {s : State} (h : Kept cmds s) (t : ThreadId) (n : Nat) (a : Nat) (k : AccKind) (f : State → State) (hf : ∀ a, Kept cmds a → Kept cmds (f a)) :
    Kept cmds (State.spanCheck s t n a k f) := by
  unfold State.spanCheck
  try dsimp only
  repeat' first
    | with_reducible assumption
    | with_reducible apply Kept.exception
    | with_reducible apply Kept.translate
    | with_reducible apply hf
    | split

theorem Kept.awaitAccess {s : State} (h : Kept cmds s) (t : ThreadId) (n : Nat) (acc : PendAcc) (data : List Byte) :
    Kept cmds (State.awaitAccess s t n acc data) := by
  unfold State.awaitAccess
  try dsimp only
  repeat' first
    | with_reducible assumption
    | with_reducible apply Kept.modThread
    | with_reducible apply Kept.request

theorem Kept.doLoad {s : State} (h : Kept cmds s) (t : ThreadId) (n : Nat) (rd : Nat) (a : Nat) (log2 : Nat) (uns : Bool) (float : Bool) (len : Nat) :
    Kept cmds (State.doLoad s t n rd a log2 uns float len) := by
  unfold State.doLoad
  try dsimp only
  repeat' first
    | with_reducible assumption
    | with_reducible apply Kept.incC
    | with_reducible apply Kept.tileEvent
    | with_reducible apply Kept.exception
    | with_reducible apply Kept.retireLoad
    | with_reducible apply Kept.misaligned
    | with_reducible apply Kept.spanCheck
    | with_reducible apply Kept.awaitAccess
    | intro _
    | split

theorem Kept.doStore {s : State} (h : Kept cmds s) (t : ThreadId) (n : Nat) (a : Nat) (log2 : Nat) (data : Nat) (len : Nat) :
    Kept cmds (State.doStore s t n a log2 data len) := by
  unfold State.doStore
  try dsimp only
  repeat' first
    | with_reducible assumption
    | with_reducible apply Kept.modThread
    | with_reducible apply Kept.tsWrite
    | with_reducible apply Kept.retire
    | with_reducible apply Kept.exception
    | with_reducible apply Kept.request
    | with_reducible apply Kept.dropLine
    | with_reducible apply Kept.misaligned
    | with_reducible apply Kept.spanCheck
    | intro _
    | split

theorem Kept.doAmo {s : State} (h : Kept cmds s) (t : ThreadId) (n : Nat) (op : AmoOp) (rd : Nat) (a : Nat) (wide : Bool) (data : Nat) (aq : Bool) (len : Nat) :
    Kept cmds (State.doAmo s t n op rd a wide data aq len) := by
  unfold State.doAmo
  try dsimp only
  repeat' first
    | with_reducible assumption
    | with_reducible apply Kept.tsWrite
    | with_reducible apply Kept.purge
    | with_reducible apply Kept.retire
    | with_reducible apply Kept.exception
    | with_reducible apply Kept.dropLine
    | with_reducible apply Kept.misaligned
    | with_reducible apply Kept.spanCheck
    | with_reducible apply Kept.awaitAccess
    | intro _
    | split

theorem Kept.doLr {s : State} (h : Kept cmds s) (t : ThreadId) (n : Nat) (rd : Nat) (a : Nat) (wide : Bool) (aq : Bool) (len : Nat) :
    Kept cmds (State.doLr s t n rd a wide aq len) := by
  unfold State.doLr
  try dsimp only
  repeat' first
    | with_reducible assumption
    | with_reducible apply Kept.modThread
    | with_reducible apply Kept.purge
    | with_reducible apply Kept.retire
    | with_reducible apply Kept.exception
    | with_reducible apply Kept.misaligned
    | intro _
    | split

theorem Kept.doSc {s : State} (h : Kept cmds s) (t : ThreadId) (n : Nat) (rd : Nat) (a : Nat) (wide : Bool) (data : Nat) (len : Nat) :
    Kept cmds (State.doSc s t n rd a wide data len) := by
  unfold State.doSc
  try dsimp only
  repeat' first
    | with_reducible assumption
    | with_reducible apply Kept.modThread
    | with_reducible apply Kept.tsWrite
    | with_reducible apply Kept.retire
    | with_reducible apply Kept.exception
    | with_reducible apply Kept.misaligned
    | intro _
    | split

theorem Kept.doFence {s : State} (h : Kept cmds s) (t : ThreadId) (succ : Nat) (len : Nat) :
    Kept cmds (State.doFence s t succ len) := by
  unfold State.doFence
  try dsimp only
  repeat' first
    | with_reducible assumption
    | with_reducible apply Kept.purge
    | with_reducible apply Kept.retire
    | split

theorem Kept.raLoad {s : State} (h : Kept cmds s) (t : ThreadId) (n : Nat) (a : Nat) :
    Kept cmds (State.raLoad s t n a) := by
  unfold State.raLoad
  try dsimp only
  repeat' first
    | with_reducible assumption
    | with_reducible apply Kept.incC
    | with_reducible apply Kept.tileEvent
    | with_reducible apply Kept.dropLa
    | with_reducible apply Kept.setSlot
    | split

theorem Goes.execSpanLoad {s : State} (h : Kept cmds s) (t : ThreadId) (rd : Fin 32) (addr : W64) (log2 : Fin 4) (unsigned : Bool) (float : Bool) :
    Goes cmds (Machine.execSpanLoad t rd addr log2 unsigned float s) := by
  unfold Machine.execSpanLoad
  try dsimp only
  repeat' first
    | with_reducible apply Goes.ok
    | with_reducible assumption
    | with_reducible apply Kept.beat
    | with_reducible apply Kept.raSkip
    | with_reducible apply Kept.doLoad
    | with_reducible apply Kept.raLoad
    | split

theorem Goes.execSpanStore {s : State} (h : Kept cmds s) (t : ThreadId) (addr : W64) (log2 : Fin 4) (data : W64) :
    Goes cmds (Machine.execSpanStore t addr log2 data s) := by
  unfold Machine.execSpanStore
  try dsimp only
  repeat' first
    | with_reducible apply Goes.ok
    | with_reducible assumption
    | with_reducible apply Kept.issue
    | with_reducible apply Kept.doStore
    | intro _

theorem Goes.execSpanAmo {s : State} (h : Kept cmds s) (t : ThreadId) (op : AmoOp) (rd : Fin 32) (addr : W64) (wide : Bool) (data : W64) (aq : Bool) (rl : Bool) :
    Goes cmds (Machine.execSpanAmo t op rd addr wide data aq rl s) := by
  unfold Machine.execSpanAmo
  try dsimp only
  repeat' first
    | with_reducible apply Goes.ok
    | with_reducible assumption
    | with_reducible apply Kept.issue
    | with_reducible apply Kept.doAmo
    | intro _
    | split

theorem Goes.execTileLr {s : State} (h : Kept cmds s) (t : ThreadId) (rd : Fin 32) (addr : W64) (wide : Bool) (aq : Bool) :
    Goes cmds (Machine.execTileLr t rd addr wide aq s) := by
  unfold Machine.execTileLr
  try dsimp only
  repeat' first
    | with_reducible apply Goes.ok
    | with_reducible assumption
    | with_reducible apply Kept.issue
    | with_reducible apply Kept.doLr
    | intro _

theorem Goes.execTileSc {s : State} (h : Kept cmds s) (t : ThreadId) (rd : Fin 32) (addr : W64) (wide : Bool) (data : W64) (rl : Bool) :
    Goes cmds (Machine.execTileSc t rd addr wide data rl s) := by
  unfold Machine.execTileSc
  try dsimp only
  repeat' first
    | with_reducible apply Goes.ok
    | with_reducible assumption
    | with_reducible apply Kept.issue
    | with_reducible apply Kept.doSc
    | intro _
    | split

theorem Goes.execFence {s : State} (h : Kept cmds s) (t : ThreadId) (pred : Fin 16) (succ : Fin 16) :
    Goes cmds (Machine.execFence t pred succ s) := by
  unfold Machine.execFence
  try dsimp only
  repeat' first
    | with_reducible apply Goes.ok
    | with_reducible assumption
    | with_reducible apply Kept.issue
    | with_reducible apply Kept.doFence
    | intro _
    | split

theorem Kept.refuseDispatch {s : State} (h : Kept cmds s) (t : ThreadId) (n : Nat) (rd : Nat) (code : Nat) (len : Nat) :
    Kept cmds (State.refuseDispatch s t n rd code len) := by
  unfold State.refuseDispatch
  try dsimp only
  repeat' first
    | with_reducible assumption
    | with_reducible apply Kept.fault
    | with_reducible apply Kept.retire

theorem Kept.engSpace {s : State} (h : Kept cmds s) (tile : Nat) (e : Nat) :
    Kept cmds (State.engSpace s tile e).2 := by
  unfold State.engSpace
  try dsimp only
  repeat' first
    | with_reducible assumption
    | with_reducible apply Kept.tickFresh
    | split

theorem Kept.thrStart {s : State} (h : Kept cmds s) (t : ThreadId) (n : Nat) (rd : Nat) (rs1 : Nat) (rs2 : Nat) (len : Nat) :
    Kept cmds (State.thrStart s t n rd rs1 rs2 len) := by
  unfold State.thrStart
  try dsimp only
  repeat' first
    | with_reducible assumption
    | with_reducible apply Kept.setThread
    | with_reducible apply Kept.retire
    | with_reducible apply Kept.refuseDispatch
    | split

theorem Kept.thrExit {s : State} (h : Kept cmds s) (t : ThreadId) (len : Nat) :
    Kept cmds (State.thrExit s t len) := by
  unfold State.thrExit
  try dsimp only
  repeat' first
    | with_reducible assumption
    | with_reducible apply Kept.modThread
    | with_reducible apply Kept.retire

theorem Kept.thrRet {s : State} (h : Kept cmds s) (t : ThreadId) :
    Kept cmds (State.thrRet s t) := by
  unfold State.thrRet
  try dsimp only
  repeat' first
    | with_reducible assumption
    | with_reducible apply Kept.modThread
    | with_reducible apply Kept.retire

theorem Goes.execEngSpace {s : State} (h : Kept cmds s) (t : ThreadId) (rd : Fin 32) (rs1 : Fin 32) :
    Goes cmds (Machine.execEngSpace t rd rs1 s) := by
  unfold Machine.execEngSpace
  try dsimp only
  repeat' first
    | with_reducible apply Goes.ok
    | with_reducible assumption
    | with_reducible apply Kept.retire
    | with_reducible apply Kept.issue
    | with_reducible apply Kept.engSpace
    | intro _

theorem Goes.execThrStart {s : State} (h : Kept cmds s) (t : ThreadId) (rd : Fin 32) (rs1 : Fin 32) (rs2 : Fin 32) :
    Goes cmds (Machine.execThrStart t rd rs1 rs2 s) := by
  unfold Machine.execThrStart
  try dsimp only
  repeat' first
    | with_reducible apply Goes.ok
    | with_reducible assumption
    | with_reducible apply Kept.issue
    | with_reducible apply Kept.thrStart
    | intro _

theorem Goes.execThrExit {s : State} (h : Kept cmds s) (t : ThreadId) :
    Goes cmds (Machine.execThrExit t s) := by
  unfold Machine.execThrExit
  try dsimp only
  repeat' first
    | with_reducible apply Goes.ok
    | with_reducible assumption
    | with_reducible apply Kept.issue
    | with_reducible apply Kept.thrExit
    | intro _

theorem Goes.execThrYield {s : State} (h : Kept cmds s) (t : ThreadId) :
    Goes cmds (Machine.execThrYield t s) := by
  unfold Machine.execThrYield
  try dsimp only
  repeat' first
    | with_reducible apply Goes.ok
    | with_reducible assumption
    | with_reducible apply Kept.retire
    | with_reducible apply Kept.issue
    | intro _

theorem Goes.execThrRet {s : State} (h : Kept cmds s) (t : ThreadId) :
    Goes cmds (Machine.execThrRet t s) := by
  unfold Machine.execThrRet
  try dsimp only
  repeat' first
    | with_reducible apply Goes.ok
    | with_reducible assumption
    | with_reducible apply Kept.issue
    | with_reducible apply Kept.thrRet
    | intro _

theorem Kept.doCsr {s : State} (h : Kept cmds s) (t : ThreadId) (n : Nat) (rd : Nat) (num : Nat) (f3 : Nat) (src : Nat) (writes : Bool) (insn : Nat) (len : Nat) :
    Kept cmds (State.doCsr s t n rd num f3 src writes insn len) := by
  unfold State.doCsr
  try dsimp only
  repeat' first
    | with_reducible assumption
    | with_reducible apply Kept.modThread
    | with_reducible apply Kept.retire
    | with_reducible apply Kept.exception
    | split

theorem Goes.execYeventsWrite {s : State} (h : Kept cmds s) (t : ThreadId) (v : W64) :
    Goes cmds (Machine.execYeventsWrite t v s) := by
  unfold Machine.execYeventsWrite
  try dsimp only
  repeat' first
    | with_reducible apply Goes.ok
    | with_reducible assumption
    | with_reducible apply Kept.modThread
    | with_reducible apply Kept.retire
    | with_reducible apply Kept.issue
    | intro _

theorem Kept.doDispatch {s : State} (h : Kept cmds s) (t : ThreadId) (n : Nat) (f3 : Nat) (f7 : Nat) (rd : Nat) (rs1 : Nat) (rs2 : Nat) (insn : Nat) :
    Kept cmds (State.doDispatch s t n f3 f7 rd rs1 rs2 insn) := by
  unfold State.doDispatch
  try dsimp only
  repeat' first
    | with_reducible assumption
    | with_reducible apply Kept.retire
    | with_reducible apply Kept.exception
    | with_reducible apply Kept.pegDo
    | with_reducible apply Kept.mxPost
    | with_reducible apply Kept.posted
    | with_reducible apply Kept.vxPost
    | with_reducible apply Kept.gxPost
    | with_reducible apply Kept.engSpace
    | with_reducible apply Kept.thrStart
    | with_reducible apply Kept.thrExit
    | with_reducible apply Kept.thrRet
    | split

theorem Kept.perform {s : State} (h : Kept cmds s) (t : ThreadId) (n : Nat) (insn : Nat) (len : Nat) (e : RvEff) :
    Kept cmds (State.perform s t n insn len e) := by
  unfold State.perform
  try dsimp only
  repeat' first
    | with_reducible assumption
    | with_reducible apply Kept.modThread
    | with_reducible apply Kept.tickFresh
    | with_reducible apply Kept.retire
    | with_reducible apply Kept.exception
    | with_reducible apply Kept.retireLoad
    | with_reducible apply Kept.doLoad
    | with_reducible apply Kept.doStore
    | with_reducible apply Kept.doAmo
    | with_reducible apply Kept.doLr
    | with_reducible apply Kept.doSc
    | with_reducible apply Kept.doFence
    | with_reducible apply Kept.doCsr
    | with_reducible apply Kept.doDispatch
    | split

theorem Kept.performRa {s : State} (h : Kept cmds s) (t : ThreadId) (n : Nat) (insn : Nat) (len : Nat) (e : RvEff) (r : RunAhead) :
    Kept cmds (State.performRa s t n insn len e r) := by
  unfold State.performRa
  try dsimp only
  repeat' first
    | with_reducible assumption
    | with_reducible apply Kept.modThread
    | with_reducible apply Kept.raStop
    | with_reducible apply Kept.raSkip
    | with_reducible apply Kept.raLoad
    | split

theorem Goes.execUserInstruction {s : State} (h : Kept cmds s) (t : ThreadId) :
    Goes cmds (Machine.execUserInstruction t s) := by
  unfold Machine.execUserInstruction
  try dsimp only
  repeat' first
    | with_reducible apply Goes.ok
    | with_reducible assumption
    | with_reducible apply Kept.beat
    | with_reducible apply Kept.exception
    | with_reducible apply Kept.raStop
    | with_reducible apply Kept.perform
    | with_reducible apply Kept.performRa
    | split

theorem Goes.execEventDivert {s : State} (h : Kept cmds s) (t : ThreadId) :
    Goes cmds (Machine.execEventDivert t s) := by
  unfold Machine.execEventDivert
  try dsimp only
  repeat' first
    | with_reducible apply Goes.ok
    | with_reducible assumption
    | with_reducible apply Kept.incC
    | with_reducible apply Kept.divert
    | split

theorem Goes.execRunaheadEntry {s : State} (h : Kept cmds s) (t : ThreadId) (beats : Nat) :
    Goes cmds (Machine.execRunaheadEntry t beats s) := by
  unfold Machine.execRunaheadEntry
  try dsimp only
  repeat' first
    | with_reducible apply Goes.ok
    | with_reducible assumption
    | with_reducible apply Kept.setThread
    | with_reducible apply Kept.incC
    | with_reducible apply Kept.tileEvent
    | split

theorem Goes.execRunaheadLimit {s : State} (h : Kept cmds s) (t : ThreadId) (beats : Nat) :
    Goes cmds (Machine.execRunaheadLimit t beats s) := by
  unfold Machine.execRunaheadLimit
  try dsimp only
  repeat' first
    | with_reducible apply Goes.ok
    | with_reducible assumption
    | with_reducible apply Kept.modThread
    | split

theorem Goes.execRunaheadExit {s : State} (h : Kept cmds s) (t : ThreadId) :
    Goes cmds (Machine.execRunaheadExit t s) := by
  unfold Machine.execRunaheadExit
  try dsimp only
  repeat' first
    | with_reducible apply Goes.ok
    | with_reducible assumption
    | with_reducible apply Kept.modThread
    | split

theorem Goes.execPrefetchAgeOut {s : State} (h : Kept cmds s) (t : TileNo) (core : Fin 4) (line : Nat) :
    Goes cmds (Machine.execPrefetchAgeOut t core line s) := by
  unfold Machine.execPrefetchAgeOut
  try dsimp only
  repeat' first
    | with_reducible apply Goes.ok
    | with_reducible assumption
    | with_reducible apply Kept.setCore
    | split

theorem Goes.execSpanRequestReceive {s : State} (h : Kept cmds s) (src : SpanSource) (it : Integ) :
    Goes cmds (Machine.execSpanRequestReceive src it s) := by
  unfold Machine.execSpanRequestReceive
  try dsimp only
  repeat' first
    | with_reducible apply Goes.ok
    | with_reducible assumption
    | with_reducible apply Kept.tileEvent
    | with_reducible apply Kept.lookAhead
    | with_reducible apply Kept.setSlot
    | with_reducible apply Kept.answerSlot
    | with_reducible apply Kept.remoteDenied
    | with_reducible apply Kept.performOrHold
    | with_reducible refine Kept.snd_of_eq (by assumption) ?_
    | split

theorem Kept.finishAccess {s : State} (h : Kept cmds s) (t : ThreadId) (n : Nat) (r : SpanReply) :
    Kept cmds (State.finishAccess s t n r) := by
  unfold State.finishAccess
  try dsimp only
  repeat' first
    | with_reducible assumption
    | with_reducible apply Kept.modThread
    | with_reducible apply Kept.exception
    | with_reducible apply Kept.retireLoad
    | split

theorem Kept.deliver {s : State} (h : Kept cmds s) (t : Nat) (k : Nat) (n : Nat) (x : Slot) (r : SpanReply) :
    Kept cmds (State.deliver s t k n x r) := by
  unfold State.deliver
  try dsimp only
  repeat' first
    | with_reducible assumption
    | with_reducible apply Kept.setCore
    | with_reducible apply Kept.tickFresh
    | with_reducible apply Kept.incC
    | with_reducible apply Kept.tileEvent
    | with_reducible apply Kept.compEvent
    | with_reducible apply Kept.exception
    | with_reducible apply Kept.setSlot
    | with_reducible apply Kept.pegEnd
    | with_reducible apply Kept.finishAccess
    | split

theorem Goes.execSpanResponseReceive {s : State} (h : Kept cmds s) (t : TileNo) (slot : Fin 256) (remote : Option SpanReply) :
    Goes cmds (Machine.execSpanResponseReceive t slot remote s) := by
  unfold Machine.execSpanResponseReceive
  try dsimp only
  repeat' first
    | with_reducible apply Goes.ok
    | with_reducible assumption
    | with_reducible apply Kept.deliver
    | split

theorem Goes.execSlotGrant {s : State} (h : Kept cmds s) (t : TileNo) :
    Goes cmds (Machine.execSlotGrant t s) := by
  unfold Machine.execSlotGrant
  try dsimp only
  repeat' first
    | with_reducible apply Goes.ok
    | with_reducible assumption
    | with_reducible apply Kept.modTile
    | with_reducible apply Kept.modThread
    | with_reducible apply Kept.takeSlot
    | split

theorem Goes.execFencedSlotComplete {s : State} (h : Kept cmds s) (t : TileNo) (slot : Fin 256) :
    Goes cmds (Machine.execFencedSlotComplete t slot s) := by
  unfold Machine.execFencedSlotComplete
  try dsimp only
  repeat' first
    | with_reducible apply Goes.ok
    | with_reducible assumption
    | with_reducible apply Kept.answerSlot
    | split

theorem Goes.execPrepFaultClear {s : State} (h : Kept cmds s) (r : Role) (c : CompNo) (v : Bool) :
    Goes cmds (Machine.execPrepFaultClear r c v s) := by
  unfold Machine.execPrepFaultClear
  try dsimp only
  repeat' first
    | with_reducible apply Goes.ok
    | with_reducible assumption
    | with_reducible apply Kept.setObjC
    | with_reducible apply Kept.clearWrite

end Sys2Proof.Machine
end

