-- ==== Sys2Proof/Laws/KeptComps.lean ====
section
/-! SUPPORT. Every operation of CompOps, Ckpt, Update, Tables, Numerics, DictMsg, Fabric, Report, Comps keeps the queue and the bounds (Laws/Kept.lean). -/

namespace Sys2Proof.Machine
open Sys2Proof

variable {cmds : List Instr}

/-! CompOps. -/

theorem Kept.reseed {s : State} (h : Kept cmds s) (n : Nat) :
    Kept cmds (State.reseed s n) := by
  unfold State.reseed
  try dsimp only
  repeat' first
    | with_reducible assumption
    | with_reducible apply Kept.modComp
    | (with_reducible apply Kept.raw; first | with_reducible assumption | with_reducible apply Kept.modComp | with_reducible apply Kept.tickFresh)

theorem Kept.eachTile {s : State} (h : Kept cmds s) (n : Nat) (f : Nat → Tile → Tile) :
    Kept cmds (State.eachTile s n f) := by
  unfold State.eachTile
  try dsimp only
  repeat' first
    | with_reducible assumption
    | with_reducible apply Kept.setTile
    | with_reducible refine Kept.foldl (fun _ _ _ => ?_) _ ?_

theorem Kept.endThreads {s : State} (h : Kept cmds s) (n : Nat) :
    Kept cmds (State.endThreads s n) := by
  unfold State.endThreads
  try dsimp only
  repeat' first
    | (with_reducible apply Kept.raw; first | with_reducible assumption)

theorem Kept.startThreads {s : State} (h : Kept cmds s) (n : Nat) :
    Kept cmds (State.startThreads s n) := by
  unfold State.startThreads
  try dsimp only
  repeat' first
    | with_reducible assumption
    | with_reducible apply Kept.setThread
    | with_reducible refine Kept.foldl (fun _ _ _ => ?_) _ ?_

theorem Kept.clearPegs {s : State} (h : Kept cmds s) (n : Nat) :
    Kept cmds (State.clearPegs s n) := by
  unfold State.clearPegs
  try dsimp only
  repeat' first
    | with_reducible apply Kept.modComp
    | with_reducible apply Kept.setObjC
    | (with_reducible apply Kept.raw; first | with_reducible assumption | with_reducible apply Kept.modComp | with_reducible apply Kept.setObjC)

theorem Kept.setCap {s : State} (h : Kept cmds s) (n : Nat) (cap : Option Nat) :
    Kept cmds (State.setCap s n cap) := by
  unfold State.setCap
  try dsimp only
  repeat' first
    | with_reducible assumption
    | with_reducible apply Kept.modComp
    | split

theorem Kept.recap {s : State} (h : Kept cmds s) (n : Nat) :
    Kept cmds (State.recap s n) := by
  unfold State.recap
  try dsimp only
  repeat' first
    | with_reducible assumption
    | with_reducible apply Kept.setCap

theorem Kept.reformRange {s : State} (h : Kept cmds s) (n : Nat) (r : Nat) :
    Kept cmds (State.reformRange s n r) := by
  unfold State.reformRange
  try dsimp only
  repeat' first
    | with_reducible assumption
    | with_reducible apply Kept.modComp
    | with_reducible apply Kept.setObj
    | with_reducible apply Kept.setObjC

theorem Kept.postAll {s : State} (h : Kept cmds s) (n : Nat) (kind : Nat) (data : List Nat) :
    Kept cmds (State.postAll s n kind data) := by
  unfold State.postAll
  try dsimp only
  repeat' first
    | with_reducible assumption
    | with_reducible apply Kept.emit
    | with_reducible refine Kept.foldl (fun _ _ _ => ?_) _ ?_


/-! Ckpt. -/

theorem Kept.setWriteAct {s : State} (h : Kept cmds s) (n : Nat) (e : Nat) :
    Kept cmds (State.setWriteAct s n e).2 := by
  unfold State.setWriteAct
  try dsimp only
  repeat' first
    | with_reducible assumption
    | with_reducible apply Kept.modComp
    | with_reducible apply Kept.fault
    | with_reducible apply Kept.define
    | with_reducible refine Kept.snd_of_eq (by assumption) ?_
    | split

theorem Goes.execSetWrite {s : State} (h : Kept cmds s) (r : Role) (c : CompNo) (v : BitVec 128) :
    Goes cmds (Machine.execSetWrite r c v s) := by
  unfold Machine.execSetWrite
  try dsimp only
  repeat' first
    | with_reducible apply Goes.ok
    | with_reducible assumption
    | with_reducible apply Kept.reply
    | with_reducible apply Kept.setWriteAct
    | split

theorem Kept.modCkpt {s : State} (h : Kept cmds s) (n : Nat) (f : Ckpt → Ckpt) :
    Kept cmds (State.modCkpt s n f) := by
  unfold State.modCkpt
  try dsimp only
  repeat' first
    | with_reducible assumption
    | with_reducible apply Kept.modComp

theorem Kept.setCkptSlot {s : State} (h : Kept cmds s) (n : Nat) (k : Nat) (x : CkptSlot) :
    Kept cmds (State.setCkptSlot s n k x) := by
  unfold State.setCkptSlot
  try dsimp only
  repeat' first
    | with_reducible assumption
    | with_reducible apply Kept.modCkpt

theorem Kept.addCopy {s : State} (h : Kept cmds s) (n : Nat) (k : Nat) (whole : Bool) :
    ∀ t', State.addCopy s n k whole = some t' → Kept cmds t' := by
  intro t' e
  unfold State.addCopy at e
  try dsimp only at e
  revert e
  repeat' first
    | (intro e; cases e; done)
    | (intro e; injection e with e; subst e)
    | with_reducible assumption
    | with_reducible apply Kept.setCkptSlot
    | split

theorem Kept.fillCopies {s : State} (h : Kept cmds s) (n k : Nat) (whole : Bool) (fuel : Nat) :
    Kept cmds (s.fillCopies n k whole fuel) := by
  induction fuel generalizing s with
  | zero => exact h
  | succ m ih =>
    unfold State.fillCopies
    split
    · exact ih (h.addCopy _ _ _ _ (by assumption))
    · exact h

theorem Kept.askCopy {s : State} (h : Kept cmds s) (n k : Nat) : ∀ t', s.askCopy n k = some t' → Kept cmds t' := by
  intro t' e
  unfold State.askCopy at e
  split at e
  · cases e
  · obtain ⟨f, _, rfl⟩ := Option.map_eq_some_iff.1 e
    exact h.emit _

theorem Kept.abandonDovetail {s : State} (h : Kept cmds s) (n : Nat) (code : Nat) (send : Bool) :
    Kept cmds (State.abandonDovetail s n code send) := by
  unfold State.abandonDovetail
  try dsimp only
  repeat' first
    | with_reducible assumption
    | with_reducible apply Kept.modComp
    | with_reducible apply Kept.setObjC
    | with_reducible apply Kept.incC
    | with_reducible apply Kept.fault
    | with_reducible apply Kept.unitPost
    | with_reducible apply Kept.release
    | with_reducible apply Kept.postAll
    | with_reducible refine Kept.foldl (fun _ _ _ => ?_) _ ?_
    | split

theorem Kept.tryRecord {s : State} (h : Kept cmds s) (n : Nat) :
    Kept cmds (State.tryRecord s n) := by
  unfold State.tryRecord
  try dsimp only
  repeat' first
    | with_reducible assumption
    | with_reducible apply Kept.modCkpt
    | split

theorem Kept.tryPosts {s : State} (h : Kept cmds s) (n : Nat) :
    Kept cmds (State.tryPosts s n) := by
  unfold State.tryPosts
  try dsimp only
  repeat' first
    | with_reducible assumption
    | with_reducible apply Kept.tickFresh
    | with_reducible apply Kept.postAll
    | with_reducible apply Kept.modCkpt
    | with_reducible apply Kept.tryRecord
    | split

theorem Kept.seekCopies {s : State} (h : Kept cmds s) (n : Nat) :
    Kept cmds (State.seekCopies s n) := by
  unfold State.seekCopies
  try dsimp only
  repeat' first
    | with_reducible assumption
    | with_reducible apply Kept.fillCopies
    | with_reducible refine Kept.askCopy ?_ _ _ _ (by assumption)
    | with_reducible apply Kept.abandonDovetail
    | with_reducible apply Kept.tryPosts
    | split

theorem Kept.startDovetail {s : State} (h : Kept cmds s) (n : Nat) (step : Nat) :
    Kept cmds (State.startDovetail s n step) := by
  unfold State.startDovetail
  try dsimp only
  repeat' first
    | with_reducible assumption
    | with_reducible apply Kept.modComp
    | with_reducible apply Kept.setObjC
    | with_reducible apply Kept.unitPost
    | with_reducible apply Kept.seekCopies

theorem Kept.seekGranted {s : State} (h : Kept cmds s) (n : Nat) :
    Kept cmds (State.seekGranted s n) := by
  unfold State.seekGranted
  try dsimp only
  repeat' first
    | with_reducible assumption
    | with_reducible apply Kept.seekCopies
    | split

theorem Goes.execLeaseGrantReceive {s : State} (h : Kept cmds s) (c : CompNo) (range : Option (Fin 16)) (granted : Option (BitVec 16 × W32)) :
    Goes cmds (Machine.execLeaseGrantReceive c range granted s) := by
  unfold Machine.execLeaseGrantReceive
  try dsimp only
  repeat' first
    | with_reducible apply Goes.ok
    | with_reducible assumption
    | with_reducible apply Kept.modComp
    | with_reducible apply Kept.incC
    | with_reducible apply Kept.tierEvent
    | with_reducible apply Kept.quotaBlocked
    | with_reducible apply Kept.abandonDovetail
    | with_reducible apply Kept.seekGranted
    | split

theorem Goes.execBoundaryTake {s : State} (h : Kept cmds s) (c : CompNo) (remote : Option SpanReply) :
    Goes cmds (Machine.execBoundaryTake c remote s) := by
  unfold Machine.execBoundaryTake
  try dsimp only
  repeat' first
    | with_reducible apply Goes.ok
    | with_reducible assumption
    | with_reducible apply Kept.fault
    | with_reducible apply Kept.unitPost
    | with_reducible apply Kept.actOn
    | with_reducible apply Kept.unitFetch
    | with_reducible apply Kept.startDovetail
    | with_reducible refine Kept.snd_of_eq (by assumption) ?_
    | split

theorem Kept.dovetailCopy {s : State} (h : Kept cmds s) (n : Nat) (p : Nat) (d : Dovetail) :
    Kept cmds (State.dovetailCopy s n p d) := by
  unfold State.dovetailCopy
  try dsimp only
  repeat' first
    | with_reducible assumption
    | with_reducible apply Kept.setObjC
    | with_reducible apply Kept.incC
    | with_reducible apply Kept.copyPage
    | with_reducible apply Kept.compEvent
    | with_reducible apply Kept.release
    | with_reducible apply Kept.fillCopies
    | with_reducible apply Kept.abandonDovetail
    | with_reducible apply Kept.tryPosts
    | split

theorem Goes.execCkptPageCopy {s : State} (h : Kept cmds s) (c : CompNo) (page : BitVec 40) :
    Goes cmds (Machine.execCkptPageCopy c page s) := by
  unfold Machine.execCkptPageCopy
  try dsimp only
  repeat' first
    | with_reducible apply Goes.ok
    | with_reducible assumption
    | with_reducible apply Kept.dovetailCopy
    | split

theorem Goes.execShardPostReceive {s : State} (h : Kept cmds s) (c : CompNo) (module : BitVec 16) (step : W64) (digest : BitVec 384) (bytes : W64) (locs : List (W32 × W32)) :
    Goes cmds (Machine.execShardPostReceive c module step digest bytes locs s) := by
  unfold Machine.execShardPostReceive
  try dsimp only
  repeat' first
    | with_reducible apply Goes.ok
    | with_reducible assumption
    | with_reducible apply Kept.reply
    | with_reducible apply Kept.modCkpt
    | with_reducible apply Kept.tryRecord
    | split

theorem Goes.execShardPostRetry {s : State} (h : Kept cmds s) (c : CompNo) (module : BitVec 16) :
    Goes cmds (Machine.execShardPostRetry c module s) := by
  unfold Machine.execShardPostRetry
  try dsimp only
  repeat' first
    | with_reducible apply Goes.ok
    | with_reducible assumption
    | with_reducible apply Kept.emit
    | split

theorem Goes.execDovetailCommit {s : State} (h : Kept cmds s) (c : CompNo) :
    Goes cmds (Machine.execDovetailCommit c s) := by
  unfold Machine.execDovetailCommit
  try dsimp only
  repeat' first
    | with_reducible apply Goes.ok
    | with_reducible assumption
    | with_reducible apply Kept.setObjC
    | with_reducible apply Kept.unitPost
    | with_reducible apply Kept.modCkpt
    | split

theorem Goes.execDovetailTimeout {s : State} (h : Kept cmds s) (c : CompNo) :
    Goes cmds (Machine.execDovetailTimeout c s) := by
  unfold Machine.execDovetailTimeout
  try dsimp only
  repeat' first
    | with_reducible apply Goes.ok
    | with_reducible assumption
    | with_reducible apply Kept.abandonDovetail
    | split

theorem Goes.execAbandonPostReceive {s : State} (h : Kept cmds s) (c : CompNo) (step : W64) :
    Goes cmds (Machine.execAbandonPostReceive c step s) := by
  unfold Machine.execAbandonPostReceive
  try dsimp only
  repeat' first
    | with_reducible apply Goes.ok
    | with_reducible assumption
    | with_reducible apply Kept.abandonDovetail
    | split

theorem Goes.execCopyAheadDone {s : State} (h : Kept cmds s) (c : CompNo) (page : BitVec 40) :
    Goes cmds (Machine.execCopyAheadDone c page s) := by
  unfold Machine.execCopyAheadDone
  try dsimp only
  repeat' first
    | with_reducible apply Goes.ok
    | with_reducible assumption
    | with_reducible apply Kept.dovetailCopy
    | split

theorem Goes.execCopyAheadTimeout {s : State} (h : Kept cmds s) (c : CompNo) (page : BitVec 40) :
    Goes cmds (Machine.execCopyAheadTimeout c page s) := by
  unfold Machine.execCopyAheadTimeout
  try dsimp only
  repeat' first
    | with_reducible apply Goes.ok
    | with_reducible assumption
    | with_reducible apply Kept.abandonDovetail
    | split

theorem Goes.execCkptHoldupDeadline {s : State} (h : Kept cmds s) (c : CompNo) :
    Goes cmds (Machine.execCkptHoldupDeadline c s) := by
  unfold Machine.execCkptHoldupDeadline
  try dsimp only
  repeat' first
    | with_reducible apply Goes.ok
    | with_reducible assumption
    | with_reducible apply Kept.abandonDovetail
    | split

theorem Goes.execCkptCopyLost {s : State} (h : Kept cmds s) (c : CompNo) (slot : Fin 3) (copy : Fin 3) :
    Goes cmds (Machine.execCkptCopyLost c slot copy s) := by
  unfold Machine.execCkptCopyLost
  try dsimp only
  repeat' first
    | with_reducible apply Goes.ok
    | with_reducible assumption
    | with_reducible apply Kept.fault
    | with_reducible apply Kept.dropLease
    | with_reducible apply Kept.modCkpt
    | with_reducible apply Kept.setCkptSlot
    | with_reducible refine Kept.askCopy ?_ _ _ _ (by assumption)
    | with_reducible apply Kept.abandonDovetail
    | with_reducible refine Kept.foldl (fun _ _ _ => ?_) _ ?_
    | with_reducible refine Kept.getD (fun _ _ => ?_) ?_
    | split

theorem Goes.execCkptCopyRebuilt {s : State} (h : Kept cmds s) (c : CompNo) (slot : Fin 3) :
    Goes cmds (Machine.execCkptCopyRebuilt c slot s) := by
  unfold Machine.execCkptCopyRebuilt
  try dsimp only
  repeat' first
    | with_reducible apply Goes.ok
    | with_reducible assumption
    | with_reducible apply Kept.incC
    | with_reducible apply Kept.modCkpt
    | with_reducible refine Kept.addCopy ?_ _ _ _ _ (by assumption)
    | with_reducible apply Kept.tryPosts
    | split

theorem Kept.restoreStatus {s : State} (h : Kept cmds s) (n : Nat) (status : Nat) (phase : Nat) (step : Nat) (rid : Nat) :
    Kept cmds (State.restoreStatus s n status phase step rid) := by
  unfold State.restoreStatus
  try dsimp only
  repeat' first
    | with_reducible assumption
    | with_reducible apply Kept.setObjC

theorem Kept.finishRestore {s : State} (h : Kept cmds s) (n : Nat) (code : Nat) (step : Nat) :
    Kept cmds (State.finishRestore s n code step) := by
  unfold State.finishRestore
  try dsimp only
  repeat' first
    | with_reducible assumption
    | with_reducible apply Kept.fault
    | with_reducible apply Kept.modCkpt
    | with_reducible apply Kept.restoreStatus
    | split

theorem Kept.chooseRestore {s : State} (h : Kept cmds s) (n : Nat) :
    Kept cmds (State.chooseRestore s n) := by
  unfold State.chooseRestore
  try dsimp only
  repeat' first
    | with_reducible assumption
    | with_reducible apply Kept.reformRange
    | with_reducible apply Kept.modCkpt
    | with_reducible apply Kept.restoreStatus
    | with_reducible apply Kept.finishRestore
    | with_reducible refine Kept.foldl (fun _ _ _ => ?_) _ ?_
    | split

theorem Kept.restoreAct {s : State} (h : Kept cmds s) (n : Nat) (v : Nat) (found : List RecFound) :
    Kept cmds (State.restoreAct s n v found).2 := by
  unfold State.restoreAct
  try dsimp only
  repeat' first
    | with_reducible assumption
    | with_reducible apply Kept.incC
    | with_reducible apply Kept.fault
    | with_reducible apply Kept.faultOnce
    | with_reducible apply Kept.postAll
    | with_reducible apply Kept.modCkpt
    | with_reducible apply Kept.restoreStatus
    | with_reducible apply Kept.chooseRestore
    | split

theorem Goes.execRestoreRequest {s : State} (h : Kept cmds s) (r : Role) (c : CompNo) (v : BitVec 512) (found : List RecFound) :
    Goes cmds (Machine.execRestoreRequest r c v found s) := by
  unfold Machine.execRestoreRequest
  try dsimp only
  repeat' first
    | with_reducible apply Goes.ok
    | with_reducible assumption
    | with_reducible apply Kept.fault
    | with_reducible apply Kept.reply
    | with_reducible apply Kept.restoreAct
    | split

theorem Goes.execRestoreSetReceive {s : State} (h : Kept cmds s) (c : CompNo) (rid : W64) (module : BitVec 16) (set : List (W64 × BitVec 384)) :
    Goes cmds (Machine.execRestoreSetReceive c rid module set s) := by
  unfold Machine.execRestoreSetReceive
  try dsimp only
  repeat' first
    | with_reducible apply Goes.ok
    | with_reducible assumption
    | with_reducible apply Kept.modCkpt
    | with_reducible apply Kept.chooseRestore
    | split

theorem Goes.execRestoreTimeout {s : State} (h : Kept cmds s) (c : CompNo) :
    Goes cmds (Machine.execRestoreTimeout c s) := by
  unfold Machine.execRestoreTimeout
  try dsimp only
  repeat' first
    | with_reducible apply Goes.ok
    | with_reducible assumption
    | with_reducible apply Kept.finishRestore
    | split

theorem Goes.execRestoreAbortPost {s : State} (h : Kept cmds s) (c : CompNo) (rid : W64) :
    Goes cmds (Machine.execRestoreAbortPost c rid s) := by
  unfold Machine.execRestoreAbortPost
  try dsimp only
  repeat' first
    | with_reducible apply Goes.ok
    | with_reducible assumption
    | with_reducible apply Kept.finishRestore
    | split

theorem Kept.restorePage {s : State} (h : Kept cmds s) (n : Nat) (x : ShardPage) :
    Kept cmds (State.restorePage s n x).2 := by
  unfold State.restorePage
  try dsimp only
  repeat' first
    | with_reducible assumption
    | with_reducible apply Kept.modComp
    | with_reducible apply Kept.setPage
    | with_reducible apply Kept.placePage
    | with_reducible refine Kept.firstFrame ?_ _ _ _ (by assumption)
    | split

theorem Kept.restorePages {s : State} (h : Kept cmds s) (n : Nat) (l : List ShardPage) :
    Kept cmds (s.restorePages n l).2 := by
  induction l generalizing s with
  | nil => exact h
  | cons x r ih =>
    unfold State.restorePages
    split
    · exact ih (Kept.snd_of_eq (by assumption) (h.restorePage _ _))
    · exact h.restorePage _ _

theorem Kept.restorePols {s : State} (h : Kept cmds s) (n : Nat) (pols : List (Nat × Nat)) :
    Kept cmds (State.restorePols s n pols) := by
  unfold State.restorePols
  try dsimp only
  repeat' first
    | with_reducible assumption
    | with_reducible apply Kept.setPObj
    | with_reducible refine Kept.foldl (fun _ _ _ => ?_) _ ?_
    | split

theorem Kept.adopt {s : State} (h : Kept cmds s) (n step : Nat) (leases : List (BitVec 16 × W32)) :
    ∀ t, s.adopt n step leases = .ok t → Kept cmds t := by
  intro t e
  unfold State.adopt at e
  extract_lets keys s1 node k at e
  split at e
  · cases e
  · injection e with e
    subst e
    exact (h.modComp _ _).setCkptSlot _ _ _

theorem Kept.restoreUnits {s : State} (h : Kept cmds s) (n : Nat) (step : Nat) :
    Kept cmds (State.restoreUnits s n step) := by
  unfold State.restoreUnits
  try dsimp only
  repeat' first
    | with_reducible assumption
    | with_reducible apply Kept.modComp
    | with_reducible apply Kept.setObjC
    | with_reducible apply Kept.reseed
    | with_reducible apply Kept.eachTile
    | with_reducible apply Kept.endThreads
    | with_reducible apply Kept.startThreads
    | with_reducible apply Kept.clearPegs
    | split

theorem Kept.repair {s : State} (h : Kept cmds s) (n : Nat) (step : Nat) (bad : List Nat) :
    Kept cmds (State.repair s n step bad).2 := by
  unfold State.repair
  try dsimp only
  repeat' first
    | with_reducible assumption
    | with_reducible apply Kept.incC
    | with_reducible apply Kept.setCkptSlot
    | with_reducible apply Kept.fillCopies
    | split

theorem Goes.execRestoreWriteDone {s : State} (h : Kept cmds s) (c : CompNo) (img : Option ShardImg) :
    Goes cmds (Machine.execRestoreWriteDone c img s) := by
  unfold Machine.execRestoreWriteDone
  extract_lets n
  split
  · exact Goes.ok h
  · split
    · exact Goes.ok h
    · have hs : ∀ step img t pols pages, s.restoreSource n step img = .ok (t, pols, pages) → Kept cmds t := by
        intro step img t pols pages e
        unfold State.restoreSource at e
        split at e
        · split at e
          · injection e with e
            injection e with e _
            subst e
            exact h.adopt _ _ _ _ (by assumption)
          · cases e
        · split at e
          · injection e with e
            injection e with e _
            subst e
            exact h
          · cases e
      split
      · exact Goes.ok (h.finishRestore _ _ _)
      · have h1 := ((hs _ _ _ _ _ (by assumption)).restorePols n ‹List (Nat × Nat)›).restorePages n ‹List ShardPage›
        split
        · exact Goes.ok ((Kept.snd_of_eq (by assumption) h1).finishRestore _ _ _)
        · have h2 := Kept.snd_of_eq (by assumption) h1
          split
          exact Goes.ok ((Kept.snd_of_eq (by assumption) ((h2.restoreUnits _ _).repair _ _ _)).finishRestore _ _ _)


/-! Update. -/

theorem Kept.confPut {s : State} (h : Kept cmds s) (n : Nat) (step : Nat) (f : Conf → Conf) :
    Kept cmds (State.confPut s n step f) := by
  unfold State.confPut
  try dsimp only
  repeat' first
    | with_reducible assumption
    | with_reducible apply Kept.modUpd
    | with_reducible apply Kept.setObjC
    | split

theorem Kept.joinLine {s : State} (h : Kept cmds s) (n : Nat) (step : Nat) :
    Kept cmds (State.joinLine s n step) := by
  unfold State.joinLine
  try dsimp only
  repeat' first
    | with_reducible assumption
    | with_reducible apply Kept.modUpd
    | split

theorem Kept.handVerdict {s : State} (h : Kept cmds s) (n : Nat) (step : Nat) (v : Nat) (used : Nat) (next : Nat) :
    Kept cmds (State.handVerdict s n step v used next) := by
  unfold State.handVerdict
  try dsimp only
  repeat' first
    | with_reducible assumption
    | with_reducible apply Kept.modUpd
    | with_reducible apply Kept.confPut
    | with_reducible apply Kept.joinLine

theorem Kept.handTally {s : State} (h : Kept cmds s) (n : Nat) (step : Nat) (credited : Nat) (met : Nat) (sill : Bool) :
    Kept cmds (State.handTally s n step credited met sill) := by
  unfold State.handTally
  try dsimp only
  repeat' first
    | with_reducible assumption
    | with_reducible apply Kept.confPut

theorem Kept.updEvent {s : State} (h : Kept cmds s) (n : Nat) (code : Nat) (tag : Nat) (step : Nat) (finish : Bool) (cause : Nat) :
    Kept cmds (State.updEvent s n code tag step finish cause) := by
  unfold State.updEvent
  try dsimp only
  repeat' first
    | with_reducible assumption
    | with_reducible apply Kept.setObjC
    | with_reducible apply Kept.fault
    | with_reducible apply Kept.faultFirst
    | split

theorem Goes.execUpdEventClear {s : State} (h : Kept cmds s) (r : Role) (c : CompNo) (v : Bool) :
    Goes cmds (Machine.execUpdEventClear r c v s) := by
  unfold Machine.execUpdEventClear
  try dsimp only
  repeat' first
    | with_reducible apply Goes.ok
    | with_reducible assumption
    | with_reducible apply Kept.setObjC
    | with_reducible apply Kept.rearmLog
    | with_reducible apply Kept.clearWrite

theorem Goes.execPlumbLineAccept {s : State} (h : Kept cmds s) (c : CompNo) (remote : Option SpanReply) :
    Goes cmds (Machine.execPlumbLineAccept c remote s) := by
  unfold Machine.execPlumbLineAccept
  try dsimp only
  repeat' first
    | with_reducible apply Goes.ok
    | with_reducible assumption
    | with_reducible apply Kept.modUpd
    | with_reducible apply Kept.actOn
    | with_reducible apply Kept.unitFetch
    | with_reducible apply Kept.confPut
    | with_reducible apply Kept.joinLine
    | with_reducible apply Kept.updEvent
    | with_reducible refine Kept.snd_of_eq (by assumption) ?_
    | split

theorem Kept.putLine {s : State} (h : Kept cmds s) (n : Nat) (step : Nat) (used : Nat) (v : Nat) (clip : Nat) :
    Kept cmds (State.putLine s n step used v clip) := by
  unfold State.putLine
  try dsimp only
  repeat' first
    | with_reducible assumption
    | with_reducible apply Kept.unitPost
    | with_reducible apply Kept.unitWrite

theorem Kept.firstLine {s : State} (h : Kept cmds s) (n : Nat) :
    Kept cmds (State.firstLine s n) := by
  unfold State.firstLine
  try dsimp only
  repeat' first
    | with_reducible assumption
    | with_reducible apply Kept.modUpd
    | with_reducible apply Kept.putLine
    | split

theorem Goes.execParamLinePublish {s : State} (h : Kept cmds s) (c : CompNo) :
    Goes cmds (Machine.execParamLinePublish c s) := by
  unfold Machine.execParamLinePublish
  try dsimp only
  repeat' first
    | with_reducible apply Goes.ok
    | with_reducible assumption
    | with_reducible apply Kept.modUpd
    | with_reducible apply Kept.putLine
    | split

theorem Kept.ueFinish {s : State} (h : Kept cmds s) (n : Nat) (e : Nat) (status : Nat) (words : Nat) (cause : Nat) :
    Kept cmds (State.ueFinish s n e status words cause) := by
  unfold State.ueFinish
  try dsimp only
  repeat' first
    | with_reducible assumption
    | with_reducible apply Kept.incC
    | with_reducible apply Kept.unitPost
    | with_reducible apply Kept.unitWrite
    | with_reducible apply Kept.updEvent
    | split

theorem Kept.ueClose {s : State} (h : Kept cmds s) (n : Nat) (x : UpdEntry) (status : Nat) (words : Nat) (cause : Nat) :
    Kept cmds (State.ueClose s n x status words cause) := by
  unfold State.ueClose
  try dsimp only
  repeat' first
    | with_reducible assumption
    | with_reducible apply Kept.modUpd
    | with_reducible apply Kept.ueFinish

theorem Goes.execUpdRingTake {s : State} (h : Kept cmds s) (c : CompNo) (remote : Option SpanReply) :
    Goes cmds (Machine.execUpdRingTake c remote s) := by
  unfold Machine.execUpdRingTake
  try dsimp only
  repeat' first
    | with_reducible apply Goes.ok
    | with_reducible assumption
    | with_reducible apply Kept.modUpd
    | with_reducible apply Kept.unitPost
    | with_reducible apply Kept.unitFetch
    | with_reducible apply Kept.ueFinish
    | with_reducible refine Kept.snd_of_eq (by assumption) ?_
    | split

theorem Goes.execUpdCommitEvaluate {s : State} (h : Kept cmds s) (c : CompNo) (entry : Nat) :
    Goes cmds (Machine.execUpdCommitEvaluate c entry s) := by
  unfold Machine.execUpdCommitEvaluate
  try dsimp only
  repeat' first
    | with_reducible apply Goes.ok
    | with_reducible assumption
    | with_reducible apply Kept.modUpd
    | with_reducible apply Kept.incC
    | with_reducible apply Kept.ueClose
    | split

theorem Goes.execUpdConfirmTimeout {s : State} (h : Kept cmds s) (c : CompNo) (entry : Nat) :
    Goes cmds (Machine.execUpdConfirmTimeout c entry s) := by
  unfold Machine.execUpdConfirmTimeout
  try dsimp only
  repeat' first
    | with_reducible apply Goes.ok
    | with_reducible assumption
    | with_reducible apply Kept.ueClose
    | split

theorem Kept.word {r : CopyRun} (h : Kept cmds r.s) (n t off a : Nat) : Kept cmds (r.word n t off a).s := by
  unfold CopyRun.word
  split
  · exact h
  · extract_lets f d s0
    split
    · exact h
    · split
      · exact h.unitWrite _ _ _
      · have h0 : Kept cmds s0 := h.copyAhead _ _
        split
        · exact Kept.snd_of_eq (by assumption) (h0.spanAccess _ _ _ _ _ _ _)
        · with_reducible apply Kept.modComp
          exact Kept.snd_of_eq (by assumption) (h0.spanAccess _ _ _ _ _ _ _)
        · exact Kept.snd_of_eq (by assumption) (h0.spanAccess _ _ _ _ _ _ _)

theorem Kept.copyFold {α : Type} {f : CopyRun → α → CopyRun} (hf : ∀ r a, Kept cmds r.s → Kept cmds (f r a).s) :
    ∀ (l : List α) {r : CopyRun}, Kept cmds r.s → Kept cmds (l.foldl f r).s
  | [], _, h => h
  | x :: l, _, h => Kept.copyFold hf l (hf _ x h)
theorem Kept.piece {r : CopyRun} (h : Kept cmds r.s) (n : Nat) (p : Nat × Nat × Nat × Nat) :
    Kept cmds (r.piece n p).s := Kept.copyFold (fun _ _ ha => ha.word _ _ _ _) _ h

theorem Kept.putLayer {s : State} (h : Kept cmds s) (n : Nat) (i : Nat) (off : Nat) (len : Nat) (v : Nat) :
    Kept cmds (State.putLayer s n i off len v) := by
  unfold State.putLayer
  try dsimp only
  repeat' first
    | with_reducible assumption
    | with_reducible apply Kept.spanPut

theorem Goes.execUpdCommitCopyDone {s : State} (h : Kept cmds s) (c : CompNo) (entry : Nat) :
    Goes cmds (Machine.execUpdCommitCopyDone c entry s) := by
  unfold Machine.execUpdCommitCopyDone
  extract_lets n
  split
  · exact Goes.ok h
  · split
    · exact Goes.ok h
    · split
      · exact Goes.ok h
      · extract_lets r s1
        have hr : Kept cmds r.s := Kept.copyFold (fun _ _ ha => ha.piece _ _) _ h
        split
        · exact Goes.ok ((((hr.putLayer _ _ _ _ _).incC _ _ _).compEvent _ _ _).ueClose _ _ _ _ _)
        · split
          · exact Goes.ok (hr.ueClose _ _ _ _ _)
          · exact Goes.ok ((((hr.putLayer _ _ _ _ _).ueClose _ _ _ _ _).fault _ _ _ _ _ _).holdComp _ _)

theorem Kept.fillNoise {s : State} (h : Kept cmds s) (n : Nat) (l : Nat) (off : Nat) :
    Kept cmds (State.fillNoise s n l off).2 := by
  unfold State.fillNoise
  try dsimp only
  repeat' first
    | with_reducible assumption
    | with_reducible apply Kept.modUpd
    | with_reducible apply Kept.tsWrite
    | with_reducible apply Kept.touch
    | with_reducible apply Kept.wakeTile
    | with_reducible refine Kept.foldl_snd (fun _ _ _ => ?_) _ ?_
    | split

theorem Goes.execNoiseFillDone {s : State} (h : Kept cmds s) (c : CompNo) (entry : Nat) :
    Goes cmds (Machine.execNoiseFillDone c entry s) := by
  unfold Machine.execNoiseFillDone
  try dsimp only
  repeat' first
    | with_reducible apply Goes.ok
    | with_reducible assumption
    | with_reducible apply Kept.incC
    | with_reducible apply Kept.ueClose
    | with_reducible apply Kept.putLayer
    | with_reducible apply Kept.fillNoise
    | with_reducible refine Kept.snd_of_eq (by assumption) ?_
    | split

theorem Kept.pauseEntries {s : State} (h : Kept cmds s) (n : Nat) (dt : Nat) :
    Kept cmds (State.pauseEntries s n dt) := by
  unfold State.pauseEntries
  try dsimp only
  repeat' first
    | with_reducible assumption
    | with_reducible apply Kept.modUpd


/-! Tables. -/

theorem Kept.loadMaps {s : State} (h : Kept cmds s) (n : Nat) (bs : List Byte) :
    Kept cmds (State.loadMaps s n bs) := by
  unfold State.loadMaps
  try dsimp only
  repeat' first
    | with_reducible assumption
    | with_reducible apply Kept.setObj
    | with_reducible apply Kept.setObjC
    | with_reducible refine Kept.foldl (fun _ _ _ => ?_) _ ?_

theorem Kept.loadPlan {s : State} (h : Kept cmds s) (n : Nat) (bs : List Byte) :
    Kept cmds (State.loadPlan s n bs) := by
  unfold State.loadPlan
  try dsimp only
  repeat' first
    | with_reducible assumption
    | with_reducible apply Kept.setObjC


/-! Numerics. -/

theorem Kept.decayRecord {s : State} (h : Kept cmds s) (n : Nat) (i : Nat) :
    Kept cmds (State.decayRecord s n i) := by
  unfold State.decayRecord
  try dsimp only
  repeat' first
    | with_reducible assumption
    | with_reducible apply Kept.setRecord
    | with_reducible apply Kept.est16
    | split

theorem Goes.execVerdictApply {s : State} (h : Kept cmds s) (c : CompNo) (remote : Option SpanReply) :
    Goes cmds (Machine.execVerdictApply c remote s) := by
  unfold Machine.execVerdictApply
  try dsimp only
  repeat' first
    | with_reducible apply Goes.ok
    | with_reducible assumption
    | with_reducible apply Kept.incC
    | with_reducible apply Kept.fault
    | with_reducible apply Kept.raise
    | with_reducible apply Kept.unitPost
    | with_reducible apply Kept.actOn
    | with_reducible apply Kept.setControl
    | with_reducible apply Kept.numEvent
    | with_reducible apply Kept.unitFetch
    | with_reducible apply Kept.handVerdict
    | with_reducible apply Kept.decayRecord
    | with_reducible refine Kept.foldl (fun _ _ _ => ?_) _ ?_
    | split

theorem Goes.execNumEventClear {s : State} (h : Kept cmds s) (r : Role) (c : CompNo) (v : Bool) :
    Goes cmds (Machine.execNumEventClear r c v s) := by
  unfold Machine.execNumEventClear
  try dsimp only
  repeat' first
    | with_reducible apply Goes.ok
    | with_reducible assumption
    | with_reducible apply Kept.setObjC
    | with_reducible apply Kept.rearmLog
    | with_reducible apply Kept.clearWrite


/-! DictMsg. -/

theorem Kept.vector {s : State} (h : Kept cmds s) (f : Nat) (v : Nat) :
    Kept cmds (State.vector s f v) := by
  unfold State.vector
  try dsimp only
  repeat' first
    | with_reducible assumption
    | with_reducible apply Kept.modFunc
    | with_reducible apply Kept.emit
    | split

theorem Kept.mailboxReply {s : State} (h : Kept cmds s) (f : Nat) (msg : List Byte) :
    Kept cmds (State.mailboxReply s f msg) := by
  unfold State.mailboxReply
  try dsimp only
  repeat' first
    | with_reducible assumption
    | with_reducible apply Kept.setFunc
    | with_reducible apply Kept.emit
    | with_reducible apply Kept.vector
    | split

theorem Kept.mailboxPart {s : State} (h : Kept cmds s) (f : Nat) (pos : Nat) (e : List Byte) :
    Kept cmds (State.mailboxPart s f pos e) := by
  unfold State.mailboxPart
  try dsimp only
  repeat' first
    | with_reducible assumption
    | with_reducible apply Kept.setFunc
    | with_reducible apply Kept.mailboxReply
    | split

theorem Kept.setSess {s : State} (h : Kept cmds s) (k : Nat) (x : Option Sess) :
    Kept cmds (State.setSess s k x) := by
  unfold State.setSess
  try dsimp only
  repeat' first
    | (with_reducible apply Kept.raw; first | with_reducible assumption)

theorem Kept.sessionSend {s : State} (h : Kept cmds s) (k : Nat) (ident : Nat) (msg : List Byte) :
    Kept cmds (State.sessionSend s k ident msg) := by
  unfold State.sessionSend
  try dsimp only
  repeat' first
    | with_reducible assumption
    | with_reducible apply Kept.emits
    | with_reducible apply Kept.setSess
    | split

theorem Kept.endSession {s : State} (h : Kept cmds s) (k : Nat) :
    Kept cmds (State.endSession s k) := by
  unfold State.endSession
  try dsimp only
  repeat' first
    | with_reducible assumption
    | with_reducible apply Kept.emit
    | with_reducible apply Kept.setSess
    | split

theorem Kept.answerHeld {s : State} (h : Kept cmds s) (n : Nat) (st : Status) (fault : Nat) :
    Kept cmds (State.answerHeld s n st fault) := by
  unfold State.answerHeld
  try dsimp only
  repeat' first
    | with_reducible assumption
    | with_reducible apply Kept.modComp
    | with_reducible apply Kept.reply
    | with_reducible apply Kept.mailboxPart
    | with_reducible apply Kept.sessionSend
    | split

theorem Kept.sendAccept {s : State} (h : Kept cmds s) (ident : Nat) (peer : Nat) :
    Kept cmds (State.sendAccept s ident peer) := by
  unfold State.sendAccept
  try dsimp only
  repeat' first
    | with_reducible assumption
    | (with_reducible apply Kept.raw; first | with_reducible assumption | with_reducible apply Kept.emits)

theorem Kept.acceptWaiting {s : State} (h : Kept cmds s) :
    Kept cmds (State.acceptWaiting s) := by
  unfold State.acceptWaiting
  try dsimp only
  repeat' first
    | with_reducible assumption
    | with_reducible apply Kept.sendAccept
    | with_reducible refine Kept.foldl (fun _ _ _ => ?_) _ ?_
    | split


/-! Fabric. -/

theorem Kept.modPort {s : State} (h : Kept cmds s) (p : Nat) (f : Port → Port) :
    Kept cmds (State.modPort s p f) := by
  unfold State.modPort
  try dsimp only
  repeat' first
    | with_reducible assumption
    | with_reducible apply Kept.setPort

theorem Kept.portFault {s : State} (h : Kept cmds s) (p code comp : Nat) : Kept cmds (s.portFault p code comp) := by
  unfold State.portFault
  split
  · exact h.fault _ _ _ _ _ _
  · extract_lets key s1
    split
    · exact h
    · have h1 := h.fault code comp p 0 0 0
      exact h1.log _ (h1.sound.win _)

theorem Kept.sendFrame {s : State} (h : Kept cmds s) (p : Nat) (ty : Nat) (flits : Nat) (fseq : Nat) (vc : Nat) (body : List Nat) (data : List Byte) :
    Kept cmds (State.sendFrame s p ty flits fseq vc body data) := by
  unfold State.sendFrame
  try dsimp only
  repeat' first
    | with_reducible assumption
    | with_reducible apply Kept.emit
    | with_reducible apply Kept.setPort

theorem Kept.emitData {s : State} (h : Kept cmds s) (p : Nat) (f : Frame) :
    Kept cmds (State.emitData s p f) := by
  unfold State.emitData
  try dsimp only
  repeat' first
    | with_reducible assumption
    | with_reducible apply Kept.emit

theorem Kept.sendLink {s : State} (h : Kept cmds s) (p : Nat) :
    Kept cmds (State.sendLink s p) := by
  unfold State.sendLink
  try dsimp only
  repeat' first
    | with_reducible assumption
    | with_reducible apply Kept.sendFrame

theorem Kept.sendReplayReq {s : State} (h : Kept cmds s) (p : Nat) :
    Kept cmds (State.sendReplayReq s p) := by
  unfold State.sendReplayReq
  try dsimp only
  repeat' first
    | with_reducible assumption
    | with_reducible apply Kept.setPort
    | with_reducible apply Kept.sendFrame
    | split

theorem Kept.failOwn {s : State} (h : Kept cmds s) (n : Nat) (k : Packet) (code : Nat) :
    Kept cmds (State.failOwn s n k code) := by
  unfold State.failOwn
  try dsimp only
  repeat' first
    | with_reducible assumption
    | with_reducible apply Kept.setSlot
    | with_reducible apply Kept.lostAccess
    | with_reducible apply Kept.answerSlot
    | with_reducible apply Kept.pegEnd
    | split

theorem Kept.returnTransit {s : State} (h : Kept cmds s) (k : Packet) :
    Kept cmds (State.returnTransit s k) := by
  unfold State.returnTransit
  try dsimp only
  repeat' first
    | with_reducible assumption
    | split
    | (with_reducible apply Kept.raw; first | with_reducible assumption)

theorem Kept.freeFlits {s : State} (h : Kept cmds s) (q : QPkt) :
    Kept cmds (State.freeFlits s q) := by
  unfold State.freeFlits
  try dsimp only
  repeat' first
    | with_reducible assumption
    | with_reducible apply Kept.modPort
    | split

theorem Kept.reroute {s : State} (h : Kept cmds s) (p : Nat) :
    Kept cmds (State.reroute s p) := by
  unfold State.reroute
  try dsimp only
  repeat' first
    | with_reducible assumption
    | with_reducible apply Kept.portFault
    | with_reducible apply Kept.failOwn
    | with_reducible apply Kept.returnTransit
    | with_reducible apply Kept.freeFlits
    | with_reducible refine Kept.foldl (fun _ _ _ => ?_) _ ?_
    | split
    | (with_reducible apply Kept.raw; first | with_reducible assumption | with_reducible apply Kept.portFault | with_reducible apply Kept.failOwn | with_reducible apply Kept.returnTransit | with_reducible apply Kept.freeFlits)

theorem Kept.endRemoteWaits {s : State} (h : Kept cmds s) :
    Kept cmds (State.endRemoteWaits s) := by
  unfold State.endRemoteWaits
  try dsimp only
  repeat' first
    | with_reducible assumption
    | with_reducible apply Kept.incC
    | with_reducible apply Kept.pegEnd
    | with_reducible refine Kept.foldl (fun _ _ _ => ?_) _ ?_

theorem Kept.dropRetry {s : State} (h : Kept cmds s) (p : Nat) :
    Kept cmds (State.dropRetry s p) := by
  unfold State.dropRetry
  try dsimp only
  repeat' first
    | with_reducible assumption
    | with_reducible apply Kept.modPort
    | with_reducible apply Kept.failOwn
    | with_reducible apply Kept.returnTransit
    | with_reducible refine Kept.foldl (fun _ _ _ => ?_) _ ?_
    | split

theorem Kept.detach {s : State} (h : Kept cmds s) (p : Nat) :
    Kept cmds (State.detach s p) := by
  unfold State.detach
  try dsimp only
  repeat' first
    | (with_reducible apply Kept.raw; first | with_reducible assumption)

theorem Kept.startTraining {s : State} (h : Kept cmds s) (p : Nat) :
    Kept cmds (State.startTraining s p) := by
  unfold State.startTraining
  try dsimp only
  repeat' first
    | with_reducible assumption
    | with_reducible apply Kept.detach
    | (with_reducible apply Kept.raw; first | with_reducible assumption | with_reducible apply Kept.setPort | with_reducible apply Kept.detach)

theorem Kept.dropPort {s : State} (h : Kept cmds s) (p : Nat) (st : PortState) :
    Kept cmds (State.dropPort s p st) := by
  unfold State.dropPort
  try dsimp only
  repeat' first
    | with_reducible assumption
    | with_reducible apply Kept.modPort
    | with_reducible apply Kept.reroute
    | with_reducible apply Kept.endRemoteWaits
    | with_reducible apply Kept.dropRetry
    | with_reducible apply Kept.detach

theorem Kept.isolate {s : State} (h : Kept cmds s) (p : Nat) (code : Nat) :
    Kept cmds (State.isolate s p code) := by
  unfold State.isolate
  try dsimp only
  repeat' first
    | with_reducible assumption
    | with_reducible apply Kept.portFault
    | with_reducible apply Kept.dropPort

theorem Kept.violation {s : State} (h : Kept cmds s) (p : Nat) (code : Nat) :
    Kept cmds (State.violation s p code) := by
  unfold State.violation
  try dsimp only
  repeat' first
    | with_reducible assumption
    | with_reducible apply Kept.incC
    | with_reducible apply Kept.portFault
    | split

theorem Kept.isolatingViolation {s : State} (h : Kept cmds s) (p : Nat) (code : Nat) :
    Kept cmds (State.isolatingViolation s p code) := by
  unfold State.isolatingViolation
  try dsimp only
  repeat' first
    | with_reducible assumption
    | with_reducible apply Kept.modPort
    | with_reducible apply Kept.isolate
    | with_reducible apply Kept.violation

theorem Kept.r304 {s : State} (h : Kept cmds s) (p : Nat) :
    Kept cmds (State.r304 s p) := by
  unfold State.r304
  try dsimp only
  repeat' first
    | with_reducible assumption
    | with_reducible apply Kept.tickFresh
    | with_reducible apply Kept.setObjC
    | with_reducible apply Kept.fault
    | with_reducible apply Kept.setPort
    | with_reducible apply Kept.reroute
    | with_reducible apply Kept.endRemoteWaits
    | with_reducible apply Kept.isolate
    | split

theorem Kept.mismatch {s : State} (h : Kept cmds s) (p : Nat) :
    Kept cmds (State.mismatch s p) := by
  unfold State.mismatch
  try dsimp only
  repeat' first
    | with_reducible assumption
    | with_reducible apply Kept.incC
    | with_reducible apply Kept.violation
    | with_reducible apply Kept.r304

theorem Kept.fabRestart {s : State} (h : Kept cmds s) :
    Kept cmds (State.fabRestart s) := by
  unfold State.fabRestart
  try dsimp only
  repeat' first
    | with_reducible assumption
    | with_reducible apply Kept.startTraining
    | with_reducible apply Kept.dropPort
    | with_reducible refine Kept.foldl (fun _ _ _ => ?_) _ ?_
    | split

theorem Kept.fabConfigAct {s : State} (h : Kept cmds s) (which : Nat) (v : Nat) :
    Kept cmds (State.fabConfigAct s which v).2 := by
  unfold State.fabConfigAct
  try dsimp only
  repeat' first
    | with_reducible assumption
    | with_reducible apply Kept.setObj
    | with_reducible apply Kept.fabRestart
    | split

theorem Goes.execFabricConfigWrite {s : State} (h : Kept cmds s) (r : Role) (which : Fin 8) (v : BitVec 128) :
    Goes cmds (Machine.execFabricConfigWrite r which v s) := by
  unfold Machine.execFabricConfigWrite
  try dsimp only
  repeat' first
    | with_reducible apply Goes.ok
    | with_reducible assumption
    | with_reducible apply Kept.reply
    | with_reducible apply Kept.fabConfigAct
    | split

theorem Kept.rearmAct {s : State} (h : Kept cmds s) (p : Nat) :
    Kept cmds (State.rearmAct s p).2 := by
  unfold State.rearmAct
  try dsimp only
  repeat' first
    | with_reducible assumption
    | with_reducible apply Kept.startTraining
    | split

theorem Goes.execPortRearm {s : State} (h : Kept cmds s) (r : Role) (v : Byte) :
    Goes cmds (Machine.execPortRearm r v s) := by
  unfold Machine.execPortRearm
  try dsimp only
  repeat' first
    | with_reducible apply Goes.ok
    | with_reducible assumption
    | with_reducible apply Kept.reply
    | with_reducible apply Kept.rearmAct
    | split

theorem Kept.trainFail {s : State} (h : Kept cmds s) (p : Nat) :
    Kept cmds (State.trainFail s p) := by
  unfold State.trainFail
  try dsimp only
  repeat' first
    | with_reducible assumption
    | with_reducible apply Kept.setPort
    | with_reducible apply Kept.portFault
    | with_reducible apply Kept.isolate
    | split

theorem Kept.sendKeying {s : State} (h : Kept cmds s) (p : Nat) :
    Kept cmds (State.sendKeying s p) := by
  unfold State.sendKeying
  try dsimp only
  repeat' first
    | with_reducible assumption
    | with_reducible apply Kept.emit
    | with_reducible apply Kept.setPort

theorem Goes.execPortTrain {s : State} (h : Kept cmds s) (p : PortNo) (lanes : Fin 5) (rtt : W32) :
    Goes cmds (Machine.execPortTrain p lanes rtt s) := by
  unfold Machine.execPortTrain
  try dsimp only
  repeat' first
    | with_reducible apply Goes.ok
    | with_reducible assumption
    | with_reducible apply Kept.setPort
    | with_reducible apply Kept.portFault
    | with_reducible apply Kept.isolate
    | with_reducible apply Kept.trainFail
    | with_reducible apply Kept.sendKeying
    | split

theorem Kept.keyed {s : State} (h : Kept cmds s) (p : Nat) :
    Kept cmds (State.keyed s p) := by
  unfold State.keyed
  try dsimp only
  repeat' first
    | with_reducible assumption
    | with_reducible apply Kept.setPort
    | with_reducible apply Kept.sendLink
    | split

theorem Goes.execKeyingFrameReceive {s : State} (h : Kept cmds s) (p : PortNo) (f : KeyFrame) :
    Goes cmds (Machine.execKeyingFrameReceive p f s) := by
  unfold Machine.execKeyingFrameReceive
  try dsimp only
  repeat' first
    | with_reducible apply Goes.ok
    | with_reducible assumption
    | with_reducible apply Kept.setPort
    | with_reducible apply Kept.violation
    | with_reducible apply Kept.isolatingViolation
    | with_reducible apply Kept.sendKeying
    | with_reducible apply Kept.keyed
    | split

theorem Goes.execKeyingRepeat {s : State} (h : Kept cmds s) (p : PortNo) :
    Goes cmds (Machine.execKeyingRepeat p s) := by
  unfold Machine.execKeyingRepeat
  try dsimp only
  repeat' first
    | with_reducible apply Goes.ok
    | with_reducible assumption
    | with_reducible apply Kept.sendKeying
    | split

theorem Goes.execKeyingTimeout {s : State} (h : Kept cmds s) (p : PortNo) :
    Goes cmds (Machine.execKeyingTimeout p s) := by
  unfold Machine.execKeyingTimeout
  try dsimp only
  repeat' first
    | with_reducible apply Goes.ok
    | with_reducible assumption
    | with_reducible apply Kept.trainFail
    | split

theorem Kept.letIn {s : State} (h : Kept cmds s) (p : Nat) :
    Kept cmds (State.letIn s p) := by
  unfold State.letIn
  try dsimp only
  repeat' first
    | with_reducible assumption
    | with_reducible apply Kept.setPort
    | with_reducible apply Kept.sendFrame
    | with_reducible apply Kept.detach
    | with_reducible apply Kept.isolatingViolation
    | split

theorem Kept.frameIn {s : State} (h : Kept cmds s) (p : Nat) (ty : Nat) (f : RxFrame) :
    Kept cmds (State.frameIn s p ty f).2 := by
  unfold State.frameIn
  try dsimp only
  repeat' first
    | with_reducible assumption
    | with_reducible apply Kept.incC
    | with_reducible apply Kept.setPort
    | with_reducible apply Kept.modPort
    | with_reducible apply Kept.sendReplayReq
    | with_reducible apply Kept.violation
    | with_reducible apply Kept.r304
    | split

theorem Goes.execLinkFrameReceive {s : State} (h : Kept cmds s) (p : PortNo) (f : RxFrame) :
    Goes cmds (Machine.execLinkFrameReceive p f s) := by
  unfold Machine.execLinkFrameReceive
  try dsimp only
  repeat' first
    | with_reducible apply Goes.ok
    | with_reducible assumption
    | with_reducible apply Kept.incC
    | with_reducible apply Kept.letIn
    | with_reducible apply Kept.frameIn
    | split

theorem Kept.markLeft {s : State} (h : Kept cmds s) (q : QPkt) :
    Kept cmds (State.markLeft s q) := by
  unfold State.markLeft
  try dsimp only
  repeat' first
    | with_reducible assumption
    | with_reducible apply Kept.setSlot
    | split

theorem Kept.countOut {s : State} (h : Kept cmds s) (q : QPkt) :
    Kept cmds (State.countOut s q) := by
  unfold State.countOut
  try dsimp only
  repeat' first
    | with_reducible assumption
    | with_reducible apply Kept.incC
    | with_reducible apply Kept.compEvent
    | split

theorem Kept.resend {s : State} (h : Kept cmds s) (p : Nat) :
    ∀ t', State.resend s p = some t' → Kept cmds t' := by
  intro t' e
  unfold State.resend at e
  try dsimp only at e
  revert e
  repeat' first
    | (intro e; cases e; done)
    | (intro e; injection e with e; subst e)
    | with_reducible assumption
    | with_reducible apply Kept.incC
    | with_reducible apply Kept.setPort
    | with_reducible apply Kept.emitData
    | split

theorem Goes.execDataFrameSend {s : State} (h : Kept cmds s) (p : PortNo) (vc : Fin 8) (count : Fin 33) :
    Goes cmds (Machine.execDataFrameSend p vc count s) := by
  unfold Machine.execDataFrameSend
  try dsimp only
  repeat' first
    | with_reducible apply Goes.ok
    | with_reducible assumption
    | with_reducible apply Kept.incC
    | with_reducible apply Kept.emitData
    | with_reducible apply Kept.freeFlits
    | with_reducible apply Kept.violation
    | with_reducible apply Kept.r304
    | with_reducible apply Kept.markLeft
    | with_reducible apply Kept.countOut
    | with_reducible refine Kept.resend ?_ _ _ (by assumption)
    | with_reducible refine Kept.foldl (fun _ _ _ => ?_) _ ?_
    | with_reducible refine Kept.getD (fun _ _ => ?_) ?_
    | split
    | (with_reducible apply Kept.raw; first | with_reducible assumption | with_reducible apply Kept.incC | with_reducible apply Goes.ok | with_reducible apply Kept.setPort | with_reducible apply Kept.emitData | with_reducible apply Kept.freeFlits | with_reducible apply Kept.violation | with_reducible apply Kept.r304 | with_reducible apply Kept.markLeft | with_reducible apply Kept.countOut | with_reducible refine Kept.resend ?_ _ _ (by assumption))

theorem Kept.packetIn {s : State} (h : Kept cmds s) (p : Nat) (v : Nat) (r : RxPkt) :
    Kept cmds (State.packetIn s p v r) := by
  unfold State.packetIn
  try dsimp only
  repeat' first
    | with_reducible assumption
    | with_reducible apply Kept.incC
    | with_reducible apply Kept.compEvent
    | with_reducible apply Kept.portFault
    | with_reducible apply Kept.returnTransit
    | with_reducible apply Kept.freeFlits
    | with_reducible apply Kept.violation
    | split
    | (with_reducible apply Kept.raw; first | with_reducible assumption | with_reducible apply Kept.incC | with_reducible apply Kept.compEvent | with_reducible apply Kept.portFault | with_reducible apply Kept.returnTransit | with_reducible apply Kept.freeFlits | with_reducible apply Kept.violation)

theorem Kept.checkCut {s : State} (h : Kept cmds s) (p : Nat) :
    Kept cmds (State.checkCut s p) := by
  unfold State.checkCut
  try dsimp only
  repeat' first
    | with_reducible assumption
    | with_reducible apply Kept.incC
    | with_reducible apply Kept.setPort
    | with_reducible apply Kept.mismatch
    | split

theorem Goes.execDataFrameReceive {s : State} (h : Kept cmds s) (p : PortNo) (f : RxFrame) (pkts : List RxPkt) :
    Goes cmds (Machine.execDataFrameReceive p f pkts s) := by
  unfold Machine.execDataFrameReceive
  try dsimp only
  repeat' first
    | with_reducible apply Goes.ok
    | with_reducible assumption
    | with_reducible apply Kept.setPort
    | with_reducible apply Kept.sendLink
    | with_reducible apply Kept.sendReplayReq
    | with_reducible apply Kept.violation
    | with_reducible apply Kept.r304
    | with_reducible apply Kept.frameIn
    | with_reducible apply Kept.packetIn
    | with_reducible apply Kept.checkCut
    | with_reducible refine Kept.foldl (fun _ _ _ => ?_) _ ?_
    | with_reducible refine Kept.snd_of_eq (by assumption) ?_
    | split

theorem Goes.execReplayReqReceive {s : State} (h : Kept cmds s) (p : PortNo) (f : RxFrame) :
    Goes cmds (Machine.execReplayReqReceive p f s) := by
  unfold Machine.execReplayReqReceive
  try dsimp only
  repeat' first
    | with_reducible apply Goes.ok
    | with_reducible assumption
    | with_reducible apply Kept.incC
    | with_reducible apply Kept.setPort
    | with_reducible apply Kept.emitData
    | with_reducible apply Kept.violation
    | with_reducible apply Kept.frameIn
    | with_reducible refine Kept.foldl (fun _ _ _ => ?_) _ ?_
    | with_reducible refine Kept.snd_of_eq (by assumption) ?_
    | split

theorem Goes.execAuditEpochEnd {s : State} (h : Kept cmds s) (p : PortNo) :
    Goes cmds (Machine.execAuditEpochEnd p s) := by
  unfold Machine.execAuditEpochEnd
  try dsimp only
  repeat' first
    | with_reducible apply Goes.ok
    | with_reducible assumption
    | with_reducible apply Kept.setPort
    | with_reducible apply Kept.sendFrame
    | split

theorem Goes.execAuditFrameReceive {s : State} (h : Kept cmds s) (p : PortNo) (f : RxFrame) (a : AuditBody) :
    Goes cmds (Machine.execAuditFrameReceive p f a s) := by
  unfold Machine.execAuditFrameReceive
  try dsimp only
  repeat' first
    | with_reducible apply Goes.ok
    | with_reducible assumption
    | with_reducible apply Kept.setPort
    | with_reducible apply Kept.mismatch
    | with_reducible apply Kept.frameIn
    | with_reducible apply Kept.checkCut
    | with_reducible refine Kept.snd_of_eq (by assumption) ?_
    | split

theorem Goes.execAuditAbsent {s : State} (h : Kept cmds s) (p : PortNo) :
    Goes cmds (Machine.execAuditAbsent p s) := by
  unfold Machine.execAuditAbsent
  try dsimp only
  repeat' first
    | with_reducible apply Goes.ok
    | with_reducible assumption
    | with_reducible apply Kept.mismatch
    | split

theorem Kept.resendAll {s : State} (h : Kept cmds s) (p fuel : Nat) : Kept cmds (s.resendAll p fuel) := by
  induction fuel generalizing s with
  | zero => exact h
  | succ k ih =>
    unfold State.resendAll
    split
    · exact ih (h.resend _ _ (by assumption))
    · exact h

theorem Goes.execRecreditFrameReceive {s : State} (h : Kept cmds s) (p : PortNo) (f : RxFrame) (next : BitVec 12) (shares : BitVec 128) :
    Goes cmds (Machine.execRecreditFrameReceive p f next shares s) := by
  unfold Machine.execRecreditFrameReceive
  try dsimp only
  repeat' first
    | with_reducible apply Goes.ok
    | with_reducible assumption
    | with_reducible apply Kept.incC
    | with_reducible apply Kept.setPort
    | with_reducible apply Kept.portFault
    | with_reducible apply Kept.violation
    | with_reducible apply Kept.r304
    | with_reducible apply Kept.frameIn
    | with_reducible apply Kept.resendAll
    | split

theorem Kept.newEpoch {s : State} (h : Kept cmds s) (p : Nat) :
    Kept cmds (State.newEpoch s p) := by
  unfold State.newEpoch
  try dsimp only
  repeat' first
    | with_reducible assumption
    | with_reducible apply Kept.modPort

theorem Goes.execRekeyStart {s : State} (h : Kept cmds s) (p : PortNo) :
    Goes cmds (Machine.execRekeyStart p s) := by
  unfold Machine.execRekeyStart
  try dsimp only
  repeat' first
    | with_reducible apply Goes.ok
    | with_reducible assumption
    | with_reducible apply Kept.setPort
    | with_reducible apply Kept.sendFrame
    | with_reducible apply Kept.isolatingViolation
    | split

theorem Goes.execRekeyFrameReceive {s : State} (h : Kept cmds s) (p : PortNo) (f : RxFrame) (sound : Bool) :
    Goes cmds (Machine.execRekeyFrameReceive p f sound s) := by
  unfold Machine.execRekeyFrameReceive
  try dsimp only
  repeat' first
    | with_reducible apply Goes.ok
    | with_reducible assumption
    | with_reducible apply Kept.sendFrame
    | with_reducible apply Kept.violation
    | with_reducible apply Kept.isolatingViolation
    | with_reducible apply Kept.r304
    | with_reducible apply Kept.frameIn
    | with_reducible apply Kept.newEpoch
    | with_reducible refine Kept.snd_of_eq (by assumption) ?_
    | split

theorem Goes.execLaneLockFail {s : State} (h : Kept cmds s) (p : PortNo) (retrained : Bool) :
    Goes cmds (Machine.execLaneLockFail p retrained s) := by
  unfold Machine.execLaneLockFail
  try dsimp only
  repeat' first
    | with_reducible apply Goes.ok
    | with_reducible assumption
    | with_reducible apply Kept.setPort
    | with_reducible apply Kept.portFault
    | with_reducible apply Kept.reroute
    | with_reducible apply Kept.endRemoteWaits
    | with_reducible apply Kept.trainFail
    | split

theorem Goes.execUndeliveredReceive {s : State} (h : Kept cmds s) (tag : W32) :
    Goes cmds (Machine.execUndeliveredReceive tag s) := by
  unfold Machine.execUndeliveredReceive
  try dsimp only
  repeat' first
    | with_reducible apply Goes.ok
    | with_reducible assumption
    | with_reducible apply Kept.incC
    | with_reducible apply Kept.compEvent
    | with_reducible apply Kept.setSlot
    | with_reducible apply Kept.lostAccess
    | with_reducible apply Kept.answerSlot
    | with_reducible apply Kept.pegEnd
    | split

theorem Kept.nodeMapAct {s : State} (h : Kept cmds s) (n : Nat) (v : Nat) :
    Kept cmds (State.nodeMapAct s n v).2 := by
  unfold State.nodeMapAct
  try dsimp only
  repeat' first
    | with_reducible assumption
    | with_reducible apply Kept.modComp
    | with_reducible apply Kept.portFault
    | split

theorem Goes.execNodeMapWrite {s : State} (h : Kept cmds s) (r : Role) (c : CompNo) (v : BitVec 512) :
    Goes cmds (Machine.execNodeMapWrite r c v s) := by
  unfold Machine.execNodeMapWrite
  try dsimp only
  repeat' first
    | with_reducible apply Goes.ok
    | with_reducible assumption
    | with_reducible apply Kept.reply
    | with_reducible apply Kept.nodeMapAct
    | split

theorem Goes.execNodeMapClear {s : State} (h : Kept cmds s) (r : Role) (c : CompNo) (v : Bool) :
    Goes cmds (Machine.execNodeMapClear r c v s) := by
  unfold Machine.execNodeMapClear
  try dsimp only
  repeat' first
    | with_reducible apply Goes.ok
    | with_reducible assumption
    | with_reducible apply Kept.modComp
    | with_reducible apply Kept.clearWrite


/-! Report. -/

theorem Kept.modRot {s : State} (h : Kept cmds s) (f : Rot → Rot) :
    Kept cmds (State.modRot s f) := by
  unfold State.modRot
  try dsimp only
  repeat' first
    | (with_reducible apply Kept.raw; first | with_reducible assumption)

theorem Kept.startSigning {s : State} (h : Kept cmds s) :
    Kept cmds (State.startSigning s) := by
  unfold State.startSigning
  try dsimp only
  repeat' first
    | with_reducible assumption
    | with_reducible apply Kept.modRot
    | split

theorem Kept.queueReport {s : State} (h : Kept cmds s) (q : ReportReq) :
    ∀ t', State.queueReport s q = some t' → Kept cmds t' := by
  intro t' e
  unfold State.queueReport at e
  try dsimp only at e
  revert e
  repeat' first
    | (intro e; cases e; done)
    | (intro e; injection e with e; subst e)
    | with_reducible assumption
    | with_reducible apply Kept.modRot
    | with_reducible apply Kept.startSigning
    | split

theorem Kept.dropReports {s : State} (h : Kept cmds s) (n : Nat) :
    Kept cmds (State.dropReports s n) := by
  unfold State.dropReports
  try dsimp only
  repeat' first
    | with_reducible assumption
    | with_reducible apply Kept.acceptWaiting
    | with_reducible apply Kept.modRot
    | with_reducible apply Kept.startSigning


/-! Comps. -/

theorem Goes.out {d : Done} (h : Kept cmds d.s) : Goes cmds d.out := Goes.ok (h.reply _ _ _)

theorem Kept.badState {s : State} (h : Kept cmds s) (n : Nat) :
    Kept cmds (State.badState s n).s := by
  unfold State.badState
  try dsimp only
  repeat' first
    | with_reducible assumption
    | with_reducible apply Kept.fault

theorem Kept.resetObjs {s : State} (h : Kept cmds s) (n : Nat) :
    Kept cmds (State.resetObjs s n) := by
  unfold State.resetObjs
  try dsimp only
  repeat' first
    | (with_reducible apply Kept.raw; first | with_reducible assumption)

theorem Kept.lightTiles {s : State} (h : Kept cmds s) (n : Nat) :
    Kept cmds (State.lightTiles s n) := by
  unfold State.lightTiles
  try dsimp only
  repeat' first
    | with_reducible assumption
    | with_reducible apply Kept.eachTile

theorem Kept.createAct {s : State} (h : Kept cmds s) (n : Nat) :
    Kept cmds (State.createAct s n).s := by
  unfold State.createAct
  try dsimp only
  repeat' first
    | with_reducible assumption
    | with_reducible apply Kept.setComp
    | with_reducible apply Kept.tickFresh
    | with_reducible apply Kept.fault
    | with_reducible apply Kept.setCState
    | with_reducible apply Kept.reseed
    | with_reducible apply Kept.badState
    | with_reducible apply Kept.resetObjs
    | with_reducible apply Kept.lightTiles
    | split

theorem Goes.execCompCreate {s : State} (h : Kept cmds s) (r : Role) (c : CompNo) :
    Goes cmds (Machine.execCompCreate r c s) := by
  unfold Machine.execCompCreate
  try dsimp only
  repeat' first
    | with_reducible apply Goes.ok
    | with_reducible assumption
    | with_reducible apply Kept.reply
    | with_reducible apply Goes.out
    | with_reducible apply Kept.createAct
    | split

theorem Kept.takeLedgers {s : State} (h : Kept cmds s) (n : Nat) :
    Kept cmds (State.takeLedgers s n) := by
  unfold State.takeLedgers
  try dsimp only
  repeat' first
    | with_reducible assumption
    | with_reducible apply Kept.modComp
    | with_reducible apply Kept.tickFresh
    | with_reducible apply Kept.unitRead
    | with_reducible refine Kept.foldl (fun _ _ _ => ?_) _ ?_
    | split

theorem Kept.attestAct {s : State} (h : Kept cmds s) (n : Nat) :
    Kept cmds (State.attestAct s n).s := by
  unfold State.attestAct
  try dsimp only
  repeat' first
    | with_reducible assumption
    | with_reducible apply Kept.modComp
    | with_reducible apply Kept.setObjC
    | with_reducible apply Kept.fault
    | with_reducible apply Kept.setCState
    | with_reducible apply Kept.reseed
    | with_reducible refine Kept.queueReport ?_ _ _ (by assumption)
    | with_reducible apply Kept.badState
    | with_reducible apply Kept.takeLedgers
    | with_reducible refine Kept.getD (fun _ _ => ?_) ?_
    | split

theorem Goes.execCompAttest {s : State} (h : Kept cmds s) (r : Role) (c : CompNo) :
    Goes cmds (Machine.execCompAttest r c s) := by
  unfold Machine.execCompAttest
  try dsimp only
  repeat' first
    | with_reducible apply Goes.ok
    | with_reducible assumption
    | with_reducible apply Kept.reply
    | with_reducible apply Goes.out
    | with_reducible apply Kept.attestAct
    | split

theorem Kept.firstEntry {s : State} (h : Kept cmds s) (n : Nat) :
    Kept cmds (State.firstEntry s n) := by
  unfold State.firstEntry
  try dsimp only
  repeat' first
    | with_reducible assumption
    | with_reducible apply Kept.modComp
    | with_reducible apply Kept.setObjC
    | with_reducible apply Kept.firstLine
    | split

theorem Kept.enterRunning {s : State} (h : Kept cmds s) (n : Nat) :
    Kept cmds (State.enterRunning s n) := by
  unfold State.enterRunning
  try dsimp only
  repeat' first
    | with_reducible assumption
    | with_reducible apply Kept.modComp
    | with_reducible apply Kept.setObjC
    | with_reducible apply Kept.setCState
    | with_reducible apply Kept.recap

theorem Kept.startAct {s : State} (h : Kept cmds s) (n : Nat) :
    Kept cmds (State.startAct s n).s := by
  unfold State.startAct
  try dsimp only
  repeat' first
    | with_reducible assumption
    | with_reducible apply Kept.setObjC
    | with_reducible apply Kept.startThreads
    | with_reducible apply Kept.badState
    | with_reducible apply Kept.firstEntry
    | with_reducible apply Kept.enterRunning
    | split

theorem Goes.execCompStart {s : State} (h : Kept cmds s) (r : Role) (c : CompNo) :
    Goes cmds (Machine.execCompStart r c s) := by
  unfold Machine.execCompStart
  try dsimp only
  repeat' first
    | with_reducible apply Goes.ok
    | with_reducible assumption
    | with_reducible apply Kept.reply
    | with_reducible apply Goes.out
    | with_reducible apply Kept.startAct
    | split

theorem Kept.holdAct {s : State} (h : Kept cmds s) (n : Nat) :
    Kept cmds (State.holdAct s n).s := by
  unfold State.holdAct
  try dsimp only
  repeat' first
    | with_reducible assumption
    | with_reducible apply Kept.fault
    | with_reducible apply Kept.holdComp
    | with_reducible apply Kept.badState
    | split

theorem Goes.execCompHold {s : State} (h : Kept cmds s) (r : Role) (c : CompNo) :
    Goes cmds (Machine.execCompHold r c s) := by
  unfold Machine.execCompHold
  try dsimp only
  repeat' first
    | with_reducible apply Goes.ok
    | with_reducible assumption
    | with_reducible apply Kept.reply
    | with_reducible apply Goes.out
    | with_reducible apply Kept.holdAct
    | split

theorem Kept.endRelease {s : State} (h : Kept cmds s) (n : Nat) (st : Nat) :
    Kept cmds (State.endRelease s n st) := by
  unfold State.endRelease
  try dsimp only
  repeat' first
    | with_reducible assumption
    | with_reducible apply Kept.modComp
    | with_reducible apply Kept.raise
    | split

theorem Kept.resumeAct {s : State} (h : Kept cmds s) (n : Nat) :
    Kept cmds (State.resumeAct s n).s := by
  unfold State.resumeAct
  try dsimp only
  repeat' first
    | with_reducible assumption
    | with_reducible apply Kept.closePhaseNow
    | with_reducible apply Kept.pauseEntries
    | with_reducible apply Kept.badState
    | with_reducible apply Kept.firstEntry
    | with_reducible apply Kept.enterRunning
    | with_reducible apply Kept.endRelease
    | split

theorem Goes.execCompResume {s : State} (h : Kept cmds s) (r : Role) (c : CompNo) :
    Goes cmds (Machine.execCompResume r c s) := by
  unfold Machine.execCompResume
  try dsimp only
  repeat' first
    | with_reducible apply Goes.ok
    | with_reducible assumption
    | with_reducible apply Kept.reply
    | with_reducible apply Goes.out
    | with_reducible apply Kept.resumeAct
    | split

theorem Kept.tdiError {s : State} (h : Kept cmds s) (n : Nat) :
    Kept cmds (State.tdiError s n) := by
  unfold State.tdiError
  try dsimp only
  repeat' first
    | with_reducible assumption
    | with_reducible apply Kept.setObjC
    | with_reducible apply Kept.fault
    | with_reducible apply Kept.raise
    | split

theorem Kept.closeSessions {s : State} (h : Kept cmds s) (n : Nat) :
    Kept cmds (State.closeSessions s n) := by
  unfold State.closeSessions
  try dsimp only
  repeat' first
    | with_reducible assumption
    | with_reducible apply Kept.endSession
    | with_reducible refine Kept.foldl (fun _ _ _ => ?_) _ ?_
    | split

theorem Kept.failRestore {s : State} (h : Kept cmds s) (n : Nat) :
    Kept cmds (State.failRestore s n) := by
  unfold State.failRestore
  try dsimp only
  repeat' first
    | with_reducible assumption
    | with_reducible apply Kept.postAll
    | with_reducible apply Kept.finishRestore
    | split

theorem Kept.dropPegs {s : State} (h : Kept cmds s) (n : Nat) :
    Kept cmds (State.dropPegs s n) := by
  unfold State.dropPegs
  try dsimp only
  repeat' first
    | with_reducible assumption
    | with_reducible apply Kept.setObjC
    | with_reducible apply Kept.clearPegs

theorem Kept.closing {s : State} (h : Kept cmds s) (n : Nat) :
    Kept cmds (State.closing s n) := by
  unfold State.closing
  try dsimp only
  repeat' first
    | with_reducible assumption
    | with_reducible apply Kept.modComp
    | with_reducible apply Kept.setObjC
    | with_reducible apply Kept.closePhaseNow
    | with_reducible apply Kept.dropLease
    | with_reducible apply Kept.eachTile
    | with_reducible apply Kept.endThreads
    | with_reducible apply Kept.abandonDovetail
    | with_reducible apply Kept.dropReports
    | with_reducible apply Kept.endRelease
    | with_reducible apply Kept.tdiError
    | with_reducible apply Kept.closeSessions
    | with_reducible apply Kept.failRestore
    | with_reducible apply Kept.dropPegs
    | with_reducible refine Kept.foldl (fun _ _ _ => ?_) _ ?_
    | split
    | (with_reducible apply Kept.raw; first | with_reducible assumption | with_reducible apply Kept.modComp | with_reducible apply Kept.setObjC | with_reducible apply Kept.setCState | with_reducible apply Kept.closePhaseNow | with_reducible apply Kept.dropLease | with_reducible apply Kept.eachTile | with_reducible apply Kept.endThreads | with_reducible apply Kept.abandonDovetail | with_reducible apply Kept.dropReports | with_reducible apply Kept.endRelease | with_reducible apply Kept.tdiError | with_reducible apply Kept.closeSessions | with_reducible apply Kept.failRestore | with_reducible apply Kept.dropPegs)

theorem Kept.answerClose {s : State} (h : Kept cmds s) (n : Nat) :
    Kept cmds (State.answerClose s n) := by
  unfold State.answerClose
  try dsimp only
  repeat' first
    | with_reducible assumption
    | with_reducible apply Kept.answerHeld
    | split

theorem Kept.closeAct {s : State} (h : Kept cmds s) (n : Nat) :
    Kept cmds (State.closeAct s n).2 := by
  unfold State.closeAct
  try dsimp only
  repeat' first
    | with_reducible assumption
    | with_reducible apply Kept.modComp
    | split

theorem Kept.closeActDone {s : State} (h : Kept cmds s) (n : Nat) (d : Done) (t : State)
    (e : s.closeAct n = (some d, t)) : Kept cmds d.s := by
  unfold State.closeAct at e
  split at e
  · cases e; exact h.badState _
  · split at e
    · cases e
    · cases e; exact h.closing _
theorem Goes.execCompClose {s : State} (h : Kept cmds s) (r : Role) (c : CompNo) :
    Goes cmds (Machine.execCompClose r c s) := by
  unfold Machine.execCompClose
  split
  · split
    · exact Goes.out (h.closeActDone _ _ _ (by assumption))
    · exact Goes.ok (Kept.snd_of_eq (by assumption) (h.closeAct _))
  · exact Goes.ok (h.reply _ _ _)

theorem Kept.closeNowAct {s : State} (h : Kept cmds s) (n : Nat) :
    Kept cmds (State.closeNowAct s n).s := by
  unfold State.closeNowAct
  try dsimp only
  repeat' first
    | with_reducible assumption
    | with_reducible apply Kept.badState
    | with_reducible apply Kept.closing
    | with_reducible apply Kept.answerClose
    | split

theorem Goes.execCompCloseNow {s : State} (h : Kept cmds s) (r : Role) (c : CompNo) :
    Goes cmds (Machine.execCompCloseNow r c s) := by
  unfold Machine.execCompCloseNow
  try dsimp only
  repeat' first
    | with_reducible apply Goes.ok
    | with_reducible assumption
    | with_reducible apply Kept.reply
    | with_reducible apply Goes.out
    | with_reducible apply Kept.closeNowAct
    | split

theorem Goes.execDeferredCloseExecute {s : State} (h : Kept cmds s) (c : CompNo) :
    Goes cmds (Machine.execDeferredCloseExecute c s) := by
  unfold Machine.execDeferredCloseExecute
  try dsimp only
  repeat' first
    | with_reducible apply Goes.ok
    | with_reducible assumption
    | with_reducible apply Kept.closing
    | with_reducible apply Kept.answerClose
    | split

theorem Goes.execCloseDeferTimeout {s : State} (h : Kept cmds s) (c : CompNo) :
    Goes cmds (Machine.execCloseDeferTimeout c s) := by
  unfold Machine.execCloseDeferTimeout
  try dsimp only
  repeat' first
    | with_reducible apply Goes.ok
    | with_reducible assumption
    | with_reducible apply Kept.modComp
    | with_reducible apply Kept.fault
    | with_reducible apply Kept.answerHeld
    | split

theorem Kept.freeComp {s : State} (h : Kept cmds s) (n : Nat) :
    Kept cmds (State.freeComp s n) := by
  unfold State.freeComp
  try dsimp only
  repeat' first
    | with_reducible assumption
    | with_reducible apply Kept.setComp
    | with_reducible apply Kept.setObjC
    | with_reducible apply Kept.setCState
    | with_reducible apply Kept.eachTile
    | with_reducible apply Kept.endThreads

theorem Goes.execTeardownComplete {s : State} (h : Kept cmds s) (c : CompNo) :
    Goes cmds (Machine.execTeardownComplete c s) := by
  unfold Machine.execTeardownComplete
  try dsimp only
  repeat' first
    | with_reducible apply Goes.ok
    | with_reducible assumption
    | with_reducible apply Kept.setObj
    | with_reducible apply Kept.freeComp
    | split

theorem Goes.execFlashEraseDone {s : State} (h : Kept cmds s) (channel : PortNo) :
    Goes cmds (Machine.execFlashEraseDone channel s) := by
  unfold Machine.execFlashEraseDone
  try dsimp only
  repeat' first
    | with_reducible apply Goes.ok
    | with_reducible assumption
    | with_reducible apply Kept.setObj

theorem Kept.contribAct {s : State} (h : Kept cmds s) (n : Nat) (v : Nat) :
    Kept cmds (State.contribAct s n v).2 := by
  unfold State.contribAct
  try dsimp only
  repeat' first
    | with_reducible assumption
    | with_reducible apply Kept.modComp
    | with_reducible apply Kept.fault
    | split

theorem Goes.execContribWrite {s : State} (h : Kept cmds s) (r : Role) (c : CompNo) (v : BitVec 1024) :
    Goes cmds (Machine.execContribWrite r c v s) := by
  unfold Machine.execContribWrite
  try dsimp only
  repeat' first
    | with_reducible apply Goes.ok
    | with_reducible assumption
    | with_reducible apply Kept.reply
    | with_reducible apply Kept.contribAct
    | split

theorem Kept.refuseKey {s : State} (h : Kept cmds s) (n : Nat) (slot : Nat) (st : Status) (code : Nat) :
    Kept cmds (State.refuseKey s n slot st code).s := by
  unfold State.refuseKey
  try dsimp only
  repeat' first
    | with_reducible assumption
    | with_reducible apply Kept.incC
    | with_reducible apply Kept.fault
    | split

theorem Kept.deliverAct {s : State} (h : Kept cmds s) (n : Nat) (rec_ : List Byte) (opened : Option Nat) :
    Kept cmds (State.deliverAct s n rec_ opened).s := by
  unfold State.deliverAct
  try dsimp only
  repeat' first
    | with_reducible assumption
    | with_reducible apply Kept.setObjC
    | with_reducible apply Kept.refuseKey
    | split

theorem Goes.execKeyDeliver {s : State} (h : Kept cmds s) (r : Role) (c : CompNo) (record : List Byte) (opened : Option (BitVec 256)) :
    Goes cmds (Machine.execKeyDeliver r c record opened s) := by
  unfold Machine.execKeyDeliver
  try dsimp only
  repeat' first
    | with_reducible apply Goes.ok
    | with_reducible assumption
    | with_reducible apply Kept.reply
    | with_reducible apply Goes.out
    | with_reducible apply Kept.refuseKey
    | with_reducible apply Kept.deliverAct
    | split

theorem Goes.execTallyClose {s : State} (h : Kept cmds s) (c : CompNo) :
    Goes cmds (Machine.execTallyClose c s) := by
  unfold Machine.execTallyClose
  try dsimp only
  repeat' first
    | with_reducible apply Goes.ok
    | with_reducible assumption
    | with_reducible apply Kept.modComp
    | with_reducible apply Kept.setObjC
    | with_reducible apply Kept.actOn
    | with_reducible apply Kept.postAll
    | split

theorem Kept.finalTally {s : State} (h : Kept cmds s) (n : Nat) (x : TallySlot) :
    Kept cmds (State.finalTally s n x) := by
  unfold State.finalTally
  try dsimp only
  repeat' first
    | with_reducible assumption
    | with_reducible apply Kept.modComp
    | with_reducible apply Kept.setObjC
    | with_reducible apply Kept.handTally
    | split

theorem Goes.execTallyPostReceive {s : State} (h : Kept cmds s) (c : CompNo) (module : BitVec 16) (step : W64) (counts : List W32) :
    Goes cmds (Machine.execTallyPostReceive c module step counts s) := by
  unfold Machine.execTallyPostReceive
  try dsimp only
  repeat' first
    | with_reducible apply Goes.ok
    | with_reducible assumption
    | with_reducible apply Kept.modComp
    | with_reducible apply Kept.faultOnce
    | with_reducible apply Kept.reply
    | with_reducible apply Kept.finalTally
    | split

theorem Goes.execTallyPostRetry {s : State} (h : Kept cmds s) (c : CompNo) (module : BitVec 16) (step : W64) :
    Goes cmds (Machine.execTallyPostRetry c module step s) := by
  unfold Machine.execTallyPostRetry
  try dsimp only
  repeat' first
    | with_reducible apply Goes.ok
    | with_reducible assumption
    | with_reducible apply Kept.emit
    | split

theorem Kept.releaseAct {s : State} (h : Kept cmds s) (n : Nat) (v : Nat) :
    Kept cmds (State.releaseAct s n v).s := by
  unfold State.releaseAct
  try dsimp only
  repeat' first
    | with_reducible assumption
    | with_reducible apply Kept.modComp
    | with_reducible apply Kept.setPObj
    | split

theorem Goes.execReleaseRequest {s : State} (h : Kept cmds s) (r : Role) (c : CompNo) (v : BitVec 384) :
    Goes cmds (Machine.execReleaseRequest r c v s) := by
  unfold Machine.execReleaseRequest
  try dsimp only
  repeat' first
    | with_reducible apply Goes.ok
    | with_reducible assumption
    | with_reducible apply Kept.reply
    | with_reducible apply Goes.out
    | with_reducible apply Kept.releaseAct
    | split

theorem Kept.approveAct {s : State} (h : Kept cmds s) (n : Nat) (v : List Byte) (signed : Bool) :
    Kept cmds (State.approveAct s n v signed).s := by
  unfold State.approveAct
  try dsimp only
  repeat' first
    | with_reducible assumption
    | with_reducible apply Kept.modComp
    | with_reducible apply Kept.fault
    | with_reducible apply Kept.raise
    | split

theorem Goes.execReleaseApprove {s : State} (h : Kept cmds s) (r : Role) (c : CompNo) (v : List Byte) (signed : Bool) :
    Goes cmds (Machine.execReleaseApprove r c v signed s) := by
  unfold Machine.execReleaseApprove
  try dsimp only
  repeat' first
    | with_reducible apply Goes.ok
    | with_reducible assumption
    | with_reducible apply Kept.reply
    | with_reducible apply Goes.out
    | with_reducible apply Kept.approveAct
    | split

theorem Goes.execReleaseExpired {s : State} (h : Kept cmds s) (c : CompNo) :
    Goes cmds (Machine.execReleaseExpired c s) := by
  unfold Machine.execReleaseExpired
  try dsimp only
  repeat' first
    | with_reducible apply Goes.ok
    | with_reducible assumption
    | with_reducible apply Kept.modComp
    | with_reducible apply Kept.fault
    | with_reducible apply Kept.raise
    | split

end Sys2Proof.Machine
end

