-- ==== Sys2Proof/Laws/KeptModule.lean ====
section
/-! SUPPORT. Every operation of Modes, Rot, Phases, Monitor, Power, Clock keeps the queue and the bounds (Laws/Kept.lean). -/

namespace Sys2Proof.Machine
open Sys2Proof

variable {cmds : List Instr}

/-! Modes. -/

theorem Kept.mirrorLog {s : State} (h : Kept cmds s) : Kept cmds s.mirrorLog :=
  h.log _ ⟨h.sound.entries, h.sound.entries, h.sound.ceiling⟩

theorem Kept.storeCounters {s : State} (h : Kept cmds s) :
    Kept cmds (State.storeCounters s) := by
  unfold State.storeCounters
  try dsimp only
  repeat' first
    | (with_reducible apply Kept.raw; first | with_reducible assumption)

theorem Kept.domainsOff {s : State} (h : Kept cmds s) :
    Kept cmds (State.domainsOff s) := by
  unfold State.domainsOff
  try dsimp only
  repeat' first
    | with_reducible assumption
    | with_reducible apply Kept.setObj
    | with_reducible apply Kept.inc
    | with_reducible refine Kept.foldl (fun _ _ _ => ?_) _ ?_
    | split
    | (with_reducible apply Kept.raw; first | with_reducible assumption | with_reducible apply Kept.setObj | with_reducible apply Kept.inc | with_reducible apply Kept.fault)

theorem Kept.leaveBlocks {s : State} (h : Kept cmds s) (n : Nat) :
    Kept cmds (State.leaveBlocks s n) := by
  unfold State.leaveBlocks
  try dsimp only
  repeat' first
    | (with_reducible apply Kept.raw; first | with_reducible assumption)

theorem Kept.freeAll {s : State} (h : Kept cmds s) :
    Kept cmds (State.freeAll s) := by
  unfold State.freeAll
  try dsimp only
  repeat' first
    | with_reducible assumption
    | with_reducible apply Kept.dropReports
    | with_reducible apply Kept.closeSessions
    | with_reducible apply Kept.freeComp
    | with_reducible apply Kept.leaveBlocks
    | with_reducible refine Kept.foldl (fun _ _ _ => ?_) _ ?_
    | split

theorem Kept.enterFault {s : State} (h : Kept cmds s) (code : Nat) :
    Kept cmds (State.enterFault s code) := by
  unfold State.enterFault
  try dsimp only
  repeat' first
    | with_reducible assumption
    | with_reducible apply Kept.setObj
    | with_reducible apply Kept.mirrorLog
    | with_reducible apply Kept.domainsOff
    | with_reducible apply Kept.freeAll
    | split
    | (with_reducible apply Kept.raw; first | with_reducible assumption | with_reducible apply Kept.setObj | with_reducible apply Kept.fault | with_reducible apply Kept.enterMode | with_reducible apply Kept.mirrorLog | with_reducible apply Kept.domainsOff | with_reducible apply Kept.freeAll)

theorem Kept.failModule {s : State} (h : Kept cmds s) (code : Nat) :
    Kept cmds (State.failModule s code) := by
  unfold State.failModule
  try dsimp only
  repeat' first
    | with_reducible assumption
    | with_reducible apply Kept.fault
    | with_reducible apply Kept.enterFault
    | split

theorem Kept.powerLoss {s : State} (h : Kept cmds s) (mv : Nat) : Kept cmds (s.powerLoss mv) := by
  unfold State.powerLoss
  exact ⟨h.queue, ⟨h.sound.mirror.mono h.sound.ceiling, h.sound.mirror.mono h.sound.ceiling, Nat.le_refl _⟩⟩

theorem Kept.enterVerify {s : State} (h : Kept cmds s) :
    Kept cmds (State.enterVerify s) := by
  unfold State.enterVerify
  try dsimp only
  repeat' first
    | with_reducible assumption
    | with_reducible apply Kept.setObj
    | with_reducible apply Kept.inc
    | with_reducible apply Kept.fault
    | with_reducible apply Kept.enterMode
    | split
    | (with_reducible apply Kept.raw; first | with_reducible assumption | with_reducible apply Kept.setObj | with_reducible apply Kept.inc | with_reducible apply Kept.fault | with_reducible apply Kept.enterMode)

theorem Kept.abortBoot {s : State} (h : Kept cmds s) (code : Nat) :
    Kept cmds (State.abortBoot s code) := by
  unfold State.abortBoot
  try dsimp only
  repeat' first
    | with_reducible assumption
    | with_reducible apply Kept.fault
    | with_reducible apply Kept.enterMode
    | with_reducible apply Kept.domainsOff

theorem Kept.enterHoldup {s : State} (h : Kept cmds s) (code : Nat) :
    Kept cmds (State.enterHoldup s code) := by
  unfold State.enterHoldup
  try dsimp only
  repeat' first
    | with_reducible assumption
    | with_reducible apply Kept.inc
    | with_reducible apply Kept.fault
    | with_reducible apply Kept.raiseAll
    | with_reducible apply Kept.enterMode
    | with_reducible apply Kept.reclaimAll
    | with_reducible apply Kept.mirrorLog
    | with_reducible apply Kept.storeCounters

theorem Kept.supplyFails {s : State} (h : Kept cmds s) (code : Nat) :
    Kept cmds (State.supplyFails s code) := by
  unfold State.supplyFails
  try dsimp only
  repeat' first
    | with_reducible assumption
    | with_reducible apply Kept.abortBoot
    | with_reducible apply Kept.enterHoldup
    | split

theorem Kept.setInput {s : State} (h : Kept cmds s) (mv : Nat) :
    Kept cmds (State.setInput s mv) := by
  unfold State.setInput
  try dsimp only
  repeat' first
    | with_reducible assumption
    | split
    | (with_reducible apply Kept.raw; first | with_reducible assumption | with_reducible apply Kept.setObj)

theorem Goes.execInputApplied {s : State} (h : Kept cmds s) (mv : BitVec 16) (bad : List (BitVec 24)) :
    Goes cmds (Machine.execInputApplied mv bad s) := by
  unfold Machine.execInputApplied
  try dsimp only
  repeat' first
    | with_reducible apply Goes.ok
    | with_reducible assumption
    | with_reducible apply Kept.setObj
    | with_reducible apply Kept.fault
    | with_reducible apply Kept.enterMode
    | with_reducible apply Kept.setInput
    | with_reducible refine Kept.foldl (fun _ _ _ => ?_) _ ?_
    | split

theorem Goes.execInputLow {s : State} (h : Kept cmds s) (mv : BitVec 16) :
    Goes cmds (Machine.execInputLow mv s) := by
  unfold Machine.execInputLow
  try dsimp only
  repeat' first
    | with_reducible apply Goes.ok
    | with_reducible assumption
    | with_reducible apply Kept.supplyFails
    | with_reducible apply Kept.setInput
    | split

theorem Goes.execInputLoss {s : State} (h : Kept cmds s) (mv : BitVec 16) :
    Goes cmds (Machine.execInputLoss mv s) := by
  unfold Machine.execInputLoss
  try dsimp only
  repeat' first
    | with_reducible apply Goes.ok
    | with_reducible assumption
    | with_reducible apply Kept.powerLoss
    | split

theorem Goes.execInputOvervoltage {s : State} (h : Kept cmds s) (mv : BitVec 16) :
    Goes cmds (Machine.execInputOvervoltage mv s) := by
  unfold Machine.execInputOvervoltage
  try dsimp only
  repeat' first
    | with_reducible apply Goes.ok
    | with_reducible assumption
    | with_reducible apply Kept.failModule
    | with_reducible apply Kept.setInput
    | split

theorem Goes.execBusWarnAssert {s : State} (h : Kept cmds s) :
    Goes cmds (Machine.execBusWarnAssert s) := by
  unfold Machine.execBusWarnAssert
  try dsimp only
  repeat' first
    | with_reducible apply Goes.ok
    | with_reducible assumption
    | with_reducible apply Kept.setObj
    | with_reducible apply Kept.supplyFails
    | split
    | (with_reducible apply Kept.raw; first | with_reducible assumption | with_reducible apply Kept.setObj | with_reducible apply Goes.ok | with_reducible apply Kept.supplyFails)

theorem Goes.execBusWarnDeassert {s : State} (h : Kept cmds s) :
    Goes cmds (Machine.execBusWarnDeassert s) := by
  unfold Machine.execBusWarnDeassert
  try dsimp only
  repeat' first
    | with_reducible apply Goes.ok
    | with_reducible apply Kept.setObj
    | with_reducible apply Kept.enterVerify
    | split
    | (with_reducible apply Kept.raw; first | with_reducible assumption | with_reducible apply Kept.setObj | with_reducible apply Goes.ok | with_reducible apply Kept.enterVerify)

theorem Kept.recapAll {s : State} (h : Kept cmds s) :
    Kept cmds (State.recapAll s) := by
  unfold State.recapAll
  try dsimp only
  repeat' first
    | with_reducible assumption
    | with_reducible apply Kept.recap
    | with_reducible refine Kept.foldl (fun _ _ _ => ?_) _ ?_
    | split

theorem Goes.execHoldupPause {s : State} (h : Kept cmds s) :
    Goes cmds (Machine.execHoldupPause s) := by
  unfold Machine.execHoldupPause
  try dsimp only
  repeat' first
    | with_reducible apply Goes.ok
    | with_reducible assumption
    | with_reducible apply Kept.recapAll
    | split
    | (with_reducible apply Kept.raw; first | with_reducible assumption | with_reducible apply Kept.fault | with_reducible apply Goes.ok | with_reducible apply Kept.recapAll)

theorem Goes.execHoldupExit {s : State} (h : Kept cmds s) (mv : BitVec 16) :
    Goes cmds (Machine.execHoldupExit mv s) := by
  unfold Machine.execHoldupExit
  try dsimp only
  repeat' first
    | with_reducible apply Goes.ok
    | with_reducible assumption
    | with_reducible apply Kept.fault
    | with_reducible apply Kept.raiseAll
    | with_reducible apply Kept.setInput
    | with_reducible apply Kept.recapAll
    | split
    | (with_reducible apply Kept.raw; first | with_reducible assumption | with_reducible apply Kept.fault | with_reducible apply Kept.raiseAll | with_reducible apply Kept.enterMode | with_reducible apply Goes.ok | with_reducible apply Kept.setInput | with_reducible apply Kept.recapAll)

theorem Kept.closeAll {s : State} (h : Kept cmds s) :
    Kept cmds (State.closeAll s) := by
  unfold State.closeAll
  try dsimp only
  repeat' first
    | with_reducible assumption
    | with_reducible apply Kept.closing
    | with_reducible apply Kept.answerClose
    | with_reducible apply Kept.freeComp
    | with_reducible apply Kept.leaveBlocks
    | with_reducible refine Kept.foldl (fun _ _ _ => ?_) _ ?_
    | split

theorem Kept.finishReset {s : State} (h : Kept cmds s) (full : Bool) : Kept cmds (s.finishReset full) := by
  unfold State.finishReset
  extract_lets s1 keep s2 s3
  have h1 : Kept cmds s1 := by
    simp only [s1]
    split
    · exact h
    · exact h.closeAll.domainsOff
  have h2 : Kept cmds s2 := by
    simp only [s2]
    with_reducible apply Kept.raw
    exact h1
  have h3 : Kept cmds s3 := (h2.setObj _ _).setObj _ _
  clear_value s3
  split
  · exact ⟨h3.queue, ⟨h3.sound.mirror, h3.sound.mirror, h3.sound.ceiling⟩⟩
  · exact h3.enterVerify

theorem Kept.goOn {s : State} (h : Kept cmds s) :
    Kept cmds (State.goOn s) := by
  unfold State.goOn
  try dsimp only
  repeat' first
    | with_reducible assumption
    | with_reducible apply Kept.enterMode
    | with_reducible apply Kept.domainsOff
    | with_reducible apply Kept.finishReset
    | split
    | (with_reducible apply Kept.raw; first | with_reducible assumption | with_reducible apply Kept.enterMode | with_reducible apply Kept.domainsOff | with_reducible apply Kept.finishReset)

theorem Kept.await {s : State} (h : Kept cmds s) (g : Going) :
    Kept cmds (State.await s g) := by
  unfold State.await
  try dsimp only
  repeat' first
    | with_reducible assumption
    | with_reducible apply Kept.goOn
    | split
    | (with_reducible apply Kept.raw; first | with_reducible assumption | with_reducible apply Kept.reclaimAll | with_reducible apply Kept.goOn)

theorem Goes.execLenderReclaimDeadline {s : State} (h : Kept cmds s) :
    Goes cmds (Machine.execLenderReclaimDeadline s) := by
  unfold Machine.execLenderReclaimDeadline
  try dsimp only
  repeat' first
    | with_reducible apply Goes.ok
    | with_reducible assumption
    | with_reducible apply Kept.goOn
    | split

theorem Kept.resetAct {s : State} (h : Kept cmds s) (full : Bool) :
    Kept cmds (State.resetAct s full) := by
  unfold State.resetAct
  try dsimp only
  repeat' first
    | with_reducible assumption
    | with_reducible apply Kept.fault
    | with_reducible apply Kept.finishReset
    | with_reducible apply Kept.await
    | split
    | (with_reducible apply Kept.raw; first | with_reducible assumption | with_reducible apply Kept.fault | with_reducible apply Kept.mirrorLog | with_reducible apply Kept.finishReset | with_reducible apply Kept.await)

theorem Kept.moduleAct {s : State} (h : Kept cmds s) (code : Nat) :
    Kept cmds (State.moduleAct s code).s := by
  unfold State.moduleAct
  try dsimp only
  repeat' first
    | with_reducible assumption
    | with_reducible apply Kept.fault
    | with_reducible apply Kept.enterMode
    | with_reducible apply Kept.enterVerify
    | with_reducible apply Kept.await
    | with_reducible apply Kept.resetAct
    | split
    | dsimp only
    | (with_reducible apply Kept.raw; first | with_reducible assumption | with_reducible apply Kept.fault | with_reducible apply Kept.enterMode | with_reducible apply Goes.ok | with_reducible apply Kept.enterVerify | with_reducible apply Kept.await | with_reducible apply Kept.resetAct)

theorem Goes.moduleCommand {s : State} (h : Kept cmds s) (r : Role) (code : Nat) :
    Goes cmds (State.moduleCommand s r code) := by
  unfold State.moduleCommand
  try dsimp only
  repeat' first
    | with_reducible apply Goes.ok
    | with_reducible assumption
    | with_reducible apply Kept.reply
    | with_reducible apply Goes.out
    | with_reducible apply Kept.moduleAct
    | split

theorem Goes.execModuleStart {s : State} (h : Kept cmds s) (r : Role) :
    Goes cmds (Machine.execModuleStart r s) := by
  unfold Machine.execModuleStart
  try dsimp only
  repeat' first
    | with_reducible assumption
    | with_reducible apply Goes.moduleCommand

theorem Goes.execModuleService {s : State} (h : Kept cmds s) (r : Role) :
    Goes cmds (Machine.execModuleService r s) := by
  unfold Machine.execModuleService
  try dsimp only
  repeat' first
    | with_reducible assumption
    | with_reducible apply Goes.moduleCommand

theorem Goes.execExitService {s : State} (h : Kept cmds s) (r : Role) :
    Goes cmds (Machine.execExitService r s) := by
  unfold Machine.execExitService
  try dsimp only
  repeat' first
    | with_reducible assumption
    | with_reducible apply Goes.moduleCommand

theorem Goes.execModuleStandby {s : State} (h : Kept cmds s) (r : Role) :
    Goes cmds (Machine.execModuleStandby r s) := by
  unfold Machine.execModuleStandby
  try dsimp only
  repeat' first
    | with_reducible assumption
    | with_reducible apply Goes.moduleCommand

theorem Goes.execResetModule {s : State} (h : Kept cmds s) (r : Role) :
    Goes cmds (Machine.execResetModule r s) := by
  unfold Machine.execResetModule
  try dsimp only
  repeat' first
    | with_reducible assumption
    | with_reducible apply Goes.moduleCommand

theorem Goes.execResetFull {s : State} (h : Kept cmds s) (r : Role) :
    Goes cmds (Machine.execResetFull r s) := by
  unfold Machine.execResetFull
  try dsimp only
  repeat' first
    | with_reducible assumption
    | with_reducible apply Goes.moduleCommand

theorem Goes.execAutoStart {s : State} (h : Kept cmds s) :
    Goes cmds (Machine.execAutoStart s) := by
  unfold Machine.execAutoStart
  try dsimp only
  repeat' first
    | with_reducible apply Goes.ok
    | with_reducible assumption
    | with_reducible apply Kept.enterVerify
    | split

theorem Goes.execResetPinAssert {s : State} (h : Kept cmds s) (low : Bool) :
    Goes cmds (Machine.execResetPinAssert low s) := by
  unfold Machine.execResetPinAssert
  try dsimp only
  repeat' first
    | with_reducible apply Goes.ok
    | with_reducible apply Kept.resetAct
    | split
    | (with_reducible apply Kept.raw; first | with_reducible assumption | with_reducible apply Goes.ok | with_reducible apply Kept.resetAct)

theorem Kept.extendMr {s : State} (h : Kept cmds s) (c : Nat) (cls : Nat) (svn : Nat) (digest : Nat) :
    Kept cmds (State.extendMr s c cls svn digest) := by
  unfold State.extendMr
  try dsimp only
  repeat' first
    | with_reducible assumption
    | with_reducible apply Kept.setObj

theorem Kept.bootClass {s : State} (h : Kept cmds s) (c : Nat) (a : FwSlot) (b : FwSlot) :
    Kept cmds (State.bootClass s c a b).2 := by
  unfold State.bootClass
  try dsimp only
  repeat' first
    | with_reducible assumption
    | with_reducible apply Kept.fault
    | with_reducible apply Kept.extendMr
    | split
    | dsimp only
    | (with_reducible apply Kept.raw; first | with_reducible assumption | with_reducible apply Kept.setObj | with_reducible apply Kept.fault | with_reducible apply Kept.extendMr)

theorem Kept.bootFrom {s : State} (h : Kept cmds s) (slots : List (FwSlot × FwSlot)) (k c : Nat) :
    Kept cmds (s.bootFrom slots k c).2 := by
  induction k generalizing s c with
  | zero => exact h
  | succ k ih =>
    unfold State.bootFrom
    extract_lets x
    split
    · exact ih (Kept.snd_of_eq (by assumption) (h.bootClass _ _ _)) _
    · exact h.bootClass _ _ _

theorem Goes.execVerifyPass {s : State} (h : Kept cmds s) (fuseOk : Bool) (slots : List (FwSlot × FwSlot)) :
    Goes cmds (Machine.execVerifyPass fuseOk slots s) := by
  unfold Machine.execVerifyPass
  try dsimp only
  repeat' first
    | with_reducible apply Goes.ok
    | with_reducible assumption
    | with_reducible apply Kept.setObj
    | with_reducible apply Kept.enterMode
    | with_reducible apply Kept.failModule
    | with_reducible apply Kept.extendMr
    | with_reducible apply Kept.bootFrom
    | with_reducible refine Kept.snd_of_eq (by assumption) ?_
    | split

theorem Goes.execVerifyTimeout {s : State} (h : Kept cmds s) :
    Goes cmds (Machine.execVerifyTimeout s) := by
  unfold Machine.execVerifyTimeout
  try dsimp only
  repeat' first
    | with_reducible apply Goes.ok
    | with_reducible assumption
    | with_reducible apply Kept.failModule
    | split

theorem Goes.execBringupTimeout {s : State} (h : Kept cmds s) :
    Goes cmds (Machine.execBringupTimeout s) := by
  unfold Machine.execBringupTimeout
  try dsimp only
  repeat' first
    | with_reducible apply Goes.ok
    | with_reducible assumption
    | with_reducible apply Kept.failModule
    | split

theorem Kept.failUnits {s : State} (h : Kept cmds s) (hbmStacks : List (Fin 12)) (flash : List (Fin 32)) (tiles : List TileNo) :
    Kept cmds (State.failUnits s hbmStacks flash tiles) := by
  unfold State.failUnits
  try dsimp only
  repeat' first
    | with_reducible assumption
    | with_reducible apply Kept.setObj
    | with_reducible apply Kept.fault
    | with_reducible apply Kept.fenceFor
    | with_reducible refine Kept.foldl (fun _ _ _ => ?_) _ ?_

theorem Goes.execBringupComplete {s : State} (h : Kept cmds s) (railsOk : Bool) (hbmStacks : List (Fin 12)) (flash : List (Fin 32)) (tiles : List TileNo) (spare : BitVec 256) :
    Goes cmds (Machine.execBringupComplete railsOk hbmStacks flash tiles spare s) := by
  unfold Machine.execBringupComplete
  try dsimp only
  repeat' first
    | with_reducible apply Goes.ok
    | with_reducible assumption
    | with_reducible apply Kept.tickFresh
    | with_reducible apply Kept.setObj
    | with_reducible apply Kept.enterMode
    | with_reducible apply Kept.fabRestart
    | with_reducible apply Kept.failModule
    | with_reducible apply Kept.failUnits
    | split
    | (with_reducible apply Kept.raw; first | with_reducible assumption | with_reducible apply Kept.tickFresh | with_reducible apply Kept.setObj | with_reducible apply Kept.enterMode | with_reducible apply Goes.ok | with_reducible apply Kept.fabRestart | with_reducible apply Kept.failModule | with_reducible apply Kept.failUnits)

theorem Goes.execEntropyFail {s : State} (h : Kept cmds s) :
    Goes cmds (Machine.execEntropyFail s) := by
  unfold Machine.execEntropyFail
  try dsimp only
  repeat' first
    | with_reducible apply Goes.ok
    | with_reducible assumption
    | with_reducible apply Kept.failModule

theorem Goes.execRequestWatchdog {s : State} (h : Kept cmds s) (t : TileNo) (slot : Fin 256) :
    Goes cmds (Machine.execRequestWatchdog t slot s) := by
  unfold Machine.execRequestWatchdog
  try dsimp only
  repeat' first
    | with_reducible apply Goes.ok
    | with_reducible assumption
    | with_reducible apply Kept.faultOnce
    | with_reducible apply Kept.setSlot
    | with_reducible apply Kept.lostAccess
    | with_reducible apply Kept.answerSlot
    | with_reducible apply Kept.pegEnd
    | split

theorem Kept.stageAct {s : State} (h : Kept cmds s) (v : List Byte) :
    Kept cmds (State.stageAct s v).2 := by
  unfold State.stageAct
  try dsimp only
  repeat' first
    | with_reducible assumption
    | split
    | dsimp only
    | (with_reducible apply Kept.raw; first | with_reducible assumption | with_reducible apply Goes.ok)

theorem Goes.execFwStage {s : State} (h : Kept cmds s) (r : Role) (v : List Byte) :
    Goes cmds (Machine.execFwStage r v s) := by
  unfold Machine.execFwStage
  try dsimp only
  repeat' first
    | with_reducible apply Goes.ok
    | with_reducible assumption
    | with_reducible apply Kept.reply
    | with_reducible apply Kept.stageAct
    | split

theorem Kept.commitFwAct {s : State} (h : Kept cmds s) (cls : Nat) (signed : Bool) :
    Kept cmds (State.commitFwAct s cls signed).2.2 := by
  unfold State.commitFwAct
  try dsimp only
  repeat' first
    | with_reducible assumption
    | split
    | dsimp only
    | (with_reducible apply Kept.raw; first | with_reducible assumption | with_reducible apply Kept.fault | with_reducible apply Goes.ok)

theorem Goes.execFwCommit {s : State} (h : Kept cmds s) (r : Role) (cls : Byte) (signed : Bool) :
    Goes cmds (Machine.execFwCommit r cls signed s) := by
  unfold Machine.execFwCommit
  try dsimp only
  repeat' first
    | with_reducible apply Goes.ok
    | with_reducible assumption
    | with_reducible apply Kept.reply
    | with_reducible apply Kept.commitFwAct
    | split

theorem Goes.execFaultClear {s : State} (h : Kept cmds s) (r : Role) (v : Bool) :
    Goes cmds (Machine.execFaultClear r v s) := by
  unfold Machine.execFaultClear
  refine Goes.ok (h.clearWrite _ _ _ _ ?_)
  exact h.log _ ⟨⟨by simp, by simp, by simp⟩, ⟨by simp, by simp, by simp⟩, h.sound.ceiling⟩

theorem Goes.execFaultLogMirror {s : State} (h : Kept cmds s) :
    Goes cmds (Machine.execFaultLogMirror s) := by
  unfold Machine.execFaultLogMirror
  try dsimp only
  repeat' first
    | with_reducible apply Goes.ok
    | with_reducible assumption
    | with_reducible apply Kept.mirrorLog
    | split

theorem Goes.execPersistentCounterStore {s : State} (h : Kept cmds s) :
    Goes cmds (Machine.execPersistentCounterStore s) := by
  unfold Machine.execPersistentCounterStore
  try dsimp only
  repeat' first
    | with_reducible apply Goes.ok
    | with_reducible assumption
    | with_reducible apply Kept.storeCounters
    | split


/-! Rot. -/

theorem Kept.svnAct {s : State} (h : Kept cmds s) (cls : Nat) :
    Kept cmds (State.svnAct s cls).2 := by
  unfold State.svnAct
  try dsimp only
  repeat' first
    | with_reducible assumption
    | with_reducible apply Kept.setObj
    | with_reducible apply Kept.fault
    | split

theorem Goes.execSvnAdvance {s : State} (h : Kept cmds s) (r : Role) (cls : Byte) :
    Goes cmds (Machine.execSvnAdvance r cls s) := by
  unfold Machine.execSvnAdvance
  try dsimp only
  repeat' first
    | with_reducible apply Goes.ok
    | with_reducible assumption
    | with_reducible apply Kept.reply
    | with_reducible apply Kept.svnAct
    | split

theorem Kept.reportAct {s : State} (h : Kept cmds s) (c : Option Nat) (nonce : Nat) :
    Kept cmds (State.reportAct s c nonce).s := by
  unfold State.reportAct
  try dsimp only
  repeat' first
    | with_reducible assumption
    | with_reducible apply Kept.modComp
    | with_reducible apply Kept.fault
    | with_reducible refine Kept.queueReport ?_ _ _ (by assumption)
    | split

theorem Goes.execReportRequest {s : State} (h : Kept cmds s) (r : Role) (c : CompNo) (nonce : BitVec 256) :
    Goes cmds (Machine.execReportRequest r c nonce s) := by
  unfold Machine.execReportRequest
  try dsimp only
  repeat' first
    | with_reducible apply Goes.ok
    | with_reducible assumption
    | with_reducible apply Kept.reply
    | with_reducible apply Goes.out
    | with_reducible apply Kept.reportAct
    | split

theorem Goes.execModuleReportRequest {s : State} (h : Kept cmds s) (r : Role) (nonce : BitVec 256) :
    Goes cmds (Machine.execModuleReportRequest r nonce s) := by
  unfold Machine.execModuleReportRequest
  try dsimp only
  repeat' first
    | with_reducible apply Goes.ok
    | with_reducible assumption
    | with_reducible apply Kept.reply
    | with_reducible apply Goes.out
    | with_reducible apply Kept.reportAct
    | split

theorem Goes.execReportSigned {s : State} (h : Kept cmds s) (signature : List Byte) :
    Goes cmds (Machine.execReportSigned signature s) := by
  unfold Machine.execReportSigned
  try dsimp only
  repeat' first
    | with_reducible apply Goes.ok
    | with_reducible assumption
    | with_reducible apply Kept.setObj
    | with_reducible apply Kept.setObjC
    | with_reducible apply Kept.inc
    | with_reducible apply Kept.acceptWaiting
    | with_reducible apply Kept.modRot
    | with_reducible apply Kept.startSigning
    | split

theorem Kept.slotMatched {s : State} (h : Kept cmds s) (n : Nat) (t : Nat) (dst : Nat) (i : Nat) (k : Nat) (h : Nat) :
    Kept cmds (State.slotMatched s n t dst i k h) := by
  unfold State.slotMatched
  try dsimp only
  repeat' first
    | with_reducible assumption
    | with_reducible apply Kept.modTile
    | with_reducible apply Kept.modComp
    | with_reducible apply Kept.incC

theorem Kept.endSlots {s : State} (h : Kept cmds s) (n : Nat) (entry : Nat) (e : Nat) (r : Except (Nat × Nat) Unit) (k : Nat) :
    Kept cmds (State.endSlots s n entry e r k) := by
  unfold State.endSlots
  try dsimp only
  repeat' first
    | with_reducible assumption
    | with_reducible apply Kept.modComp
    | with_reducible apply Kept.streamEnd

theorem Goes.execSlotMeasure {s : State} (h : Kept cmds s) (c : CompNo) (entry : Nat) (next : Option SpanReply) (ledger : Option SpanReply) :
    Goes cmds (Machine.execSlotMeasure c entry next ledger s) := by
  unfold Machine.execSlotMeasure
  try dsimp only
  repeat' first
    | with_reducible apply Goes.ok
    | with_reducible assumption
    | with_reducible apply Kept.modComp
    | with_reducible apply Kept.fault
    | with_reducible apply Kept.holdComp
    | with_reducible apply Kept.unitFetch
    | with_reducible apply Kept.streamSlot
    | with_reducible apply Kept.slotMatched
    | with_reducible apply Kept.endSlots
    | with_reducible refine Kept.snd_of_eq (by assumption) ?_
    | split

theorem Kept.modSpdm {s : State} (h : Kept cmds s) (f : Spdm → Spdm) :
    Kept cmds (State.modSpdm s f) := by
  unfold State.modSpdm
  try dsimp only
  repeat' first
    | with_reducible assumption
    | with_reducible apply Kept.modRot

theorem Kept.setSpdmSess {s : State} (h : Kept cmds s) (k : Nat) (x : Option SpdmSess) :
    Kept cmds (State.setSpdmSess s k x) := by
  unfold State.setSpdmSess
  try dsimp only
  repeat' first
    | with_reducible assumption
    | with_reducible apply Kept.modSpdm

theorem Kept.spdmErr {s : State} (h : Kept cmds s) (code : Nat) :
    Kept cmds (State.spdmErr s code) := by
  unfold State.spdmErr
  try dsimp only
  repeat' first
    | with_reducible assumption
    | with_reducible apply Kept.emit

theorem Kept.spdmFail {s : State} (h : Kept cmds s) (sess : SessNoS) (code : Nat) :
    Kept cmds (State.spdmFail s sess code) := by
  unfold State.spdmFail
  try dsimp only
  repeat' first
    | with_reducible assumption
    | with_reducible apply Kept.inc
    | with_reducible apply Kept.faultOnce
    | with_reducible apply Kept.modSpdm
    | with_reducible apply Kept.setSpdmSess
    | with_reducible apply Kept.spdmErr
    | split

theorem Kept.spdmSay {s : State} (h : Kept cmds s) (code : Nat) (data : List Byte) :
    Kept cmds (State.spdmSay s code data) := by
  unfold State.spdmSay
  try dsimp only
  repeat' first
    | with_reducible assumption
    | with_reducible apply Kept.emit
    | with_reducible apply Kept.modSpdm
    | with_reducible apply Kept.spdmErr
    | split

theorem Goes.spdmDo {s : State} (h : Kept cmds s) (sess : SessNoS) (sound : Bool) (inOrder : Bool) (f : State → State) (hf : ∀ a, Kept cmds a → Kept cmds (f a)) :
    Goes cmds (State.spdmDo s sess sound inOrder f) := by
  unfold State.spdmDo
  try dsimp only
  repeat' first
    | with_reducible apply Goes.ok
    | with_reducible assumption
    | with_reducible apply Kept.spdmFail
    | with_reducible apply hf
    | split

theorem Goes.execGetVersion {s : State} (h : Kept cmds s) (sess : Option (Fin 4)) (sound : Bool) :
    Goes cmds (Machine.execGetVersion sess sound s) := by
  unfold Machine.execGetVersion
  try dsimp only
  repeat' first
    | with_reducible assumption
    | with_reducible apply Kept.modSpdm
    | with_reducible apply Kept.spdmSay
    | with_reducible apply Goes.spdmDo
    | intro _

theorem Goes.execGetCapabilities {s : State} (h : Kept cmds s) (sess : Option (Fin 4)) (sound : Bool) :
    Goes cmds (Machine.execGetCapabilities sess sound s) := by
  unfold Machine.execGetCapabilities
  try dsimp only
  repeat' first
    | with_reducible assumption
    | with_reducible apply Kept.modSpdm
    | with_reducible apply Kept.spdmSay
    | with_reducible apply Goes.spdmDo
    | intro _

theorem Goes.execNegotiateAlgorithms {s : State} (h : Kept cmds s) (sess : Option (Fin 4)) (sound : Bool) :
    Goes cmds (Machine.execNegotiateAlgorithms sess sound s) := by
  unfold Machine.execNegotiateAlgorithms
  try dsimp only
  repeat' first
    | with_reducible assumption
    | with_reducible apply Kept.modSpdm
    | with_reducible apply Kept.spdmSay
    | with_reducible apply Goes.spdmDo
    | intro _

theorem Goes.execGetDigests {s : State} (h : Kept cmds s) (sess : Option (Fin 4)) (sound : Bool) :
    Goes cmds (Machine.execGetDigests sess sound s) := by
  unfold Machine.execGetDigests
  try dsimp only
  repeat' first
    | with_reducible assumption
    | with_reducible apply Kept.spdmSay
    | with_reducible apply Goes.spdmDo
    | intro _

theorem Goes.execGetCertificate {s : State} (h : Kept cmds s) (sess : Option (Fin 4)) (sound : Bool) (slot : Byte) (off : BitVec 16) (len : BitVec 16) :
    Goes cmds (Machine.execGetCertificate sess sound slot off len s) := by
  unfold Machine.execGetCertificate
  try dsimp only
  repeat' first
    | with_reducible assumption
    | with_reducible apply Kept.spdmSay
    | with_reducible apply Goes.spdmDo
    | intro _

theorem Kept.spdmLater {s : State} (h : Kept cmds s) :
    Kept cmds (State.spdmLater s) := by
  unfold State.spdmLater
  try dsimp only
  repeat' first
    | with_reducible assumption
    | with_reducible apply Kept.emit

theorem Goes.execChallenge {s : State} (h : Kept cmds s) (sess : Option (Fin 4)) (sound : Bool) (ready : Bool) :
    Goes cmds (Machine.execChallenge sess sound ready s) := by
  unfold Machine.execChallenge
  try dsimp only
  repeat' first
    | with_reducible assumption
    | with_reducible apply Kept.modSpdm
    | with_reducible apply Kept.spdmSay
    | with_reducible apply Goes.spdmDo
    | with_reducible apply Kept.spdmLater
    | intro _
    | split

theorem Goes.execGetMeasurements {s : State} (h : Kept cmds s) (sess : Option (Fin 4)) (sound : Bool) (block : Byte) (signed : Bool) (ready : Bool) :
    Goes cmds (Machine.execGetMeasurements sess sound block signed ready s) := by
  unfold Machine.execGetMeasurements
  try dsimp only
  repeat' first
    | with_reducible assumption
    | with_reducible apply Kept.spdmSay
    | with_reducible apply Goes.spdmDo
    | with_reducible apply Kept.spdmLater
    | intro _
    | split

theorem Goes.execKemEncap {s : State} (h : Kept cmds s) (sess : Option (Fin 4)) (sound : Bool) :
    Goes cmds (Machine.execKemEncap sess sound s) := by
  unfold Machine.execKemEncap
  try dsimp only
  repeat' first
    | with_reducible assumption
    | with_reducible apply Kept.tickFresh
    | with_reducible apply Kept.modSpdm
    | with_reducible apply Kept.spdmSay
    | with_reducible apply Goes.spdmDo
    | intro _

theorem Goes.execPskExchange {s : State} (h : Kept cmds s) (sess : Option (Fin 4)) (sound : Bool) (hint : BitVec 128) :
    Goes cmds (Machine.execPskExchange sess sound hint s) := by
  unfold Machine.execPskExchange
  try dsimp only
  repeat' first
    | with_reducible assumption
    | with_reducible apply Kept.modSpdm
    | with_reducible apply Kept.setSpdmSess
    | with_reducible apply Kept.spdmErr
    | with_reducible apply Kept.spdmSay
    | with_reducible apply Goes.spdmDo
    | intro _
    | split

theorem Goes.execPskFinish {s : State} (h : Kept cmds s) (sess : Option (Fin 4)) (sound : Bool) :
    Goes cmds (Machine.execPskFinish sess sound s) := by
  unfold Machine.execPskFinish
  try dsimp only
  repeat' first
    | with_reducible assumption
    | with_reducible apply Kept.setSpdmSess
    | with_reducible apply Kept.spdmSay
    | with_reducible apply Goes.spdmDo
    | intro _

theorem Goes.execKeyUpdate {s : State} (h : Kept cmds s) (sess : Option (Fin 4)) (sound : Bool) :
    Goes cmds (Machine.execKeyUpdate sess sound s) := by
  unfold Machine.execKeyUpdate
  try dsimp only
  repeat' first
    | with_reducible assumption
    | with_reducible apply Kept.setSpdmSess
    | with_reducible apply Kept.spdmSay
    | with_reducible apply Goes.spdmDo
    | intro _
    | split

theorem Goes.execSpdmHeartbeat {s : State} (h : Kept cmds s) (sess : Option (Fin 4)) (sound : Bool) :
    Goes cmds (Machine.execSpdmHeartbeat sess sound s) := by
  unfold Machine.execSpdmHeartbeat
  try dsimp only
  repeat' first
    | with_reducible assumption
    | with_reducible apply Kept.spdmSay
    | with_reducible apply Goes.spdmDo
    | intro _

theorem Goes.execEndSession {s : State} (h : Kept cmds s) (sess : Option (Fin 4)) (sound : Bool) :
    Goes cmds (Machine.execEndSession sess sound s) := by
  unfold Machine.execEndSession
  try dsimp only
  repeat' first
    | with_reducible assumption
    | with_reducible apply Kept.setSpdmSess
    | with_reducible apply Kept.spdmSay
    | with_reducible apply Goes.spdmDo
    | intro _
    | split

theorem Goes.execChunkGet {s : State} (h : Kept cmds s) (sess : Option (Fin 4)) (sound : Bool) (chunk : BitVec 16) :
    Goes cmds (Machine.execChunkGet sess sound chunk s) := by
  unfold Machine.execChunkGet
  try dsimp only
  repeat' first
    | with_reducible assumption
    | with_reducible apply Kept.emit
    | with_reducible apply Kept.modSpdm
    | with_reducible apply Goes.spdmDo
    | intro _

theorem Goes.execSpdmUnsupportedRequest {s : State} (h : Kept cmds s) (sess : Option (Fin 4)) :
    Goes cmds (Machine.execSpdmUnsupportedRequest sess s) := by
  unfold Machine.execSpdmUnsupportedRequest
  try dsimp only
  repeat' first
    | with_reducible apply Goes.ok
    | with_reducible assumption
    | with_reducible apply Kept.spdmErr

theorem Goes.execSpdmLockoutEnd {s : State} (h : Kept cmds s) :
    Goes cmds (Machine.execSpdmLockoutEnd s) := by
  unfold Machine.execSpdmLockoutEnd
  try dsimp only
  repeat' first
    | with_reducible apply Goes.ok
    | with_reducible assumption
    | with_reducible apply Kept.modSpdm
    | split

theorem Kept.setStream {s : State} (h : Kept cmds s) (n : Nat) (x : Stream) :
    Kept cmds (State.setStream s n x) := by
  unfold State.setStream
  try dsimp only
  repeat' first
    | with_reducible assumption
    | with_reducible apply Kept.modComp

theorem Goes.execKeyProg {s : State} (h : Kept cmds s) (sess : Option (Fin 4)) (sound : Bool) (c : CompNo) :
    Goes cmds (Machine.execKeyProg sess sound c s) := by
  unfold Machine.execKeyProg
  try dsimp only
  repeat' first
    | with_reducible assumption
    | with_reducible apply Kept.spdmSay
    | with_reducible apply Goes.spdmDo
    | with_reducible apply Kept.setStream
    | intro _
    | split

theorem Goes.execKSetGo {s : State} (h : Kept cmds s) (sess : Option (Fin 4)) (sound : Bool) (c : CompNo) :
    Goes cmds (Machine.execKSetGo sess sound c s) := by
  unfold Machine.execKSetGo
  try dsimp only
  repeat' first
    | with_reducible assumption
    | with_reducible apply Kept.spdmSay
    | with_reducible apply Goes.spdmDo
    | with_reducible apply Kept.setStream
    | intro _

theorem Goes.execKSetStop {s : State} (h : Kept cmds s) (sess : Option (Fin 4)) (sound : Bool) (c : CompNo) :
    Goes cmds (Machine.execKSetStop sess sound c s) := by
  unfold Machine.execKSetStop
  try dsimp only
  repeat' first
    | with_reducible assumption
    | with_reducible apply Kept.tdiError
    | with_reducible apply Kept.spdmSay
    | with_reducible apply Goes.spdmDo
    | with_reducible apply Kept.setStream
    | intro _

theorem Goes.execLockInterface {s : State} (h : Kept cmds s) (sess : Option (Fin 4)) (sound : Bool) (c : CompNo) :
    Goes cmds (Machine.execLockInterface sess sound c s) := by
  unfold Machine.execLockInterface
  try dsimp only
  repeat' first
    | with_reducible assumption
    | with_reducible apply Kept.setObjC
    | with_reducible apply Kept.spdmErr
    | with_reducible apply Kept.spdmSay
    | with_reducible apply Goes.spdmDo
    | intro _
    | split

theorem Goes.execGetDeviceInterfaceReport {s : State} (h : Kept cmds s) (sess : Option (Fin 4)) (sound : Bool) (c : CompNo) :
    Goes cmds (Machine.execGetDeviceInterfaceReport sess sound c s) := by
  unfold Machine.execGetDeviceInterfaceReport
  try dsimp only
  repeat' first
    | with_reducible assumption
    | with_reducible apply Kept.spdmSay
    | with_reducible apply Goes.spdmDo
    | intro _

theorem Goes.execStartInterface {s : State} (h : Kept cmds s) (sess : Option (Fin 4)) (sound : Bool) (c : CompNo) :
    Goes cmds (Machine.execStartInterface sess sound c s) := by
  unfold Machine.execStartInterface
  try dsimp only
  repeat' first
    | with_reducible assumption
    | with_reducible apply Kept.setObjC
    | with_reducible apply Kept.spdmSay
    | with_reducible apply Goes.spdmDo
    | intro _

theorem Goes.execStopInterface {s : State} (h : Kept cmds s) (sess : Option (Fin 4)) (sound : Bool) (c : CompNo) :
    Goes cmds (Machine.execStopInterface sess sound c s) := by
  unfold Machine.execStopInterface
  try dsimp only
  repeat' first
    | with_reducible assumption
    | with_reducible apply Kept.setObjC
    | with_reducible apply Kept.spdmSay
    | with_reducible apply Goes.spdmDo
    | intro _

theorem Goes.execTdiError {s : State} (h : Kept cmds s) (c : CompNo) (streamLost : Bool) :
    Goes cmds (Machine.execTdiError c streamLost s) := by
  unfold Machine.execTdiError
  try dsimp only
  repeat' first
    | with_reducible apply Goes.ok
    | with_reducible assumption
    | with_reducible apply Kept.tdiError
    | with_reducible apply Kept.setStream
    | split


/-! Phases. -/

theorem Goes.execPhaseMarkTake {s : State} (h : Kept cmds s) (c : CompNo) (remote : Option SpanReply) :
    Goes cmds (Machine.execPhaseMarkTake c remote s) := by
  unfold Machine.execPhaseMarkTake
  try dsimp only
  repeat' first
    | with_reducible apply Goes.ok
    | with_reducible assumption
    | with_reducible apply Kept.modComp
    | with_reducible apply Kept.incC
    | with_reducible apply Kept.unitPost
    | with_reducible apply Kept.compEvent
    | with_reducible apply Kept.nextPhase
    | with_reducible apply Kept.unitFetch
    | with_reducible refine Kept.snd_of_eq (by assumption) ?_
    | split

theorem Goes.execPhaseOverrun {s : State} (h : Kept cmds s) (c : CompNo) :
    Goes cmds (Machine.execPhaseOverrun c s) := by
  unfold Machine.execPhaseOverrun
  try dsimp only
  repeat' first
    | with_reducible apply Goes.ok
    | with_reducible assumption
    | with_reducible apply Kept.modComp
    | with_reducible apply Kept.incC
    | split


/-! Monitor. -/

theorem Kept.selRefused {s : State} (h : Kept cmds s) (n : Nat) (st : Status) :
    Kept cmds (State.selRefused s n st) := by
  unfold State.selRefused
  try dsimp only
  repeat' first
    | with_reducible assumption
    | with_reducible apply Kept.faultOnce
    | with_reducible apply Kept.reply

theorem Kept.tileSelAct {s : State} (h : Kept cmds s) (r : Role) (n : Nat) (v : Nat) :
    Kept cmds (State.tileSelAct s r n v).2 := by
  unfold State.tileSelAct
  try dsimp only
  repeat' first
    | with_reducible assumption
    | with_reducible apply Kept.modTile
    | with_reducible apply Kept.modComp
    | with_reducible apply Kept.setObjC
    | with_reducible refine Kept.foldl (fun _ _ _ => ?_) _ ?_
    | split

theorem Goes.execTileSelWrite {s : State} (h : Kept cmds s) (r : Role) (c : CompNo) (v : W64) :
    Goes cmds (Machine.execTileSelWrite r c v s) := by
  unfold Machine.execTileSelWrite
  try dsimp only
  repeat' first
    | with_reducible apply Goes.ok
    | with_reducible assumption
    | with_reducible apply Kept.reply
    | with_reducible apply Kept.selRefused
    | with_reducible apply Kept.tileSelAct
    | with_reducible refine Kept.snd_of_eq (by assumption) ?_
    | split

theorem Kept.aggAct {s : State} (h : Kept cmds s) (r : Role) (n : Nat) (j : Nat) (v : Nat) :
    Kept cmds (State.aggAct s r n j v).2 := by
  unfold State.aggAct
  try dsimp only
  repeat' first
    | with_reducible assumption
    | with_reducible apply Kept.modComp
    | with_reducible apply Kept.setObj
    | split

theorem Goes.execAggWrite {s : State} (h : Kept cmds s) (r : Role) (c : CompNo) (j : Fin 64) (v : BitVec 128) :
    Goes cmds (Machine.execAggWrite r c j v s) := by
  unfold Machine.execAggWrite
  try dsimp only
  repeat' first
    | with_reducible apply Goes.ok
    | with_reducible assumption
    | with_reducible apply Kept.reply
    | with_reducible apply Kept.selRefused
    | with_reducible apply Kept.aggAct
    | with_reducible refine Kept.snd_of_eq (by assumption) ?_
    | split

theorem Goes.execEvSelectEffect {s : State} (h : Kept cmds s) (c : CompNo) :
    Goes cmds (Machine.execEvSelectEffect c s) := by
  unfold Machine.execEvSelectEffect
  try dsimp only
  repeat' first
    | with_reducible apply Goes.ok
    | with_reducible assumption
    | with_reducible apply Kept.modComp

theorem Kept.snapshot {s : State} (h : Kept cmds s) (n : Nat) :
    Kept cmds (State.snapshot s n) := by
  unfold State.snapshot
  try dsimp only
  repeat' first
    | with_reducible assumption
    | with_reducible apply Kept.modTile
    | with_reducible apply Kept.incC
    | with_reducible apply Kept.faultOnce
    | with_reducible apply Kept.unitPost
    | with_reducible apply Kept.unitWrite
    | with_reducible refine Kept.foldl (fun _ _ _ => ?_) _ ?_
    | split

theorem Goes.execSnapReq {s : State} (h : Kept cmds s) (c : CompNo) :
    Goes cmds (Machine.execSnapReq c s) := by
  unfold Machine.execSnapReq
  try dsimp only
  repeat' first
    | with_reducible apply Goes.ok
    | with_reducible assumption
    | with_reducible apply Kept.actOn
    | with_reducible apply Kept.snapshot
    | split

theorem Goes.execSnapNow {s : State} (h : Kept cmds s) (r : Role) (c : CompNo) (v : Bool) :
    Goes cmds (Machine.execSnapNow r c v s) := by
  unfold Machine.execSnapNow
  try dsimp only
  repeat' first
    | with_reducible apply Goes.ok
    | with_reducible assumption
    | with_reducible apply Kept.clearWrite
    | with_reducible apply Kept.snapshot

theorem Kept.phaseClear {s : State} (h : Kept cmds s) (n : Nat) :
    Kept cmds (State.phaseClear s n) := by
  unfold State.phaseClear
  try dsimp only
  repeat' first
    | with_reducible assumption
    | with_reducible apply Kept.modComp

theorem Goes.execPhaseClear {s : State} (h : Kept cmds s) (r : Role) (c : CompNo) (v : Bool) :
    Goes cmds (Machine.execPhaseClear r c v s) := by
  unfold Machine.execPhaseClear
  try dsimp only
  repeat' first
    | with_reducible apply Goes.ok
    | with_reducible assumption
    | with_reducible apply Kept.clearWrite
    | with_reducible apply Kept.phaseClear


/-! Power. -/

theorem Kept.setFactor {s : State} (h : Kept cmds s) (l : Nat) :
    Kept cmds (State.setFactor s l) := by
  unfold State.setFactor
  try dsimp only
  repeat' first
    | with_reducible assumption
    | with_reducible apply Kept.inc
    | with_reducible apply Kept.raiseAll
    | with_reducible apply Kept.recapAll
    | split
    | (with_reducible apply Kept.raw; first | with_reducible assumption | with_reducible apply Kept.inc | with_reducible apply Kept.raiseAll | with_reducible apply Kept.recapAll)

theorem Goes.execInputPowerSample {s : State} (h : Kept cmds s) (watts : BitVec 16) (common : BitVec 16) :
    Goes cmds (Machine.execInputPowerSample watts common s) := by
  unfold Machine.execInputPowerSample
  try dsimp only
  repeat' first
    | with_reducible apply Goes.ok
    | with_reducible assumption
    | with_reducible apply Kept.setObj
    | with_reducible apply Kept.fault
    | with_reducible apply Kept.setFactor
    | split
    | dsimp only
    | (with_reducible apply Kept.raw; first | with_reducible assumption | with_reducible apply Kept.setObj | with_reducible apply Kept.inc | with_reducible apply Kept.fault | with_reducible apply Goes.ok | with_reducible apply Kept.setFactor)

theorem Goes.execPowerLimitEval {s : State} (h : Kept cmds s) :
    Goes cmds (Machine.execPowerLimitEval s) := by
  unfold Machine.execPowerLimitEval
  try dsimp only
  repeat' first
    | with_reducible apply Goes.ok
    | with_reducible assumption
    | with_reducible apply Kept.fault
    | with_reducible apply Kept.setFactor
    | split
    | (with_reducible apply Kept.raw; first | with_reducible assumption | with_reducible apply Kept.fault | with_reducible apply Goes.ok | with_reducible apply Kept.setFactor)

theorem Kept.inputLimitAct {s : State} (h : Kept cmds s) (v : Nat) :
    Kept cmds (State.inputLimitAct s v).2.2 := by
  unfold State.inputLimitAct
  try dsimp only
  repeat' first
    | with_reducible assumption
    | with_reducible apply Kept.setObj
    | with_reducible apply Kept.fault
    | split

theorem Goes.execInputLimitWrite {s : State} (h : Kept cmds s) (r : Role) (v : BitVec 16) :
    Goes cmds (Machine.execInputLimitWrite r v s) := by
  unfold Machine.execInputLimitWrite
  try dsimp only
  repeat' first
    | with_reducible apply Goes.ok
    | with_reducible assumption
    | with_reducible apply Kept.reply
    | with_reducible apply Kept.inputLimitAct
    | split

theorem Kept.allotAct {s : State} (h : Kept cmds s) (n : Nat) (v : Nat) :
    Kept cmds (State.allotAct s n v).2.2 := by
  unfold State.allotAct
  try dsimp only
  repeat' first
    | with_reducible assumption
    | with_reducible apply Kept.setObjC
    | with_reducible apply Kept.fault
    | split

theorem Goes.execAllotWrite {s : State} (h : Kept cmds s) (r : Role) (c : CompNo) (v : BitVec 16) :
    Goes cmds (Machine.execAllotWrite r c v s) := by
  unfold Machine.execAllotWrite
  try dsimp only
  repeat' first
    | with_reducible apply Goes.ok
    | with_reducible assumption
    | with_reducible apply Kept.reply
    | with_reducible apply Kept.allotAct
    | split

theorem Kept.govern {s : State} (h : Kept cmds s) (n : Nat) (mw : Nat) :
    Kept cmds (State.govern s n mw) := by
  unfold State.govern
  try dsimp only
  repeat' first
    | with_reducible assumption
    | with_reducible apply Kept.setObjC
    | with_reducible apply Kept.inc
    | with_reducible apply Kept.incC
    | with_reducible apply Kept.faultOnce
    | with_reducible apply Kept.recap
    | split
    | (with_reducible apply Kept.raw; first | with_reducible assumption | with_reducible apply Kept.modComp | with_reducible apply Kept.setObjC | with_reducible apply Kept.inc | with_reducible apply Kept.incC | with_reducible apply Kept.faultOnce | with_reducible apply Kept.recap)

theorem Goes.execGovernorWindow {s : State} (h : Kept cmds s) :
    Goes cmds (Machine.execGovernorWindow s) := by
  unfold Machine.execGovernorWindow
  try dsimp only
  repeat' first
    | with_reducible apply Goes.ok
    | with_reducible assumption
    | with_reducible apply Kept.tickFresh
    | with_reducible apply Kept.setObj
    | with_reducible apply Kept.govern
    | with_reducible refine Kept.foldl (fun _ _ _ => ?_) _ ?_
    | split
    | (with_reducible apply Kept.raw; first | with_reducible assumption | with_reducible apply Kept.tickFresh | with_reducible apply Kept.setObj | with_reducible apply Goes.ok | with_reducible apply Kept.govern)

theorem Kept.takeSensors {s : State} (h : Kept cmds s) (x : Sensors) :
    Kept cmds (State.takeSensors s x) := by
  unfold State.takeSensors
  try dsimp only
  repeat' first
    | with_reducible assumption
    | with_reducible apply Kept.setDie
    | with_reducible apply Kept.setObj
    | with_reducible apply Kept.fault
    | with_reducible refine Kept.foldl (fun _ _ _ => ?_) _ ?_
    | split
    | (with_reducible apply Kept.raw; first | with_reducible assumption | with_reducible apply Kept.setDie | with_reducible apply Kept.setObj | with_reducible apply Kept.fault)

theorem Kept.setThermal {s : State} (h : Kept cmds s) (l : Nat) :
    Kept cmds (State.setThermal s l) := by
  unfold State.setThermal
  try dsimp only
  repeat' first
    | with_reducible assumption
    | with_reducible apply Kept.inc
    | with_reducible apply Kept.fault
    | with_reducible apply Kept.raiseAll
    | with_reducible apply Kept.recapAll
    | split
    | (with_reducible apply Kept.raw; first | with_reducible assumption | with_reducible apply Kept.setObj | with_reducible apply Kept.inc | with_reducible apply Kept.fault | with_reducible apply Kept.raiseAll | with_reducible apply Kept.recapAll)

theorem Goes.execThermalEval {s : State} (h : Kept cmds s) (x : Sensors) :
    Goes cmds (Machine.execThermalEval x s) := by
  unfold Machine.execThermalEval
  try dsimp only
  repeat' first
    | with_reducible apply Goes.ok
    | with_reducible assumption
    | with_reducible apply Kept.setThermal
    | split
    | (with_reducible apply Kept.raw; first | with_reducible assumption | with_reducible apply Goes.ok | with_reducible apply Kept.takeSensors | with_reducible apply Kept.setThermal)

theorem Goes.execThermalEmergency {s : State} (h : Kept cmds s) (x : Sensors) :
    Goes cmds (Machine.execThermalEmergency x s) := by
  unfold Machine.execThermalEmergency
  try dsimp only
  repeat' first
    | with_reducible apply Goes.ok
    | with_reducible assumption
    | with_reducible apply Kept.takeSensors
    | with_reducible apply Kept.setThermal
    | split

theorem Goes.execThermalFault {s : State} (h : Kept cmds s) (x : Sensors) :
    Goes cmds (Machine.execThermalFault x s) := by
  unfold Machine.execThermalFault
  try dsimp only
  repeat' first
    | with_reducible apply Goes.ok
    | with_reducible assumption
    | with_reducible apply Kept.failModule
    | with_reducible apply Kept.takeSensors
    | split

theorem Goes.execCoolantFlowLow {s : State} (h : Kept cmds s) (x : Sensors) :
    Goes cmds (Machine.execCoolantFlowLow x s) := by
  unfold Machine.execCoolantFlowLow
  try dsimp only
  repeat' first
    | with_reducible apply Goes.ok
    | with_reducible assumption
    | with_reducible apply Kept.takeSensors
    | with_reducible apply Kept.setThermal
    | split
    | (with_reducible apply Kept.raw; first | with_reducible assumption | with_reducible apply Kept.fault | with_reducible apply Goes.ok | with_reducible apply Kept.takeSensors | with_reducible apply Kept.setThermal)

theorem Goes.execCoolantInletRange {s : State} (h : Kept cmds s) (x : Sensors) :
    Goes cmds (Machine.execCoolantInletRange x s) := by
  unfold Machine.execCoolantInletRange
  try dsimp only
  repeat' first
    | with_reducible apply Goes.ok
    | with_reducible assumption
    | with_reducible apply Kept.takeSensors
    | with_reducible apply Kept.setThermal
    | split
    | (with_reducible apply Kept.raw; first | with_reducible assumption | with_reducible apply Kept.fault | with_reducible apply Goes.ok | with_reducible apply Kept.takeSensors | with_reducible apply Kept.setThermal)

theorem Goes.execValveTick {s : State} (h : Kept cmds s) (x : Sensors) :
    Goes cmds (Machine.execValveTick x s) := by
  unfold Machine.execValveTick
  try dsimp only
  repeat' first
    | with_reducible apply Goes.ok
    | with_reducible assumption
    | with_reducible apply Kept.setObj
    | split
    | (with_reducible apply Kept.raw; first | with_reducible assumption | with_reducible apply Kept.setObj | with_reducible apply Goes.ok | with_reducible apply Kept.takeSensors)


/-! Clock. -/

theorem Kept.modPtp {s : State} (h : Kept cmds s) (p : Nat) (f : PtpPort → PtpPort) :
    Kept cmds (State.modPtp s p f) := by
  unfold State.modPtp
  try dsimp only
  repeat' first
    | (with_reducible apply Kept.raw; first | with_reducible assumption)

theorem Kept.ptpIn {s : State} (h : Kept cmds s) (kind : Nat) (x : PtpIn) :
    Kept cmds (State.ptpIn s kind x).2 := by
  unfold State.ptpIn
  try dsimp only
  repeat' first
    | with_reducible assumption
    | with_reducible apply Kept.inc
    | with_reducible apply Kept.faultOnce
    | with_reducible apply Kept.violation
    | split
    | dsimp only
    | (with_reducible apply Kept.raw; first | with_reducible assumption | with_reducible apply Kept.inc | with_reducible apply Kept.faultOnce | with_reducible apply Kept.violation)

theorem Kept.adoptDataset {s : State} (h : Kept cmds s) (d : Dataset) :
    Kept cmds (State.adoptDataset s d) := by
  unfold State.adoptDataset
  try dsimp only
  repeat' first
    | with_reducible assumption
    | with_reducible apply Kept.setObj

theorem Kept.selectSource {s : State} (h : Kept cmds s) :
    Kept cmds (State.selectSource s) := by
  unfold State.selectSource
  try dsimp only
  repeat' first
    | with_reducible assumption
    | with_reducible apply Kept.setObj
    | with_reducible apply Kept.adoptDataset
    | split
    | (with_reducible apply Kept.raw; first | with_reducible assumption | with_reducible apply Kept.setObj | with_reducible apply Kept.fault | with_reducible apply Kept.adoptDataset)

theorem Kept.slew {s : State} (h : Kept cmds s) :
    Kept cmds (State.slew s) := by
  unfold State.slew
  try dsimp only
  repeat' first
    | with_reducible assumption
    | with_reducible apply Kept.tickFresh
    | (with_reducible apply Kept.raw; first | with_reducible assumption | with_reducible apply Kept.tickFresh | with_reducible apply Kept.setObj)

theorem Kept.stepTime {s : State} (h : Kept cmds s) (off : Int) :
    Kept cmds (State.stepTime s off) := by
  unfold State.stepTime
  try dsimp only
  repeat' first
    | (with_reducible apply Kept.raw; first | with_reducible assumption)

theorem Kept.discipline {s : State} (h : Kept cmds s) (off : Int) :
    Kept cmds (State.discipline s off) := by
  unfold State.discipline
  try dsimp only
  repeat' first
    | with_reducible assumption
    | with_reducible apply Kept.setObj
    | with_reducible apply Kept.fault
    | with_reducible apply Kept.slew
    | with_reducible apply Kept.stepTime
    | split
    | (with_reducible apply Kept.raw; first | with_reducible assumption | with_reducible apply Kept.setObj | with_reducible apply Kept.fault | with_reducible apply Kept.slew | with_reducible apply Kept.stepTime)

theorem Kept.measure {s : State} (h : Kept cmds s) (p : Nat) (t1 : Nat) (t2 : Nat) :
    Kept cmds (State.measure s p t1 t2) := by
  unfold State.measure
  try dsimp only
  repeat' first
    | with_reducible assumption
    | with_reducible apply Kept.modPtp
    | with_reducible apply Kept.discipline
    | split

theorem Goes.execPtpSync {s : State} (h : Kept cmds s) (x : PtpIn) :
    Goes cmds (Machine.execPtpSync x s) := by
  unfold Machine.execPtpSync
  try dsimp only
  repeat' first
    | with_reducible apply Goes.ok
    | with_reducible assumption
    | with_reducible apply Kept.modPtp
    | with_reducible apply Kept.ptpIn
    | with_reducible apply Kept.measure
    | with_reducible refine Kept.snd_of_eq (by assumption) ?_
    | split

theorem Goes.execPtpFollowUp {s : State} (h : Kept cmds s) (x : PtpIn) :
    Goes cmds (Machine.execPtpFollowUp x s) := by
  unfold Machine.execPtpFollowUp
  try dsimp only
  repeat' first
    | with_reducible apply Goes.ok
    | with_reducible assumption
    | with_reducible apply Kept.ptpIn
    | with_reducible apply Kept.measure
    | with_reducible refine Kept.snd_of_eq (by assumption) ?_
    | split

theorem Kept.ptpFrame {s : State} (h : Kept cmds s) (p : Nat) (o : Nat) :
    ∀ t', State.ptpFrame s p o = some t' → Kept cmds t' := by
  intro t' e
  unfold State.ptpFrame at e
  try dsimp only at e
  revert e
  repeat' first
    | (intro e; cases e; done)
    | (intro e; injection e with e; subst e)
    | with_reducible assumption
    | with_reducible apply Kept.incC
    | with_reducible apply Kept.setPort
    | with_reducible apply Kept.emitData
    | split

theorem Goes.execPtpDelayReq {s : State} (h : Kept cmds s) (x : PtpIn) :
    Goes cmds (Machine.execPtpDelayReq x s) := by
  unfold Machine.execPtpDelayReq
  try dsimp only
  repeat' first
    | with_reducible apply Goes.ok
    | with_reducible assumption
    | with_reducible apply Kept.ptpIn
    | with_reducible refine Kept.ptpFrame ?_ _ _ _ (by assumption)
    | with_reducible refine Kept.getD (fun _ _ => ?_) ?_
    | with_reducible refine Kept.snd_of_eq (by assumption) ?_
    | split

theorem Kept.takeDelay {s : State} (h : Kept cmds s) (p : Nat) (d : Int) :
    Kept cmds (State.takeDelay s p d) := by
  unfold State.takeDelay
  try dsimp only
  repeat' first
    | with_reducible assumption
    | with_reducible apply Kept.setObjC
    | with_reducible apply Kept.incC
    | with_reducible apply Kept.faultOnce
    | with_reducible apply Kept.modPtp
    | with_reducible apply Kept.selectSource
    | split

theorem Goes.execPtpDelayResp {s : State} (h : Kept cmds s) (x : PtpIn) :
    Goes cmds (Machine.execPtpDelayResp x s) := by
  unfold Machine.execPtpDelayResp
  try dsimp only
  repeat' first
    | with_reducible apply Goes.ok
    | with_reducible assumption
    | with_reducible apply Kept.ptpIn
    | with_reducible apply Kept.takeDelay
    | with_reducible refine Kept.snd_of_eq (by assumption) ?_
    | split

theorem Goes.execPtpAnnounce {s : State} (h : Kept cmds s) (x : PtpIn) :
    Goes cmds (Machine.execPtpAnnounce x s) := by
  unfold Machine.execPtpAnnounce
  try dsimp only
  repeat' first
    | with_reducible apply Goes.ok
    | with_reducible assumption
    | with_reducible apply Kept.modPtp
    | with_reducible apply Kept.ptpIn
    | with_reducible apply Kept.selectSource
    | with_reducible refine Kept.snd_of_eq (by assumption) ?_
    | split

theorem Goes.execPtpSyncSend {s : State} (h : Kept cmds s) (p : PortNo) :
    Goes cmds (Machine.execPtpSyncSend p s) := by
  unfold Machine.execPtpSyncSend
  try dsimp only
  repeat' first
    | with_reducible apply Goes.ok
    | with_reducible assumption
    | with_reducible apply Kept.modPtp
    | with_reducible refine Kept.ptpFrame ?_ _ _ _ (by assumption)
    | split

theorem Goes.execPtpAnnounceSend {s : State} (h : Kept cmds s) (p : PortNo) :
    Goes cmds (Machine.execPtpAnnounceSend p s) := by
  unfold Machine.execPtpAnnounceSend
  try dsimp only
  repeat' first
    | with_reducible apply Goes.ok
    | with_reducible assumption
    | with_reducible apply Kept.modPtp
    | with_reducible refine Kept.ptpFrame ?_ _ _ _ (by assumption)
    | split

theorem Goes.execPtpDelayReqSend {s : State} (h : Kept cmds s) (p : Fin 33) :
    Goes cmds (Machine.execPtpDelayReqSend p s) := by
  unfold Machine.execPtpDelayReqSend
  try dsimp only
  repeat' first
    | with_reducible apply Goes.ok
    | with_reducible assumption
    | with_reducible apply Kept.emit
    | with_reducible apply Kept.modPtp
    | with_reducible refine Kept.ptpFrame ?_ _ _ _ (by assumption)
    | split

theorem Goes.execTimeSourceLost {s : State} (h : Kept cmds s) :
    Goes cmds (Machine.execTimeSourceLost s) := by
  unfold Machine.execTimeSourceLost
  try dsimp only
  repeat' first
    | with_reducible apply Goes.ok
    | with_reducible assumption
    | with_reducible apply Kept.selectSource
    | split

theorem Goes.execTimeHoldoverLimit {s : State} (h : Kept cmds s) :
    Goes cmds (Machine.execTimeHoldoverLimit s) := by
  unfold Machine.execTimeHoldoverLimit
  try dsimp only
  repeat' first
    | with_reducible apply Goes.ok
    | with_reducible assumption
    | with_reducible apply Kept.setObj
    | with_reducible apply Kept.fault
    | split

end Sys2Proof.Machine
end

