-- ==== Sys2Proof/Laws/KeptHost.lean ====
section
/-! SUPPORT. Every operation of Dict, Host, HostCmd, Xiesk keeps the queue and the bounds (Laws/Kept.lean). -/

namespace Sys2Proof.Machine
open Sys2Proof

variable {cmds : List Instr}

/-! Dict. -/

/-- The answer taken off an outcome that goes on. -/
theorem Kept.answerOf {s : State} {o : Host.Outcome State Fault Refusal} (h : Goes cmds o) :
    Kept cmds (Machine.answerOf s o).s := by
  obtain ⟨t, rfl, ht⟩ := h
  unfold Machine.answerOf
  dsimp only
  split
  · exact ⟨ht.queue, ht.sound⟩
  · exact ht

theorem Kept.ofDone {d : Done} (h : Kept cmds d.s) : Kept cmds (Machine.ofDone d).s := h

theorem Kept.refuse {s : State} (h : Kept cmds s) (st : Status) (fault : Nat) :
    Kept cmds (Machine.refuse s st fault).s := by
  unfold Machine.refuse
  try dsimp only
  repeat' first
    | with_reducible assumption

theorem Kept.compCommandAct {s : State} (h : Kept cmds s) (r : Role) (n v : Nat) :
    Kept cmds (s.compCommandAct r n v).s := by
  unfold State.compCommandAct
  split
  · exact h
  · split
    · exact h
    · split
      · exact h.createAct n
      · extract_lets d
        have hd : Kept cmds d.s := h.attestAct n
        split
        · exact hd
        · exact hd
      · exact h.startAct n
      · exact h.holdAct n
      · exact h.resumeAct n
      · split
        · exact h.closeActDone _ _ _ (by assumption)
        · exact Kept.snd_of_eq (by assumption) (h.closeAct n)
      · exact h.closeNowAct n
/-- Every write that is a command of its own keeps the queue and the log. -/
theorem Kept.commandWrites {s : State} (h : Kept cmds s) (r : Role) (i j v size : Nat) (x : DictExt) :
    ∀ p ∈ Machine.commandWrites s r i j v size x, Kept cmds (p.2 ()).s := by
  unfold Machine.commandWrites
  extract_lets c b bs go
  have hg : ∀ f : State → Host.Outcome State Fault Refusal, Goes cmds (f s) → Kept cmds (go f).s :=
    fun f hf => Kept.answerOf hf
  clear_value go
  refine List.forall_mem_append.2 ⟨?_, ?_⟩
  · skip
    refine List.forall_mem_cons.2 ⟨hg _ (Goes.execUnfence h _ _ _), ?_⟩
    refine List.forall_mem_cons.2 ⟨hg _ (Goes.execMxTrapClear h _ _ _), ?_⟩
    refine List.forall_mem_cons.2 ⟨hg _ (Goes.execVxTrapClear h _ _ _), ?_⟩
    refine List.forall_mem_cons.2 ⟨hg _ (Goes.execPrepFaultClear h _ _ _), ?_⟩
    refine List.forall_mem_cons.2 ⟨hg _ (Goes.execNumEventClear h _ _ _), ?_⟩
    refine List.forall_mem_cons.2 ⟨hg _ (Goes.execUpdEventClear h _ _ _), ?_⟩
    refine List.forall_mem_cons.2 ⟨hg _ (Goes.execSegWrite h _ _ _), ?_⟩
    refine List.forall_mem_cons.2 ⟨hg _ (Goes.execSegClear h _ _ _), ?_⟩
    refine List.forall_mem_cons.2 ⟨hg _ (Goes.execDefineWrite h _ _ _), ?_⟩
    refine List.forall_mem_cons.2 ⟨hg _ (Goes.execLendOfferWrite h _ _), ?_⟩
    refine List.forall_mem_cons.2 ⟨hg _ (Goes.execReclaim h _ _), ?_⟩
    refine List.forall_mem_cons.2 ⟨hg _ (Goes.execForceRelease h _), ?_⟩
    refine List.forall_mem_cons.2 ⟨hg _ (Goes.execQuotaWrite h _ _ _ _), ?_⟩
    refine List.forall_mem_cons.2 ⟨hg _ (Goes.execQuotaWrite h _ _ _ _), ?_⟩
    refine List.forall_mem_cons.2 ⟨hg _ (Goes.execQuotaWrite h _ _ _ _), ?_⟩
    refine List.forall_mem_cons.2 ⟨hg _ (Goes.execTierEventClear h _ _ _), ?_⟩
    refine List.forall_mem_cons.2 ⟨hg _ (Goes.execPortRearm h _ _), ?_⟩
    refine List.forall_mem_cons.2 ⟨hg _ (Goes.execNodeMapWrite h _ _ _), ?_⟩
    refine List.forall_mem_cons.2 ⟨hg _ (Goes.execNodeMapClear h _ _ _), ?_⟩
    refine List.forall_mem_cons.2 ⟨h.compCommandAct _ _ _, ?_⟩
    refine List.forall_mem_cons.2 ⟨hg _ (Goes.execContribWrite h _ _ _), ?_⟩
    refine List.forall_mem_cons.2 ⟨hg _ (Goes.execKeyDeliver h _ _ _ _), ?_⟩
    refine List.forall_mem_cons.2 ⟨hg _ (Goes.execReleaseRequest h _ _ _), ?_⟩
    refine List.forall_mem_cons.2 ⟨hg _ (Goes.execReleaseApprove h _ _ _ _), ?_⟩
    refine List.forall_mem_cons.2 ⟨hg _ (Goes.execKrDescWrite h _ _ _ _), ?_⟩
    refine List.forall_mem_cons.2 ⟨hg _ (Goes.execIntegEventClear h _ _ _), ?_⟩
    refine List.forall_mem_cons.2 ⟨hg _ (Goes.execSvnAdvance h _ _), ?_⟩
    refine List.forall_mem_cons.2 ⟨hg _ (Goes.execReportRequest h _ _ _), ?_⟩
    refine List.forall_mem_cons.2 ⟨hg _ (Goes.execModuleReportRequest h _ _), ?_⟩
    refine List.forall_mem_cons.2 ⟨hg _ (Goes.execSetWrite h _ _ _), ?_⟩
    refine List.forall_mem_cons.2 ⟨hg _ (Goes.execRestoreRequest h _ _ _ _), ?_⟩
    refine List.forall_mem_cons.2 ⟨hg _ (Goes.execInputLimitWrite h _ _), ?_⟩
    refine List.forall_mem_cons.2 ⟨hg _ (Goes.execAllotWrite h _ _ _), ?_⟩
    refine List.forall_mem_cons.2 ⟨hg _ (Goes.execTileSelWrite h _ _ _), ?_⟩
    refine List.forall_mem_cons.2 ⟨hg _ (Goes.execAggWrite h _ _ _ _), ?_⟩
    refine List.forall_mem_cons.2 ⟨hg _ (Goes.execSnapNow h _ _ _), ?_⟩
    refine List.forall_mem_cons.2 ⟨hg _ (Goes.execPhaseClear h _ _ _), ?_⟩
    refine List.forall_mem_cons.2 ⟨hg _ (Goes.moduleCommand h _ _), ?_⟩
    refine List.forall_mem_cons.2 ⟨hg _ (Goes.execFwStage h _ _), ?_⟩
    refine List.forall_mem_cons.2 ⟨hg _ (Goes.execFwCommit h _ _ _), ?_⟩
    refine List.forall_mem_cons.2 ⟨hg _ (Goes.execFaultClear h _ _), ?_⟩
    refine List.forall_mem_cons.2 ⟨h.endSession _, ?_⟩
    exact fun _ hp => absurd hp List.not_mem_nil
  · intro p hp
    obtain ⟨k, _, rfl⟩ := List.mem_map.1 hp
    exact hg _ (Goes.execFabricConfigWrite h _ _ _)

theorem Kept.storeObj {s : State} (h : Kept cmds s) (base : Nat) (n : Nat) (key : Nat) (v : Nat) :
    Kept cmds (State.storeObj s base n key v) := by
  unfold State.storeObj
  try dsimp only
  repeat' first
    | with_reducible assumption
    | with_reducible apply Kept.modComp
    | with_reducible apply Kept.modUpd
    | with_reducible apply Kept.setObj
    | split

theorem Kept.writeValue {s : State} (h : Kept cmds s) (r : Role) (row : ObjRow) (key v : Nat) (x : DictExt) :
    Kept cmds (s.writeValue r row key v x).s := by
  unfold State.writeValue
  extract_lets i j
  split
  · exact h
  · split
    · split
      · split
        · exact h.fault _ _ _ _ _ _
        · split
          · exact h.commandWrites _ _ _ _ _ _ _ (List.mem_of_find?_eq_some (by assumption))
          · exact h.storeObj _ _ _ _
      · exact h
    · exact h

theorem Kept.entryRefused {s : State} (h : Kept cmds s) (st : Status) (fault : Nat) (total : Nat) :
    Kept cmds (Machine.entryRefused s st fault total).s := by
  unfold Machine.entryRefused
  try dsimp only
  repeat' first
    | with_reducible assumption

theorem Kept.readEntry {s : State} (h : Kept cmds s) (r : Role) (row : ObjRow) (e : Entry) (space : Nat) :
    Kept cmds (State.readEntry s r row e space).s := by
  unfold State.readEntry
  try dsimp only
  repeat' first
    | with_reducible assumption
    | with_reducible apply Kept.entryRefused
    | split

theorem Kept.writeEntry {s : State} (h : Kept cmds s) (r : Role) (row : ObjRow) (e : Entry) (x : DictExt) :
    Kept cmds (State.writeEntry s r row e x).s := by
  unfold State.writeEntry
  try dsimp only
  repeat' first
    | with_reducible assumption
    | with_reducible apply Kept.writeValue
    | with_reducible apply Kept.entryRefused
    | split

theorem Kept.doEntry {s : State} (h : Kept cmds s) (r : Role) (e : Entry) (x : DictExt) (space : Nat) :
    Kept cmds (State.doEntry s r e x space).s := by
  unfold State.doEntry
  try dsimp only
  repeat' first
    | with_reducible assumption
    | with_reducible apply Kept.faultOnce
    | with_reducible apply Kept.entryRefused
    | with_reducible apply Kept.readEntry
    | with_reducible apply Kept.writeEntry
    | split

theorem Kept.takeToken {s : State} (h : Kept cmds s) :
    Kept cmds (State.takeToken s).2 := by
  unfold State.takeToken
  try dsimp only
  repeat' first
    | with_reducible assumption
    | split
    | dsimp only
    | (with_reducible apply Kept.raw; first | with_reducible assumption)

theorem Kept.rateLimited {s : State} (h : Kept cmds s) :
    Kept cmds (State.rateLimited s).s := by
  unfold State.rateLimited
  try dsimp only
  repeat' first
    | with_reducible assumption
    | with_reducible apply Kept.inc
    | with_reducible apply Kept.faultOnce
    | with_reducible apply Kept.entryRefused

theorem Kept.doEntries (r : Role) (limited full : Bool) (room : Nat) (k : Nat) : ∀ {s : State} (bs : List Byte)
    (xs : List DictExt) (m : MsgOut), Kept cmds m.s → Kept cmds (s.doEntries r limited full room k bs xs m).s := by
  induction k with
  | zero => intro s bs xs m hm; exact hm
  | succ k ih =>
    intro s bs xs m hm
    unfold State.doEntries
    split
    split
    extract_lets space full_ o1 o part holds used
    refine ih _ _ _ ?_
    have h0 : Kept cmds ‹State› := by
      refine Kept.snd_of_eq (by assumption) ?_
      split
      · exact hm
      · split
        · exact hm.takeToken
        · exact hm
    have h1 : Kept cmds o1.s := by
      simp only [o1]
      split
      · exact h0.doEntry _ _ _ _
      · exact h0.rateLimited
    show Kept cmds o.s
    simp only [o]
    split
    · exact h1.entryRefused _ _ _
    · exact h1

theorem Kept.doMessage {s : State} (h : Kept cmds s) (r : Role) (limited full : Bool) (room : Nat) (bs : List Byte)
    (xs : List DictExt) : Kept cmds (s.doMessage r limited full room bs xs).s := by
  unfold State.doMessage
  split
  · exact h.faultOnce _ _ _ _
  · exact Kept.doEntries _ _ _ _ _ _ _ _ h

theorem Kept.entryCommand {s : State} (h : Kept cmds s) (r : Role) (e : Entry) (x : DictExt) :
    Kept cmds (State.entryCommand s r e x) := by
  unfold State.entryCommand
  try dsimp only
  repeat' first
    | with_reducible assumption
    | with_reducible apply Kept.emit
    | with_reducible apply Kept.doEntry
    | split

theorem Goes.execDictRead {s : State} (h : Kept cmds s) (r : Role) (index : BitVec 16) (sub : Byte) (offset : W32) (len : W32) :
    Goes cmds (Machine.execDictRead r index sub offset len s) := by
  unfold Machine.execDictRead
  try dsimp only
  repeat' first
    | with_reducible apply Goes.ok
    | with_reducible assumption
    | with_reducible apply Kept.entryCommand

theorem Goes.execDictWrite {s : State} (h : Kept cmds s) (r : Role) (index : BitVec 16) (sub : Byte) (type : Byte) (value : List Byte) (x : DictExt) :
    Goes cmds (Machine.execDictWrite r index sub type value x s) := by
  unfold Machine.execDictWrite
  try dsimp only
  repeat' first
    | with_reducible apply Goes.ok
    | with_reducible assumption
    | with_reducible apply Kept.entryCommand

theorem Goes.execDictDescribe {s : State} (h : Kept cmds s) (r : Role) (index : BitVec 16) (sub : Byte) :
    Goes cmds (Machine.execDictDescribe r index sub s) := by
  unfold Machine.execDictDescribe
  try dsimp only
  repeat' first
    | with_reducible apply Goes.ok
    | with_reducible assumption
    | with_reducible apply Kept.entryCommand


/-! Host. -/

theorem Kept.setPair {s : State} (h : Kept cmds s) (f : Nat) (q : Nat) (x : Pair) :
    Kept cmds (State.setPair s f q x) := by
  unfold State.setPair
  try dsimp only
  repeat' first
    | with_reducible assumption
    | with_reducible apply Kept.modFunc

theorem Kept.raiseFunc {s : State} (h : Kept cmds s) (f : Nat) (b : Nat) :
    Kept cmds (State.raiseFunc s f b) := by
  unfold State.raiseFunc
  try dsimp only
  repeat' first
    | with_reducible assumption
    | with_reducible apply Kept.raiseOn
    | with_reducible apply Kept.raise
    | split

theorem Kept.hostViolation {s : State} (h : Kept cmds s) (f : Nat) (at_ : Option Nat) (code : Nat) :
    Kept cmds (State.hostViolation s f at_ code) := by
  unfold State.hostViolation
  try dsimp only
  repeat' first
    | with_reducible assumption
    | with_reducible apply Kept.setFunc
    | with_reducible apply Kept.inc
    | with_reducible apply Kept.incC
    | with_reducible apply Kept.fault
    | with_reducible apply Kept.faultOnce
    | with_reducible apply Kept.setPair
    | with_reducible apply Kept.raiseFunc
    | split

theorem Kept.putCqe {s : State} (h : Kept cmds s) (f : Nat) (q : Nat) (w : Nat) :
    Kept cmds (State.putCqe s f q w) := by
  unfold State.putCqe
  try dsimp only
  repeat' first
    | with_reducible assumption
    | with_reducible apply Kept.emit
    | with_reducible apply Kept.vector
    | with_reducible apply Kept.setPair
    | split

theorem Kept.complete {s : State} (h : Kept cmds s) (f : Nat) (q : Nat) (st : Status) (fault : Nat) (value : Nat) :
    Kept cmds (State.complete s f q st fault value) := by
  unfold State.complete
  try dsimp only
  repeat' first
    | with_reducible assumption
    | with_reducible apply Kept.incC
    | with_reducible apply Kept.setPair
    | with_reducible apply Kept.putCqe
    | split

theorem Kept.drainBad {s : State} (h : Kept cmds s) (f q k : Nat) : Kept cmds (s.drainBad f q k) := by
  induction k generalizing s with
  | zero => exact h
  | succ k ih =>
    unfold State.drainBad
    split
    · split
      · exact h
      · exact ih (h.complete _ _ _ _ _)
    · exact h

theorem Kept.finish {s : State} (h : Kept cmds s) (f : Nat) (q : Nat) (st : Status) (fault : Nat) (value : Nat) :
    Kept cmds (State.finish s f q st fault value) := by
  unfold State.finish
  try dsimp only
  repeat' first
    | with_reducible assumption
    | with_reducible apply Kept.complete
    | with_reducible apply Kept.drainBad

theorem Kept.takeEntry {s : State} (h : Kept cmds s) (f : Nat) (q : Nat) (e : Option (BitVec 512)) :
    Kept cmds (State.takeEntry s f q e) := by
  unfold State.takeEntry
  try dsimp only
  repeat' first
    | with_reducible assumption
    | with_reducible apply Kept.setPair
    | with_reducible apply Kept.hostViolation
    | split

theorem Kept.takeEntries {s : State} (h : Kept cmds s) (f q : Nat) (es : List (Option (BitVec 512))) :
    Kept cmds (s.takeEntries f q es) := by
  induction es generalizing s with
  | nil => exact h
  | cons e r ih =>
    unfold State.takeEntries
    extract_lets x
    split
    · exact h
    · exact ih (h.takeEntry _ _ _)

theorem Kept.takeNow {s : State} (h : Kept cmds s) (f : Nat) (q : Nat) (es : List (Option (BitVec 512))) :
    Kept cmds (State.takeNow s f q es) := by
  unfold State.takeNow
  try dsimp only
  repeat' first
    | with_reducible assumption
    | with_reducible apply Kept.drainBad
    | with_reducible apply Kept.takeEntries

theorem Goes.execSqTail {s : State} (h : Kept cmds s) (f : FuncNo) (q : PairNo) (v : W32) (entries : List (Option (BitVec 512))) :
    Goes cmds (Machine.execSqTail f q v entries s) := by
  unfold Machine.execSqTail
  try dsimp only
  repeat' first
    | with_reducible apply Goes.ok
    | with_reducible assumption
    | with_reducible apply Kept.setPair
    | with_reducible apply Kept.hostViolation
    | with_reducible apply Kept.takeNow
    | split

theorem Goes.execCqHead {s : State} (h : Kept cmds s) (f : FuncNo) (q : PairNo) (v : W32) (entries : List (Option (BitVec 512))) :
    Goes cmds (Machine.execCqHead f q v entries s) := by
  unfold Machine.execCqHead
  try dsimp only
  repeat' first
    | with_reducible apply Goes.ok
    | with_reducible assumption
    | with_reducible apply Kept.setPair
    | with_reducible apply Kept.hostViolation
    | with_reducible apply Kept.takeNow
    | split

theorem Kept.disablePair {s : State} (h : Kept cmds s) (f : Nat) (q : Nat) :
    Kept cmds (State.disablePair s f q) := by
  unfold State.disablePair
  try dsimp only
  repeat' first
    | with_reducible assumption
    | with_reducible apply Kept.incC
    | with_reducible apply Kept.setPair
    | split

theorem Goes.execQueueEnable {s : State} (h : Kept cmds s) (f : FuncNo) (q : PairNo) (v : Byte) :
    Goes cmds (Machine.execQueueEnable f q v s) := by
  unfold Machine.execQueueEnable
  try dsimp only
  repeat' first
    | with_reducible apply Goes.ok
    | with_reducible assumption
    | with_reducible apply Kept.setPair
    | with_reducible apply Kept.hostViolation
    | with_reducible apply Kept.disablePair
    | split

theorem Goes.execQueueRegisterWrite {s : State} (h : Kept cmds s) (f : FuncNo) (q : PairNo) (reg : Fin 4) (v : W64) :
    Goes cmds (Machine.execQueueRegisterWrite f q reg v s) := by
  unfold Machine.execQueueRegisterWrite
  try dsimp only
  repeat' first
    | with_reducible apply Goes.ok
    | with_reducible assumption
    | with_reducible apply Kept.setPair
    | with_reducible apply Kept.hostViolation
    | split

theorem Goes.execCauseWrite {s : State} (h : Kept cmds s) (f : FuncNo) (reg : Fin 3) (v : W64) :
    Goes cmds (Machine.execCauseWrite f reg v s) := by
  unfold Machine.execCauseWrite
  try dsimp only
  repeat' first
    | with_reducible apply Goes.ok
    | with_reducible assumption
    | with_reducible apply Kept.modFunc
    | with_reducible apply Kept.hostViolation
    | split

theorem Goes.execHostBarViolation {s : State} (h : Kept cmds s) (f : FuncNo) (at_ : Option (Fin 17)) :
    Goes cmds (Machine.execHostBarViolation f at_ s) := by
  unfold Machine.execHostBarViolation
  try dsimp only
  repeat' first
    | with_reducible apply Goes.ok
    | with_reducible assumption
    | with_reducible apply Kept.hostViolation
    | split

theorem Goes.execMbDoorbell {s : State} (h : Kept cmds s) (f : FuncNo) (regs : MbRegs) (v : W32) (req : HostRead) (ext : List DictExt) :
    Goes cmds (Machine.execMbDoorbell f regs v req ext s) := by
  unfold Machine.execMbDoorbell
  try dsimp only
  repeat' first
    | with_reducible apply Goes.ok
    | with_reducible assumption
    | with_reducible apply Kept.modComp
    | with_reducible apply Kept.setFunc
    | with_reducible apply Kept.modFunc
    | with_reducible apply Kept.mailboxReply
    | with_reducible apply Kept.doMessage
    | with_reducible apply Kept.hostViolation
    | with_reducible refine Kept.foldl (fun _ _ _ => ?_) _ ?_
    | split

theorem Goes.execMbQuarantineEnd {s : State} (h : Kept cmds s) (f : FuncNo) :
    Goes cmds (Machine.execMbQuarantineEnd f s) := by
  unfold Machine.execMbQuarantineEnd
  try dsimp only
  repeat' first
    | with_reducible apply Goes.ok
    | with_reducible assumption
    | with_reducible apply Kept.setFunc
    | split

theorem Goes.execHostLinkDown {s : State} (h : Kept cmds s) :
    Goes cmds (Machine.execHostLinkDown s) := by
  unfold Machine.execHostLinkDown
  try dsimp only
  repeat' first
    | with_reducible apply Goes.ok
    | with_reducible assumption
    | with_reducible apply Kept.setObj
    | with_reducible apply Kept.inc
    | with_reducible refine Kept.foldl (fun _ _ _ => ?_) _ ?_
    | split
    | (with_reducible apply Kept.raw; first | with_reducible assumption | with_reducible apply Kept.setObj | with_reducible apply Kept.inc | with_reducible apply Kept.fault | with_reducible apply Goes.ok)

theorem Kept.deliverFunc {s : State} (h : Kept cmds s) (f : Nat) :
    Kept cmds (State.deliverFunc s f) := by
  unfold State.deliverFunc
  try dsimp only
  repeat' first
    | with_reducible assumption
    | with_reducible apply Kept.setFunc
    | with_reducible apply Kept.emit
    | with_reducible apply Kept.mailboxReply
    | with_reducible apply Kept.setPair
    | with_reducible apply Kept.putCqe
    | with_reducible refine Kept.foldl (fun _ _ _ => ?_) _ ?_
    | split

theorem Goes.execHostLinkUp {s : State} (h : Kept cmds s) (width : Fin 9) (gts : Byte) (vfs : Fin 9) :
    Goes cmds (Machine.execHostLinkUp width gts vfs s) := by
  unfold Machine.execHostLinkUp
  try dsimp only
  repeat' first
    | with_reducible apply Goes.ok
    | with_reducible assumption
    | with_reducible apply Kept.setObj
    | with_reducible apply Kept.fault
    | with_reducible apply Kept.deliverFunc
    | with_reducible refine Kept.foldl (fun _ _ _ => ?_) _ ?_
    | split
    | (with_reducible apply Kept.raw; first | with_reducible assumption | with_reducible apply Kept.setObj | with_reducible apply Kept.fault | with_reducible apply Goes.ok | with_reducible apply Kept.deliverFunc)

theorem Kept.resetFunc {s : State} (h : Kept cmds s) (f : Nat) :
    Kept cmds (State.resetFunc s f) := by
  unfold State.resetFunc
  try dsimp only
  repeat' first
    | with_reducible assumption
    | with_reducible apply Kept.modComp
    | with_reducible apply Kept.setFunc
    | with_reducible apply Kept.disablePair
    | with_reducible refine Kept.foldl (fun _ _ _ => ?_) _ ?_
    | split

theorem Kept.resetEndpoint {s : State} (h : Kept cmds s) :
    Kept cmds (State.resetEndpoint s) := by
  unfold State.resetEndpoint
  try dsimp only
  repeat' first
    | with_reducible assumption
    | with_reducible apply Kept.setObj
    | with_reducible apply Kept.resetFunc
    | with_reducible refine Kept.foldl (fun _ _ _ => ?_) _ ?_

theorem Goes.execHostFlr {s : State} (h : Kept cmds s) (f : FuncNo) :
    Goes cmds (Machine.execHostFlr f s) := by
  unfold Machine.execHostFlr
  try dsimp only
  repeat' first
    | with_reducible apply Goes.ok
    | with_reducible assumption
    | with_reducible apply Kept.fault
    | with_reducible apply Kept.tdiError
    | with_reducible apply Kept.resetFunc
    | with_reducible apply Kept.resetEndpoint
    | with_reducible refine Kept.foldl (fun _ _ _ => ?_) _ ?_
    | split

theorem Goes.execEndpointReset {s : State} (h : Kept cmds s) (perst : Bool) :
    Goes cmds (Machine.execEndpointReset perst s) := by
  unfold Machine.execEndpointReset
  try dsimp only
  repeat' first
    | with_reducible apply Goes.ok
    | with_reducible assumption
    | with_reducible apply Kept.setObj
    | with_reducible apply Kept.tdiError
    | with_reducible apply Kept.resetEndpoint
    | with_reducible refine Kept.foldl (fun _ _ _ => ?_) _ ?_
    | split
    | (with_reducible apply Kept.raw; first | with_reducible assumption | with_reducible apply Kept.setObj | with_reducible apply Kept.fault | with_reducible apply Goes.ok | with_reducible apply Kept.tdiError | with_reducible apply Kept.resetEndpoint)


/-! HostCmd. -/

theorem Kept.hostRefuse {s : State} (h : Kept cmds s) (f : Nat) (q : Nat) (st : Status) (code : Nat) :
    Kept cmds (State.hostRefuse s f q st code) := by
  unfold State.hostRefuse
  try dsimp only
  repeat' first
    | with_reducible assumption
    | with_reducible apply Kept.incC
    | with_reducible apply Kept.faultOnce
    | with_reducible apply Kept.hostViolation
    | with_reducible apply Kept.finish
    | split

/-- How a command ends, with the queue and the log kept. -/
def Ends.Kept (cmds : List Instr) : Ends → Prop
  | .done _ _ _ s => Machine.Kept cmds s
  | .waits s => Machine.Kept cmds s

theorem Kept.hostRun {s : State} (h : Kept cmds s) (f q op : Nat) (moves data : Bool) (shape : State → Nat → Nat → Bool)
    (states : CState → Bool) (act : Taken → State → Ends) (ha : ∀ t, (act t s).Kept cmds) :
    Kept cmds (s.hostRun f q op moves data shape states act) := by
  unfold State.hostRun
  split
  · exact h
  · rename_i t _
    split
    · exact h
    · split
      · exact h.hostRefuse _ _ _ _
      · have := ha t
        split
        · rename_i e; rw [e] at this; exact Kept.finish this _ _ _ _ _
        · rename_i e; rw [e] at this; exact this

theorem Kept.withData {s : State} (h : Kept cmds s) (f q e : Nat) (d : HostRead) (act : List Byte → Ends)
    (ha : ∀ bs, (act bs).Kept cmds) : (s.withData f q e d act).Kept cmds := by
  unfold State.withData
  split
  · exact h.hostViolation _ _ _
  · exact ha _

theorem Goes.execNop {s : State} (h : Kept cmds s) (f : FuncNo) (q : PairNo) : Goes cmds (Machine.execNop f q s) :=
  Goes.ok (h.hostRun _ _ _ _ _ _ _ _ fun _ => h)

theorem Kept.loaded {s : State} (h : Kept cmds s) (n e : Nat) (bs : List Byte) : (s.loaded n e bs).Kept cmds :=
  h.modComp _ _

theorem Kept.loadRun {s : State} (h : Kept cmds s) (f q k : Nat) (d : HostRead) (act : Nat → Nat → List Byte → State → Ends)
    (ha : ∀ n e bs, (act n e bs s).Kept cmds) : Kept cmds (s.loadRun f q k d act) := by
  unfold State.loadRun
  split
  · split
    · exact h
    · exact h.hostRun _ _ _ _ _ _ _ _ fun t => h.withData _ _ _ _ _ fun bs => ha _ _ _
  · exact h

theorem Goes.execLoadProgram {s : State} (h : Kept cmds s) (f : FuncNo) (q : PairNo) (d : HostRead) :
    Goes cmds (Machine.execLoadProgram f q d s) :=
  Goes.ok (h.loadRun _ _ _ _ _ fun _ _ _ => (h.modTile _ _).loaded _ _ _)

theorem Kept.hostStore {s : State} (h : Kept cmds s) (n : Nat) (src : AccSrc) (ag : Agent) (a : Nat) (bs : List Byte) :
    Kept cmds (State.hostStore s n src ag a bs).2.2 := by
  unfold State.hostStore
  try dsimp only
  repeat' first
    | with_reducible assumption
    | with_reducible apply Kept.modComp
    | with_reducible apply Kept.spanAccess
    | with_reducible apply Kept.lostAccess
    | with_reducible apply Kept.unitWrite
    | with_reducible refine Kept.foldl_snd2 (fun _ _ _ => ?_) _ ?_
    | with_reducible refine Kept.snd_of_eq (by assumption) ?_
    | split

theorem Kept.storeRefused {s t : State} (h : Kept cmds s) (ht : Kept cmds t) (n a code : Nat) :
    Kept cmds (s.storeRefused t n a code) := by
  unfold State.storeRefused
  split
  · exact h.quotaBlocked _ _ _
  · split
    · exact ht
    · exact h

theorem Goes.execLoadSpan {s : State} (h : Kept cmds s) (f : FuncNo) (q : PairNo) (d : HostRead) :
    Goes cmds (Machine.execLoadSpan f q d s) := by
  unfold Machine.execLoadSpan
  refine Goes.ok (h.loadRun _ _ _ _ _ fun n e bs => ?_)
  extract_lets a
  split
  · exact h.hostViolation _ _ _
  · split
    · exact h
    · split
      · exact h
      · split
        · exact (Kept.snd2_of_eq (by assumption) (h.hostStore _ _ _ _ _)).loaded _ _ _
        · exact h.storeRefused (Kept.snd2_of_eq (by assumption) (h.hostStore _ _ _ _ _)) _ _ _

theorem Goes.execLoadMapTable {s : State} (h : Kept cmds s) (f : FuncNo) (q : PairNo) (d : HostRead) :
    Goes cmds (Machine.execLoadMapTable f q d s) := by
  unfold Machine.execLoadMapTable
  refine Goes.ok (h.loadRun _ _ _ _ _ fun n e bs => ?_)
  split
  · exact (h.loadMaps _ _).loaded _ _ _
  · exact h

theorem Goes.execLoadPhasePlan {s : State} (h : Kept cmds s) (f : FuncNo) (q : PairNo) (d : HostRead) :
    Goes cmds (Machine.execLoadPhasePlan f q d s) := by
  unfold Machine.execLoadPhasePlan
  refine Goes.ok (h.loadRun _ _ _ _ _ fun n e bs => ?_)
  split
  · exact (h.loadPlan _ _).loaded _ _ _
  · exact h

theorem Kept.storeTable {s : State} (h : Kept cmds s) (n e a : Nat) (bs : List Byte) (mark : Upd → Upd) :
    (s.storeTable n e a bs mark).Kept cmds := by
  unfold State.storeTable
  split
  · exact ((Kept.snd2_of_eq (by assumption) (h.hostStore _ _ _ _ _)).modUpd _ _).loaded _ _ _
  · exact h.storeRefused (Kept.snd2_of_eq (by assumption) (h.hostStore _ _ _ _ _)) _ _ _

theorem Goes.execLoadScaleTable {s : State} (h : Kept cmds s) (f : FuncNo) (q : PairNo) (d : HostRead) :
    Goes cmds (Machine.execLoadScaleTable f q d s) := by
  unfold Machine.execLoadScaleTable
  refine Goes.ok (h.loadRun _ _ _ _ _ fun n e bs => ?_)
  split
  · exact h.storeTable _ _ _ _ _
  · exact h.fault _ _ _ _ _ _

theorem Goes.execLoadLayerTable {s : State} (h : Kept cmds s) (f : FuncNo) (q : PairNo) (d : HostRead) :
    Goes cmds (Machine.execLoadLayerTable f q d s) := by
  unfold Machine.execLoadLayerTable
  refine Goes.ok (h.loadRun _ _ _ _ _ fun n e bs => ?_)
  extract_lets base count
  split
  · exact h.storeTable _ _ _ _ _
  · exact h.updEvent _ _ _ _ _ _

theorem Kept.importRefused {s : State} (h : Kept cmds s) (n r page : Nat) (st : Status) :
    (s.importRefused n r page st).Kept cmds := by
  unfold State.importRefused
  exact (h.integEvent _ _ _ _ _).incC _ _ _

theorem Kept.importAct {s : State} (h : Kept cmds s) (n : Nat) (b : List Byte) (opened : Option (List Byte)) :
    (s.importAct n b opened).Kept cmds := by
  unfold State.importAct
  extract_lets slot seq a p key r home
  repeat' first
    | exact h.importRefused _ _ _ _
    | split
  · exact ((Kept.snd2_of_eq (by assumption) (h.hostStore _ _ _ _ _)).setObj _ _).incC _ _ _
  · exact h.storeRefused (Kept.snd2_of_eq (by assumption) (h.hostStore _ _ _ _ _)) _ _ _

theorem Goes.execImportBlock {s : State} (h : Kept cmds s) (f : FuncNo) (q : PairNo) (d : HostRead)
    (opened : Option (List Byte)) : Goes cmds (Machine.execImportBlock f q d opened s) :=
  Goes.ok (h.hostRun _ _ _ _ _ _ _ _ fun _ => h.withData _ _ _ _ _ fun _ => h.importAct _ _ _)

theorem Kept.markPosted {s : State} (h : Kept cmds s) (f : Nat) (q : Nat) :
    Kept cmds (State.markPosted s f q) := by
  unfold State.markPosted
  try dsimp only
  repeat' first
    | with_reducible assumption
    | with_reducible apply Kept.setPair
    | split

theorem Kept.spanWriteAct {s : State} (h : Kept cmds s) (f q : Nat) (t : Taken) (d : HostRead) (remote : Option SpanReply) :
    (s.spanWriteAct f q t d remote).Kept cmds := by
  unfold State.spanWriteAct
  extract_lets n a len away ending settle
  have hs : ∀ s' code, Kept cmds s' → (settle s' code).Kept cmds := by
    intro s' code h'
    simp only [settle]
    split
    · split
      · split
        · exact h'.lostAccess _ _ _
        · exact h'
      · exact h'
    · split
      · exact h'
      · exact h'
  split
  · exact hs _ _ h
  · refine h.withData _ _ _ _ _ fun bs => ?_
    split
    · exact hs _ _ ((Kept.snd2_of_eq (by assumption) (h.hostStore _ _ _ _ _)).markPosted _ _)
    · exact Kept.snd2_of_eq (by assumption) (h.hostStore _ _ _ _ _)

theorem Goes.execSpanWrite {s : State} (h : Kept cmds s) (f : FuncNo) (q : PairNo) (d : HostRead)
    (remote : Option SpanReply) : Goes cmds (Machine.execSpanWrite f q d remote s) :=
  Goes.ok (h.hostRun _ _ _ _ _ _ _ _ fun _ => h.spanWriteAct _ _ _ _ _)

theorem Kept.line {r : PageRead} (h : Kept cmds r.s) (n p : Nat) (bad : Option (Fin 1024 × Integ)) (l : Nat) :
    Kept cmds (r.line n p bad l).s := by
  unfold PageRead.line
  extract_lets it live
  split
  · exact Kept.snd_of_eq (by assumption) (h.spanAccess _ _ _ _ _ _ _)
  · split
    · exact Kept.snd_of_eq (by assumption) (h.spanAccess _ _ _ _ _ _ _)
    · exact Kept.snd_of_eq (by assumption) (h.spanAccess _ _ _ _ _ _ _)
  · exact Kept.snd_of_eq (by assumption) (h.spanAccess _ _ _ _ _ _ _)

theorem Kept.readPage {s : State} (h : Kept cmds s) (n p : Nat) (bad : Option (Fin 1024 × Integ)) :
    Kept cmds (s.readPage n p bad).s := by
  have : ∀ (l : List Nat) (r : PageRead), Kept cmds r.s →
      Kept cmds (l.foldl (fun r l => if r.unver = 0 then r.line n p bad l else r) r).s := by
    intro l
    induction l with
    | nil => intro r hr; exact hr
    | cons a l ih =>
      intro r hr
      refine ih _ ?_
      dsimp only
      split
      · exact hr.line _ _ _ _
      · exact hr
  exact this (List.range 1024) ⟨s, [], 0, 0, 0⟩ h

theorem Goes.execExportPage {s : State} (h : Kept cmds s) (f : FuncNo) (q : PairNo) (bad : Option (Fin 1024 × Integ)) :
    Goes cmds (Machine.execExportPage f q bad s) := by
  unfold Machine.execExportPage
  refine Goes.ok (h.hostRun _ _ _ _ _ _ _ _ fun t => ?_)
  extract_lets n p r s1 sealed
  have hr : Kept cmds r.s := h.readPage _ _ _
  clear_value r
  split
  · exact h
  · split
    · exact hr
    · exact hr.tickFresh.tickFresh.emit _

theorem Goes.execReadReleased {s : State} (h : Kept cmds s) (f : FuncNo) (q : PairNo) (bad : Option (Fin 1024 × Integ)) :
    Goes cmds (Machine.execReadReleased f q bad s) := by
  unfold Machine.execReadReleased
  refine Goes.ok (h.hostRun _ _ _ _ _ _ _ _ fun t => ?_)
  extract_lets n p r
  have hr : Kept cmds r.s := h.readPage _ _ _
  clear_value r
  split
  · exact (h.incC _ _ _).faultOnce _ _ _ _
  · split
    · exact h.hostViolation _ _ _
    · split
      · exact hr
      · split
        · exact hr
        · exact hr.emit _

theorem Kept.hostPegAct {s : State} (h : Kept cmds s) (n : Nat) (op : PegOp) (e : Nat) : (s.hostPegAct n op e).Kept cmds := by
  unfold State.hostPegAct
  extract_lets hd
  split
  · exact h.badHandle _
  · split
    · exact Kept.snd_of_eq (by assumption) ((h.compEvent _ _ _).pegPerform _ _ _ _)
    · exact Kept.snd_of_eq (by assumption) ((h.compEvent _ _ _).pegPerform _ _ _ _)
    · exact (Kept.snd_of_eq (by assumption) ((h.compEvent _ _ _).pegPerform _ _ _ _)).compEvent _ _ _

theorem Goes.execHostPegPost {s : State} (h : Kept cmds s) (f : FuncNo) (q : PairNo) :
    Goes cmds (Machine.execHostPegPost f q s) :=
  Goes.ok (h.hostRun _ _ _ _ _ _ _ _ fun _ => h.hostPegAct _ _ _)

theorem Goes.execHostPegTry {s : State} (h : Kept cmds s) (f : FuncNo) (q : PairNo) :
    Goes cmds (Machine.execHostPegTry f q s) :=
  Goes.ok (h.hostRun _ _ _ _ _ _ _ _ fun _ => h.hostPegAct _ _ _)

theorem Goes.execHostPegRead {s : State} (h : Kept cmds s) (f : FuncNo) (q : PairNo) :
    Goes cmds (Machine.execHostPegRead f q s) :=
  Goes.ok (h.hostRun _ _ _ _ _ _ _ _ fun _ => h.hostPegAct _ _ _)

theorem Goes.execMboxRead {s : State} (h : Kept cmds s) (f : FuncNo) (q : PairNo) :
    Goes cmds (Machine.execMboxRead f q s) := by
  unfold Machine.execMboxRead
  refine Goes.ok (h.hostRun _ _ _ _ _ _ _ _ fun t => ?_)
  extract_lets n k m send m1
  split
  · exact ((h.setMBox _ _ _).incC _ _ _).emit _
  · exact ((h.incC _ _ _).faultOnce _ _ _ _).emit _

theorem Goes.execMboxAck {s : State} (h : Kept cmds s) (f : FuncNo) (q : PairNo) :
    Goes cmds (Machine.execMboxAck f q s) := by
  unfold Machine.execMboxAck
  refine Goes.ok (h.hostRun _ _ _ _ _ _ _ _ fun t => ?_)
  extract_lets n k m
  split
  · exact h.setMBox _ _ _
  · exact (h.incC _ _ _).hostViolation _ _ _

theorem Kept.pubPost {s : State} (h : Kept cmds s) (n : Nat) (e : Nat) :
    Kept cmds (State.pubPost s n e) := by
  unfold State.pubPost
  try dsimp only
  repeat' first
    | with_reducible assumption
    | with_reducible apply Kept.unitPost
    | split

theorem Kept.pubFail {s : State} (h : Kept cmds s) (n : Nat) (e : Nat) :
    Kept cmds (State.pubFail s n e) := by
  unfold State.pubFail
  try dsimp only
  repeat' first
    | with_reducible assumption
    | with_reducible apply Kept.faultOnce
    | with_reducible apply Kept.pubPost

theorem Kept.pubTake {s : State} (h : Kept cmds s) (n : Nat) (ring : Option SpanReply) :
    Kept cmds (State.pubTake s n ring) := by
  unfold State.pubTake
  try dsimp only
  repeat' first
    | with_reducible assumption
    | with_reducible apply Kept.modComp
    | with_reducible apply Kept.unitPost
    | with_reducible apply Kept.unitFetch
    | with_reducible apply Kept.pubFail
    | with_reducible refine Kept.snd_of_eq (by assumption) ?_
    | split

theorem Kept.pubWrite {s : State} (h : Kept cmds s) (n : Nat) (k : Nat) (src : Option SpanReply) :
    Kept cmds (State.pubWrite s n k src) := by
  unfold State.pubWrite
  try dsimp only
  repeat' first
    | with_reducible assumption
    | with_reducible apply Kept.modComp
    | with_reducible apply Kept.setMBox
    | with_reducible apply Kept.incC
    | with_reducible apply Kept.spanRead
    | with_reducible apply Kept.vector
    | with_reducible apply Kept.pubPost
    | with_reducible apply Kept.pubFail
    | with_reducible refine Kept.snd2_of_eq (by assumption) ?_
    | split

theorem Goes.execPublishEntry {s : State} (h : Kept cmds s) (c : CompNo) (k : Nat) (ring : Option SpanReply) (src : Option SpanReply) :
    Goes cmds (Machine.execPublishEntry c k ring src s) := by
  unfold Machine.execPublishEntry
  try dsimp only
  repeat' first
    | with_reducible apply Goes.ok
    | with_reducible assumption
    | with_reducible apply Kept.pubTake
    | with_reducible apply Kept.pubWrite
    | split


/-! Xiesk. -/

theorem Kept.setSource {s : State} (h : Kept cmds s) (src : Nat) (x : Source) :
    Kept cmds (State.setSource s src x) := by
  unfold State.setSource
  try dsimp only
  repeat' first
    | (with_reducible apply Kept.raw; first | with_reducible assumption)

theorem Kept.sourceFault {s : State} (h : Kept cmds s) (src : Nat) (code : Nat) (subject : Nat) :
    Kept cmds (State.sourceFault s src code subject) := by
  unfold State.sourceFault
  try dsimp only
  repeat' first
    | with_reducible assumption
    | with_reducible apply Kept.inc
    | with_reducible apply Kept.fault
    | with_reducible apply Kept.faultOnce
    | with_reducible apply Kept.setSource
    | split

theorem Kept.refuseWith {s : State} (h : Kept cmds s) (src : Nat) (ident : Nat) (st : Status) :
    Kept cmds (State.refuseWith s src ident st) := by
  unfold State.refuseWith
  try dsimp only
  repeat' first
    | with_reducible assumption
    | with_reducible apply Kept.emit

theorem Goes.execSourceIgnoreEnd {s : State} (h : Kept cmds s) (src : BitVec 128) :
    Goes cmds (Machine.execSourceIgnoreEnd src s) := by
  unfold Machine.execSourceIgnoreEnd
  try dsimp only
  repeat' first
    | with_reducible apply Goes.ok
    | with_reducible assumption
    | with_reducible apply Kept.setSource
    | split

theorem Kept.setHands {s : State} (h : Kept cmds s) (hs : List Handshake) :
    Kept cmds (State.setHands s hs) := by
  unfold State.setHands
  try dsimp only
  repeat' first
    | (with_reducible apply Kept.raw; first | with_reducible assumption)

theorem Goes.execXieskInit {s : State} (h : Kept cmds s) (m : InitSeg) :
    Goes cmds (Machine.execXieskInit m s) := by
  unfold Machine.execXieskInit
  try dsimp only
  repeat' first
    | with_reducible apply Goes.ok
    | with_reducible assumption
    | with_reducible apply Kept.acceptWaiting
    | with_reducible apply Kept.sourceFault
    | with_reducible apply Kept.refuseWith
    | split
    | (with_reducible apply Kept.raw; first | with_reducible assumption | with_reducible apply Goes.ok | with_reducible apply Kept.acceptWaiting | with_reducible apply Kept.rateLimited | with_reducible apply Kept.sourceFault | with_reducible apply Kept.refuseWith)

theorem Goes.execXieskConfirm {s : State} (h : Kept cmds s) (m : ConfirmSeg) :
    Goes cmds (Machine.execXieskConfirm m s) := by
  unfold Machine.execXieskConfirm
  try dsimp only
  repeat' first
    | with_reducible apply Goes.ok
    | with_reducible assumption
    | with_reducible apply Kept.emit
    | with_reducible apply Kept.setSess
    | with_reducible apply Kept.sourceFault
    | with_reducible apply Kept.refuseWith
    | with_reducible apply Kept.setHands
    | split

theorem Goes.execHandshakeTimeout {s : State} (h : Kept cmds s) (ident : W32) :
    Goes cmds (Machine.execHandshakeTimeout ident s) := by
  unfold Machine.execHandshakeTimeout
  try dsimp only
  repeat' first
    | with_reducible apply Goes.ok
    | with_reducible assumption
    | with_reducible apply Kept.setHands

theorem Kept.authDrop {s : State} (h : Kept cmds s) (k : Nat) (src : Nat) :
    Kept cmds (State.authDrop s k src) := by
  unfold State.authDrop
  try dsimp only
  repeat' first
    | with_reducible assumption
    | with_reducible apply Kept.fault
    | with_reducible apply Kept.setSess
    | with_reducible apply Kept.endSession
    | with_reducible apply Kept.sourceFault
    | split

theorem Kept.sessionMessage {s : State} (h : Kept cmds s) (k : Nat) (x : Sess) (b : List Byte) (ext : List DictExt) :
    Kept cmds (s.sessionMessage k x b ext) := by
  unfold State.sessionMessage
  extract_lets m s1 now_ reply bye s2 s3
  have h1 : Kept cmds s1 := Kept.foldl (fun _ _ ha => ha.modComp _ _) _ (h.doMessage _ _ _ _ _ _)
  split
  · exact h1
  · split
    · exact h1.sessionSend _ _ _
    · split
      · exact h1
      · have h2 : Kept cmds s2 := ⟨h1.queue, h1.sound⟩
        exact (h2.emits _).emit _

theorem Goes.execXieskData {s : State} (h : Kept cmds s) (m : DataSeg) (ext : List DictExt) :
    Goes cmds (Machine.execXieskData m ext s) := by
  unfold Machine.execXieskData
  try dsimp only
  repeat' first
    | with_reducible apply Goes.ok
    | with_reducible assumption
    | with_reducible apply Kept.setSess
    | with_reducible apply Kept.sourceFault
    | with_reducible apply Kept.authDrop
    | with_reducible apply Kept.sessionMessage
    | split

theorem Goes.execXieskClose {s : State} (h : Kept cmds s) (src : BitVec 128) (ident : W32) (sound : Bool) (tagOk : Bool) :
    Goes cmds (Machine.execXieskClose src ident sound tagOk s) := by
  unfold Machine.execXieskClose
  try dsimp only
  repeat' first
    | with_reducible apply Goes.ok
    | with_reducible assumption
    | with_reducible apply Kept.endSession
    | with_reducible apply Kept.sourceFault
    | with_reducible apply Kept.authDrop
    | split

theorem Goes.execPartialMessageTimeout {s : State} (h : Kept cmds s) (slot : Fin 8) (counter : W64) :
    Goes cmds (Machine.execPartialMessageTimeout slot counter s) := by
  unfold Machine.execPartialMessageTimeout
  try dsimp only
  repeat' first
    | with_reducible apply Goes.ok
    | with_reducible assumption
    | with_reducible apply Kept.setSess
    | split

theorem Goes.execSessionIdleTimeout {s : State} (h : Kept cmds s) (slot : Fin 8) :
    Goes cmds (Machine.execSessionIdleTimeout slot s) := by
  unfold Machine.execSessionIdleTimeout
  try dsimp only
  repeat' first
    | with_reducible apply Goes.ok
    | with_reducible assumption
    | with_reducible apply Kept.endSession
    | split

theorem Goes.execSessionLifetime {s : State} (h : Kept cmds s) (slot : Fin 8) :
    Goes cmds (Machine.execSessionLifetime slot s) := by
  unfold Machine.execSessionLifetime
  try dsimp only
  repeat' first
    | with_reducible apply Goes.ok
    | with_reducible assumption
    | with_reducible apply Kept.endSession
    | split

theorem Goes.execSessClose {s : State} (h : Kept cmds s) (r : Role) (slot : Byte) :
    Goes cmds (Machine.execSessClose r slot s) := by
  unfold Machine.execSessClose
  try dsimp only
  repeat' first
    | with_reducible apply Goes.ok
    | with_reducible assumption
    | with_reducible apply Kept.reply
    | with_reducible apply Kept.endSession
    | split

theorem Kept.limitViolation {s : State} (h : Kept cmds s) (p : Nat) :
    Kept cmds (State.limitViolation s p) := by
  unfold State.limitViolation
  try dsimp only
  repeat' first
    | with_reducible assumption
    | with_reducible apply Kept.modPort
    | with_reducible apply Kept.isolate
    | with_reducible apply Kept.violation
    | split

theorem Kept.roReply {s : State} (h : Kept cmds s) (node : Nat) (tag : Nat) (o : Nat) (code : Nat) (type : Nat) (total : Nat) (data : List Byte) :
    Kept cmds (State.roReply s node tag o code type total data) := by
  unfold State.roReply
  try dsimp only
  repeat' first
    | with_reducible assumption
    | (with_reducible apply Kept.raw; first | with_reducible assumption | with_reducible apply Kept.inc)

theorem Goes.execDictRoRequest {s : State} (h : Kept cmds s) (p : PortNo) (node : BitVec 16) (tag : W32) (op : BitVec 256) :
    Goes cmds (Machine.execDictRoRequest p node tag op s) := by
  unfold Machine.execDictRoRequest
  try dsimp only
  repeat' first
    | with_reducible apply Goes.ok
    | with_reducible assumption
    | with_reducible apply Kept.faultOnce
    | with_reducible apply Kept.limitViolation
    | with_reducible apply Kept.roReply
    | split
    | (with_reducible apply Kept.raw; first | with_reducible assumption | with_reducible apply Kept.faultOnce | with_reducible apply Goes.ok | with_reducible apply Kept.rateLimited | with_reducible apply Kept.limitViolation | with_reducible apply Kept.roReply)

end Sys2Proof.Machine
end

