-- ==== Sys2Proof/Laws/Shared.lean ====
section
/-! SUPPORT. What each shared operation can do, said once: a frame lemma per operation, and from it one lemma per field it leaves
alone. -/

namespace Sys2Proof.Machine
open Sys2Proof

/-! The last of two writes to one place stands. -/

section Puts
variable {α : Type}

theorem kerase_of_absent (m : List (Nat × α)) (k : Nat) (h : ∀ p ∈ m, p.1 ≠ k) : kerase m k = m := by
  induction m with
  | nil => rfl
  | cons p r ih =>
    obtain ⟨a, v⟩ := p
    have ha : a ≠ k := h (a, v) (by simp)
    simp [kerase, ha, ih fun q hq => h q (List.mem_cons_of_mem _ hq)]

theorem kerase_kins (m : List (Nat × α)) (k : Nat) (x : α) (h : ∀ p ∈ m, p.1 ≠ k) : kerase (kins m k x) k = m := by
  induction m with
  | nil => simp [kins, kerase]
  | cons p r ih =>
    obtain ⟨a, v⟩ := p
    have ha : a ≠ k := h (a, v) (by simp)
    have hr : ∀ q ∈ r, q.1 ≠ k := fun q hq => h q (List.mem_cons_of_mem _ hq)
    simp only [kins]
    split
    · simp [kerase, ha, kerase_of_absent r k hr]
    · simp [kerase, ha, ih hr]

@[simp] theorem kput_kput [DecidableEq α] (d : α) (m : List (Nat × α)) (k : Nat) (x y : α) :
    kput d (kput d m k x) k y = kput d m k y := by
  have h : kerase (kput d m k x) k = kerase m k := by
    unfold kput
    split
    · exact kerase_of_absent _ _ (kerase_keys m k)
    · exact kerase_kins _ _ _ (kerase_keys m k)
  rw [kput, h]; rfl
end Puts

@[simp] theorem State.setTile_setTile (s : State) (k : Nat) (x y : Tile) : (s.setTile k x).setTile k y = s.setTile k y := by
  simp [State.setTile]
@[simp] theorem State.setThread_setThread (s : State) (k : Nat) (x y : Thread) :
    (s.setThread k x).setThread k y = s.setThread k y := by simp [State.setThread]
@[simp] theorem State.setComp_setComp (s : State) (k : Nat) (x y : Comp) : (s.setComp k x).setComp k y = s.setComp k y := by
  simp [State.setComp]
@[simp] theorem State.setFunc_setFunc (s : State) (k : Nat) (x y : Func) : (s.setFunc k x).setFunc k y = s.setFunc k y := by
  simp [State.setFunc]
@[simp] theorem State.setObj_setObj (s : State) (k x y : Nat) : (s.setObj k x).setObj k y = s.setObj k y := by
  simp [State.setObj]

/-! Folds. -/

/-- What every turn of a fold leaves alone, the fold leaves alone. -/
theorem foldl_same {σ α β : Type} (p : σ → β) (f : σ → α → σ) (h : ∀ a x, p (f a x) = p a) (l : List α) :
    ∀ a, p (l.foldl f a) = p a := by
  induction l with
  | nil => intro a; rfl
  | cons x l ih => intro a; rw [List.foldl_cons, ih, h]

/-! Objects. -/

@[simp] theorem State.inc_self (s : State) (k v : Nat) : (s.inc k v).obj k = s.obj k + v := by simp [State.inc]
theorem State.inc_other (s : State) (k j v : Nat) (h : j ≠ k) : (s.inc k v).obj j = s.obj j := by
  simp [State.inc, h]

/-! Counted events (R481, R482): only the counters of tiles and the aggregate counters change. -/

theorem State.aggCount_eq (s : State) (n j k : Nat) : ∃ v, s.aggCount n j k = s.setObj (aggKey n j) v := by
  unfold State.aggCount
  dsimp only
  split <;> exact ⟨_, rfl⟩

theorem State.aggCounts_frame (n k : Nat) (l : List Nat) : ∀ s : State,
    ∃ os, l.foldl (fun a j => a.aggCount n j k) s = { s with objs := os } ∧
      ∀ d key, (∀ m j, key ≠ aggKey m j) → kget d os key = kget d s.objs key := by
  induction l with
  | nil => intro s; exact ⟨s.objs, rfl, fun _ _ _ => rfl⟩
  | cons x l ih =>
    intro s
    obtain ⟨v, hv⟩ := s.aggCount_eq n x k
    obtain ⟨os, h1, h2⟩ := ih (s.setObj (aggKey n x) v)
    refine ⟨os, by rw [List.foldl_cons, hv, h1]; rfl, fun d key hk => ?_⟩
    rw [h2 d key hk]
    exact kget_kput_ne _ _ _ _ _ _ (hk n x)

theorem Tile.counts_frame (k : Nat) (l : List Nat) : ∀ y : Tile,
    ∃ es, l.foldl (fun a i => a.count i k) y = { y with events := es } := by
  induction l with
  | nil => intro y; exact ⟨y.events, rfl⟩
  | cons x l ih =>
    intro y
    obtain ⟨es, h⟩ := ih (y.count x k)
    exact ⟨es, by rw [List.foldl_cons, h]; rfl⟩

/-- A tile event changes only event counters. -/
theorem State.tileEvent_frame (s : State) (t code k : Nat) :
    ∃ ts os, s.tileEvent t code k = { s with tiles := ts, objs := os } ∧
      (∀ j, ∃ es, kget Tile.init ts j = { s.tile j with events := es }) ∧
      ∀ d key, (∀ m j, key ≠ aggKey m j) → kget d os key = kget d s.objs key := by
  unfold State.tileEvent
  split
  · exact ⟨s.tiles, s.objs, rfl, fun j => ⟨(s.tile j).events, rfl⟩, fun _ _ _ => rfl⟩
  · split
    · exact ⟨s.tiles, s.objs, rfl, fun j => ⟨(s.tile j).events, rfl⟩, fun _ _ _ => rfl⟩
    · rename_i n _ _
      dsimp only
      split
      · obtain ⟨os, h1, h2⟩ := State.aggCounts_frame n k (s.aggsFor n code (some (blockOf t))) s
        exact ⟨s.tiles, os, h1, fun j => ⟨(s.tile j).events, rfl⟩, h2⟩
      · obtain ⟨es, he⟩ := Tile.counts_frame k ((List.range 8).filter fun i => s.tileSel n i = code &&
          decide ((s.comp n).selFrom = 0)) (s.tile t)
        rw [State.modTile_eq, he]
        obtain ⟨os, h1, h2⟩ := State.aggCounts_frame n k ((s.setTile t { s.tile t with events := es }).aggsFor n code
          (some (blockOf t))) (s.setTile t { s.tile t with events := es })
        refine ⟨_, os, h1, fun j => ?_, h2⟩
        by_cases hj : j = t
        · subst hj; exact ⟨es, kget_kput_self _ _ _ _⟩
        · exact ⟨(s.tile j).events, kget_kput_other _ _ _ _ _ hj⟩

/-- A compartment event changes only aggregate counters. -/
theorem State.compEvent_frame (s : State) (n code k : Nat) :
    ∃ os, s.compEvent n code k = { s with objs := os } ∧
      ∀ d key, (∀ m j, key ≠ aggKey m j) → kget d os key = kget d s.objs key := by
  unfold State.compEvent
  split
  · exact ⟨s.objs, rfl, fun _ _ _ => rfl⟩
  · exact State.aggCounts_frame n k _ s

/-- A fault changes only the fault log and the count of overwritten entries (R552). -/
theorem State.fault_frame (s : State) (code comp subject cause d0 d1 : Nat) :
    ∃ g os, s.fault code comp subject cause d0 d1 = { s with log := g, objs := os } ∧
      ∀ d key, key ≠ Obj.faultOverwritten → kget d os key = kget d s.objs key := by
  unfold State.fault State.logEntry
  dsimp only
  split
  · exact ⟨_, _, rfl, fun d key hk => kget_kput_ne _ _ _ _ _ _ hk⟩
  · exact ⟨_, _, rfl, fun _ _ _ => rfl⟩

/-- A cause raised changes only the functions and what is sent (R508). -/
theorem State.raiseOn_frame (s : State) (f b : Nat) : ∃ fs os, s.raiseOn f b = { s with funcs := fs, out := os } := by
  unfold State.raiseOn
  dsimp only
  split
  · exact ⟨s.funcs, s.out, rfl⟩
  · split
    · split <;> exact ⟨_, _, rfl⟩
    · exact ⟨_, _, rfl⟩

theorem State.raise_frame (s : State) (b n : Nat) : ∃ fs os, s.raise b n = { s with funcs := fs, out := os } := by
  obtain ⟨f1, o1, h1⟩ := s.raiseOn_frame 0 b
  obtain ⟨f2, o2, h2⟩ := (s.raiseOn 0 b).raiseOn_frame (n + 1) b
  exact ⟨f2, o2, by rw [State.raise, h2, h1]⟩

/-! The fields each of these leaves alone. -/

@[simp] theorem State.tileEvent_pending (s : State) (t code k : Nat) : (s.tileEvent t code k).pending = s.pending := by
  obtain ⟨_, _, h, -⟩ := s.tileEvent_frame t code k; rw [h]
@[simp] theorem State.tileEvent_out (s : State) (t code k : Nat) : (s.tileEvent t code k).out = s.out := by
  obtain ⟨_, _, h, -⟩ := s.tileEvent_frame t code k; rw [h]
@[simp] theorem State.tileEvent_fresh (s : State) (t code k : Nat) : (s.tileEvent t code k).fresh = s.fresh := by
  obtain ⟨_, _, h, -⟩ := s.tileEvent_frame t code k; rw [h]
@[simp] theorem State.tileEvent_time (s : State) (t code k : Nat) : (s.tileEvent t code k).time = s.time := by
  obtain ⟨_, _, h, -⟩ := s.tileEvent_frame t code k; rw [h]
@[simp] theorem State.tileEvent_mode (s : State) (t code k : Nat) : (s.tileEvent t code k).mode = s.mode := by
  obtain ⟨_, _, h, -⟩ := s.tileEvent_frame t code k; rw [h]
@[simp] theorem State.tileEvent_modeAt (s : State) (t code k : Nat) : (s.tileEvent t code k).modeAt = s.modeAt := by
  obtain ⟨_, _, h, -⟩ := s.tileEvent_frame t code k; rw [h]
@[simp] theorem State.tileEvent_startPending (s : State) (t code k : Nat) : (s.tileEvent t code k).startPending = s.startPending := by
  obtain ⟨_, _, h, -⟩ := s.tileEvent_frame t code k; rw [h]
@[simp] theorem State.tileEvent_going (s : State) (t code k : Nat) : (s.tileEvent t code k).going = s.going := by
  obtain ⟨_, _, h, -⟩ := s.tileEvent_frame t code k; rw [h]
@[simp] theorem State.tileEvent_goingAt (s : State) (t code k : Nat) : (s.tileEvent t code k).goingAt = s.goingAt := by
  obtain ⟨_, _, h, -⟩ := s.tileEvent_frame t code k; rw [h]
@[simp] theorem State.tileEvent_cleanEnd (s : State) (t code k : Nat) : (s.tileEvent t code k).cleanEnd = s.cleanEnd := by
  obtain ⟨_, _, h, -⟩ := s.tileEvent_frame t code k; rw [h]
@[simp] theorem State.tileEvent_windowAt (s : State) (t code k : Nat) : (s.tileEvent t code k).windowAt = s.windowAt := by
  obtain ⟨_, _, h, -⟩ := s.tileEvent_frame t code k; rw [h]
@[simp] theorem State.tileEvent_pins (s : State) (t code k : Nat) : (s.tileEvent t code k).pins = s.pins := by
  obtain ⟨_, _, h, -⟩ := s.tileEvent_frame t code k; rw [h]
@[simp] theorem State.tileEvent_stored (s : State) (t code k : Nat) : (s.tileEvent t code k).stored = s.stored := by
  obtain ⟨_, _, h, -⟩ := s.tileEvent_frame t code k; rw [h]
@[simp] theorem State.tileEvent_log (s : State) (t code k : Nat) : (s.tileEvent t code k).log = s.log := by
  obtain ⟨_, _, h, -⟩ := s.tileEvent_frame t code k; rw [h]
@[simp] theorem State.tileEvent_fwStage (s : State) (t code k : Nat) : (s.tileEvent t code k).fwStage = s.fwStage := by
  obtain ⟨_, _, h, -⟩ := s.tileEvent_frame t code k; rw [h]
@[simp] theorem State.tileEvent_dies (s : State) (t code k : Nat) : (s.tileEvent t code k).dies = s.dies := by
  obtain ⟨_, _, h, -⟩ := s.tileEvent_frame t code k; rw [h]
@[simp] theorem State.tileEvent_cores (s : State) (t code k : Nat) : (s.tileEvent t code k).cores = s.cores := by
  obtain ⟨_, _, h, -⟩ := s.tileEvent_frame t code k; rw [h]
@[simp] theorem State.tileEvent_threads (s : State) (t code k : Nat) : (s.tileEvent t code k).threads = s.threads := by
  obtain ⟨_, _, h, -⟩ := s.tileEvent_frame t code k; rw [h]
@[simp] theorem State.tileEvent_seams (s : State) (t code k : Nat) : (s.tileEvent t code k).seams = s.seams := by
  obtain ⟨_, _, h, -⟩ := s.tileEvent_frame t code k; rw [h]
@[simp] theorem State.tileEvent_pegs (s : State) (t code k : Nat) : (s.tileEvent t code k).pegs = s.pegs := by
  obtain ⟨_, _, h, -⟩ := s.tileEvent_frame t code k; rw [h]
@[simp] theorem State.tileEvent_comps (s : State) (t code k : Nat) : (s.tileEvent t code k).comps = s.comps := by
  obtain ⟨_, _, h, -⟩ := s.tileEvent_frame t code k; rw [h]
@[simp] theorem State.tileEvent_ports (s : State) (t code k : Nat) : (s.tileEvent t code k).ports = s.ports := by
  obtain ⟨_, _, h, -⟩ := s.tileEvent_frame t code k; rw [h]
@[simp] theorem State.tileEvent_egress (s : State) (t code k : Nat) : (s.tileEvent t code k).egress = s.egress := by
  obtain ⟨_, _, h, -⟩ := s.tileEvent_frame t code k; rw [h]
@[simp] theorem State.tileEvent_leasesOut (s : State) (t code k : Nat) : (s.tileEvent t code k).leasesOut = s.leasesOut := by
  obtain ⟨_, _, h, -⟩ := s.tileEvent_frame t code k; rw [h]
@[simp] theorem State.tileEvent_funcs (s : State) (t code k : Nat) : (s.tileEvent t code k).funcs = s.funcs := by
  obtain ⟨_, _, h, -⟩ := s.tileEvent_frame t code k; rw [h]
@[simp] theorem State.tileEvent_mboxes (s : State) (t code k : Nat) : (s.tileEvent t code k).mboxes = s.mboxes := by
  obtain ⟨_, _, h, -⟩ := s.tileEvent_frame t code k; rw [h]
@[simp] theorem State.tileEvent_hostLink (s : State) (t code k : Nat) : (s.tileEvent t code k).hostLink = s.hostLink := by
  obtain ⟨_, _, h, -⟩ := s.tileEvent_frame t code k; rw [h]
@[simp] theorem State.tileEvent_rot (s : State) (t code k : Nat) : (s.tileEvent t code k).rot = s.rot := by
  obtain ⟨_, _, h, -⟩ := s.tileEvent_frame t code k; rw [h]
@[simp] theorem State.tileEvent_xiesk (s : State) (t code k : Nat) : (s.tileEvent t code k).xiesk = s.xiesk := by
  obtain ⟨_, _, h, -⟩ := s.tileEvent_frame t code k; rw [h]
@[simp] theorem State.tileEvent_power (s : State) (t code k : Nat) : (s.tileEvent t code k).power = s.power := by
  obtain ⟨_, _, h, -⟩ := s.tileEvent_frame t code k; rw [h]
@[simp] theorem State.tileEvent_clock (s : State) (t code k : Nat) : (s.tileEvent t code k).clock = s.clock := by
  obtain ⟨_, _, h, -⟩ := s.tileEvent_frame t code k; rw [h]
@[simp] theorem State.tileEvent_flashOld (s : State) (t code k : Nat) : (s.tileEvent t code k).flashOld = s.flashOld := by
  obtain ⟨_, _, h, -⟩ := s.tileEvent_frame t code k; rw [h]
@[simp] theorem State.tileEvent_boot (s : State) (t code k : Nat) : (s.tileEvent t code k).boot = s.boot := by
  obtain ⟨_, _, h, -⟩ := s.tileEvent_frame t code k; rw [h]
@[simp] theorem State.tileEvent_get_core (s : State) (t code k : Nat) (i₁ : Nat) : (s.tileEvent t code k).core i₁ = s.core i₁ := by
  obtain ⟨_, _, h, -⟩ := s.tileEvent_frame t code k; rw [h]; rfl
@[simp] theorem State.tileEvent_get_thread (s : State) (t code k : Nat) (i₁ : Nat) : (s.tileEvent t code k).thread i₁ = s.thread i₁ := by
  obtain ⟨_, _, h, -⟩ := s.tileEvent_frame t code k; rw [h]; rfl
@[simp] theorem State.tileEvent_get_peg (s : State) (t code k : Nat) (i₁ : Nat) : (s.tileEvent t code k).peg i₁ = s.peg i₁ := by
  obtain ⟨_, _, h, -⟩ := s.tileEvent_frame t code k; rw [h]; rfl
@[simp] theorem State.tileEvent_get_comp (s : State) (t code k : Nat) (i₁ : Nat) : (s.tileEvent t code k).comp i₁ = s.comp i₁ := by
  obtain ⟨_, _, h, -⟩ := s.tileEvent_frame t code k; rw [h]; rfl
@[simp] theorem State.tileEvent_get_func (s : State) (t code k : Nat) (i₁ : Nat) : (s.tileEvent t code k).func i₁ = s.func i₁ := by
  obtain ⟨_, _, h, -⟩ := s.tileEvent_frame t code k; rw [h]; rfl
@[simp] theorem State.tileEvent_get_port (s : State) (t code k : Nat) (i₁ : Nat) : (s.tileEvent t code k).port i₁ = s.port i₁ := by
  obtain ⟨_, _, h, -⟩ := s.tileEvent_frame t code k; rw [h]; rfl
@[simp] theorem State.tileEvent_get_now (s : State) (t code k : Nat) : (s.tileEvent t code k).now = s.now := by
  obtain ⟨_, _, h, -⟩ := s.tileEvent_frame t code k; rw [h]; rfl
@[simp] theorem State.tileEvent_get_stamp (s : State) (t code k : Nat) : (s.tileEvent t code k).stamp = s.stamp := by
  obtain ⟨_, _, h, -⟩ := s.tileEvent_frame t code k; rw [h]; rfl
@[simp] theorem State.compEvent_pending (s : State) (n code k : Nat) : (s.compEvent n code k).pending = s.pending := by
  obtain ⟨_, h, -⟩ := s.compEvent_frame n code k; rw [h]
@[simp] theorem State.compEvent_out (s : State) (n code k : Nat) : (s.compEvent n code k).out = s.out := by
  obtain ⟨_, h, -⟩ := s.compEvent_frame n code k; rw [h]
@[simp] theorem State.compEvent_fresh (s : State) (n code k : Nat) : (s.compEvent n code k).fresh = s.fresh := by
  obtain ⟨_, h, -⟩ := s.compEvent_frame n code k; rw [h]
@[simp] theorem State.compEvent_time (s : State) (n code k : Nat) : (s.compEvent n code k).time = s.time := by
  obtain ⟨_, h, -⟩ := s.compEvent_frame n code k; rw [h]
@[simp] theorem State.compEvent_mode (s : State) (n code k : Nat) : (s.compEvent n code k).mode = s.mode := by
  obtain ⟨_, h, -⟩ := s.compEvent_frame n code k; rw [h]
@[simp] theorem State.compEvent_modeAt (s : State) (n code k : Nat) : (s.compEvent n code k).modeAt = s.modeAt := by
  obtain ⟨_, h, -⟩ := s.compEvent_frame n code k; rw [h]
@[simp] theorem State.compEvent_startPending (s : State) (n code k : Nat) : (s.compEvent n code k).startPending = s.startPending := by
  obtain ⟨_, h, -⟩ := s.compEvent_frame n code k; rw [h]
@[simp] theorem State.compEvent_going (s : State) (n code k : Nat) : (s.compEvent n code k).going = s.going := by
  obtain ⟨_, h, -⟩ := s.compEvent_frame n code k; rw [h]
@[simp] theorem State.compEvent_goingAt (s : State) (n code k : Nat) : (s.compEvent n code k).goingAt = s.goingAt := by
  obtain ⟨_, h, -⟩ := s.compEvent_frame n code k; rw [h]
@[simp] theorem State.compEvent_cleanEnd (s : State) (n code k : Nat) : (s.compEvent n code k).cleanEnd = s.cleanEnd := by
  obtain ⟨_, h, -⟩ := s.compEvent_frame n code k; rw [h]
@[simp] theorem State.compEvent_windowAt (s : State) (n code k : Nat) : (s.compEvent n code k).windowAt = s.windowAt := by
  obtain ⟨_, h, -⟩ := s.compEvent_frame n code k; rw [h]
@[simp] theorem State.compEvent_pins (s : State) (n code k : Nat) : (s.compEvent n code k).pins = s.pins := by
  obtain ⟨_, h, -⟩ := s.compEvent_frame n code k; rw [h]
@[simp] theorem State.compEvent_stored (s : State) (n code k : Nat) : (s.compEvent n code k).stored = s.stored := by
  obtain ⟨_, h, -⟩ := s.compEvent_frame n code k; rw [h]
@[simp] theorem State.compEvent_log (s : State) (n code k : Nat) : (s.compEvent n code k).log = s.log := by
  obtain ⟨_, h, -⟩ := s.compEvent_frame n code k; rw [h]
@[simp] theorem State.compEvent_fwStage (s : State) (n code k : Nat) : (s.compEvent n code k).fwStage = s.fwStage := by
  obtain ⟨_, h, -⟩ := s.compEvent_frame n code k; rw [h]
@[simp] theorem State.compEvent_dies (s : State) (n code k : Nat) : (s.compEvent n code k).dies = s.dies := by
  obtain ⟨_, h, -⟩ := s.compEvent_frame n code k; rw [h]
@[simp] theorem State.compEvent_tiles (s : State) (n code k : Nat) : (s.compEvent n code k).tiles = s.tiles := by
  obtain ⟨_, h, -⟩ := s.compEvent_frame n code k; rw [h]
@[simp] theorem State.compEvent_cores (s : State) (n code k : Nat) : (s.compEvent n code k).cores = s.cores := by
  obtain ⟨_, h, -⟩ := s.compEvent_frame n code k; rw [h]
@[simp] theorem State.compEvent_threads (s : State) (n code k : Nat) : (s.compEvent n code k).threads = s.threads := by
  obtain ⟨_, h, -⟩ := s.compEvent_frame n code k; rw [h]
@[simp] theorem State.compEvent_seams (s : State) (n code k : Nat) : (s.compEvent n code k).seams = s.seams := by
  obtain ⟨_, h, -⟩ := s.compEvent_frame n code k; rw [h]
@[simp] theorem State.compEvent_pegs (s : State) (n code k : Nat) : (s.compEvent n code k).pegs = s.pegs := by
  obtain ⟨_, h, -⟩ := s.compEvent_frame n code k; rw [h]
@[simp] theorem State.compEvent_comps (s : State) (n code k : Nat) : (s.compEvent n code k).comps = s.comps := by
  obtain ⟨_, h, -⟩ := s.compEvent_frame n code k; rw [h]
@[simp] theorem State.compEvent_ports (s : State) (n code k : Nat) : (s.compEvent n code k).ports = s.ports := by
  obtain ⟨_, h, -⟩ := s.compEvent_frame n code k; rw [h]
@[simp] theorem State.compEvent_egress (s : State) (n code k : Nat) : (s.compEvent n code k).egress = s.egress := by
  obtain ⟨_, h, -⟩ := s.compEvent_frame n code k; rw [h]
@[simp] theorem State.compEvent_leasesOut (s : State) (n code k : Nat) : (s.compEvent n code k).leasesOut = s.leasesOut := by
  obtain ⟨_, h, -⟩ := s.compEvent_frame n code k; rw [h]
@[simp] theorem State.compEvent_funcs (s : State) (n code k : Nat) : (s.compEvent n code k).funcs = s.funcs := by
  obtain ⟨_, h, -⟩ := s.compEvent_frame n code k; rw [h]
@[simp] theorem State.compEvent_mboxes (s : State) (n code k : Nat) : (s.compEvent n code k).mboxes = s.mboxes := by
  obtain ⟨_, h, -⟩ := s.compEvent_frame n code k; rw [h]
@[simp] theorem State.compEvent_hostLink (s : State) (n code k : Nat) : (s.compEvent n code k).hostLink = s.hostLink := by
  obtain ⟨_, h, -⟩ := s.compEvent_frame n code k; rw [h]
@[simp] theorem State.compEvent_rot (s : State) (n code k : Nat) : (s.compEvent n code k).rot = s.rot := by
  obtain ⟨_, h, -⟩ := s.compEvent_frame n code k; rw [h]
@[simp] theorem State.compEvent_xiesk (s : State) (n code k : Nat) : (s.compEvent n code k).xiesk = s.xiesk := by
  obtain ⟨_, h, -⟩ := s.compEvent_frame n code k; rw [h]
@[simp] theorem State.compEvent_power (s : State) (n code k : Nat) : (s.compEvent n code k).power = s.power := by
  obtain ⟨_, h, -⟩ := s.compEvent_frame n code k; rw [h]
@[simp] theorem State.compEvent_clock (s : State) (n code k : Nat) : (s.compEvent n code k).clock = s.clock := by
  obtain ⟨_, h, -⟩ := s.compEvent_frame n code k; rw [h]
@[simp] theorem State.compEvent_flashOld (s : State) (n code k : Nat) : (s.compEvent n code k).flashOld = s.flashOld := by
  obtain ⟨_, h, -⟩ := s.compEvent_frame n code k; rw [h]
@[simp] theorem State.compEvent_boot (s : State) (n code k : Nat) : (s.compEvent n code k).boot = s.boot := by
  obtain ⟨_, h, -⟩ := s.compEvent_frame n code k; rw [h]
@[simp] theorem State.compEvent_get_tile (s : State) (n code k : Nat) (i₁ : Nat) : (s.compEvent n code k).tile i₁ = s.tile i₁ := by
  obtain ⟨_, h, -⟩ := s.compEvent_frame n code k; rw [h]; rfl
@[simp] theorem State.compEvent_get_core (s : State) (n code k : Nat) (i₁ : Nat) : (s.compEvent n code k).core i₁ = s.core i₁ := by
  obtain ⟨_, h, -⟩ := s.compEvent_frame n code k; rw [h]; rfl
@[simp] theorem State.compEvent_get_thread (s : State) (n code k : Nat) (i₁ : Nat) : (s.compEvent n code k).thread i₁ = s.thread i₁ := by
  obtain ⟨_, h, -⟩ := s.compEvent_frame n code k; rw [h]; rfl
@[simp] theorem State.compEvent_get_peg (s : State) (n code k : Nat) (i₁ : Nat) : (s.compEvent n code k).peg i₁ = s.peg i₁ := by
  obtain ⟨_, h, -⟩ := s.compEvent_frame n code k; rw [h]; rfl
@[simp] theorem State.compEvent_get_comp (s : State) (n code k : Nat) (i₁ : Nat) : (s.compEvent n code k).comp i₁ = s.comp i₁ := by
  obtain ⟨_, h, -⟩ := s.compEvent_frame n code k; rw [h]; rfl
@[simp] theorem State.compEvent_get_func (s : State) (n code k : Nat) (i₁ : Nat) : (s.compEvent n code k).func i₁ = s.func i₁ := by
  obtain ⟨_, h, -⟩ := s.compEvent_frame n code k; rw [h]; rfl
@[simp] theorem State.compEvent_get_port (s : State) (n code k : Nat) (i₁ : Nat) : (s.compEvent n code k).port i₁ = s.port i₁ := by
  obtain ⟨_, h, -⟩ := s.compEvent_frame n code k; rw [h]; rfl
@[simp] theorem State.compEvent_get_now (s : State) (n code k : Nat) : (s.compEvent n code k).now = s.now := by
  obtain ⟨_, h, -⟩ := s.compEvent_frame n code k; rw [h]; rfl
@[simp] theorem State.compEvent_get_stamp (s : State) (n code k : Nat) : (s.compEvent n code k).stamp = s.stamp := by
  obtain ⟨_, h, -⟩ := s.compEvent_frame n code k; rw [h]; rfl
@[simp] theorem State.fault_pending (s : State) (code comp subject cause d0 d1 : Nat) : (s.fault code comp subject cause d0 d1).pending = s.pending := by
  obtain ⟨_, _, h, -⟩ := s.fault_frame code comp subject cause d0 d1; rw [h]
@[simp] theorem State.fault_out (s : State) (code comp subject cause d0 d1 : Nat) : (s.fault code comp subject cause d0 d1).out = s.out := by
  obtain ⟨_, _, h, -⟩ := s.fault_frame code comp subject cause d0 d1; rw [h]
@[simp] theorem State.fault_fresh (s : State) (code comp subject cause d0 d1 : Nat) : (s.fault code comp subject cause d0 d1).fresh = s.fresh := by
  obtain ⟨_, _, h, -⟩ := s.fault_frame code comp subject cause d0 d1; rw [h]
@[simp] theorem State.fault_time (s : State) (code comp subject cause d0 d1 : Nat) : (s.fault code comp subject cause d0 d1).time = s.time := by
  obtain ⟨_, _, h, -⟩ := s.fault_frame code comp subject cause d0 d1; rw [h]
@[simp] theorem State.fault_mode (s : State) (code comp subject cause d0 d1 : Nat) : (s.fault code comp subject cause d0 d1).mode = s.mode := by
  obtain ⟨_, _, h, -⟩ := s.fault_frame code comp subject cause d0 d1; rw [h]
@[simp] theorem State.fault_modeAt (s : State) (code comp subject cause d0 d1 : Nat) : (s.fault code comp subject cause d0 d1).modeAt = s.modeAt := by
  obtain ⟨_, _, h, -⟩ := s.fault_frame code comp subject cause d0 d1; rw [h]
@[simp] theorem State.fault_startPending (s : State) (code comp subject cause d0 d1 : Nat) : (s.fault code comp subject cause d0 d1).startPending = s.startPending := by
  obtain ⟨_, _, h, -⟩ := s.fault_frame code comp subject cause d0 d1; rw [h]
@[simp] theorem State.fault_going (s : State) (code comp subject cause d0 d1 : Nat) : (s.fault code comp subject cause d0 d1).going = s.going := by
  obtain ⟨_, _, h, -⟩ := s.fault_frame code comp subject cause d0 d1; rw [h]
@[simp] theorem State.fault_goingAt (s : State) (code comp subject cause d0 d1 : Nat) : (s.fault code comp subject cause d0 d1).goingAt = s.goingAt := by
  obtain ⟨_, _, h, -⟩ := s.fault_frame code comp subject cause d0 d1; rw [h]
@[simp] theorem State.fault_cleanEnd (s : State) (code comp subject cause d0 d1 : Nat) : (s.fault code comp subject cause d0 d1).cleanEnd = s.cleanEnd := by
  obtain ⟨_, _, h, -⟩ := s.fault_frame code comp subject cause d0 d1; rw [h]
@[simp] theorem State.fault_windowAt (s : State) (code comp subject cause d0 d1 : Nat) : (s.fault code comp subject cause d0 d1).windowAt = s.windowAt := by
  obtain ⟨_, _, h, -⟩ := s.fault_frame code comp subject cause d0 d1; rw [h]
@[simp] theorem State.fault_pins (s : State) (code comp subject cause d0 d1 : Nat) : (s.fault code comp subject cause d0 d1).pins = s.pins := by
  obtain ⟨_, _, h, -⟩ := s.fault_frame code comp subject cause d0 d1; rw [h]
@[simp] theorem State.fault_stored (s : State) (code comp subject cause d0 d1 : Nat) : (s.fault code comp subject cause d0 d1).stored = s.stored := by
  obtain ⟨_, _, h, -⟩ := s.fault_frame code comp subject cause d0 d1; rw [h]
@[simp] theorem State.fault_fwStage (s : State) (code comp subject cause d0 d1 : Nat) : (s.fault code comp subject cause d0 d1).fwStage = s.fwStage := by
  obtain ⟨_, _, h, -⟩ := s.fault_frame code comp subject cause d0 d1; rw [h]
@[simp] theorem State.fault_dies (s : State) (code comp subject cause d0 d1 : Nat) : (s.fault code comp subject cause d0 d1).dies = s.dies := by
  obtain ⟨_, _, h, -⟩ := s.fault_frame code comp subject cause d0 d1; rw [h]
@[simp] theorem State.fault_tiles (s : State) (code comp subject cause d0 d1 : Nat) : (s.fault code comp subject cause d0 d1).tiles = s.tiles := by
  obtain ⟨_, _, h, -⟩ := s.fault_frame code comp subject cause d0 d1; rw [h]
@[simp] theorem State.fault_cores (s : State) (code comp subject cause d0 d1 : Nat) : (s.fault code comp subject cause d0 d1).cores = s.cores := by
  obtain ⟨_, _, h, -⟩ := s.fault_frame code comp subject cause d0 d1; rw [h]
@[simp] theorem State.fault_threads (s : State) (code comp subject cause d0 d1 : Nat) : (s.fault code comp subject cause d0 d1).threads = s.threads := by
  obtain ⟨_, _, h, -⟩ := s.fault_frame code comp subject cause d0 d1; rw [h]
@[simp] theorem State.fault_seams (s : State) (code comp subject cause d0 d1 : Nat) : (s.fault code comp subject cause d0 d1).seams = s.seams := by
  obtain ⟨_, _, h, -⟩ := s.fault_frame code comp subject cause d0 d1; rw [h]
@[simp] theorem State.fault_pegs (s : State) (code comp subject cause d0 d1 : Nat) : (s.fault code comp subject cause d0 d1).pegs = s.pegs := by
  obtain ⟨_, _, h, -⟩ := s.fault_frame code comp subject cause d0 d1; rw [h]
@[simp] theorem State.fault_comps (s : State) (code comp subject cause d0 d1 : Nat) : (s.fault code comp subject cause d0 d1).comps = s.comps := by
  obtain ⟨_, _, h, -⟩ := s.fault_frame code comp subject cause d0 d1; rw [h]
@[simp] theorem State.fault_ports (s : State) (code comp subject cause d0 d1 : Nat) : (s.fault code comp subject cause d0 d1).ports = s.ports := by
  obtain ⟨_, _, h, -⟩ := s.fault_frame code comp subject cause d0 d1; rw [h]
@[simp] theorem State.fault_egress (s : State) (code comp subject cause d0 d1 : Nat) : (s.fault code comp subject cause d0 d1).egress = s.egress := by
  obtain ⟨_, _, h, -⟩ := s.fault_frame code comp subject cause d0 d1; rw [h]
@[simp] theorem State.fault_leasesOut (s : State) (code comp subject cause d0 d1 : Nat) : (s.fault code comp subject cause d0 d1).leasesOut = s.leasesOut := by
  obtain ⟨_, _, h, -⟩ := s.fault_frame code comp subject cause d0 d1; rw [h]
@[simp] theorem State.fault_funcs (s : State) (code comp subject cause d0 d1 : Nat) : (s.fault code comp subject cause d0 d1).funcs = s.funcs := by
  obtain ⟨_, _, h, -⟩ := s.fault_frame code comp subject cause d0 d1; rw [h]
@[simp] theorem State.fault_mboxes (s : State) (code comp subject cause d0 d1 : Nat) : (s.fault code comp subject cause d0 d1).mboxes = s.mboxes := by
  obtain ⟨_, _, h, -⟩ := s.fault_frame code comp subject cause d0 d1; rw [h]
@[simp] theorem State.fault_hostLink (s : State) (code comp subject cause d0 d1 : Nat) : (s.fault code comp subject cause d0 d1).hostLink = s.hostLink := by
  obtain ⟨_, _, h, -⟩ := s.fault_frame code comp subject cause d0 d1; rw [h]
@[simp] theorem State.fault_rot (s : State) (code comp subject cause d0 d1 : Nat) : (s.fault code comp subject cause d0 d1).rot = s.rot := by
  obtain ⟨_, _, h, -⟩ := s.fault_frame code comp subject cause d0 d1; rw [h]
@[simp] theorem State.fault_xiesk (s : State) (code comp subject cause d0 d1 : Nat) : (s.fault code comp subject cause d0 d1).xiesk = s.xiesk := by
  obtain ⟨_, _, h, -⟩ := s.fault_frame code comp subject cause d0 d1; rw [h]
@[simp] theorem State.fault_power (s : State) (code comp subject cause d0 d1 : Nat) : (s.fault code comp subject cause d0 d1).power = s.power := by
  obtain ⟨_, _, h, -⟩ := s.fault_frame code comp subject cause d0 d1; rw [h]
@[simp] theorem State.fault_clock (s : State) (code comp subject cause d0 d1 : Nat) : (s.fault code comp subject cause d0 d1).clock = s.clock := by
  obtain ⟨_, _, h, -⟩ := s.fault_frame code comp subject cause d0 d1; rw [h]
@[simp] theorem State.fault_flashOld (s : State) (code comp subject cause d0 d1 : Nat) : (s.fault code comp subject cause d0 d1).flashOld = s.flashOld := by
  obtain ⟨_, _, h, -⟩ := s.fault_frame code comp subject cause d0 d1; rw [h]
@[simp] theorem State.fault_boot (s : State) (code comp subject cause d0 d1 : Nat) : (s.fault code comp subject cause d0 d1).boot = s.boot := by
  obtain ⟨_, _, h, -⟩ := s.fault_frame code comp subject cause d0 d1; rw [h]
@[simp] theorem State.fault_get_tile (s : State) (code comp subject cause d0 d1 : Nat) (i₁ : Nat) : (s.fault code comp subject cause d0 d1).tile i₁ = s.tile i₁ := by
  obtain ⟨_, _, h, -⟩ := s.fault_frame code comp subject cause d0 d1; rw [h]; rfl
@[simp] theorem State.fault_get_core (s : State) (code comp subject cause d0 d1 : Nat) (i₁ : Nat) : (s.fault code comp subject cause d0 d1).core i₁ = s.core i₁ := by
  obtain ⟨_, _, h, -⟩ := s.fault_frame code comp subject cause d0 d1; rw [h]; rfl
@[simp] theorem State.fault_get_thread (s : State) (code comp subject cause d0 d1 : Nat) (i₁ : Nat) : (s.fault code comp subject cause d0 d1).thread i₁ = s.thread i₁ := by
  obtain ⟨_, _, h, -⟩ := s.fault_frame code comp subject cause d0 d1; rw [h]; rfl
@[simp] theorem State.fault_get_peg (s : State) (code comp subject cause d0 d1 : Nat) (i₁ : Nat) : (s.fault code comp subject cause d0 d1).peg i₁ = s.peg i₁ := by
  obtain ⟨_, _, h, -⟩ := s.fault_frame code comp subject cause d0 d1; rw [h]; rfl
@[simp] theorem State.fault_get_comp (s : State) (code comp subject cause d0 d1 : Nat) (i₁ : Nat) : (s.fault code comp subject cause d0 d1).comp i₁ = s.comp i₁ := by
  obtain ⟨_, _, h, -⟩ := s.fault_frame code comp subject cause d0 d1; rw [h]; rfl
@[simp] theorem State.fault_get_func (s : State) (code comp subject cause d0 d1 : Nat) (i₁ : Nat) : (s.fault code comp subject cause d0 d1).func i₁ = s.func i₁ := by
  obtain ⟨_, _, h, -⟩ := s.fault_frame code comp subject cause d0 d1; rw [h]; rfl
@[simp] theorem State.fault_get_port (s : State) (code comp subject cause d0 d1 : Nat) (i₁ : Nat) : (s.fault code comp subject cause d0 d1).port i₁ = s.port i₁ := by
  obtain ⟨_, _, h, -⟩ := s.fault_frame code comp subject cause d0 d1; rw [h]; rfl
@[simp] theorem State.fault_get_now (s : State) (code comp subject cause d0 d1 : Nat) : (s.fault code comp subject cause d0 d1).now = s.now := by
  obtain ⟨_, _, h, -⟩ := s.fault_frame code comp subject cause d0 d1; rw [h]; rfl
@[simp] theorem State.fault_get_stamp (s : State) (code comp subject cause d0 d1 : Nat) : (s.fault code comp subject cause d0 d1).stamp = s.stamp := by
  obtain ⟨_, _, h, -⟩ := s.fault_frame code comp subject cause d0 d1; rw [h]; rfl
@[simp] theorem State.raiseOn_pending (s : State) (f b : Nat) : (s.raiseOn f b).pending = s.pending := by
  obtain ⟨_, _, h⟩ := s.raiseOn_frame f b; rw [h]
@[simp] theorem State.raiseOn_fresh (s : State) (f b : Nat) : (s.raiseOn f b).fresh = s.fresh := by
  obtain ⟨_, _, h⟩ := s.raiseOn_frame f b; rw [h]
@[simp] theorem State.raiseOn_time (s : State) (f b : Nat) : (s.raiseOn f b).time = s.time := by
  obtain ⟨_, _, h⟩ := s.raiseOn_frame f b; rw [h]
@[simp] theorem State.raiseOn_mode (s : State) (f b : Nat) : (s.raiseOn f b).mode = s.mode := by
  obtain ⟨_, _, h⟩ := s.raiseOn_frame f b; rw [h]
@[simp] theorem State.raiseOn_modeAt (s : State) (f b : Nat) : (s.raiseOn f b).modeAt = s.modeAt := by
  obtain ⟨_, _, h⟩ := s.raiseOn_frame f b; rw [h]
@[simp] theorem State.raiseOn_startPending (s : State) (f b : Nat) : (s.raiseOn f b).startPending = s.startPending := by
  obtain ⟨_, _, h⟩ := s.raiseOn_frame f b; rw [h]
@[simp] theorem State.raiseOn_going (s : State) (f b : Nat) : (s.raiseOn f b).going = s.going := by
  obtain ⟨_, _, h⟩ := s.raiseOn_frame f b; rw [h]
@[simp] theorem State.raiseOn_goingAt (s : State) (f b : Nat) : (s.raiseOn f b).goingAt = s.goingAt := by
  obtain ⟨_, _, h⟩ := s.raiseOn_frame f b; rw [h]
@[simp] theorem State.raiseOn_cleanEnd (s : State) (f b : Nat) : (s.raiseOn f b).cleanEnd = s.cleanEnd := by
  obtain ⟨_, _, h⟩ := s.raiseOn_frame f b; rw [h]
@[simp] theorem State.raiseOn_windowAt (s : State) (f b : Nat) : (s.raiseOn f b).windowAt = s.windowAt := by
  obtain ⟨_, _, h⟩ := s.raiseOn_frame f b; rw [h]
@[simp] theorem State.raiseOn_pins (s : State) (f b : Nat) : (s.raiseOn f b).pins = s.pins := by
  obtain ⟨_, _, h⟩ := s.raiseOn_frame f b; rw [h]
@[simp] theorem State.raiseOn_objs (s : State) (f b : Nat) : (s.raiseOn f b).objs = s.objs := by
  obtain ⟨_, _, h⟩ := s.raiseOn_frame f b; rw [h]
@[simp] theorem State.raiseOn_stored (s : State) (f b : Nat) : (s.raiseOn f b).stored = s.stored := by
  obtain ⟨_, _, h⟩ := s.raiseOn_frame f b; rw [h]
@[simp] theorem State.raiseOn_log (s : State) (f b : Nat) : (s.raiseOn f b).log = s.log := by
  obtain ⟨_, _, h⟩ := s.raiseOn_frame f b; rw [h]
@[simp] theorem State.raiseOn_fwStage (s : State) (f b : Nat) : (s.raiseOn f b).fwStage = s.fwStage := by
  obtain ⟨_, _, h⟩ := s.raiseOn_frame f b; rw [h]
@[simp] theorem State.raiseOn_dies (s : State) (f b : Nat) : (s.raiseOn f b).dies = s.dies := by
  obtain ⟨_, _, h⟩ := s.raiseOn_frame f b; rw [h]
@[simp] theorem State.raiseOn_tiles (s : State) (f b : Nat) : (s.raiseOn f b).tiles = s.tiles := by
  obtain ⟨_, _, h⟩ := s.raiseOn_frame f b; rw [h]
@[simp] theorem State.raiseOn_cores (s : State) (f b : Nat) : (s.raiseOn f b).cores = s.cores := by
  obtain ⟨_, _, h⟩ := s.raiseOn_frame f b; rw [h]
@[simp] theorem State.raiseOn_threads (s : State) (f b : Nat) : (s.raiseOn f b).threads = s.threads := by
  obtain ⟨_, _, h⟩ := s.raiseOn_frame f b; rw [h]
@[simp] theorem State.raiseOn_seams (s : State) (f b : Nat) : (s.raiseOn f b).seams = s.seams := by
  obtain ⟨_, _, h⟩ := s.raiseOn_frame f b; rw [h]
@[simp] theorem State.raiseOn_pegs (s : State) (f b : Nat) : (s.raiseOn f b).pegs = s.pegs := by
  obtain ⟨_, _, h⟩ := s.raiseOn_frame f b; rw [h]
@[simp] theorem State.raiseOn_comps (s : State) (f b : Nat) : (s.raiseOn f b).comps = s.comps := by
  obtain ⟨_, _, h⟩ := s.raiseOn_frame f b; rw [h]
@[simp] theorem State.raiseOn_ports (s : State) (f b : Nat) : (s.raiseOn f b).ports = s.ports := by
  obtain ⟨_, _, h⟩ := s.raiseOn_frame f b; rw [h]
@[simp] theorem State.raiseOn_egress (s : State) (f b : Nat) : (s.raiseOn f b).egress = s.egress := by
  obtain ⟨_, _, h⟩ := s.raiseOn_frame f b; rw [h]
@[simp] theorem State.raiseOn_leasesOut (s : State) (f b : Nat) : (s.raiseOn f b).leasesOut = s.leasesOut := by
  obtain ⟨_, _, h⟩ := s.raiseOn_frame f b; rw [h]
@[simp] theorem State.raiseOn_mboxes (s : State) (f b : Nat) : (s.raiseOn f b).mboxes = s.mboxes := by
  obtain ⟨_, _, h⟩ := s.raiseOn_frame f b; rw [h]
@[simp] theorem State.raiseOn_hostLink (s : State) (f b : Nat) : (s.raiseOn f b).hostLink = s.hostLink := by
  obtain ⟨_, _, h⟩ := s.raiseOn_frame f b; rw [h]
@[simp] theorem State.raiseOn_rot (s : State) (f b : Nat) : (s.raiseOn f b).rot = s.rot := by
  obtain ⟨_, _, h⟩ := s.raiseOn_frame f b; rw [h]
@[simp] theorem State.raiseOn_xiesk (s : State) (f b : Nat) : (s.raiseOn f b).xiesk = s.xiesk := by
  obtain ⟨_, _, h⟩ := s.raiseOn_frame f b; rw [h]
@[simp] theorem State.raiseOn_power (s : State) (f b : Nat) : (s.raiseOn f b).power = s.power := by
  obtain ⟨_, _, h⟩ := s.raiseOn_frame f b; rw [h]
@[simp] theorem State.raiseOn_clock (s : State) (f b : Nat) : (s.raiseOn f b).clock = s.clock := by
  obtain ⟨_, _, h⟩ := s.raiseOn_frame f b; rw [h]
@[simp] theorem State.raiseOn_flashOld (s : State) (f b : Nat) : (s.raiseOn f b).flashOld = s.flashOld := by
  obtain ⟨_, _, h⟩ := s.raiseOn_frame f b; rw [h]
@[simp] theorem State.raiseOn_boot (s : State) (f b : Nat) : (s.raiseOn f b).boot = s.boot := by
  obtain ⟨_, _, h⟩ := s.raiseOn_frame f b; rw [h]
@[simp] theorem State.raiseOn_get_tile (s : State) (f b : Nat) (i₁ : Nat) : (s.raiseOn f b).tile i₁ = s.tile i₁ := by
  obtain ⟨_, _, h⟩ := s.raiseOn_frame f b; rw [h]; rfl
@[simp] theorem State.raiseOn_get_core (s : State) (f b : Nat) (i₁ : Nat) : (s.raiseOn f b).core i₁ = s.core i₁ := by
  obtain ⟨_, _, h⟩ := s.raiseOn_frame f b; rw [h]; rfl
@[simp] theorem State.raiseOn_get_thread (s : State) (f b : Nat) (i₁ : Nat) : (s.raiseOn f b).thread i₁ = s.thread i₁ := by
  obtain ⟨_, _, h⟩ := s.raiseOn_frame f b; rw [h]; rfl
@[simp] theorem State.raiseOn_get_peg (s : State) (f b : Nat) (i₁ : Nat) : (s.raiseOn f b).peg i₁ = s.peg i₁ := by
  obtain ⟨_, _, h⟩ := s.raiseOn_frame f b; rw [h]; rfl
@[simp] theorem State.raiseOn_get_comp (s : State) (f b : Nat) (i₁ : Nat) : (s.raiseOn f b).comp i₁ = s.comp i₁ := by
  obtain ⟨_, _, h⟩ := s.raiseOn_frame f b; rw [h]; rfl
@[simp] theorem State.raiseOn_get_port (s : State) (f b : Nat) (i₁ : Nat) : (s.raiseOn f b).port i₁ = s.port i₁ := by
  obtain ⟨_, _, h⟩ := s.raiseOn_frame f b; rw [h]; rfl
@[simp] theorem State.raiseOn_get_obj (s : State) (f b : Nat) (i₁ : Nat) : (s.raiseOn f b).obj i₁ = s.obj i₁ := by
  obtain ⟨_, _, h⟩ := s.raiseOn_frame f b; rw [h]; rfl
@[simp] theorem State.raiseOn_get_objC (s : State) (f b : Nat) (i₁ i₂ : Nat) : (s.raiseOn f b).objC i₁ i₂ = s.objC i₁ i₂ := by
  obtain ⟨_, _, h⟩ := s.raiseOn_frame f b; rw [h]; rfl
@[simp] theorem State.raiseOn_get_now (s : State) (f b : Nat) : (s.raiseOn f b).now = s.now := by
  obtain ⟨_, _, h⟩ := s.raiseOn_frame f b; rw [h]; rfl
@[simp] theorem State.raiseOn_get_stamp (s : State) (f b : Nat) : (s.raiseOn f b).stamp = s.stamp := by
  obtain ⟨_, _, h⟩ := s.raiseOn_frame f b; rw [h]; rfl
@[simp] theorem State.raise_pending (s : State) (b n : Nat) : (s.raise b n).pending = s.pending := by
  obtain ⟨_, _, h⟩ := s.raise_frame b n; rw [h]
@[simp] theorem State.raise_fresh (s : State) (b n : Nat) : (s.raise b n).fresh = s.fresh := by
  obtain ⟨_, _, h⟩ := s.raise_frame b n; rw [h]
@[simp] theorem State.raise_time (s : State) (b n : Nat) : (s.raise b n).time = s.time := by
  obtain ⟨_, _, h⟩ := s.raise_frame b n; rw [h]
@[simp] theorem State.raise_mode (s : State) (b n : Nat) : (s.raise b n).mode = s.mode := by
  obtain ⟨_, _, h⟩ := s.raise_frame b n; rw [h]
@[simp] theorem State.raise_modeAt (s : State) (b n : Nat) : (s.raise b n).modeAt = s.modeAt := by
  obtain ⟨_, _, h⟩ := s.raise_frame b n; rw [h]
@[simp] theorem State.raise_startPending (s : State) (b n : Nat) : (s.raise b n).startPending = s.startPending := by
  obtain ⟨_, _, h⟩ := s.raise_frame b n; rw [h]
@[simp] theorem State.raise_going (s : State) (b n : Nat) : (s.raise b n).going = s.going := by
  obtain ⟨_, _, h⟩ := s.raise_frame b n; rw [h]
@[simp] theorem State.raise_goingAt (s : State) (b n : Nat) : (s.raise b n).goingAt = s.goingAt := by
  obtain ⟨_, _, h⟩ := s.raise_frame b n; rw [h]
@[simp] theorem State.raise_cleanEnd (s : State) (b n : Nat) : (s.raise b n).cleanEnd = s.cleanEnd := by
  obtain ⟨_, _, h⟩ := s.raise_frame b n; rw [h]
@[simp] theorem State.raise_windowAt (s : State) (b n : Nat) : (s.raise b n).windowAt = s.windowAt := by
  obtain ⟨_, _, h⟩ := s.raise_frame b n; rw [h]
@[simp] theorem State.raise_pins (s : State) (b n : Nat) : (s.raise b n).pins = s.pins := by
  obtain ⟨_, _, h⟩ := s.raise_frame b n; rw [h]
@[simp] theorem State.raise_objs (s : State) (b n : Nat) : (s.raise b n).objs = s.objs := by
  obtain ⟨_, _, h⟩ := s.raise_frame b n; rw [h]
@[simp] theorem State.raise_stored (s : State) (b n : Nat) : (s.raise b n).stored = s.stored := by
  obtain ⟨_, _, h⟩ := s.raise_frame b n; rw [h]
@[simp] theorem State.raise_log (s : State) (b n : Nat) : (s.raise b n).log = s.log := by
  obtain ⟨_, _, h⟩ := s.raise_frame b n; rw [h]
@[simp] theorem State.raise_fwStage (s : State) (b n : Nat) : (s.raise b n).fwStage = s.fwStage := by
  obtain ⟨_, _, h⟩ := s.raise_frame b n; rw [h]
@[simp] theorem State.raise_dies (s : State) (b n : Nat) : (s.raise b n).dies = s.dies := by
  obtain ⟨_, _, h⟩ := s.raise_frame b n; rw [h]
@[simp] theorem State.raise_tiles (s : State) (b n : Nat) : (s.raise b n).tiles = s.tiles := by
  obtain ⟨_, _, h⟩ := s.raise_frame b n; rw [h]
@[simp] theorem State.raise_cores (s : State) (b n : Nat) : (s.raise b n).cores = s.cores := by
  obtain ⟨_, _, h⟩ := s.raise_frame b n; rw [h]
@[simp] theorem State.raise_threads (s : State) (b n : Nat) : (s.raise b n).threads = s.threads := by
  obtain ⟨_, _, h⟩ := s.raise_frame b n; rw [h]
@[simp] theorem State.raise_seams (s : State) (b n : Nat) : (s.raise b n).seams = s.seams := by
  obtain ⟨_, _, h⟩ := s.raise_frame b n; rw [h]
@[simp] theorem State.raise_pegs (s : State) (b n : Nat) : (s.raise b n).pegs = s.pegs := by
  obtain ⟨_, _, h⟩ := s.raise_frame b n; rw [h]
@[simp] theorem State.raise_comps (s : State) (b n : Nat) : (s.raise b n).comps = s.comps := by
  obtain ⟨_, _, h⟩ := s.raise_frame b n; rw [h]
@[simp] theorem State.raise_ports (s : State) (b n : Nat) : (s.raise b n).ports = s.ports := by
  obtain ⟨_, _, h⟩ := s.raise_frame b n; rw [h]
@[simp] theorem State.raise_egress (s : State) (b n : Nat) : (s.raise b n).egress = s.egress := by
  obtain ⟨_, _, h⟩ := s.raise_frame b n; rw [h]
@[simp] theorem State.raise_leasesOut (s : State) (b n : Nat) : (s.raise b n).leasesOut = s.leasesOut := by
  obtain ⟨_, _, h⟩ := s.raise_frame b n; rw [h]
@[simp] theorem State.raise_mboxes (s : State) (b n : Nat) : (s.raise b n).mboxes = s.mboxes := by
  obtain ⟨_, _, h⟩ := s.raise_frame b n; rw [h]
@[simp] theorem State.raise_hostLink (s : State) (b n : Nat) : (s.raise b n).hostLink = s.hostLink := by
  obtain ⟨_, _, h⟩ := s.raise_frame b n; rw [h]
@[simp] theorem State.raise_rot (s : State) (b n : Nat) : (s.raise b n).rot = s.rot := by
  obtain ⟨_, _, h⟩ := s.raise_frame b n; rw [h]
@[simp] theorem State.raise_xiesk (s : State) (b n : Nat) : (s.raise b n).xiesk = s.xiesk := by
  obtain ⟨_, _, h⟩ := s.raise_frame b n; rw [h]
@[simp] theorem State.raise_power (s : State) (b n : Nat) : (s.raise b n).power = s.power := by
  obtain ⟨_, _, h⟩ := s.raise_frame b n; rw [h]
@[simp] theorem State.raise_clock (s : State) (b n : Nat) : (s.raise b n).clock = s.clock := by
  obtain ⟨_, _, h⟩ := s.raise_frame b n; rw [h]
@[simp] theorem State.raise_flashOld (s : State) (b n : Nat) : (s.raise b n).flashOld = s.flashOld := by
  obtain ⟨_, _, h⟩ := s.raise_frame b n; rw [h]
@[simp] theorem State.raise_boot (s : State) (b n : Nat) : (s.raise b n).boot = s.boot := by
  obtain ⟨_, _, h⟩ := s.raise_frame b n; rw [h]
@[simp] theorem State.raise_get_tile (s : State) (b n : Nat) (i₁ : Nat) : (s.raise b n).tile i₁ = s.tile i₁ := by
  obtain ⟨_, _, h⟩ := s.raise_frame b n; rw [h]; rfl
@[simp] theorem State.raise_get_core (s : State) (b n : Nat) (i₁ : Nat) : (s.raise b n).core i₁ = s.core i₁ := by
  obtain ⟨_, _, h⟩ := s.raise_frame b n; rw [h]; rfl
@[simp] theorem State.raise_get_thread (s : State) (b n : Nat) (i₁ : Nat) : (s.raise b n).thread i₁ = s.thread i₁ := by
  obtain ⟨_, _, h⟩ := s.raise_frame b n; rw [h]; rfl
@[simp] theorem State.raise_get_peg (s : State) (b n : Nat) (i₁ : Nat) : (s.raise b n).peg i₁ = s.peg i₁ := by
  obtain ⟨_, _, h⟩ := s.raise_frame b n; rw [h]; rfl
@[simp] theorem State.raise_get_comp (s : State) (b n : Nat) (i₁ : Nat) : (s.raise b n).comp i₁ = s.comp i₁ := by
  obtain ⟨_, _, h⟩ := s.raise_frame b n; rw [h]; rfl
@[simp] theorem State.raise_get_port (s : State) (b n : Nat) (i₁ : Nat) : (s.raise b n).port i₁ = s.port i₁ := by
  obtain ⟨_, _, h⟩ := s.raise_frame b n; rw [h]; rfl
@[simp] theorem State.raise_get_obj (s : State) (b n : Nat) (i₁ : Nat) : (s.raise b n).obj i₁ = s.obj i₁ := by
  obtain ⟨_, _, h⟩ := s.raise_frame b n; rw [h]; rfl
@[simp] theorem State.raise_get_objC (s : State) (b n : Nat) (i₁ i₂ : Nat) : (s.raise b n).objC i₁ i₂ = s.objC i₁ i₂ := by
  obtain ⟨_, _, h⟩ := s.raise_frame b n; rw [h]; rfl
@[simp] theorem State.raise_get_now (s : State) (b n : Nat) : (s.raise b n).now = s.now := by
  obtain ⟨_, _, h⟩ := s.raise_frame b n; rw [h]; rfl
@[simp] theorem State.raise_get_stamp (s : State) (b n : Nat) : (s.raise b n).stamp = s.stamp := by
  obtain ⟨_, _, h⟩ := s.raise_frame b n; rw [h]; rfl

/-- A tile event leaves a tile's every field but its event counters. -/
theorem State.tileEvent_tile (s : State) (t code k j : Nat) : ∃ es, (s.tileEvent t code k).tile j = { s.tile j with events := es } := by
  obtain ⟨_, _, h, ht, -⟩ := s.tileEvent_frame t code k
  obtain ⟨es, he⟩ := ht j
  exact ⟨es, by rw [h]; exact he⟩

/-- A fault leaves every object but one. -/
theorem State.fault_obj (s : State) (code comp subject cause d0 d1 key : Nat) (hk : key ≠ Obj.faultOverwritten) :
    (s.fault code comp subject cause d0 d1).obj key = s.obj key := by
  obtain ⟨_, _, h, ho⟩ := s.fault_frame code comp subject cause d0 d1
  rw [h]; exact ho _ key hk

/-! An instruction retires (R134, R140). -/

/-- The register written, the pc past the instruction, instret counted: nothing else of the thread changes. -/
@[simp] theorem State.retire_thread_self (s : State) (t : ThreadId) (rd v len : Nat) :
    (s.retire t rd v len).thread t.key = { (s.thread t.key).setX rd (BitVec.ofNat 64 v) with
      pc := (s.thread t.key).pc + BitVec.ofNat 64 len, instret := ((s.thread t.key).instret + 1) % 2 ^ 64 } := by
  simp [State.retire, State.modThread]

theorem State.retire_thread_other (s : State) (t : ThreadId) (rd v len k : Nat) (h : k ≠ t.key) :
    (s.retire t rd v len).thread k = s.thread k := by
  simp [State.retire, State.modThread, h]

/-! A compartment enters a state (R323, R508, R543). -/

/-- It takes the state; the module's state may follow it, and cause bit 7 is raised: nothing else changes. -/
theorem State.setCState_frame (s : State) (n : Nat) (st : CState) : ∃ m t fs os,
    s.setCState n st = { s.setComp n { s.comp n with st := st } with mode := m, modeAt := t, funcs := fs, out := os } := by
  unfold State.setCState State.followComps
  dsimp only
  split
  · obtain ⟨fs, os, h⟩ := (((s.modComp n fun c => { c with st := st }).enterMode .run).raise_frame 7 n)
    exact ⟨_, _, fs, os, by rw [h]; rfl⟩
  · split
    · obtain ⟨fs, os, h⟩ := (((s.modComp n fun c => { c with st := st }).enterMode .ready).raise_frame 7 n)
      exact ⟨_, _, fs, os, by rw [h]; rfl⟩
    · obtain ⟨fs, os, h⟩ := ((s.modComp n fun c => { c with st := st }).raise_frame 7 n)
      exact ⟨_, _, fs, os, by rw [h]; rfl⟩

@[simp] theorem State.setCState_comp_self (s : State) (n : Nat) (st : CState) :
    (s.setCState n st).comp n = { s.comp n with st := st } := by
  obtain ⟨_, _, _, _, h⟩ := s.setCState_frame n st; rw [h]
  show (s.setComp n { s.comp n with st := st }).comp n = _
  simp
@[simp] theorem State.setCState_obj (s : State) (n k : Nat) (st : CState) : (s.setCState n st).obj k = s.obj k := by
  obtain ⟨_, _, _, _, h⟩ := s.setCState_frame n st; rw [h]; rfl

end Sys2Proof.Machine
end

