-- ==== Sys2Proof/Tests/Slice0.lean ====
section
/-! SUPPORT. Tests: an ill-formed command for each check of WellFormed, the worked examples of the spec, and for each
statement states and operands that meet its hypotheses. -/

set_option maxRecDepth 4000
set_option Elab.async false

namespace Sys2Proof.Tests
open Sys2Proof
open Sys2Proof.Machine

def put (s : State) (kvs : List (Nat × Nat)) : State := kvs.foldl (fun a q => a.setObj q.1 q.2) s
def base : State := put { State.reset with mode := .run, time := 65536 * 10 ^ 9, comps := [(0, { Comp.init with st := .running })], tiles := [(0, { Tile.init with dom := .on })], threads := [(0, { Thread.init with st := .ready, pc := 2 ^ 57 })] } [(objAt Obj.compGeometry 0, 1), (objAt Obj.tileCompMode 0, 0)]
/-- A base state whose function 1 has one command at the head of pair 0, the link up and its stream Secure. -/
def hostBase (st : CState) (e : Nat) : State :=
  ((put { base with hostLink := true } [(Obj.hostNumVfs, 8)]).modComp 0 fun c => { c with st := st, stream := .secure }).setPair 1 0
    { Pair.init with enable := true, qstate := 1, sqTaken := 1, tail := 1, produced := 1, head := 1, taken := [⟨e, 0, 0, false, false, 0⟩] }
def sqe (op kind len target arg : Nat) : Nat := op + 2 ^ 8 * kind + 2 ^ 128 * len + 2 ^ 192 * target + 2 ^ 256 * arg

/-! Well-formedness: each check refuses an ill-formed command. -/

def reply17 : SpanReply := ⟨65536, []⟩
def sensors0 : Sensors := ⟨[], [], 0, 0, 0, 0, 0, 0⟩
def sensors1 : Sensors := ⟨List.replicate 4 0, List.replicate 12 0, 0, 0, 0, 0, 0, 0⟩

theorem test_wf_cadence_repeats : ¬ WellFormed (.cadenceWindow [⟨3, 1, 750, 400⟩, ⟨3, 2, 750, 400⟩]) := by decide
theorem test_wf_cadence : WellFormed (.cadenceWindow [⟨3, 1, 750, 400⟩, ⟨4, 2, 750, 400⟩]) := by decide
theorem test_wf_permit_repeats : ¬ WellFormed (.pacerPermit 0 [5, 5]) := by decide
theorem test_wf_unfence : ¬ WellFormed (.unfence .management 65536 true) := by decide
theorem test_wf_sensors : ¬ WellFormed (.valveTick sensors0) ∧ WellFormed (.thermalEval sensors1) := by decide
theorem test_wf_reply : ∀ i ∈ [Instr.spanResponseReceive 0 0 (some reply17), .gxDescExecute 0 false [(0, reply17)] none,
    .gxRingAdvance 0 false [(0, reply17)] none, .verdictApply 0 (some reply17), .plumbLineAccept 0 (some reply17),
    .updRingTake 0 (some reply17), .placeDefine 0 (some reply17), .placePromote 0 (some reply17), .placeEvict 0 (some reply17),
    .placeUnpin 0 (some reply17), .placeStream 0 (some reply17) [], .placeRetire 0 (some reply17),
    .boundaryTake 0 (some reply17), .phaseMarkTake 0 (some reply17)], ¬ WellFormed i := by decide
theorem test_wf_stream : ¬ WellFormed (.placeStream 0 none (List.replicate 125 none)) := by decide
theorem test_wf_source : sourceOk (.remote 0 0 0 0 .write 8 []) = false ∧ sourceOk (.remote 0 0 0 0 .read 8 [1]) = false ∧
    sourceOk (.remote 0 0 0 0 (.amo .add) 3 [1, 2, 3]) = false := by decide
theorem test_wf_packet : ¬ WellFormed (.dataFrameReceive 0 ⟨0, true⟩ [⟨0, [1]⟩]) := by decide
theorem test_wf_keyDeliver : ¬ WellFormed (.keyDeliver .host 0 [] none) := by decide
theorem test_wf_tally : ¬ WellFormed (.tallyPostReceive 0 0 0 []) := by decide
theorem test_wf_approve : ¬ WellFormed (.releaseApprove .host 0 [] true) := by decide
theorem test_wf_signed : ¬ WellFormed (.reportSigned []) := by decide
theorem test_wf_loads : ¬ WellFormed (.loadMapTable 1 0 (.data (List.replicate 129 0))) := by decide
theorem test_wf_import : ¬ WellFormed (.importBlock 1 0 .failed (some [])) := by decide
theorem test_wf_entries : readOk 1 (.data [1, 2]) = false ∧ readOk 1 .failed = true := by decide
theorem test_wf_doorbell : ¬ WellFormed (.mbDoorbell 0 ⟨0, 64, 64, 0, 0⟩ 1 .failed (List.replicate 65 noExt)) := by decide
theorem test_wf_publish : ¬ WellFormed (.publishEntry 0 64 none none) := by decide
theorem test_wf_data : ¬ WellFormed (.xieskData ⟨7, 3, true, true, 2, 0, 1, 8, true, []⟩ (List.replicate 65 noExt)) := by decide
theorem test_wf_verify : ¬ WellFormed (.verifyPass true []) := by decide
theorem test_wf_stage : ¬ WellFormed (.fwStage .management []) := by decide

/-! The spec's worked examples. -/

/-- Chapter 7: norms 1.34, 1.37 and 1.40 at S = 15 under a clip norm of 1 give factors 0.738413, 0.707107 and 0.707107. -/
theorem test_clip_factor : clipFactor 0x3F800000 1323685433 15 = 0x3F3D08A4 ∧ clipFactor 0x3F800000 1324367426 15 = 0x3F3504F3 ∧
    clipFactor 0x3F800000 1325064520 15 = 0x3F3504F3 := by decide +kernel

/-- R244: with v = 0xFFFFFFF0 a wait for 0x10 waits; after a post of 0x30 it is satisfied across the wrap. -/
theorem test_sequence_wrap : seqReached 0xFFFFFFF0 0x10 = false ∧ seqReached ((0xFFFFFFF0 + 0x30) % 2 ^ 32) 0x10 = true := by decide

/-- SHAKE256 of no bytes, the first 48 bytes (FIPS 202). -/
theorem test_digest_empty : (leBytes 48 (digest48 [])).take 8 = [0x46, 0xB9, 0xDD, 0x2B, 0x0B, 0xA8, 0x8D, 0x13] := by
  decide +kernel

/-- R496: an entry whose SEQ is not SQ_TAKEN is consumed and refused with 0x1003. -/
theorem test_wrong_seq : (((hostBase .running 0).takeEntry 1 0 (some (BitVec.ofNat 512 (2 ^ 32 * 9)))).pair 1 0).sqTaken = 2 ∧
    (((hostBase .running 0).takeEntry 1 0 (some (BitVec.ofNat 512 (2 ^ 32 * 9)))).pair 1 0).taken.map (·.bad) = [0, 0x1003] := by
  decide +kernel

/-- R505: a mailbox header carries GENERATION, READY and READ_COUNT where R504 places them. -/
theorem test_mailbox_header : ({ MBox.init with gen := 7, ready := true, readCount := 2 } : MBox).header = 7 + 2 ^ 32 + 2 * 2 ^ 64 := by
  decide

/-! What meets each statement's hypotheses. -/

theorem witness_CadencePermitsAndBoost_CadenceIsLatchedAndPermitsIssued :
    base.windowAt < base.window ∧
    ((base.tile 0).dom = .on ∧ base.fenced 0 = false ∧ minCadence 750 650 = some (20000000, 10000) ∧
      20000000 ≤ roundDiv (2200000 * 1000) (2 ^ base.obj Obj.tileCadenceWindowLog2) * 10000) ∧
    (let s := put base [(objAt Obj.tileCompMode 0, 1)]
     s.pacerRate 0 = some 1790 ∧ s.running 0 = true ∧ (s.tile 0).permits < 2 ∧
       ((s.comp 0).pacerNo + 1) * 1000 ≤ (s.now - (s.comp 0).pacerAt) * 1790) ∧
    (let s := base.setTile 0 { Tile.init with dom := .on, permits := 2 }
     (s.tile 0).dom = .on ∧ 2 ≤ (s.tile 0).permits ∧ 0 ∉ ([] : List Nat)) ∧ (base.tile 1).dom ≠ .on := by decide +kernel
theorem witness_CadencePermitsAndBoost_BoostMovesTheRail :
    (let s := put base [(Obj.tileRailBoostEnable, 1), (objAt Obj.tileCompMode 0, 0), (objAt Obj.tileCompBoostPermit 0, 1)]
     (s.die 0).boost = .idle ∧ s.boostHolds 0 = true ∧ (s.die 0).hotSpot ≤ 850) ∧
    (let s := base.setDie 0 ⟨800, .rising, 0, 0, 0⟩
     (s.die 0).boost = .rising ∧ (s.die 0).stepAt + 20000 ≤ s.now ∧ s.boostHolds 0 = false) ∧
    (let s := base.setDie 0 ⟨755, .inBoost, 0, 0, 0⟩
     (s.die 0).boost = .inBoost ∧ (s.die 0).stepAt + 20000 ≤ s.now ∧ 750 < (s.die 0).railMv) ∧
    (let s := base.setDie 0 ⟨755, .falling, 0, 0, 0⟩
     (s.die 0).boost = .falling ∧ (s.die 0).stepAt + 5000 ≤ s.now) := by decide +kernel

theorem witness_TilesSleepFailAndAreFenced_TileDomainsSleepWakeAndFail :
    (let s := { base with threads := [] }
     (s.tile 0).dom = .on ∧ s.tileIdle 0 = true ∧ (s.tile 0).since + s.obj Obj.tilePowerRetainIdleUs * 1000 ≤ s.now) ∧
    ((base.setTile 0 { Tile.init with dom := .retain }).tile 0).dom = .retain ∧
    (base.obj Obj.tileWatchdogTimeoutUs ≤ 1000000 ∧ (base.tile 0).dom = .on ∧ base.fenced 0 = false) ∧
    base.compOfTile 0 = some 0 ∧ (base.tile 0).dom ≠ .off ∧ kget 0 (base.tile 0).ueTimes (5 % 16) = 0 ∧
    ((base.tile 0).ceTimes.filter fun t0 => within36 base.now t0).length + 1 < base.obj Obj.tileStoreCeThreshold := by
  decide +kernel
theorem witness_TilesSleepFailAndAreFenced_FencesOfTilesAndSeamLinks :
    base.fenced 0 = false ∧
    (let x : Slot := ⟨.thread 0, .bank 1 0, 0, 8, .read, [], false, 0, false, none⟩
     let s := put (base.setSlot 0 3 (some x)) [(Obj.tileArrayFenceMap, 2)]
     s.slotAt 0 3 = some x ∧ s.fenced 1 = true) ∧
    (({ base with mode := .service }).checkWrite .management Obj.tileArrayUnfence 5 = .ok) ∧
    (base.obj Obj.tileArrayLinkFenceMap).testBit 7 = false := by decide +kernel

theorem witness_EnginePostsQueueTheirDescriptor :
    let t : ThreadId := ⟨0, 0, 0⟩
    base.issuer t = some 0 ∧ (base.thread t.key).st = .ready ∧
    (let b := base.beat t 0
     (b.tile 0).mxQueue.length < 16 ∧ (b.tile 0).vxQueue.length < 16 ∧ ((b.tile 0).gx false).queue.length < 8 ∧
       inStore ((b.thread t.key).getX 5).toNat 64 = true ∧ ((b.thread t.key).getX 6).toNat % 2 = b2n false) ∧
    (let s := base.modTile 0 fun y => { y with mxQueue := List.replicate 16 ⟨0, 0⟩ }
     s.issuer t = some 0 ∧ (s.thread t.key).st = .ready ∧ 16 ≤ ((s.beat t 0).tile 0).mxQueue.length) := by decide +kernel

theorem witness_MatrixOperationsRunAndDrain :
    let r : MxRun := ⟨⟨0, 0⟩, [], 0, 0, false, false, false⟩
    (let s := base.modTile 0 fun y => { y with mxQueue := [⟨0, 0⟩] }
     s.compOfTile 0 = some 0 ∧ (s.tile 0).mxQueue = [⟨0, 0⟩] ∧ s.running 0 = true ∧ (s.tile 0).dom = .on ∧
       (s.tile 0).mxRuns = [] ∧ s.mxHeld 0 0 = false) ∧
    (let s := base.modTile 0 fun y => { y with mxRuns := [r] }
     s.compOfTile 0 = some 0 ∧ (s.tile 0).mxRuns = [r] ∧ s.running 0 = true ∧
       (s.tile 0).mxRuns.find? (fun r => Mx.acc r.desc.bits = (0 : Fin 8).val) = some r ∧ (s.tile 0).accErr = none) := by
  decide +kernel
/-- Zero descriptor, K_TILES 0: the accumulation goes through; with INIT at an address without a header it stops. -/
theorem witness_MatrixOperationsRunAndDrain_computes :
    (∃ acc g tiles, base.mxCompute 0 0 0 = (.inr acc, g, tiles)) := ⟨_, _, _, rfl⟩
theorem witness_MatrixOperationsRunAndDrain_stops :
    (∃ e g tiles, base.mxCompute 0 0 (2 ^ 32) = (.inl e, g, tiles)) := ⟨_, _, _, rfl⟩

theorem witness_VectorChainsRunAndComplete :
    let q : VxDesc := ⟨List.replicate 32 0 |>.set 4 1, 0⟩
    let r : VxRun := ⟨0, 0, false, 0, 0⟩
    (let s := base.modTile 0 fun y => { y with vxQueue := [q] }
     s.compOfTile 0 = some 0 ∧ (s.tile 0).vxQueue = [q] ∧ (s.tile 0).vxRun = none ∧ s.running 0 = true ∧
       (s.tile 0).dom = .on ∧ (s.vxRun 0 0 q.bytes (some 0)).stop = some (vxPlain 0x0309) ∧ (s.tile 0).vregErr = none) ∧
    (let s := base.modTile 0 fun y => { y with vxRun := some r }
     s.compOfTile 0 = some 0 ∧ (s.tile 0).vxRun = some r ∧ s.running 0 = true) := by decide +kernel

theorem witness_ThreadInstructionsRun :
    let t : ThreadId := ⟨0, 0, 0⟩
    -- addi x5, x0, 7 at the pc
    let s := base.modTile 0 fun y => { y with prog := writeBytes [] 0 (leBytes 4 0x00700293) }
    let h : Thread := { base.thread 0 with yhandler := 2 ^ 57, yevents := 2, yevmask := 2 }
    (base.issuer t = some 0 ∧ base.fetchAt t = some (0, 2) ∧ (base.thread t.key).ra = none) ∧
    (s.issuer t = some 0 ∧ (s.thread t.key).ra = none ∧ (s.thread t.key).st = .ready ∧
      s.fetchAt t = some (0x00700293, 4) ∧ s.mustWait t (rvEff (s.thread t.key) 0x00700293 4) = false) ∧
    (let r : RunAhead := ⟨[], [], 0, 2 ^ 57, 0, 0, [], 0, [], false, true⟩
     let s := s.setThread 0 { s.thread 0 with st := .runahead, ra := some r }
     s.issuer t = some 0 ∧ (s.thread t.key).ra = some r ∧ s.fetchAt t = some (0x00700293, 4)) ∧
    (let s := base.setThread 0 { base.thread 0 with pc := 0 }
     s.issuer t = some 0 ∧ (s.thread t.key).st = .ready ∧ s.fetchAt t = none) ∧
    (let s := base.setThread 0 h
     (s.thread t.key).inHandler = false ∧ (s.thread t.key).yhandler ≠ 0 ∧ s.issuer t = some 0 ∧
       (s.thread t.key).st = .ready ∧
       firstBelow 4 (fun b => (s.thread t.key).yevents.testBit b && (s.thread t.key).yevmask.toNat.testBit b) = some 1) ∧
    (let b := base.beat t 0
     (b.thread 1).st = .idle ∧ 0 < b.threadsOf 0) := by decide +kernel

theorem witness_LoadsStoresAndAtomicsRun :
    let t : ThreadId := ⟨0, 0, 0⟩
    let p := base.setTile 0 { base.tile 0 with poison := [(1, true)] }
    let th := put base [(objAt Obj.prepCompLatencyMode 0, 1)]
    base.issuer t = some 0 ∧ (base.thread t.key).st = .ready ∧ base.storesOpen t = false ∧ base.fenceOpen t 1 = true ∧
    3 % 2 ^ 1 ≠ 0 ∧ placeOf (2 ^ 58) (2 ^ 3) = .other ∧ placeOf (2 ^ 56 + 64) (2 ^ 3) = .store 64 ∧
    (2 ^ 56 + 64) % 2 ^ 3 = 0 ∧ p.tsPoisoned 0 64 (2 ^ 3) = true ∧ base.tsPoisoned 0 64 (2 ^ 3) = false ∧
    placeOf 4096 (2 ^ 3) = .span 4096 ∧ (put base [(objAt Obj.prepCompLatencyMode 0, 0)]).threaded 0 = false ∧
    th.threaded 0 = true ∧ (th.translate 0 0 0).permits 0 .thread .read 0 = false ∧
    (∀ l ∈ ((th.translate 0 0 0).core 0).pref, l.line ≠ 64) := by decide +kernel

theorem witness_RunAheadSavesAndRestores :
    let t : ThreadId := ⟨0, 0, 0⟩
    let a : PendAcc := ⟨5, false, 3, false, .read, 4096, 4, false⟩
    let r : RunAhead := ⟨[], [], 0, 2 ^ 57, 0, 0, [], 0, [], false, true⟩
    let x : Slot := ⟨.thread 0, .pseudo 0, 4096, 8, .read, [], false, 0, false, some ⟨0, []⟩⟩
    let s0 := put base [(objAt Obj.prepCompLatencyMode 0, 1), (objAt Obj.prepCompRunahead 0, 1)]
    (let s := s0.setThread 0 { Thread.init with st := .stalled, acc := some a }
     s.compOfTile 0 = some 0 ∧ (s.thread t.key).acc = some a ∧ s.running 0 = true ∧ s.threaded 0 = true ∧
       s.objC Obj.prepCompRunahead 0 = 1 ∧ (s.thread t.key).ra = none ∧ s.objC Obj.prepCompRaEntryBeats 0 ≤ 10000) ∧
    (let s := (s0.setThread 0 { Thread.init with st := .runahead, acc := some a, ra := some r }).setSlot 0 3 (some x)
     s.compOfTile 0 = some 0 ∧ (s.thread t.key).st = .runahead ∧ (s.thread t.key).ra = some r ∧
       s.objC Obj.prepCompRaMaxBeats 0 ≤ 1000000 ∧ (3, some x) ∈ (s.tile 0).slots ∧ s.issuer t = some 0) ∧
    (let s := base.setCore 0 ⟨5000, [⟨9, [], 100⟩], 7⟩
     ⟨9, [], 100⟩ ∈ (s.core 0).pref ∧ 100 + 4096 ≤ (s.core 0).cycle) := by decide +kernel

theorem witness_RequestSlotsAreServed :
    let x : Slot := ⟨.thread 0, .pseudo 0, 4096, 8, .read, [], false, base.now, false, none⟩
    let y : Slot := { x with reply := some ⟨0, []⟩ }
    let w : Slot := { x with who := .store 0, kind := .write, reply := some ⟨0, []⟩ }
    let a : PendAcc := ⟨5, false, 3, false, .read, 4096, 4, false⟩
    let q : Parked := ⟨.thread 0, .pseudo 0, 4096, 8, .read, []⟩
    (let s := base.setSlot 0 3 (some x)
     s.slotAt 0 3 = some x ∧ s.compOfTile 0 = some 0 ∧ x.reply = none ∧ (s.comp 0).held = [] ∧ s.owner 0 4096 = .nowhere) ∧
    (let s := (put base [(objAt Obj.spanCompJobId 0, 9)]).modComp 0 fun c => { c with segs := [1 + 2 ^ 80] }
     s.compOfJob 9 = some 0 ∧ s.owner 0 64 = .page 0 64 ∧ 64 % 64 + 64 ≤ 64 ∧ s.compOfJob 8 = none) ∧
    (let s := base.setSlot 0 3 (some y)
     s.slotAt 0 3 = some y ∧ y.reply = some ⟨0, []⟩ ∧ s.now ≤ y.issued + 2000) ∧
    (w.who = .store 0 ∧ w.kind = .write) ∧
    (let s := base.setThread 0 { Thread.init with st := .stalled, acc := some a }
     (s.thread 0).st ≠ .runahead ∧ (s.thread 0).acc = some a) ∧
    (let s := base.modTile 0 fun y => { y with parked := [q] }
     (s.tile 0).parked.findIdx? (fun q => (s.slotOpen 0 0 q.target).isSome) = some 0 ∧ (s.tile 0).parked[0]? = some q ∧
       s.slotOpen 0 0 q.target = some 0) ∧
    (let e : MetaEnt := ⟨0, 0, 0, 0, 0, false⟩
     let s := base.modComp 0 fun c => { c with cache := [(5, [e])] }
     (kget [] (s.comp 0).cache 5)[0]? = some e) := by decide +kernel

theorem witness_GatherDescriptorsRunAndComplete :
    let r : GxRun := ⟨⟨0, 0⟩, 0, [], 0, 0, 0, 0, false, [], 0x0408, 0, 0⟩
    let ring : GxRun := { r with desc := ⟨2 ^ 14, 0⟩ }
    (let s := base.setGx 0 false ⟨[⟨0, 0⟩], none⟩
     s.engineComp 0 = some 0 ∧ ((s.tile 0).gx false).run = none ∧ ((s.tile 0).gx false).queue = [⟨0, 0⟩]) ∧
    (let s := base.setGx 0 true ⟨[], some r⟩
     s.engineComp 0 = some 0 ∧ ((s.tile 0).gx true).run = some r ∧ r.status ≠ 0 ∧ s.gxHeld 0 0 true = false) ∧
    (let s := base.setGx 0 true ⟨[], some ring⟩
     s.engineComp 0 = some 0 ∧ ((s.tile 0).gx true).run = some ring) := by decide +kernel

theorem witness_LossScaleFollowsTheVerdict : (1 : Nat) ≤ 2 ∧ Ctl.lossLog2 (24 <<< 64) ≤ 24 := by decide +kernel

theorem witness_VerdictsAndPlumbLinesAreTaken :
    -- verdict line of step 1, CLEAN, at address 0; plumb line of step 1 at address 64
    let s := ((put base [(objAt Obj.numCompTableBase 0, 65536), (objAt Obj.numCompVerdictPeg 0, 70),
      (objAt Obj.updCompPlumbPeg 0, 71), (objAt Obj.updCompPlumbAddr 0, 64)]).modComp 0 fun c => { c with segs := [1 + 2 ^ 80 + 2 ^ 8] }).setPage 0 0
        { Page.init with loc := .hbm 0 0, live := [(0, true), (1, true)] }
    let v := ((s.modComp 0 fun c => { c with mem := writeBytes [] 0 [1] }).setPeg 70 ⟨1, []⟩)
    let p := ((s.modComp 0 fun c => { c with mem := writeBytes [] 64 [1] }).setPeg 71 ⟨1, []⟩)
    v.unitsRun 0 = true ∧ v.advances 0 unitVerdict (v.objC Obj.numCompVerdictPeg 0) ≠ 0 ∧
    (let q := (v.actOn 0 unitVerdict).unitFetch 0 (v.objC Obj.numCompVerdictAddr 0) 64 none
     ((q.1.map fun b => fld (leNat b) 63 0) = some (Ctl.lastStep (q.2.control 0) + 1)) ∧
       ((q.1.map fun b => (fld (leNat b) 71 64, fld (leNat b) 127 72, fld (leNat b) 511 192)) = some (0, 0, 0))) ∧
    p.unitsRun 0 = true ∧ p.advances 0 unitPlumb (p.objC Obj.updCompPlumbPeg 0) ≠ 0 ∧
    (let q := (p.actOn 0 unitPlumb).unitFetch 0 ((p.actOn 0 unitPlumb).objC Obj.updCompPlumbAddr 0) 64 none
     q.1.isSome = true) ∧
    (let b := (base.setPeg 0 ⟨1, []⟩)
     b.unitsRun 0 = true ∧ b.advances 0 unitVerdict (b.objC Obj.numCompVerdictPeg 0) ≠ 0 ∧
       ((b.actOn 0 unitVerdict).unitFetch 0 (b.objC Obj.numCompVerdictAddr 0) 64 none).1 = none ∧
       b.advances 0 unitPlumb (b.objC Obj.updCompPlumbPeg 0) ≠ 0 ∧
       ((b.actOn 0 unitPlumb).unitFetch 0 ((b.actOn 0 unitPlumb).objC Obj.updCompPlumbAddr 0) 64 none).1 = none) ∧
    (let s := base.modUpd 0 fun u => { u with lines := [(1, 0, 0, 0)] }
     s.unitsRun 0 = true ∧ (s.comp 0).upd.lines = [(1, 0, 0, 0)]) := by decide +kernel

theorem witness_UpdateRingEntriesRunToTheirResult :
    -- layer 0 has tag 1; the ring at address 0 holds a commit of layer 1, step 1, its record at address 64
    let e := 0x61 + 2 ^ 16 + 2 ^ 64 + 64 * 2 ^ 224
    let lay := 1 + 2 ^ 16
    let b := (put base [(objAt Obj.updCompLayerTable 0, 8192), (objAt Obj.updCompLayerCount 0, 1), (objAt Obj.updCompCommitDeadlineUs 0, 1),
      (objAt Obj.updCompRingPeg 0, 70)]).modComp 0 fun c =>
        { c with segs := [1 + 2 ^ 80 + 3 * 2 ^ 8], mem := writeBytes (writeBytes [] 8192 (leBytes 128 lay)) 0 (leBytes 64 e) }
    let s := (b.setPage 0 0 { Page.init with loc := .hbm 0 0, live := [(0, true)] }).setPeg 70 ⟨1, []⟩
    let x : UpdEntry := ⟨0, e, 0, 0, .waiting⟩
    let w := s.modUpd 0 fun u => { u with opened := [x] }
    let cf : Conf := ⟨1, some (0, 0), some 0, some (0, 0, true)⟩
    let r (v : Nat) := s.modComp 0 fun c => { c with mem := writeBytes c.mem 0 (leBytes 64 v) }
    let f := s.unitFetch 0 (s.objC Obj.updCompRingAddr 0 + (s.comp 0).upd.taken % 1 * 64) 64 none
    let g := (r 0).unitFetch 0 (s.objC Obj.updCompRingAddr 0 + (s.comp 0).upd.taken % 1 * 64) 64 none
    let tk (s1 : State) := (s1.modUpd 0 fun u => { u with taken := u.taken + 1, nextId := u.nextId + 1 }).unitPost 0
      (s1.objC Obj.updCompTakenPeg 0)
    s.running 0 = true ∧ s.unitsRun 0 = true ∧
    ((s.peg (s.objC Obj.updCompRingPeg 0)).value + 2 ^ 32 - (s.comp 0).upd.taken % 2 ^ 32) % 2 ^ 32 ≠ 0 ∧
    f.1.map leNat = some e ∧ (tk f.2).ueSound 0 e = true ∧ ((tk f.2).layerTagged 0 (Ue.tag e)).isSome = true ∧
    g.1.map leNat = some 0 ∧ (tk g.2).ueSound 0 0 = false ∧
    (w.openEntry 0 0 = some x ∧ Ue.commit x.raw = true ∧ w.commitFirst 0 x.raw = true ∧
      w.layerTagged 0 (Ue.tag x.raw) = some (0, lay) ∧ Lay.torn lay = false ∧ Lay.lastCommit lay < Ue.step x.raw ∧
      w.stepDropped 0 (Ue.step x.raw) = false ∧ w.confOf 0 (Ue.step x.raw) = none ∧
      w.objC Obj.updCompCommitDeadlineUs 0 * 1000 < w.now - x.t0 - x.paused) ∧
    (let k := w.modUpd 0 fun u => { u with confs := [cf] }
     k.confOf 0 1 = some cf ∧ k.openEntry 0 0 = some x) ∧
    (let k := w.modUpd 0 fun u => { u with dropped := [1] }
     k.stepDropped 0 1 = true ∧ k.openEntry 0 0 = some x) ∧
    (let k := w.modComp 0 fun c => { c with mem := writeBytes c.mem 8192 (leBytes 128 (lay + 2 ^ 640)) }
     k.layerTagged 0 (Ue.tag x.raw) = some (0, lay + 2 ^ 640) ∧ Lay.torn (lay + 2 ^ 640) = true ∧
       k.openEntry 0 0 = some x) ∧
    (let k := w.modUpd 0 fun u => { u with opened := [⟨0, e, 0, 0, .copying⟩] }
     k.openEntry 0 0 = some ⟨0, e, 0, 0, .copying⟩ ∧ k.layerTagged 0 1 = some (0, lay)) ∧
    (let k := w.modUpd 0 fun u => { u with opened := [⟨0, e + 1, 0, 0, .filling⟩] }
     k.openEntry 0 0 = some ⟨0, e + 1, 0, 0, .filling⟩ ∧ k.layerTagged 0 1 = some (0, lay)) := by decide +kernel

theorem witness_PegTokensAreConserved :
    (let s := base.setPeg 70 ⟨2, [.local 0 3, .local 1 5]⟩
     (s.pegAdd false 70 4).isSome = true) ∧
    (let s := put base [(objAt Obj.spanCompPegGroups 0, 2)]
     s.pegOwned 0 70 = true ∧ s.pegSeq 0 70 = false ∧ (1 : Nat) ≤ 5 ∧ 5 < 2 ^ 31) := by decide +kernel

theorem witness_PegOperationsRun :
    let t : ThreadId := ⟨0, 0, 0⟩
    let own := put base [(objAt Obj.spanCompPegGroups 0, 6), (objAt Obj.spanCompPegKind 0, 4), (objAt Obj.spanCompJobId 0, 9)]
    base.issuer t = some 0 ∧ (base.thread t.key).st = .ready ∧ base.storesOpen t = false ∧
    Hnd.bad (2 ^ 15) = true ∧ Hnd.bad 70 = false ∧ Hnd.remote 70 = false ∧
    ((own.compEvent 0 0xA1 1).pegPerform 0 .read (Hnd.peg 70) 0).1 = .done 0 ∧
    ((own.compEvent 0 0xA1 1).pegPerform 0 .post (Hnd.peg 70) 0).1 = .refused 0x0704 ∧
    ((own.compEvent 0 0xA1 1).pegPerform 0 .try_ (Hnd.peg 70) 1).1 = .wait ∧
    ((own.compEvent 0 0xA1 1).pegPerform 0 .wait (Hnd.peg 70) 1).1 = .wait ∧
    base.pegOwned 0 70 = false ∧ own.pegOwned 0 70 = true ∧ own.pegSeq 0 70 = false ∧ own.pegOwned 0 130 = true ∧
    own.pegSeq 0 130 = true ∧ pegArgOk .post (own.pegSeq 0 70) 0 = false ∧
    (let s := own.setPeg 70 ⟨2 ^ 31 - 1, []⟩
     2 ^ 31 - 1 < (s.peg 70).value + 1) ∧
    own.compOfJob 9 = some 0 ∧ (own.pegPerform 0 .read 70 0).1 = .done 0 ∧ (own.pegPerform 0 .post 70 0).1 = .refused 0x0704 ∧
    (own.pegPerform 0 .try_ 70 1).1 = .wait ∧ (own.pegPerform 0 .wait 70 1).1 = .wait ∧
    (let x : Slot := ⟨.pegOp 0, .module 3, 4096, 8, .read, [], false, 0, true, none⟩
     let s := base.setSlot 0 5 (some x)
     s.pegSlot t = some (5, x) ∧ s.slotAt 0 5 = some x ∧ s.compOfTile 0 = some 0 ∧
       x.issued + s.obj Obj.spanRemoteTimeoutMs * 1000000 ≤ s.now) ∧
    (let s := base.setThread 0 { Thread.init with st := .waiting, waitPeg := some ⟨5, 70, some 3⟩ }
     s.pegSlot t = none ∧ (s.thread t.key).st = .waiting ∧ (s.thread t.key).waitPeg = some ⟨5, 70, some 3⟩) := by decide +kernel

theorem witness_ClearingWritesEmptyTheirRecords :
    let b := put { State.reset with mode := .run, comps := [(0, { Comp.init with st := .forming })] } []
    [Obj.mxCompTrapClear, Obj.vxCompTrapClear, Obj.prepCompFaultClear, Obj.numCompEventClear, Obj.updCompEventClear,
      Obj.spanCompSegClear, Obj.tierCompEventClear, Obj.fabCompNodeMapClear, Obj.integCompEventClear,
      Obj.evCompPhaseClear].all (fun k => b.checkWrite (.compartment 0) (objAt k 0) 1 = .ok &&
        b.checkWrite (.compartment 0) (objAt k 0) 0 = .ok && b.checkWrite (.compartment 1) (objAt k 0) 1 ≠ .ok) = true ∧
    ({ b with mode := .service }).checkWrite .management Obj.faultClear 1 = .ok ∧
    ({ b with mode := .service }).checkWrite .management Obj.faultClear 0 = .ok ∧
    b.checkWrite (.compartment 0) Obj.faultClear 1 ≠ .ok := by decide +kernel

theorem witness_MemoryWritesTakeTheirValue :
    let b := put { State.reset with mode := .run, comps := [(0, { Comp.init with st := .forming })] }
      [(objAt Obj.spanCompJobModules 0, 1), (objAt Obj.compGeometry 0, 1 + 2 ^ 16)]
    let seg := 1 + 2 ^ 80 + 3 * 2 ^ 8
    let de := 0x71 + 2 ^ 16 + 2 ^ 96
    (b.checkWrite (.compartment 0) (objAt Obj.spanCompSegWrite 0) seg = .ok ∧ b.segFits 0 seg = true ∧
      b.checkWrite (.compartment 0) (objAt Obj.spanCompSegWrite 0) 0 = .ok ∧ b.segFits 0 0 = false ∧
      b.checkWrite (.compartment 1) (objAt Obj.spanCompSegWrite 0) 0 ≠ .ok) ∧
    (b.checkWrite (.compartment 0) (objAt Obj.tierCompDefineWrite 0) de = .ok ∧ Pe.kind de = 0x71 ∧ Pe.result de = 0 ∧
      Pe.peg de = 0 ∧ Pe.pegEn de = false ∧ Pe.kind (de + 2 ^ 47) = 0x71 ∧ Pe.pegEn (de + 2 ^ 47) = true ∧
      b.checkWrite (.compartment 0) (objAt Obj.tierCompDefineWrite 0) (de + 2 ^ 47) = .ok ∧
      b.checkWrite (.compartment 1) (objAt Obj.tierCompDefineWrite 0) 0 ≠ .ok) ∧
    (let m := { b with mode := .ready }
     m.checkWrite .management Obj.tierLendOffer 2 = .ok ∧
      (List.range 48).all (fun g => !(2 : Nat).testBit g || (List.range 8).all fun n => !(m.groups n).testBit g) = true ∧
      m.checkWrite (.compartment 0) Obj.tierLendOffer 2 ≠ .ok) ∧
    (b.checkWrite .management (objAt Obj.tierCompLentQuotaGib 0) 1 = .ok ∧ Role.manages .management = true ∧
      b.leasesHeld 0 false = 0 ∧ b.checkWrite (.compartment 0) (objAt Obj.tierCompLentQuotaGib 1) 1 ≠ .ok) ∧
    (b.checkWrite (.compartment 0) (objAt Obj.integKrDesc 0) 0 = .ok ∧ b.krFits 0 0 0 = true ∧
      b.krFits 0 0 (2 ^ 127) = false ∧ b.checkWrite (.compartment 0) (objAt Obj.integKrDesc 0) (2 ^ 127) = .ok ∧
      b.checkWrite (.compartment 1) (objAt Obj.integKrDesc 0) 0 ≠ .ok) := by decide +kernel

theorem witness_JobAndModuleWritesTakeTheirValue :
    let b := put { State.reset with mode := .run, comps := [(0, { Comp.init with st := .forming })] }
      [(objAt Obj.spanCompJobModules 0, 1), (Obj.fabNode, 5)]
    let m := { b with mode := .ready }
    (m.checkWrite .management (fabConfigKey 0) (m.obj (fabConfigKey 0)) = .ok ∧
      m.checkWrite .management (fabConfigKey 7) (m.obj (fabConfigKey 7)) = .ok ∧
      b.checkWrite .fabricPeer (fabConfigKey 0) 0 ≠ .ok) ∧
    (b.checkWrite (.compartment 0) (objAt Obj.fabCompNodeMapWrite 0) 5 = .ok ∧ (b.nodeMapAct 0 5).1 = .ok ∧
      b.checkWrite (.compartment 0) (objAt Obj.fabCompNodeMapWrite 0) 6 = .ok ∧ (b.nodeMapAct 0 6).1 ≠ .ok ∧
      b.checkWrite (.compartment 1) (objAt Obj.fabCompNodeMapWrite 0) 5 ≠ .ok) ∧
    (b.checkWrite (.compartment 0) (objAt Obj.compContribWrite 0) 0x180 = .ok ∧ (b.contribAct 0 0x180).1 = .ok ∧
      b.checkWrite (.compartment 0) (objAt Obj.compContribWrite 0) 0x80 = .ok ∧ (b.contribAct 0 0x80).1 ≠ .ok ∧
      b.checkWrite (.compartment 1) (objAt Obj.compContribWrite 0) 0 ≠ .ok) ∧
    (b.checkWrite (.compartment 0) (objAt Obj.ckptCompSetWrite 0) 0 = .ok ∧
      b.checkWrite (.compartment 1) (objAt Obj.ckptCompSetWrite 0) 0 ≠ .ok) ∧
    (m.checkWrite .management Obj.powerInputLimitW (m.obj Obj.powerInputLimitW) = .ok ∧
      m.checkWrite (.compartment 0) Obj.powerInputLimitW 0 ≠ .ok) ∧
    (m.checkWrite .management (objAt Obj.powerCompAllotW 0) 200 = .ok ∧
      m.checkWrite (.compartment 0) (objAt Obj.powerCompAllotW 0) 200 ≠ .ok) := by decide +kernel

theorem witness_PlacementEntriesRunToTheirRecord :
    -- object 1 of one page at page 0; the ring at address 0 holds one entry
    let ob (pol : Nat) : PObj := { base := 0, pages := 1, policy := pol, pinned := false, deferred := none, moves := [] }
    let st (o : Option PObj) (e : Nat) := (((put base [(objAt Obj.tierCompRingPeg 0, 70), (objAt Obj.spanCompJobModules 0, 1)]).modComp 0 fun c =>
      { c with segs := [1 + 2 ^ 80 + 3 * 2 ^ 8], mem := writeBytes [] 0 (leBytes 64 e) }).setPage 0 0
        { Page.init with loc := .hbm 0 0, live := [(0, true)] }).setPObj 0 1 o |>.setPeg 70 ⟨1, []⟩
    let f (o : Option PObj) (k e : Nat) : Option (Nat × Nat × State) := (st o e).peTake 0 (fun x => x = k) none
    let got (q : Option (Nat × Nat × State)) (e : Nat) (p : PObj → State → Bool) : Bool :=
      match q with
      | some (_, e', s1) => e' = e && Pe.sound e && (match s1.pobj 0 (Pe.obj e) with | some o => p o s1 | none => false)
      | none => false
    let en (k : Nat) := k + 2 ^ 16
    let s := st none 0x71
    s.running 0 = true ∧ ((s.peg (s.objC Obj.tierCompRingPeg 0)).value + 2 ^ 32 - (s.comp 0).pTaken % 2 ^ 32) % 2 ^ 32 ≠ 0 ∧
    (s.comp 0).pOpen.length < 64 ∧ (s.peTake 0 (fun k => k = 0x71 || k < 0x71 || 0x76 < k) none).isSome = true ∧
    got (f (some (ob 0)) 0x72 (en 0x72)) (en 0x72) (fun _ _ => !Pe.pin (en 0x72)) = true ∧
    got (f (some (ob 0)) 0x72 (en 0x72 + 2 ^ 8)) (en 0x72 + 2 ^ 8)
      (fun o _ => Pe.pin (en 0x72 + 2 ^ 8) && Pol.home o.policy = 0 && o.moves.isEmpty) = true ∧
    got (f (some { ob 0 with moves := [⟨.evict 1, [], 0⟩] }) 0x72 (en 0x72 + 2 ^ 8)) (en 0x72 + 2 ^ 8)
      (fun o _ => Pe.pin (en 0x72 + 2 ^ 8) && Pol.home o.policy = 0 && o.moves = [⟨.evict 1, [], 0⟩]) = true ∧
    got (f (some (ob 4)) 0x73 (en 0x73 + 2 ^ 160)) (en 0x73 + 2 ^ 160) (fun o _ => Pol.permits o.policy 1) = true ∧
    got (f (some (ob 0)) 0x74 (en 0x74)) (en 0x74) (fun _ _ => true) = true ∧
    got (f (some (ob 0x20)) 0x75 (en 0x75 + 2 ^ 352)) (en 0x75 + 2 ^ 352)
      (fun o s1 => s1.streamFits 0 (en 0x75 + 2 ^ 352) o && !Pol.measured o.policy) = true ∧
    got (f (some (ob 0xA0)) 0x75 (en 0x75 + 2 ^ 352)) (en 0x75 + 2 ^ 352)
      (fun o s1 => s1.streamFits 0 (en 0x75 + 2 ^ 352) o && Pol.measured o.policy) = true ∧
    got (f (some (ob 0)) 0x76 (en 0x76)) (en 0x76) (fun _ _ => true) = true ∧
    [0x72, 0x73, 0x74, 0x75, 0x76].all (fun k => match f none k (en k) with
      | some (_, e, s1) => s1.pobj 0 (Pe.obj e) = none
      | none => false) = true := by decide +kernel

theorem witness_PagesMoveInTheirSteps :
    let w (x : Page) := base.setPage 0 3 x
    let h : Page := { Page.init with loc := .flash 0 0, want := true }
    let k := put base [(objAt Obj.integKrDesc 0, 1 + 2 ^ 16)]
    let f : Page := { Page.init with loc := .flash 0 0 }
    ((w h).spage 0 3 = h ∧ (w h).pageUnver 0 3 = false ∧ (match (w h).moveFrame 0 3 with | some (none, _) => true | _ => false) = true ∧
      (match (k.setPage 0 3 h).moveFrame 0 3 with | some (some _, _) => true | _ => false) = true ∧
      (k.setPage 0 3 h).spage 0 3 = h ∧ (k.setPage 0 3 h).pageUnver 0 3 = false ∧ (w h).evacuating 0 3 = false) ∧
    ((w { h with dest := .hbm 0 1 }).spage 0 3).dest ≠ .nowhere ∧
    ((w { h with dest := .flash 0 1, final := true }).spage 0 3).dest.tier = 2 ∧
    ((w f).spage 0 3).loc = .flash 0 0 ∧ (w f).pageUnver 0 3 = false ∧
    ((w f).spage 0 3).dest = .nowhere ∧ ((w f).obj Obj.tierFlashReadonlyMap).testBit 0 = false ∧
    (match freeIndex [0] flashPerChannel 2 0 with | some _ => true | none => false) = true := by decide +kernel

theorem witness_LenderLeasesLiveAndReturn :
    let x : LeaseOut := { group := 1, slot := 0, node := 7, job := 1, comp := 0, ckpt := false, st := .granted, heard := 0,
                          mem := [] }
    let s := put ({ State.reset with mode := .run, time := 65536 * 10 ^ 12 }.setLeaseOut 10 (some x)) [(Obj.tierLendOffer, 2)]
    ((((bitsOf 48 (s.obj Obj.tierLendOffer)).filter fun g =>
      !(List.range 8).any fun n => (s.groups n).testBit g).flatMap fun g =>
      (List.range 10).map fun i => 10 * g + i).filter
      fun k => (s.leaseOut k).isNone) ≠ [] ∧ bitsOf 48 (State.reset.obj Obj.tierLendOffer) = [] ∧
    s.leaseOut 10 = some x ∧ x.heard + s.obj Obj.tierLendOrphanS * 1000000000 ≤ s.now ∧
    (s.setLeaseOut 10 (some { x with st := .scrubbing })).leaseOut 10 = some { x with st := .scrubbing } ∧
    s.checkWrite .management Obj.tierLendForceRelease 10 = .ok ∧ s.leaseOut 11 = none ∧
    s.checkWrite .management Obj.tierLendForceRelease 11 = .ok ∧
    s.checkWrite .management Obj.tierLendReclaim 1 = .ok ∧ s.checkWrite .observer Obj.tierLendReclaim 1 ≠ .ok := by
  decide +kernel

theorem witness_BorrowedLeasesAreHeldAndLost :
    -- lender node 7 listed, lease 3 of range 0 held with page 3 in it, then past its notice
    let l : Lease := ⟨7, some 0, 0, some 0, 0⟩
    let key := leaseKey 7 3
    let b := put base [(objAt Obj.tierCompLentQuotaGib 0, 1), (objAt Obj.tierCompCkptQuotaGib 0, 1),
      (objAt Obj.integKrDesc 0, 2 ^ 127 - 1)]
    let e := b.modComp 0 fun c => { c with leases := [(key, some l)] }
    let f := e.setPage 0 3 { Page.init with loc := .lent key 0 }
    let g := b.modComp 0 fun c => { c with leases := [(key, some ⟨7, none, 0, some 0, 0⟩)] }
    b.leasesHeld 0 true = 0 ∧ b.leasesHeld 0 false = 0 ∧ kget none (b.comp 0).leases key = none ∧
    0 < Kr.leaseMax (b.krDesc 0 0) ∧ e.inLease 0 key = [] ∧ f.inLease 0 key ≠ [] ∧
    kget none (f.comp 0).leases key = some l ∧ kget none (g.comp 0).leases key = some ⟨7, none, 0, some 0, 0⟩ ∧
    f.leasesFrom 0 7 ≠ [] ∧ f.hops 7 (f.portsOf 0) = [] := by decide +kernel

theorem witness_PortsTrainAndKey :
    let w (x : Port) : State := { State.reset with mode := .run, time := 65536 * 10 ^ 9 }.setPort 3 x
    let k : Port := { Port.init with st := .keying, width := 4 }
    let f (m : BitVec 8) (b n : Nat) : KeyFrame :=
      { sound := true, msg := m, bytes := BitVec.ofNat 32 b, frags := BitVec.ofNat _ n, frag := 0, addr := 0, port := 0, verifies := true }
    ((w { Port.init with st := .isolated }).port 3).st = .isolated ∧
    (w { Port.init with st := .isolated }).checkWrite .management Obj.fabPortRearm 3 = .ok ∧
    (put (w { Port.init with st := .isolated }) [(Obj.fabDims, 4 + 2 ^ 16 + 2 ^ 32 + 2 ^ 48), (Obj.fabSpanTag, 1)]).fabConfigured = true ∧
    (w k).checkWrite .observer Obj.fabPortRearm 3 ≠ .ok ∧
    ((w { Port.init with st := .training }).port 3).st = .training ∧ (w k).port 3 = k ∧
    keyFits (f 1 31436 16) = true ∧ keyFits (f 2 1568 1) = true ∧
    (w k).now = 10 ^ 9 ∧ k.msgAt + 1000000 ≤ 10 ^ 9 ∧ k.keyAt + 50000000 ≤ 10 ^ 9 := by decide +kernel

theorem witness_FramesLeaveAndArriveInOrder :
    let up : Port := { Port.init with st := .up, width := 4, avail := [(0, 8)], share := 8 }
    let w (x : Port) : State := { State.reset with mode := .run, time := 65536 * 10 ^ 9 }.setPort 3 x
    let f (h : Nat) (t : Bool) : RxFrame := { header := BitVec.ofNat _ h, tagOk := t }
    -- a torus of 4 by 1 by 1 by 1, this node 0, a packet in transit for node 1 by port 0
    let q : QPkt := { pkt := ⟨0x10, 1, 3, 1, 0, 0, 0, 0, 0, []⟩, comp := none, inPort := none }
    let o := put ({ State.reset with mode := .run, egress := [q] }.setPort 0 { up with retry := [], lastVc := 7 })
      [(Obj.fabTopology, 1), (Obj.fabDims, 4 + 2 ^ 16 + 2 ^ 32 + 2 ^ 48), (Obj.fabSpanTag, 1), (Obj.fabNode, 0)]
    ((w up).port 3).st = .up ∧ (w Port.init |>.port 3).st ≠ .up ∧
    (Fh.sound 0x101 = true ∧ Fh.type 0x101 = 1 ∧ ((w up).frameIn 3 1 (f 0x101 true)).1 = true ∧
      ((w up).frameIn 3 1 (f (0x101 + 2 ^ 16) true)).1 = true ∧ ((w up).frameIn 3 1 (f (0x101 + 2 ^ 27) true)).1 = true ∧
      ((w up).frameIn 3 5 (f 5 true)).1 = true ∧
      kget 0 up.sumAcc 0 - kget 0 up.retTx 0 + Fh.flits 0x101 ≤ shareOf up.share 0) ∧
    (let x := o.port 0
     let qs := (o.queued 0 0).take 1
     x.st = .up ∧ x.ctrTx < 2 ^ 32 - 1 ∧ x.retry = [] ∧ qs.length = 1 ∧ flitSum qs ≤ 32 ∧ flitSum qs ≤ kget 0 x.avail 0 ∧
       x.window + flitSum qs ≤ 2048 ∧
       (List.range 8).find? (fun i => o.canSend 0 ((x.lastVc + 1 + i) % 8)) = some ((0 + 7 - x.lastVc % 8) % 8)) := by
  decide +kernel

theorem witness_CreditsAreAuditedAndKeysRenewed :
    let up : Port := { Port.init with st := .up, width := 4, auditFlits := 2 ^ 20, ctrTx := 2 ^ 32 - 2 }
    let w (x : Port) : State := { State.reset with mode := .run, time := 65536 * 10 ^ 12 }.setPort 3 x
    let f (h : Nat) : RxFrame := { header := BitVec.ofNat _ h, tagOk := true }
    let z : Port := { Port.init with st := .quiesced, gotEncap := true }
    let sl : Slot := { who := .thread 0, target := .module 7, addr := 0, bytes := 8, kind := .read, data := [], lookAhead := false,
                        issued := 0, left := true, reply := none }
    (w up).port 3 = up ∧ ((w up).frameIn 3 3 (f 0x403)).1 = true ∧ ((w up).frameIn 3 4 (f 0x1904)).1 = true ∧
    up.heardAt + 3000 * (w up).obj Obj.fabAuditUs < (w up).now ∧
    (w z).port 3 = z ∧ Fh.sound 0x106 = true ∧ Fh.type 0x106 = 6 ∧
    ((0 : BitVec 12).toNat + 4096 - z.acked) % 4096 ≤ (z.nextSeq + 4096 - z.acked) % 4096 ∧
    (let s := base.setSlot 0 5 (some sl)
     s.compOfTile 0 = some 0 ∧ s.slotAt 0 5 = some sl ∧ sl.reply = none) ∧
    (let s := base.setSlot 0 5 (some { sl with who := .pegOp 0 })
     s.slotAt 0 5 = some { sl with who := .pegOp 0 }) := by decide +kernel

theorem witness_CompartmentCommandsMoveTheirState :
    let w (st : CState) : State := put { State.reset with mode := .run, comps := [(0, { Comp.init with st := st })] }
      [(objAt Obj.compGeometry 0, 1 + 2 ^ 16)]
    let held (k : Nat) := (w .held).setObjC Obj.compHoldCause 0 k
    mayCommand .management 0 1 = true ∧ mayCommand .observer 0 1 = false ∧ mayCommand (.compartment 0) 0 4 = true ∧
    (w .free).geometryBad 0 ((w .free).objC Obj.compGeometry 0) = none ∧ ((w .free).comp 0).st = .free ∧
    (State.reset.geometryBad 0 (State.reset.objC Obj.compGeometry 0)).isSome = true ∧
    (let s := (w .attested).setObjC Obj.rotCompJobKeyInstalled 0 1
     (s.comp 0).st = .attested ∧ s.objC Obj.compHoldCause 0 = 0 ∧
       s.contribValid 0 &&& s.objC Obj.compContribKeyed 0 = s.contribValid 0 ∧ s.objC Obj.rotCompJobKeyInstalled 0 ≠ 0 ∧
       (s.comp 0).ckpt.rest = none ∧ (s.comp 0).ckpt.badRestore = false) ∧
    ((held 0x0A0B).objC Obj.compHoldCause 0 = 0x0A0B ∧ ((held 0x0A0B).comp 0).st = .held) ∧
    ((held 0x0804).objC Obj.compHoldCause 0 = 0x0804 ∧ (held 0x0804).inReclaimed 0 = false) ∧
    ((w .running).openState 0 = true ∧ ((w .running).comp 0).closeAt = none ∧ (w .free).openState 0 = false) ∧
    ((w .forming).comp 0).st = .forming ∧ (w .forming).rot.queue.length < 8 := by decide +kernel

theorem witness_TeardownFreesTheCompartment :
    let w (st : CState) : State := { State.reset with
      mode := .run, time := 65536 * 10 ^ 12, comps := [(0, { Comp.init with st := st, closeAt := some 0 })] }
    let d := (w .running).modComp 0 fun c => { c with ckpt := { c.ckpt with dove := some ⟨0, 0, 0, false, false⟩ } }
    (d.comp 0).closeAt = some 0 ∧ (d.comp 0).ckpt.dove.isSome = true ∧ 0 + d.obj Obj.compCloseDeferMs * 1000000 ≤ d.now ∧
    ((w .running).comp 0).closeAt.isSome = true ∧ ((w .running).comp 0).ckpt.dove = none ∧
    ((w .closing).comp 0).st = .closing := by decide +kernel

theorem witness_TalliesGatherAndReleasesNeedApproval :
    let b := (put base [(objAt Obj.compTallyClosePeg 0, 70), (objAt Obj.spanCompJobModules 0, 1),
      (objAt Obj.compReleaseWindowS 0, 0), (objAt Obj.compReleaseM 0, 1)]).setPeg 70 ⟨1, []⟩
    let t (p : List Nat) := b.modComp 0 fun c => { c with tallies := [⟨1, p, []⟩], sent := [(1, [])], nodes := [5] }
    let o : PObj := { base := 0, pages := 1, policy := 0, pinned := false, deferred := none, moves := [] }
    let x : Release := { obj := 1, step := 0, nonce := 0, digest := 0, since := 0, slots := [], st := 1 }
    let w (rel : Option Release) : State := (b.setPObj 0 1 (some o)).modComp 0 fun c => { c with release := rel }
    (b.unitsRun 0 = true ∧ b.advances 0 unitTally (b.objC Obj.compTallyClosePeg 0) ≠ 0) ∧
    ((0 : Nat) < (t []).objC Obj.spanCompJobModules 0 ∧
      ((t []).comp 0).tallies.find? (fun x => decide (x.step = 1)) = some ⟨1, [], []⟩ ∧
      ((t [0]).comp 0).tallies.find? (fun x => decide (x.step = 1)) = some ⟨1, [0], []⟩ ∧
      (b.comp 0).tallies.find? (fun x => decide (x.step = 1)) = none ∧ (t []).nodeOf 0 0 = some 5 ∧
      ((t []).comp 0).sent.find? (fun q => decide (q.1 = 1)) = some (1, [])) ∧
    ((b.modComp 0 fun c => { c with st := .held }).checkWrite (.compartment 0) (objAt Obj.compReleaseRequest 0) 1 = .ok ∧
      ((w none).comp 0).release = none ∧
      (w none).pobj 0 1 = some o ∧ fld 1 127 16 = 0) ∧
    (((w (some x)).comp 0).release = some x ∧ x.since + (w (some x)).objC Obj.compReleaseWindowS 0 * 1000000000 ≤
      (w (some x)).now) := by decide +kernel
/-- A key whose commitment is the job's, in a record of zeros for slot 255; an approval of zeros by contributor 0. -/
theorem witness_TalliesGatherAndReleasesNeedApproval_keys :
    let b := put { State.reset with mode := .run, comps := [(0, { Comp.init with st := .attested })] }
      [(objAt Obj.rotCompJobKeyCommit 0, keyCommit 5)]
    let rec_ : List Byte := List.replicate 8 0 ++ [0xFF]
    let h := { b with comps := [(0, { Comp.init with
      st := .held, release := some ⟨1, 0, 0, 0, 0, [], 1⟩, contribs := [(0, 2 ^ 7 + digest48 (List.replicate 64 0) * 2 ^ 64)] })] }
    (b.checkWrite .management (objAt Obj.rotCompKeyDeliver 0) (leNat (rec_.take 1680)) = .ok ∧ (b.comp 0).st = .attested ∧
      leNat ((padTo 1680 rec_).take 8) = b.objC Obj.spanCompJobId 0 ∧
      leNat (((padTo 1680 rec_).drop 16).take 48) = b.objC Obj.rotCompTerms 0 ∧
      leNat (((padTo 1680 rec_).drop 9).take 7) = 0 ∧ leNat (((padTo 1680 rec_).drop 8).take 1) = 0xFF ∧
      b.objC Obj.rotCompJobKeyInstalled 0 = 0 ∧ keyCommit 5 = b.objC Obj.rotCompJobKeyCommit 0) ∧
    (let g := { b with comps := [(0, { Comp.init with st := .attested, contribs := [(0, 2 ^ 7 + keyCommit 5 * 2 ^ 448)] })] }
     leNat (((padTo 1680 []).drop 8).take 1) = 0 ∧ (g.objC Obj.compContribKeyed 0).testBit 0 = false ∧
       bit (g.contrib 0 0) 7 = true ∧ keyCommit 5 = fld (g.contrib 0 0) 831 448) ∧
    (h.checkWrite .management (objAt Obj.compReleaseApprove 0) 0 = .ok ∧ bit (h.contrib 0 0) 7 = true ∧
      leNat (([] : List Byte).take 1) = 0 ∧ digest48 (List.replicate 64 0) = fld (h.contrib 0 0) 447 64) := by
  decide +kernel

theorem witness_RootOfTrustReportsAndMeasures :
    let m : State := { State.reset with mode := .service }
    let f (k : Nat) := m.modRot fun r => { r with svn := [(2, k)] }
    let b (st : CState) : State := { State.reset with mode := .run, comps := [(0, { Comp.init with st := st })] }
    m.mode ≠ .off ∧
    ((f 3).checkWrite .management Obj.rotSvnAdvance 2 = .ok ∧ (f 3).svnFused 2 < kget 0 (f 3).rot.svn 2 ∧
      (f 0).checkWrite .management Obj.rotSvnAdvance 2 = .ok ∧ kget 0 (f 0).rot.svn 2 ≤ (f 0).svnFused 2) ∧
    ((b .forming).checkWrite (.compartment 0) (objAt Obj.rotCompReportRequest 0) 7 = .ok ∧
      (b .running).checkWrite (.compartment 0) (objAt Obj.rotCompReportRequest 0) 7 = .ok ∧
      ((b .running).queueReport ⟨some 0, 7⟩).isSome = true ∧
      (((b .running).modRot fun r => { r with queue := List.replicate 8 ⟨none, 0⟩ }).queueReport ⟨some 0, 7⟩) = none) ∧
    ((b .running).checkWrite .management Obj.rotReportRequest 7 = .ok ∧ ((b .running).queueReport ⟨none, 7⟩).isSome = true) ∧
    (let q := (b .running).modRot fun r => { r with queue := [⟨none, 0⟩], signing := some ([], 0) }
     q.rot.signing = some ([], 0) ∧ q.rot.queue = [⟨none, 0⟩]) := by decide +kernel
/-- A stream of object 1 whose only slot is covered by ledger 0, which lies on module 1: the digest read there is whatever that
module answers, so it may be the slot's own or not. -/
theorem witness_RootOfTrustReportsAndMeasures_slot :
    let e := 0x75 + 2 ^ 16 + 2 ^ 352
    let o : PObj := { base := 0, pages := 1, policy := 0xA0, pinned := false, deferred := none, moves := [] }
    let b := ((put base [(objAt Obj.spanCompJobModules 0, 2), (objAt Obj.rotCompLedger 0, 1 + 2 ^ 64 + 65536 * 2 ^ 128)]).modComp 0
      fun c => { c with segs := [1 + 2 ^ 84 + 3 * 2 ^ 8 + 2 ^ 128], pOpen := [⟨0, e, 0⟩] }).setPObj 0 1 (some o)
    ((b.comp 0).pOpen.find? (fun x => decide (x.id = 0) && decide (Pe.kind x.raw = 0x75)) = some ⟨0, e, 0⟩ ∧
      b.pobj 0 (Pe.obj e) = some o ∧ b.covering 0 (Pe.obj e) 0 = some 0 ∧ b.covering 0 (Pe.obj e) 1 = none) ∧
    ∀ d : List Byte, ∃ s1, b.unitFetch 0 (Lg.addr (b.ledgerEntry 0 0) + 48 * (0 - Lg.first (b.ledgerEntry 0 0))) 48
      (some ⟨0, d⟩) = (some (padTo 48 d), s1) := by
  refine ⟨by decide +kernel, fun d => ⟨_, rfl⟩⟩

theorem witness_SpdmRequestsAreAnsweredInOrder :
    let w (f : Spdm → Spdm) : State := { State.reset with mode := .run }.modSpdm f
    let up := w fun q => { q with phase := 3, proved := true, psks := [5] }
    let fin (b : Bool) : SpdmSess := ⟨5, b, 0, []⟩
    (w fun q => { q with phase := 1 }).rot.spdm.phase = 1 ∧ (w fun q => { q with phase := 2 }).rot.spdm.phase = 2 ∧
    (up.spdmUp = true ∧ up.rot.signing = none ∧ (up.modRot fun r => { r with signing := some ([], 0) }).rot.signing ≠ none ∧
      (up.modRot fun r => { r with signing := some ([], 0) }).spdmUp = true ∧ (up.measurement 1).isSome = true ∧
      up.rot.spdm.proved = true ∧ up.rot.spdm.lockTo = none ∧ (5 : BitVec 128).toNat ∈ up.rot.spdm.psks ∧
      firstBelow 4 (fun k => (up.spdmSess k).isNone) = some 0) ∧
    ((up.setSpdmSess 1 (some (fin false))).spdmSess 1 = some (fin false) ∧
      (up.setSpdmSess 1 (some (fin true))).spdmSess 1 = some (fin true)) ∧
    (((w fun q => { q with large := [1] }).rot.spdm.large.drop (4096 * (0 : BitVec 16).toNat)).take 4096 ≠ []) ∧
    (let l := w fun q => { q with phase := 3, lockTo := some 0 }
     l.spdmUp = true ∧ l.rot.spdm.lockTo = some 0 ∧ 0 ≤ l.now) ∧ up.spdmSecured none = false := by decide +kernel

theorem witness_StreamsAndInterfacesKeepTheirStates :
    let w (x : Stream) (t : Nat) : State := ((base.modComp 0 fun c => { c with stream := x }).setObjC Obj.rotCompTdiState 0 t).setSpdmSess
      1 (some ⟨5, true, 0, []⟩)
    (w .insecure 0).spdmSecured (some 1) = true ∧ ((w .insecure 0).comp 0).stream = .insecure ∧
    ((w .programmed 0).comp 0).stream ≠ .insecure ∧ ((w .secure 0).comp 0).stream = .secure ∧ (w .secure 0).tdi 0 = 0 ∧
    ((w .secure 0).comp 0).st = .running ∧ (w .secure 1).tdi 0 = 1 ∧ (w .secure 2).tdi 0 = 2 ∧
    (w .secure 1).spdmSecured none = false := by decide +kernel

theorem witness_DovetailCopiesPostsAndCommits :
    let mk (f : Ckpt → Ckpt) : State := ((((put base [(objAt Obj.ckptCompBoundaryPeg 0, 70), (objAt Obj.spanCompJobModules 0, 1),
      (Obj.ckptAheadTimeoutMs, 1), (objAt Obj.ckptCompDovetailMs 0, 1), (objAt Obj.numCompTableBase 0, 65536)]).setPeg 70 ⟨1, []⟩).modComp
        0 fun c => { c with segs := [1 + 2 ^ 84 + 3 * 2 ^ 8], nodes := [5], mem := writeBytes (writeBytes [] 0 [1]) 65536 [1] }).setPage 0 0
          { Page.init with loc := .hbm 0 0, live := [(0, true)] }).modCkpt 0 f
    let s := mk fun q => { q with set := [1] }
    let e := mk fun q => q
    let d : Dovetail := ⟨1, 0, 0, true, true⟩
    let o := (mk fun q => { q with dove := some d }).setPage 0 3 { Page.init with pending := true, ahead := some 0 }
    let f := s.unitFetch 0 (s.objC Obj.ckptCompBoundaryAddr 0) 64 none
    let y : CkptCopy := ⟨7, [], true⟩
    let l (cs : List CkptCopy) : State := (put (mk fun q => { q with
      slots := [(0, { CkptSlot.init with copies := cs })], rebuilding := [(0, 0)] }) [(objAt Obj.ckptCompMirrors 0, 1), (objAt Obj.tierCompLenders 0, 9)]).modComp 0 fun c =>
        { c with leases := [(leaseKey 9 1, some ⟨9, none, 0, none, 0⟩)] }
    (s.advances 0 unitBoundary (s.objC Obj.ckptCompBoundaryPeg 0) ≠ 0 ∧ (s.comp 0).ckpt.dove = none ∧
      (s.comp 0).closeAt = none ∧ f.1.map leNat = some 1 ∧ (s.comp 0).ckpt.lastBoundary = none ∧
      1 = Ctl.lastStep (s.control 0) ∧ (s.comp 0).ckpt.set ≠ [] ∧ (e.comp 0).ckpt.set = []) ∧
    ((o.comp 0).ckpt.dove = some d ∧ (o.spage 0 3).pending = true ∧ (o.spage 0 3).ahead = some 0 ∧
      (o.comp 0).pages.all (fun q => decide (3 ≤ q.1) || !q.2.pending || q.2.ahead.isSome) = true ∧
      0 + o.obj Obj.ckptAheadTimeoutMs * 1000000 ≤ o.now ∧ (0 : Nat) < o.objC Obj.spanCompJobModules 0 ∧
      o.nodeOf 0 0 = some 5 ∧ d.armedAt + o.objC Obj.ckptCompDovetailMs 0 * 1000000 ≤ o.now) ∧
    ((l [y, y]).ckptSlot 0 0).copies[(0 : Fin 3).val]? = some y ∧ (l [y, y]).copyGone 0 y = true ∧
    ((l [y, y]).ckptSlot 0 0).copies.eraseIdx 0 ≠ [] ∧ ((l [y]).ckptSlot 0 0).copies.eraseIdx 0 = [] ∧
    ((l [y]).ckptSlot 0 0).copies[(0 : Fin 3).val]? = some y ∧ (((l [y]).comp 0).ckpt.dove = none) ∧
    (((l [y]).comp 0).ckpt.rebuilding = [(0, 0)] ∧ y.whole = true ∧
      ((l [y]).addCopy 0 0 true).isSome = true) ∧
    (let h : State := { base with mode := .holdup, time := 65536 * 10 ^ 15 }
     h.modeAt + (h.obj Obj.holdupBudgetS * 1000000000 - h.obj Obj.ckptHoldupMarginMs * 1000000) ≤ h.now) := by
  decide +kernel

theorem witness_RestoreAgreesWritesAndEnds :
    let b (st : CState) (q : Option Restore) : State := put { State.reset with
      mode := .run, time := 65536 * 10 ^ 12, comps := [(0, { Comp.init with
        st := st, ckpt := { Ckpt.init with rest := q, slots := [(0, { CkptSlot.init with step := some 4 })] } })] }
      [(objAt Obj.spanCompJobModules 0, 2), (Obj.ckptRestoreMs, 1)]
    let x : Restore := ⟨7, 0, true, [], [], [], none⟩
    (b .held none).checkWrite (.compartment 0) (objAt Obj.ckptCompRestore 0) 7 = .ok ∧
    (b .held none).checkWrite (.compartment 0) (objAt Obj.ckptCompRestore 0) 0 = .ok ∧
    ((b .held none).comp 0).ckpt.rest = none ∧ (b .held none).contribUnver 0 = false ∧
    ((b .held (some x)).comp 0).ckpt.rest = some x ∧ (1 : Nat) < (b .held (some x)).objC Obj.spanCompJobModules 0 ∧
    x.since + (b .held (some x)).obj Obj.ckptRestoreMs * 1000000 ≤ (b .held (some x)).now ∧
    (let y : Restore := { x with step := some 4 }
     let z : Restore := { x with step := some 5 }
     (match (b .held (some y)).restoreSource 0 4 none with
      | .ok q => ((q.1.restorePols 0 q.2.1).restorePages 0 q.2.2).1 = 0
      | .error _ => false) = true ∧
     (match (b .held (some z)).restoreSource 0 5 none with | .ok _ => false | .error _ => true) = true) := by decide +kernel

theorem witness_PhasesSelectionsAndSnapshots :
    let s := (((put base [(objAt Obj.phaseCompRingPeg 0, 70), (objAt Obj.evCompSnapReqPeg 0, 70),
      (objAt Obj.phaseCompCurrent 0, 1)]).setPeg 70 ⟨1, []⟩).modComp 0 fun c =>
        { c with segs := [1 + 2 ^ 84 + 3 * 2 ^ 8] }).setPage 0 0 { Page.init with loc := .hbm 0 0 }
    s.running 0 = true ∧ ((s.peg (s.objC Obj.phaseCompRingPeg 0)).value + 2 ^ 32 - (s.comp 0).phTaken % 2 ^ 32) % 2 ^ 32 ≠ 0 ∧
    (s.unitFetch 0 (s.objC Obj.phaseCompRingAddr 0) 64 none).1.isSome = true ∧
    s.objC Obj.phaseCompCurrent 0 = 1 ∧
    s.objC Obj.phaseCompCurrentSince 0 + 2000 * Pl.us (s.planEntry 0 1) ≤ s.now ∧
    s.checkWrite (.compartment 0) (objAt Obj.evCompTileSel 0) 0 = .ok ∧ s.checkWrite (.compartment 0) (aggKey 0 0) 0 = .ok ∧
    s.advances 0 unitSnap (s.objC Obj.evCompSnapReqPeg 0) ≠ 0 ∧
    s.checkWrite (.compartment 0) (objAt Obj.evCompSnapNow 0) 1 = .ok := by decide +kernel

theorem witness_SupplyEventsMoveTheModule :
    let h : State := { base with mode := .holdup, time := 65536 * 10 ^ 15 }
    State.reset.mode = .off ∧ base.mode ≠ .off ∧ base.pins.busWarn = false ∧ h.power.paused = false ∧
    h.modeAt + h.obj Obj.holdupBudgetS * 1000000000 ≤ h.now ∧ h.modeAt + h.obj Obj.holdupClearMs * 1000000 ≤ h.now ∧
    44000 ≤ (48000 : BitVec 16).toNat ∧ (39000 : BitVec 16).toNat < 40000 ∧ 58000 < (59000 : BitVec 16).toNat := by decide +kernel

theorem witness_InputPowerIsHeldToItsLimit :
    base.mode ≠ .off ∧ base.power.powerNo < base.now / 100000000 ∧ base.power.windowNo < base.now / 100000 := by
  decide +kernel

theorem witness_QueueLoadsWriteTheirTables :
    let s1 := hostBase .forming (sqe 1 1 4 0 0)
    let s2 := (hostBase .forming (sqe 1 2 64 0 0)).modComp 0 fun c => { c with segs := [1 + 2 ^ 84 + 3 * 2 ^ 8] }
    (s1.headOf 1 0).isSome = true ∧ s1.hostLink = true ∧
    s1.hostRefusal 1 (sqe 1 1 4 0 0) true (loadShape 1) forming = none ∧
    s2.hostRefusal 1 (sqe 1 2 64 0 0) true (loadShape 2) forming = none ∧
    (hostBase .forming (sqe 1 3 128 0 0)).hostRefusal 1 (sqe 1 3 128 0 0) true (loadShape 3) forming = none ∧
    (hostBase .forming (sqe 1 4 4096 0 0)).hostRefusal 1 (sqe 1 4 4096 0 0) true (loadShape 4) forming = none ∧
    (hostBase .forming (sqe 1 5 65536 0 0)).hostRefusal 1 (sqe 1 5 65536 0 0) true (loadShape 5) forming = none ∧
    (hostBase .forming (sqe 1 6 0 0 0)).hostRefusal 1 (sqe 1 6 0 0 0) true (loadShape 6) forming = none ∧
    (hostBase .held (sqe 1 1 4 0 0)).hostRefusal 1 (sqe 1 1 4 0 0) true (loadShape 1) forming = some (.stateConflict, 0x1010) ∧
    s1.hostRefusal 1 (sqe 1 1 3 0 0) true (loadShape 1) forming = some (.outOfRange, 0x1002) ∧
    s2.inSpan 0 0 64 = true ∧ ((pagesIn 0 64).any fun p => (s2.contribOf 0 (s2.rangeAt 0 p)).isSome) = false ∧
    (pagesIn 0 64).any (s2.tableBarred 0) = false := by decide +kernel

theorem witness_QueueCommandsMoveDataAndOperatePegs :
    let seg (s : State) : State := (s.modComp 0 fun c => { c with
      segs := [1 + 2 ^ 84 + 3 * 2 ^ 8], pobjs := [(5, some ⟨0, 4, 0, false, none, []⟩)] }).setPage 0 0
      { Page.init with loc := .hbm 0 0 }
    let at_ (st : CState) (op len target : Nat) : State := seg (hostBase st (sqe op 0 len target 0))
    let i := ((at_ .running 2 65616 0).setObj (objAt Obj.compContribKeyed 0) 1).modComp 0 fun c => { c with contribs := [(0, 2 ^ 7 + 2 ^ 8)] }
    let b := padTo 65616 (leBytes 16 0 ++ leBytes 8 1)
    let w := at_ .running 3 64 0
    let x := (at_ .running 4 65872 0).setObj (objAt Obj.rotCompJobKeyInstalled 0) 1
    let r := (at_ .held 5 65536 0).modComp 0 fun c => { c with release := some ⟨5, 0, 0, 0, 0, [], 2⟩ }
    (i.headOf 1 0).isSome = true ∧ i.hostLink = true ∧
    (hostBase .running (sqe 0 0 0 0 0)).hostRefusal 1 (sqe 0 0 0 0 0) false noShape (fun _ => true) = none ∧
    i.hostRefusal 1 (sqe 2 0 65616 0 0) true importShape attestedOrRunning = none ∧
    leNat (slice b 9 7) = 0 ∧ leNat (slice b 32 32) = 0 ∧ leNat (slice b 8 1) = 0 ∧ leNat (slice b 24 8) = 0 ∧
    leNat (slice b 0 8) = i.objC Obj.spanCompJobId 0 ∧ i.obj (objAt Obj.integCompImportSeq 0) < leNat (slice b 16 8) ∧
    i.objOf 0 0 ≠ 0 ∧ (fld (i.contrib 0 0) 23 8).testBit (i.rangeAt 0 0) = true ∧
    (i.objC Obj.compContribKeyed 0).testBit 0 = true ∧
    w.hostRefusal 1 (sqe 3 0 64 0 0) true spanWriteShape attestedToHeld = none ∧
    x.hostRefusal 1 (sqe 4 0 65872 0 0) true exportShape runningOrHeld = none ∧
    r.hostRefusal 1 (sqe 5 0 65536 0 0) true releasedShape heldOnly = none ∧ r.isReleased 0 0 = true ∧ r.homedHere 0 0 = true ∧
    (hostBase .running (sqe 8 0 0 7 1)).hostRefusal 1 (sqe 8 0 0 7 1) true pegShape attestedToHeld = none ∧
    w.hostRefusal 1 (sqe 3 0 63 0 0) true spanWriteShape attestedToHeld = some (.outOfRange, 0x1002) ∧
    w.owner 0 0 = .page 0 0 ∧
    x.objC Obj.rotCompJobKeyInstalled 0 ≠ 0 ∧ x.contribOf 0 (x.rangeAt 0 0) = none ∧ Hnd.bad 7 = false := by decide +kernel

theorem witness_ResultsArePublishedReadAndRetired :
    let e := 0x81 + 2 ^ 8 * 3 + 2 ^ 32 * 8 + 2 ^ 128 * 9
    let u := (base.modComp 0 fun c => { c with segs := [1 + 2 ^ 84 + 3 * 2 ^ 8], pub := { c.pub with opened := [e] } }).setPage 0 0
      { Page.init with loc := .hbm 0 0 }
    let r := (hostBase .running (sqe 0x10 3 4096 0 0)).setMBox 0 3 { MBox.init with gen := 7, ready := true }
    let a := (hostBase .running (sqe 0x11 3 0 0 7)).setMBox 0 3 { MBox.init with gen := 7, ready := true }
    base.unitsRun 0 = true ∧ (((base.pubTake 0 none).comp 0).pub.opened)[0]? = none ∧
    u.unitsRun 0 = true ∧ u.objC Obj.hostCompPubRingAddr 0 = 0 ∧ ((u.comp 0).pub.opened)[0]? = some e ∧
    (u.mbox 0 3).ready = false ∧ (u.spanRead 0 .unit (Pb.src e) (Pb.len e)).1 = .done (List.replicate 8 0) ∧
    (r.headOf 1 0).isSome = true ∧ r.hostRefusal 1 (sqe 0x10 3 4096 0 0) true mboxReadShape attestedToHeld = none ∧
    (r.mbox 0 3).ready = true ∧ (hostBase .running (sqe 0x10 3 4096 0 0)).hostRefusal 1 (sqe 0x10 3 4096 0 0) true mboxReadShape
      attestedToHeld = none ∧ a.hostRefusal 1 (sqe 0x11 3 0 0 7) true mboxAckShape attestedToHeld = none ∧
    (a.mbox 0 3).ready = true ∧ Sq.arg (sqe 0x11 3 0 0 7) = (a.mbox 0 3).gen ∧
    (hostBase .forming (sqe 0x11 3 0 0 7)).hostRefusal 1 (sqe 0x11 3 0 0 7) true mboxAckShape attestedToHeld =
      some (.stateConflict, 0x1010) := by decide +kernel

theorem witness_QueueRegistersMoveTheirPair :
    let s := hostBase .running 0
    s.hostUp 1 = true ∧ (s.pair 1 0).qstate = 1 ∧ (s.pair 1 1).qstate = 0 ∧ (s.pair 1 0).sqTaken = 1 ∧ 1 ≤ (s.pair 1 0).entries ∧ base.hostUp 1 = false ∧ State.reset.hostUp 0 = false := by decide +kernel

theorem witness_EndpointLinksResetsAndItsMailbox :
    let s := hostBase .running 0
    let g : MbRegs := ⟨0, 64, 64, 0, 0⟩
    s.hostLink = true ∧ base.hostLink = false ∧ base.mode ∈ [.bringup, .ready, .run, .holdup, .service] ∧
    s.hostUp 1 = true ∧ s.hostUp 0 = true ∧ s.mode ≠ .off ∧ (s.func 1).mbStatus = 0 ∧
    (g.reqLen ≠ 0 ∧ g.reqLen.toNat ≤ 65536 ∧ 64 ≤ g.repLen.toNat ∧ g.repLen.toNat ≤ 262144 ∧ g.vec.toNat ≤ 2047) := by decide +kernel

theorem witness_DictionaryEntriesAreCheckedInOrder :
    let k := Obj.sessIdleTimeoutS
    base.mode ≠ .off ∧ State.reset.mode = .off ∧ objRow 0 = none ∧
    (objRow k).any (fun row => roleReads .observer row k && roleWrites .management row k && base.stateAllows row k &&
      typeOk row 100 && decide (base.checkWrite .management k 100 = .ok) && decide (base.valueStatus row.base 0 100 = .ok) &&
      ((commandWrites base .management 0 0 100 row.size noExt).find? fun q => q.1 = row.base).isNone &&
      decide ((base.writeValue .management row k 100 noExt).st = .ok)) = true := by decide +kernel

theorem witness_SessionsOpenAndEnd :
    let h : Handshake := ⟨7, 3, .management, 0, 0, true, 0⟩
    let c := base.setHands [h]
    let q := base.setHands (List.replicate 4 { h with accepted := false })
    let o := base.setSess 0 (some ⟨.management, 3, 7, 0, 0, 0, 0, 0, [], 1, [], 2, 0, []⟩)
    let i : State := base.setSource 7 ⟨[], some 5⟩
    base.hears 7 = true ∧ sessionRole .management = true ∧ sessionRole .host = false ∧ base.sessionsOpen < base.obj Obj.sessMaxSessions ∧
    (base.setObj Obj.sessMaxSessions 0).obj Obj.sessMaxSessions ≤ base.sessionsOpen ∧
    (q.xiesk.hands.filter fun h => !h.accepted).length = 4 ∧ base.roleLives .management = true ∧ base.roleLives (.compartment 3) = false ∧
    (put base [(Obj.sessAnchorMgr, 5)]).anchored ⟨7, true, .management, true, 5, 0⟩ = true ∧ base.anchored ⟨7, true, .management, true, 0, 0⟩ = false ∧
    (c.xiesk.hands.find? fun h => h.ident = 3 && h.source = 7 && h.accepted) = some h ∧
    (base.xiesk.hands.find? fun h => h.ident = 3 && h.source = 7 && h.accepted) = none ∧
    (c.setHands (c.xiesk.hands.filter fun x => decide (x.ident ≠ 3))).freeSess = some 0 ∧
    o.slotOf 3 = some 0 ∧ (o.sess 0).isSome = true ∧ base.checkWrite .management Obj.sessClose 1 = .ok ∧
    (i.source 7).ignoreTo = some 5 := by decide +kernel

theorem witness_SessionMessagesAndFabricReadsAreAnswered :
    let o := base.setSess 0 (some ⟨.management, 3, 7, 0, 0, 0, 0, 0, [], 1, [], 2, 0, []⟩)
    let m : DataSeg := { src := 7, ident := 3, counter := 2, index := 0, count := 1, bytes := 8, last := true,
                         data := List.replicate 8 0, sound := true, tagOk := true }
    let u := base.modPort 0 fun x => { x with st := .up }
    let req := 2 ^ 80 + 2 ^ 8 * Obj.moduleState
    o.hears 7 = true ∧ segFits m = true ∧ o.slotOf 3 = some 0 ∧
    (o.sess 0).any (fun x => x.fresh 2 && !x.fresh 0 && x.parts.isEmpty) = true ∧
    (u.port 0).st = .up ∧ u.roCount 5 ≤ u.obj Obj.sessFabricRoRate ∧ Ro.sound req = true ∧ Ro.sound 0 = false ∧
    (objRow (Ro.index req * 256 + Ro.sub req)).isSome = true ∧ objRow (Ro.index (2 ^ 80) * 256) = none := by decide +kernel

theorem witness_ModuleCommandsMoveTheMode :
    let sb : State := { State.reset with mode := .standby }
    let rd : State := { State.reset with mode := .ready }
    let sv : State := { State.reset with mode := .service }
    let g : State := { rd with going := some (.resetFull 2) }
    let m : State := { rd with going := some (.resetModule 2) }
    sb.checkWrite .management Obj.moduleCommand 1 = .ok ∧ sb.pins.resetLow = false ∧
    rd.checkWrite .management Obj.moduleCommand 2 = .ok ∧ (∀ n, n < 8 → (rd.comp n).st = .free) ∧
    sv.checkWrite .management Obj.moduleCommand 3 = .ok ∧ sv.checkWrite .management Obj.moduleCommand 4 = .ok ∧
    rd.checkWrite .management Obj.moduleCommand 5 = .ok ∧ rd.checkWrite .management Obj.moduleCommand 6 = .ok ∧
    rd.checkWrite .observer Obj.moduleCommand 6 ≠ .ok ∧ rd.checkWrite .management Obj.moduleCommand 1 = .ok ∧
    g.going ≠ none ∧ g.leasesHome = true ∧ m.going ≠ none := by decide +kernel

theorem witness_BootAndBringUpEndInTheirMode :
    let v : State := { base with mode := .verify }
    let a : FwSlot := ⟨true, 0, 0⟩
    let o : FwSlot := ⟨true, 3, 0⟩
    let w := v.setObj Obj.rotSvnFused 7
    v.mode = .verify ∧ ({ base with mode := .bringup } : State).mode = .bringup ∧ base.mode ≠ .verify ∧ a.intact = true ∧
    v.svnFused 0 ≤ (v.slotHdr 0 a).svn ∧ (v.bootClass 0 ⟨false, 0, 0⟩ ⟨false, 0, 0⟩).1 = false ∧
    (w.slotHdr 0 o).svn < w.svnFused 0 ∧ (w.slotHdr 1 o).svn < w.svnFused 0 := by decide +kernel
theorem witness_BootAndBringUpEndInTheirMode_boots : ∃ s : State, ∃ slots,
    s.mode = .verify ∧ (((s.setObj Obj.rotMr 0).extendMr 0 0xFF 0 (Config.identity 0 % 2 ^ 384)).bootFrom slots 6 0).1 = false :=
  ⟨{ base with mode := .verify }, [], rfl, rfl⟩

theorem witness_FirmwareFaultLogAndWatchdogWork :
    let sv : State := { State.reset with mode := .service }
    let b := padTo 32768 (leBytes 4 2 ++ leBytes 12 0 ++ [1, 2])
    sv.checkWrite .management Obj.moduleFwStage 0 = .ok ∧ leNat (b.take 4) = 2 ∧ leNat ((b.drop 4).take 4) = sv.fwStage.length ∧
    leNat ((b.drop 8).take 8) = 0 ∧ sv.checkWrite .observer Obj.moduleFwStage 0 ≠ .ok ∧
    sv.checkWrite .management Obj.moduleFwCommit 5 = .ok ∧ sv.imageOk 5 true = false ∧ base.mode ≠ .off := by decide +kernel
theorem witness_FirmwareFaultLogAndWatchdogWork_watchdog :
    let x : Slot := ⟨.thread 0, .bank 0 0, 64, 8, .read, [], false, 0, true, none⟩
    let y : Slot := { x with who := .pegOp 0 }
    ((base.setSlot 0 3 (some x)).slotAt 0 3 = some x ∧ (∀ k, x.who ≠ .pegOp k) ∧ (∀ m, x.target ≠ .module m) ∧
      x.issued + base.obj Obj.moduleSlotWatchdogUs * 1000 ≤ base.now) ∧
    (base.setSlot 0 3 (some y)).slotAt 0 3 = some y ∧ y.who = .pegOp 0 ∧ base.slotAt 0 3 = none := by
  refine ⟨⟨by decide +kernel, fun k h => ?_, fun m h => ?_, by decide +kernel⟩, by decide +kernel, by decide +kernel, by decide +kernel⟩ <;> contradiction
theorem witness_FirmwareFaultLogAndWatchdogWork_commits : ∃ s : State,
    s.checkWrite .management Obj.moduleFwCommit 5 = .ok ∧ s.imageOk 5 true = true :=
  ⟨{ State.reset with mode := .service, fwStage := (ascii "YVFI" ++ leBytes 28 5 ++ leBytes 48 (digest48 []) ++ leBytes 80 0) ++ List.replicate 29792 0 },
    by decide +kernel, by
    unfold State.imageOk
    simp only [Bool.and_eq_true]
    refine ⟨⟨⟨⟨⟨⟨⟨⟨⟨?_, ?_⟩, ?_⟩, ?_⟩, ?_⟩, ?_⟩, ?_⟩, ?_⟩, ?_⟩, ?_⟩
    · decide +kernel
    · decide +kernel
    · decide +kernel
    · decide +kernel
    · decide +kernel
    · decide +kernel
    · decide +kernel
    · rw [decide_eq_true_eq, List.length_append, List.length_replicate]
      have : leNat (List.take 4 (List.drop 16 ((ascii "YVFI" ++ leBytes 28 5 ++ leBytes 48 (digest48 []) ++ leBytes 80 0) ++ List.replicate 29792 0))) = 0 := by decide +kernel
      rw [this]; decide +kernel
    · decide +kernel
    · trivial⟩

theorem witness_CoolingIsControlledAndProtects :
    State.reset.sensing = false ∧ base.sensing = true ∧ base.power.valveNo < base.now / 10000000 ∧
    base.power.thermNo < base.now / 100000000 ∧ ({ base with power := { base.power with thermNo := 2 ^ 60, valveNo := 2 ^ 60 } } : State).now / 10000000 ≤ 2 ^ 60 := by
  decide +kernel

theorem witness_TimeMessagesAreTakenAndSent :
    let u := base.modPort 0 fun x => { x with st := .up, avail := [(6, 10)] }
    let x := u.ptpPort 0
    let v := base.modPtp mgmtPort fun y => { y with heard := some (Pp.dataset 5), req := some (1, 3), pair := some (4, 5) }
    (base.ptpIn 0 (.mgmt true 1 2 true 0 0)).1.isSome = true ∧ (base.ptpIn 0 (.mgmt false 1 2 true 0 0)).1.isNone = true ∧
    (u.ptpIn 2 (.fabric 0 2)).1.isSome = true ∧ (v.ptpIn 3 (.mgmt true 1 2 true 0 0)).1.any (fun m => m.seq = 1) = true ∧
    (v.ptpPort mgmtPort).req = some (1, 3) ∧ (v.ptpPort mgmtPort).pair = some (4, 5) ∧
    u.isMaster 0 = true ∧ base.isMaster 0 = false ∧ u.ptpDue x.syncAt (secUnits / 16) = true ∧ u.ptpDue x.annAt secUnits = true ∧
    u.ptpDue x.reqAt (secUnits / 8) = true ∧
    (u.ptpFrame 0 (pack [(0, 0), (8, x.syncSeq)])).any (fun s1 =>
      (s1.ptpFrame 0 (pack [(0, 1), (8, x.syncSeq), (32, u.timestamp 0)])).isSome) = true ∧
    (u.ptpFrame 0 (pack [(0, 4), (8, x.annSeq)] + u.announced)).isSome = true ∧
    ((base.setObj Obj.timeSource 1).sourcePort = some mgmtPort) ∧ base.mode ≠ .off := by decide +kernel

theorem witness_StepRunsTheFrontCommandOrATick_StepRunsTheFrontCommand : decodeTableWord 16 0 = none := by decide
theorem witness_StepRunsTheFrontCommandOrATick_AnEmptyQueueLetsATickPass : State.reset.pending = [] ∧ State.reset.mode = .off ∧ base.pending = [] ∧
    base.mode ≠ .off := by decide

theorem witness_UndefinedObjectsAreOutOfRange : objRow 0 = none ∧ objRow (0x2500 * 256 + 255) = none ∧ base.mode ≠ .off := by
  decide +kernel

theorem witness_AcknowledgeRetiresOnlyItsGeneration :
    let a := (hostBase .running (sqe 0x11 3 0 0 7)).setMBox 0 3 { MBox.init with gen := 7, ready := true, payload := [1] }
    (a.headOf 1 0).isSome = true ∧ a.hostRefusal 1 (sqe 0x11 3 0 0 7) true mboxAckShape attestedToHeld = none ∧
    (a.mbox 0 3).ready = true ∧ Sq.arg (sqe 0x11 3 0 0 7) % 2 ^ 32 = (a.mbox 0 3).gen ∧
    ((hostBase .running (sqe 0x11 3 0 0 7)).mbox 0 3).ready = false := by decide +kernel

theorem witness_CompartmentWritesTouchNoOther :
    let s := put { State.reset with mode := .run, comps := [(0, { Comp.init with st := .forming })] } []
    Continues (exec (.segClear (.compartment 0) 0 true) s) ∧ s.checkWrite (.compartment 0) (objAt Obj.spanCompSegClear 0) 1 = .ok :=
  ⟨⟨_, rfl⟩, by decide +kernel⟩

theorem witness_AttentionFollowsTheState : State.reset.mode = .off ∧ base.mode ≠ .off := by decide

theorem witness_EveryStepKeepsTheFaultLogInOrder : ∃ s t : State, s.log.Sound ∧ s.pending ≠ [] ∧ step s = .next t :=
  ⟨{ State.reset with pending := [.faultLogMirror] }, _,
    ⟨⟨by decide, by decide, fun _ h => nomatch h⟩, ⟨by decide, by decide, fun _ h => nomatch h⟩, by decide⟩, by decide, rfl⟩

theorem witness_EveryStepGoesOnAndTakesOneCommand : ∃ s : State, s.log.Sound ∧ s.pending.length = 2 :=
  ⟨{ State.reset with pending := [.faultLogMirror, .powerLimitEval] },
    ⟨⟨by decide, by decide, fun _ h => nomatch h⟩, ⟨by decide, by decide, fun _ h => nomatch h⟩, by decide⟩, rfl⟩

theorem witness_AWaitingQueueIsWorkedOff : ∃ s : State, s.log.Sound ∧ 2 ≤ s.pending.length :=
  ⟨{ State.reset with pending := [.faultLogMirror, .powerLimitEval] },
    ⟨⟨by decide, by decide, fun _ h => nomatch h⟩, ⟨by decide, by decide, fun _ h => nomatch h⟩, by decide⟩, by decide⟩

end Sys2Proof.Tests
end

section
/-! Chapter 00: what the state after reset holds (R8, R9), and requests that name no object (R12). -/

namespace Sys2Proof.Machine
open Sys2Proof

/-! Parts of the reset state: nothing is stored, so every read finds the part's initial value. -/

@[simp] theorem State.reset_comp (n : Nat) : State.reset.comp n = Comp.init := kget_nil _ n
@[simp] theorem State.reset_tile (t : Nat) : State.reset.tile t = Tile.init := kget_nil _ t
@[simp] theorem State.reset_peg (p : Nat) : State.reset.peg p = Peg.init := kget_nil _ p
@[simp] theorem State.reset_port (p : Nat) : State.reset.port p = Port.init := kget_nil _ p
@[simp] theorem State.reset_obj (key : Nat) : State.reset.obj key = objDefault key := kget_nil _ key

/-- Settles O51: the scalar fields are as `State.reset` sets them, and each part read by number is its initial value. -/
theorem resetHoldsWhatTheSpecGives : Obligations.ResetHoldsWhatTheSpecGives := by
  unfold Obligations.ResetHoldsWhatTheSpecGives
  refine ⟨rfl, rfl, rfl, rfl, fun n => ?comp, fun t => ?tile, fun p => ?peg, fun p => ?port, rfl, rfl, State.reset_obj⟩
  case comp => rw [State.reset_comp]; exact ⟨rfl, rfl, rfl⟩
  case tile => rw [State.reset_tile]; exact ⟨rfl, rfl, rfl, rfl⟩
  case peg => rw [State.reset_peg]; exact ⟨rfl, rfl⟩
  case port => rw [State.reset_port]; rfl

/-! Dictionary requests: each command is one entry (R524-R526). -/

theorem exec_dictRead (r : Role) (index : BitVec 16) (sub : Byte) (off len : W32) (s : State) :
    exec (.dictRead r index sub off len) s =
      .next (s.entryCommand r ⟨1, index.toNat * 256 + sub.toNat, 0, off.toNat, len.toNat, true, []⟩ noExt) := rfl
theorem exec_dictWrite (r : Role) (index : BitVec 16) (sub type : Byte) (v : List Byte) (x : DictExt) (s : State) :
    exec (.dictWrite r index sub type v x) s =
      .next (s.entryCommand r ⟨2, index.toNat * 256 + sub.toNat, type.toNat, 0, v.length, true, v⟩ x) := rfl
theorem exec_dictDescribe (r : Role) (index : BitVec 16) (sub : Byte) (s : State) :
    exec (.dictDescribe r index sub) s =
      .next (s.entryCommand r ⟨3, index.toNat * 256 + sub.toNat, 0, 0, 0, true, []⟩ noExt) := rfl

/-- R12, R524: the object is looked up before anything else of a well-formed entry is checked, whatever it asks. -/
theorem State.doEntry_of_undefined (s : State) (r : Role) (e : Entry) (x : DictExt) (space : Nat)
    (hsound : e.sound = true) (hkey : objRow e.key = none) :
    s.doEntry r e x space = entryRefused s .outOfRange := by
  simp [State.doEntry, hsound, hkey]

/-- R12: the refusal is sent and nothing else of the state changes. -/
theorem State.entryCommand_of_undefined (s : State) (r : Role) (e : Entry) (x : DictExt)
    (hmode : s.mode ≠ .off) (hsound : e.sound = true) (hkey : objRow e.key = none) :
    s.entryCommand r e x =
      s.emit (.dictReply Status.outOfRange.code 0 s.mode.code (s.stateFor e.key) 0 0 []) := by
  simp [State.entryCommand, State.doEntry_of_undefined s r e x _ hsound hkey, hmode, hkey, entryRefused]

/-- Settles O53: the read, the write and the description are one well-formed entry each, refused at the lookup. -/
theorem undefinedObjectsAreOutOfRange : Obligations.UndefinedObjectsAreOutOfRange := by
  unfold Obligations.UndefinedObjectsAreOutOfRange
  intro r index sub type off len v x s hkey hmode i hi
  simp only [List.mem_cons, List.not_mem_nil, or_false] at hi
  obtain rfl | rfl | rfl := hi
  · rw [exec_dictRead, State.entryCommand_of_undefined s r _ _ hmode rfl hkey]
  · rw [exec_dictWrite, State.entryCommand_of_undefined s r _ _ hmode rfl hkey]
  · rw [exec_dictDescribe, State.entryCommand_of_undefined s r _ _ hmode rfl hkey]

end Sys2Proof.Machine
end

section
/-! Chapter 02: cadence, the pacer and boost (R32-R45), tile domains, failures and fences (R51-R60), blocks and dies (R25). -/

namespace Sys2Proof.Machine
open Sys2Proof

/-! The commands of the tile array, each by the operation that carries it out. -/

theorem exec_cadenceWindow (samples : List CadSample) (s : State) :
    exec (.cadenceWindow samples) s = execCadenceWindow samples s := rfl
theorem exec_pacerPermit (c : CompNo) (deficit : List TileNo) (s : State) :
    exec (.pacerPermit c deficit) s = execPacerPermit c deficit s := rfl
theorem exec_boostEntry (d : DieNo) (s : State) : exec (.boostEntry d) s = execBoostEntry d s := rfl
theorem exec_boostRailStep (d : DieNo) (lowest : Nat) (s : State) :
    exec (.boostRailStep d lowest) s = execBoostRailStep d lowest s := rfl
theorem exec_boostExit (d : DieNo) (s : State) : exec (.boostExit d) s = execBoostExit d s := rfl
theorem exec_retainEntry (t : TileNo) (s : State) : exec (.retainEntry t) s = execRetainEntry t s := rfl
theorem exec_tileWake (t : TileNo) (s : State) : exec (.tileWake t) s = execTileWake t s := rfl
theorem exec_tileHandshakeTimeout (t : TileNo) (us : Nat) (s : State) :
    exec (.tileHandshakeTimeout t us) s = execTileHandshakeTimeout t us s := rfl
theorem exec_tilePowerFail (t : TileNo) (s : State) : exec (.tilePowerFail t) s = execTilePowerFail t s := rfl
theorem exec_tileStoreError (t : TileNo) (w : Fin 65536) (uncorrectable : Bool) (s : State) :
    exec (.tileStoreError t w uncorrectable) s = execTileStoreError t w uncorrectable s := rfl
theorem exec_fencedSlotComplete (t : TileNo) (k : Fin 256) (s : State) :
    exec (.fencedSlotComplete t k) s = execFencedSlotComplete t k s := rfl
theorem exec_unfence (r : Role) (t : Nat) (passes : Bool) (s : State) :
    exec (.unfence r t passes) s = execUnfence r t passes s := rfl
theorem exec_seamFrameReceive (l : LinkNo) (tagOk : Bool) (s : State) :
    exec (.seamFrameReceive l tagOk) s = execSeamFrameReceive l tagOk s := rfl

/-! Cadence (R32-R35). -/

theorem exec_cadenceWindow_of_new (samples : List CadSample) (s : State) (hnew : s.windowAt < s.window) :
    exec (.cadenceWindow samples) s = .next (samples.foldl State.latchCadence { s with windowAt := s.window }) := by
  rw [exec_cadenceWindow, execCadenceWindow, if_neg (Nat.not_le.2 hnew)]; rfl

/-- A cadence that reaches the guaranteed minimum, or has none to reach, is no low window: nothing is fenced. -/
theorem State.latchCadence_of_not_low (x : CadSample) (s : State) (hon : (s.tile x.tile.val).dom = .on)
    (hfree : s.fenced x.tile.val = false)
    (hmin : ∀ n d, minCadence x.mv x.deciC = some (n, d) →
      n ≤ roundDiv (x.beats * 1000) (2 ^ s.obj Obj.tileCadenceWindowLog2) * d) :
    s.latchCadence x = s.setTile x.tile.val
      { s.tile x.tile.val with sentinel := BitVec.ofNat 48 x.beats,
                               cadence := roundDiv (x.beats * 1000) (2 ^ s.obj Obj.tileCadenceWindowLog2), lowRun := 0 } := by
  cases hrow : minCadence x.mv x.deciC with
  | none => simp [State.latchCadence, hon, hfree, hrow]
  | some q =>
    obtain ⟨n, d⟩ := q
    have hlow : ¬ roundDiv (x.beats * 1000) (2 ^ s.obj Obj.tileCadenceWindowLog2) * d < n := Nat.not_lt.2 (hmin n d hrow)
    simp [State.latchCadence, hon, hfree, hrow, hlow]

/-! The pacer (R43, R45). -/

/-- Counting a permit changes no geometry, so the permit goes to the tiles the compartment held before. -/
theorem State.tilesOf_setComp_of_st (s : State) (n m : Nat) (x : Comp) (hst : x.st = (s.comp m).st) :
    (s.setComp m x).tilesOf n = s.tilesOf n := by
  have hcomp : ((s.setComp m x).comp n).st = (s.comp n).st := by
    rw [State.comp_setComp]; split
    next h => rw [hst, h]
    next => rfl
  simp [State.tilesOf, State.blocks, State.geom, hcomp]

theorem exec_pacerPermit_of_due (c : CompNo) (deficit : List TileNo) (r : Nat) (s : State)
    (hrate : s.pacerRate c.val = some r) (hrun : s.running c.val = true)
    (hdue : ((s.comp c.val).pacerNo + 1) * 1000 ≤ (s.now - (s.comp c.val).pacerAt) * r) :
    exec (.pacerPermit c deficit) s = .next ((s.tilesOf c.val).foldl (State.permitTile (deficit.map (·.val)) c.val)
      (s.setComp c.val { s.comp c.val with pacerNo := (s.comp c.val).pacerNo + 1 })) := by
  have htiles := s.tilesOf_setComp_of_st c.val c.val { s.comp c.val with pacerNo := (s.comp c.val).pacerNo + 1 } rfl
  simp [exec_pacerPermit, execPacerPermit, hrate, hrun, hdue, htiles, ok]

theorem State.permitTile_banked (deficit : List Nat) (n t : Nat) (s : State) (hon : (s.tile t).dom = .on)
    (hroom : (s.tile t).permits < 2) :
    s.permitTile deficit n t = (s.setTile t { s.tile t with permits := (s.tile t).permits + 1 }).tileEvent t 0x87 1 := by
  simp [State.permitTile, hon, hroom]

theorem State.permitTile_discarded (deficit : List Nat) (n t : Nat) (s : State) (hon : (s.tile t).dom = .on)
    (hfull : 2 ≤ (s.tile t).permits) (hno : t ∉ deficit) : s.permitTile deficit n t = s := by
  simp [State.permitTile, hon, Nat.not_lt.2 hfull, hno]

theorem State.permitTile_of_not_on (deficit : List Nat) (n t : Nat) (s : State) (hoff : (s.tile t).dom ≠ .on) :
    s.permitTile deficit n t = s := by
  simp [State.permitTile, hoff]

/-! The rail over a boost (R37-R39). -/

theorem exec_boostEntry_starts (d : DieNo) (s : State) (hidle : (s.die d.val).boost = .idle)
    (hholds : s.boostHolds d.val = true) (hcool : (s.die d.val).hotSpot ≤ 850) :
    exec (.boostEntry d) s = .next (s.setDie d.val { s.die d.val with boost := .rising, stepAt := s.now }) := by
  simp [exec_boostEntry, execBoostEntry, hidle, hholds, hcool, ok]

theorem exec_boostRailStep_rising (d : DieNo) (lowest : Nat) (s : State) (hst : (s.die d.val).boost = .rising)
    (hdue : (s.die d.val).stepAt + 20000 ≤ s.now) :
    exec (.boostRailStep d lowest) s =
      if (s.die d.val).railMv < 800 ∧ lowest < 2200 then
        .next (s.setDie d.val { s.die d.val with railMv := (s.die d.val).railMv + 5, stepAt := s.now })
      else .next (s.setDie d.val { s.die d.val with boost := .inBoost, stepAt := s.now }) := by
  by_cases hmore : (s.die d.val).railMv < 800 ∧ lowest < 2200
  · have hrail := Nat.not_le.2 hmore.1
    have hlow := Nat.not_le.2 hmore.2
    simp [exec_boostRailStep, execBoostRailStep, hst, hdue, hmore, hrail, hlow, ok]
  · have hend : 800 ≤ (s.die d.val).railMv ∨ 2200 ≤ lowest := by omega
    simp [exec_boostRailStep, execBoostRailStep, hst, hdue, hmore, hend, ok]

theorem exec_boostRailStep_inBoost (d : DieNo) (lowest : Nat) (s : State) (hst : (s.die d.val).boost = .inBoost)
    (hdue : (s.die d.val).stepAt + 20000 ≤ s.now) (hfast : 2200 < lowest) (hrail : 750 < (s.die d.val).railMv) :
    exec (.boostRailStep d lowest) s =
      .next (s.setDie d.val { s.die d.val with railMv := (s.die d.val).railMv - 5, stepAt := s.now }) := by
  simp [exec_boostRailStep, execBoostRailStep, hst, hdue, hfast, hrail, ok]

theorem exec_boostRailStep_falling (d : DieNo) (lowest : Nat) (s : State) (hst : (s.die d.val).boost = .falling)
    (hdue : (s.die d.val).stepAt + 5000 ≤ s.now) :
    exec (.boostRailStep d lowest) s =
      if 755 < (s.die d.val).railMv then
        .next (s.setDie d.val { s.die d.val with railMv := (s.die d.val).railMv - 5, stepAt := s.now })
      else .next (s.setDie d.val { s.die d.val with railMv := 750, boost := .idle, stepAt := s.now }) := by
  by_cases hmore : 755 < (s.die d.val).railMv
  · simp [exec_boostRailStep, execBoostRailStep, hst, hdue, hmore, Nat.not_le.2 hmore, ok]
  · simp [exec_boostRailStep, execBoostRailStep, hst, hdue, hmore, Nat.not_lt.1 hmore, ok]

theorem exec_boostExit_starts (d : DieNo) (s : State)
    (hst : (s.die d.val).boost = .rising ∨ (s.die d.val).boost = .inBoost)
    (hend : s.boostHolds d.val = false ∨ 900 ≤ (s.die d.val).hotSpot) :
    exec (.boostExit d) s = .next (s.setDie d.val { s.die d.val with boost := .falling, stepAt := s.now }) := by
  simp [exec_boostExit, execBoostExit, hst, hend, ok]

/-- Settles O1: each clause is the case of the command or of the tile's operation whose conditions it names. That
permit k is due k / rate after the pacer's start is the model's reading (log 21). -/
theorem cadencePermitsAndBoost : Obligations.CadencePermitsAndBoost :=
  ⟨⟨exec_cadenceWindow_of_new, State.latchCadence_of_not_low, exec_pacerPermit_of_due, State.permitTile_banked,
    State.permitTile_discarded, State.permitTile_of_not_on⟩,
   exec_boostEntry_starts, exec_boostRailStep_rising, exec_boostRailStep_inBoost, exec_boostRailStep_falling,
   exec_boostExit_starts⟩

/-! Tile domains and failures (R51, R53, R54). -/

theorem exec_retainEntry_of_idle (t : TileNo) (s : State) (hon : (s.tile t.val).dom = .on) (hidle : s.tileIdle t.val = true)
    (hlong : (s.tile t.val).since + s.obj Obj.tilePowerRetainIdleUs * 1000 ≤ s.now) :
    exec (.retainEntry t) s = .next (s.setTile t.val { s.tile t.val with dom := .retain }) := by
  simp [exec_retainEntry, execRetainEntry, hon, hidle, hlong, ok]

theorem exec_tileWake_of_retain (t : TileNo) (s : State) (hret : (s.tile t.val).dom = .retain) :
    exec (.tileWake t) s =
      .next ((s.setTile t.val { s.tile t.val with dom := .on, since := s.now }).tileEvent t.val 0x86 1) := by
  simp [exec_tileWake, execTileWake, State.wakeTile, State.modTile_eq, hret, ok]

theorem State.compNo_of_compOfTile {s : State} {t n : Nat} (h : s.compOfTile t = some n) : s.compNo t = n := by
  simp [State.compNo, h]

/-- R53, R55: the fault is logged, then the tile is fenced with its code as the cause. -/
theorem State.fenceFor_of_not_fenced {s : State} {t : Nat} (code : Nat) (h : s.fenced t = false) :
    s.fenceFor t code = (s.fault code (s.compNo t) t).fenceTile t code := by
  simp [State.fenceFor, h]

theorem exec_tileHandshakeTimeout_fences (t : TileNo) (us : Nat) (s : State) (hlong : s.obj Obj.tileWatchdogTimeoutUs ≤ us)
    (hon : (s.tile t.val).dom = .on) (hfree : s.fenced t.val = false) :
    exec (.tileHandshakeTimeout t us) s = .next ((s.fault 0x0102 (s.compNo t.val) t.val).fenceTile t.val 0x0102) := by
  simp [exec_tileHandshakeTimeout, execTileHandshakeTimeout, hlong, hon, State.fenceFor_of_not_fenced _ hfree, ok]

theorem exec_tilePowerFail_fences (t : TileNo) (n : Nat) (s : State) (hheld : s.compOfTile t.val = some n)
    (hfree : s.fenced t.val = false) :
    exec (.tilePowerFail t) s = .next ((s.fault 0x0108 n t.val).fenceTile t.val 0x0108) := by
  simp [exec_tilePowerFail, execTilePowerFail, hheld, State.fenceFor_of_not_fenced _ hfree, State.compNo_of_compOfTile hheld,
    ok]

/-- The times kept per bank are one above the time of the error, 0 for none: an entry 2^36 ns old does not fence. -/
theorem exec_tileStoreError_uncorrectable (t : TileNo) (w : Fin 65536) (s : State) (hpow : (s.tile t.val).dom ≠ .off)
    (hfirst : kget 0 (s.tile t.val).ueTimes (w.val % 16) = 0 ∨
      kget 0 (s.tile t.val).ueTimes (w.val % 16) + 2 ^ 36 ≤ s.now + 1) :
    exec (.tileStoreError t w true) s =
      .next ((s.setTile t.val { s.tile t.val with
          poison := kput false (s.tile t.val).poison w.val true,
          ueTimes := kput 0 (s.tile t.val).ueTimes (w.val % 16) (s.now + 1) }).fault 0x0103 (s.compNo t.val) t.val) := by
  cases hlast : kget 0 (s.tile t.val).ueTimes (w.val % 16) with
  | zero => simp [exec_tileStoreError, execTileStoreError, hpow, hlast, ok]
  | succ k =>
    have hold : within36 s.now k = false := by
      rw [within36, decide_eq_false_iff_not]; omega
    simp [exec_tileStoreError, execTileStoreError, hpow, hlast, hold, ok]

theorem exec_tileStoreError_correctable (t : TileNo) (w : Fin 65536) (s : State) (hpow : (s.tile t.val).dom ≠ .off)
    (hfew : ((s.tile t.val).ceTimes.filter fun t0 => within36 s.now t0).length + 1 < s.obj Obj.tileStoreCeThreshold) :
    exec (.tileStoreError t w false) s =
      .next (s.setTile t.val { s.tile t.val with
        ceTimes := ((s.tile t.val).ceTimes.filter fun t0 => within36 s.now t0) ++ [s.now] }) := by
  simp [exec_tileStoreError, execTileStoreError, hpow, Nat.not_le.2 hfew, ok]

/-! Fences (R55, R56, R59). -/

@[simp] theorem testBit_setBit_true (w b : Nat) : (setBit w b true).testBit b = true := by
  unfold setBit
  split
  next h => simpa using h
  next h => simpa [Nat.add_comm w, Nat.testBit_two_pow_add_eq] using h

@[simp] theorem State.dropThreads_obj (s : State) (t key : Nat) : (s.dropThreads t).obj key = s.obj key := rfl

/-- The interrupt of R57 comes last and touches neither tiles nor objects: what it finds is what the fence leaves. -/
theorem State.fenceTile_frame (s : State) (t cause : Nat) (hfree : s.fenced t = false) :
    (s.fenceTile t cause).tile t = { Tile.init with since := s.now } ∧
    (s.fenceTile t cause).obj Obj.tileArrayFenceMap = setBit (s.obj Obj.tileArrayFenceMap) t true := by
  have hkey : Obj.tileArrayFenceMap ≠ Obj.faultOverwritten := by decide
  rw [State.fenceTile, if_neg (by simp [hfree])]
  dsimp only
  split
  case isTrue => simp [State.fault_obj _ _ _ _ _ _ _ _ hkey]
  case isFalse => simp [State.fault_obj _ _ _ _ _ _ _ _ hkey]

theorem State.fenceTile_fences (t cause : Nat) (s : State) (hfree : s.fenced t = false) :
    (s.fenceTile t cause).fenced t = true ∧ (s.fenceTile t cause).tile t = { Tile.init with since := s.now } := by
  obtain ⟨htile, hmap⟩ := s.fenceTile_frame t cause hfree
  exact ⟨by rw [State.fenced, hmap, testBit_setBit_true], htile⟩

theorem State.answerSlot_of_some {s : State} {t k : Nat} {x : Slot} (fault : Nat) (data : List Byte)
    (h : s.slotAt t k = some x) :
    s.answerSlot t k fault data = s.setSlot t k (some { x with reply := some ⟨fault, data⟩ }) := by
  simp [State.answerSlot, h]

theorem exec_fencedSlotComplete_of_waiting (t : TileNo) (k : Fin 256) (x : Slot) (f b : Nat) (s : State)
    (hslot : s.slotAt t.val k.val = some x) (hbank : x.target = .bank f b) (hfenced : s.fenced f = true)
    (hopen : x.reply = none) :
    exec (.fencedSlotComplete t k) s = .next (s.setSlot t.val k.val (some { x with reply := some ⟨0x0110, []⟩ })) := by
  simp [exec_fencedSlotComplete, execFencedSlotComplete, hslot, hbank, hfenced, hopen, State.answerSlot_of_some _ _ hslot, ok]

theorem exec_unfence_of_permitted (r : Role) (t : Nat) (passes : Bool) (s : State)
    (hok : s.checkWrite r Obj.tileArrayUnfence t = .ok) (hno : t ≤ 1023) :
    exec (.unfence r t passes) s = .next
      (if s.fenced t = false then s.reply .ok
       else if passes then (s.setObj Obj.tileArrayFenceMap (setBit (s.obj Obj.tileArrayFenceMap) t false)).reply .ok
       else (s.fault 0x0101 noComp t).reply .ok) := by
  have hin := Nat.not_lt.2 hno
  cases hf : s.fenced t with
  | false => simp [exec_unfence, execUnfence, hok, hin, hf, ok]
  | true => cases passes <;> simp [exec_unfence, execUnfence, hok, hin, hf, ok]

/-! Seam links (R60). -/

theorem exec_seamFrameReceive_verified (l : LinkNo) (s : State)
    (hfree : (s.obj Obj.tileArrayLinkFenceMap).testBit l.val = false) :
    exec (.seamFrameReceive l true) s = .next (s.setSeam l.val { s.seam l.val with run := 0 }) := by
  simp [exec_seamFrameReceive, execSeamFrameReceive, hfree, ok]

theorem exec_seamFrameReceive_failed (l : LinkNo) (s : State)
    (hfree : (s.obj Obj.tileArrayLinkFenceMap).testBit l.val = false) :
    exec (.seamFrameReceive l false) s = .next
      (let s1 := s.setSeam l.val ⟨(s.seam l.val).errors + 1, (s.seam l.val).run + 1⟩
       if 8 ≤ (s.seam l.val).run + 1 then
         (s1.setObj Obj.tileArrayLinkFenceMap (setBit (s.obj Obj.tileArrayLinkFenceMap) l.val true)).fault 0x0107 noComp l.val
       else s1.emit (.seamReplay l.val)) := by
  by_cases hrun : 8 ≤ (s.seam l.val).run + 1 <;>
    simp [exec_seamFrameReceive, execSeamFrameReceive, hfree, hrun, ok]

/-- Settles O2: each clause is the case of the command or of the fence whose conditions it names. That a fence and
the tile's OFF are one step, that TILE_POWER_FAIL may come to a tile of a held block at any time, and that the self-test's and
the link's faults name no compartment are the model's choices (log 18, 20, 24). -/
theorem tilesSleepFailAndAreFenced : Obligations.TilesSleepFailAndAreFenced :=
  ⟨⟨exec_retainEntry_of_idle, exec_tileWake_of_retain, exec_tileHandshakeTimeout_fences, exec_tilePowerFail_fences,
    exec_tileStoreError_uncorrectable, exec_tileStoreError_correctable⟩,
   State.fenceTile_fences, exec_fencedSlotComplete_of_waiting, exec_unfence_of_permitted, exec_seamFrameReceive_verified,
   exec_seamFrameReceive_failed⟩

/-! Blocks and dies (R25). -/

theorem tileX_of_pos (x y : Nat) (hx : x < 32) : tileX (32 * y + x) = x := by unfold tileX; omega
theorem tileY_of_pos (x y : Nat) (hx : x < 32) : tileY (32 * y + x) = y := by unfold tileY; omega

theorem blockOf_of_pos (x y : Nat) (hx : x < 32) : blockOf (32 * y + x) = 4 * (y / 8) + x / 8 := by
  rw [blockOf, tileX_of_pos x y hx, tileY_of_pos x y hx]

/-- Two rows and two columns of blocks make a die. -/
theorem dieOf_eq_dieOfBlock (t : Nat) : dieOf t = dieOfBlock (blockOf t) := by
  have hcol : tileX t < 32 := Nat.mod_lt _ (by decide)
  unfold dieOf dieOfBlock blockOf
  omega

/-- Settles O52: the column and the row are read off the tile number; the sixteen blocks are looked up one by one. -/
theorem tileBlocksLieOnTheirDies : Obligations.TileBlocksLieOnTheirDies := by
  unfold Obligations.TileBlocksLieOnTheirDies
  refine ⟨fun x y => ⟨blockOf_of_pos x y x.isLt, ?_, dieOf_eq_dieOfBlock _⟩, by decide⟩
  rw [blockOf_of_pos x y x.isLt]
  omega

end Sys2Proof.Machine
end

section
/-! Chapter 03: matrix operations from the queue to their record (R75, R81, R84, R95). -/

namespace Sys2Proof.Machine
open Sys2Proof

/-! The commands of the matrix engine, each by the operation that carries it out. -/

theorem exec_mxOpExecute (t : TileNo) (s : State) : exec (.mxOpExecute t) s = execMxOpExecute t s := rfl
theorem exec_mxOpComplete (t : TileNo) (s : State) : exec (.mxOpComplete t) s = execMxOpComplete t s := rfl
theorem exec_mxAccUncorrectable (t : TileNo) (a : Fin 8) (s : State) :
    exec (.mxAccUncorrectable t a) s = execMxAccUncorrectable t a s := rfl

/-! The head of the queue accumulates (R75, R84). -/

/-- Nothing stands before the head descriptor: its set is free and no drain to come writes what it reads. The answer is then
the outcome of its accumulation, on the state with the descriptor taken and its beats counted. -/
theorem exec_mxOpExecute_of_ready (t : TileNo) (n : Nat) (x : MxDesc) (rest : List MxDesc) (res : MxStop ⊕ List Nat)
    (g : EFlags) (tiles : Nat) (s : State)
    (hheld : s.compOfTile t.val = some n) (hhead : (s.tile t.val).mxQueue = x :: rest) (hrun : s.running n = true)
    (hon : (s.tile t.val).dom = .on) (hfree : ∀ r ∈ (s.tile t.val).mxRuns, Mx.acc r.desc.bits ≠ Mx.acc x.bits)
    (hclear : s.mxHeld t.val x.bits = false) (hres : s.mxCompute n t.val x.bits = (res, g, tiles)) :
    let k := t.val
    let beats := tiles * (if Mx.fp32 x.bits then 512 else 128)
    let s2 := (((s.setTile k { s.tile k with mxQueue := rest, since := s.now }).unstall k .matrix).incC Obj.mxCompMacBeats n
      beats).tileEvent k 0x01 beats
    exec (.mxOpExecute t) s = .next (res.elim
      (fun e => s2.tickFresh.mxFinish n k x g e.status (s.mxRecord k x.bits g e.status s.openAbsMax (some e)))
      (fun acc => s2.modTile k fun y => { y with mxRuns := y.mxRuns ++
        [{ desc := x, acc := acc, rows := s.mxExtent k x.bits true, cols := s.mxExtent k x.bits false,
           invalid := g.invalid, overflow := g.overflow, flushed := g.flushed }] })) := by
  have hgo : (!s.running n || (s.tile t.val).dom ≠ .on ||
      (s.tile t.val).mxRuns.any (fun r => Mx.acc r.desc.bits = Mx.acc x.bits) || s.mxHeld t.val x.bits) = false := by
    simpa [hrun, hon, hclear] using hfree
  rw [exec_mxOpExecute]
  unfold execMxOpExecute
  simp only [hheld, hhead, hgo, hres]
  cases res <;> rfl

/-! The oldest accumulated set drains (R81). -/

theorem exec_mxOpComplete_drains (t : TileNo) (n : Nat) (r : MxRun) (rest : List MxRun) (s : State)
    (hheld : s.compOfTile t.val = some n) (hhead : (s.tile t.val).mxRuns = r :: rest) (hrun : s.running n = true) :
    let k := t.val
    let d := r.desc.bits
    exec (.mxOpComplete t) s = .next
      (let q := (s.setTile k { s.tile k with mxRuns := rest, since := s.now }).mxDrain n k r
         { invalid := r.invalid || r.acc.any fun v => (unpackF f32 v).isNan, overflow := r.overflow, flushed := r.flushed }
       let s3 := (q.1.reportTile n (Mx.outTensor d) (sfld d 55 48) (magOf (absMax r.acc)) q.2.top).tileEvent k 0x05
         (if Mx.outFmt d = 1 then 256 else 128)
       s3.mxFinish n k r.desc q.2 0 (s3.mxRecord k d q.2 0 (absMax r.acc) none)) := by
  rw [exec_mxOpComplete]
  unfold execMxOpComplete
  simp only [hheld, hhead, hrun]
  rfl

/-! An accumulator error (R95). -/

theorem within36_eq_false {now t0 : Nat} (h : t0 + 2 ^ 36 ≤ now) : within36 now t0 = false := by
  rw [within36, decide_eq_false_iff_not]
  exact Nat.not_lt.2 h

theorem exec_mxAccUncorrectable_ends (t : TileNo) (a : Fin 8) (n : Nat) (r : MxRun) (s : State)
    (hheld : s.compOfTile t.val = some n)
    (hset : (s.tile t.val).mxRuns.find? (fun r => Mx.acc r.desc.bits = a.val) = some r)
    (hfirst : ∀ t0, (s.tile t.val).accErr = some t0 → t0 + 2 ^ 36 ≤ s.now) :
    let k := t.val
    let g : EFlags := { invalid := r.invalid, overflow := r.overflow, flushed := r.flushed }
    exec (.mxAccUncorrectable t a) s = .next
      (let s1 := s.setTile k { s.tile k with
         mxRuns := (s.tile k).mxRuns.filter (fun q => Mx.acc q.desc.bits ≠ a.val), accErr := some s.now }
       s1.tickFresh.mxFinish n k r.desc g 0x0208 (s1.mxRecord k r.desc.bits g 0x0208 s.openAbsMax none)) := by
  rw [exec_mxAccUncorrectable]
  unfold execMxAccUncorrectable
  cases hlast : (s.tile t.val).accErr with
  | none => simp only [hheld, hset, hlast]; rfl
  | some t0 => simp only [hheld, hset, hlast, within36_eq_false (hfirst t0 hlast)]; rfl

/-- Settles O4: a ready head descriptor ends as its accumulation does, the oldest set drains, and a first accumulator error
ends its operation with no drain. ABSMAX without a drain is the free value of log 5, kept as the model draws it. -/
theorem matrixOperationsRunAndDrain : Obligations.MatrixOperationsRunAndDrain :=
  ⟨fun t n x rest acc g tiles s => exec_mxOpExecute_of_ready t n x rest (.inr acc) g tiles s,
   fun t n x rest e g tiles s => exec_mxOpExecute_of_ready t n x rest (.inl e) g tiles s,
   exec_mxOpComplete_drains, exec_mxAccUncorrectable_ends⟩

end Sys2Proof.Machine
end

section
/-! The clearing writes of every chapter (R90, R124, R172, R194, R217, R249, R281, R316, R373, R484, R553). -/

namespace Sys2Proof.Machine
open Sys2Proof

/-! Each command is one guarded clear of its object's record. -/

theorem exec_mxTrapClear (r : Role) (c : CompNo) (v : Bool) (s : State) :
    exec (.mxTrapClear r c v) s = .next (s.clearWrite r (objAt Obj.mxCompTrapClear c.val) v fun s =>
      s.setObjC Obj.mxCompFirstTrap c.val 0) := rfl
theorem exec_vxTrapClear (r : Role) (c : CompNo) (v : Bool) (s : State) :
    exec (.vxTrapClear r c v) s = .next (s.clearWrite r (objAt Obj.vxCompTrapClear c.val) v fun s =>
      s.setObjC Obj.vxCompFirstTrap c.val 0) := rfl
theorem exec_prepFaultClear (r : Role) (c : CompNo) (v : Bool) (s : State) :
    exec (.prepFaultClear r c v) s = .next (s.clearWrite r (objAt Obj.prepCompFaultClear c.val) v fun s =>
      s.setObjC Obj.prepCompFirstFault c.val 0) := rfl
theorem exec_numEventClear (r : Role) (c : CompNo) (v : Bool) (s : State) :
    exec (.numEventClear r c v) s = .next (s.clearWrite r (objAt Obj.numCompEventClear c.val) v fun s =>
      (s.setObjC Obj.numCompFirstEvent c.val 0).rearmLog c.val 0x05) := rfl
theorem exec_updEventClear (r : Role) (c : CompNo) (v : Bool) (s : State) :
    exec (.updEventClear r c v) s = .next (s.clearWrite r (objAt Obj.updCompEventClear c.val) v fun s =>
      (s.setObjC Obj.updCompFirstEvent c.val 0).rearmLog c.val 0x06) := rfl
theorem exec_segClear (r : Role) (c : CompNo) (v : Bool) (s : State) :
    exec (.segClear r c v) s = .next (s.clearWrite r (objAt Obj.spanCompSegClear c.val) v fun s =>
      s.modComp c.val fun x => { x with segs := [] }) := rfl
theorem exec_tierEventClear (r : Role) (c : CompNo) (v : Bool) (s : State) :
    exec (.tierEventClear r c v) s = .next (s.clearWrite r (objAt Obj.tierCompEventClear c.val) v fun s =>
      (s.setObjC Obj.tierCompFirstEvent c.val 0).rearmLog c.val 8) := rfl
theorem exec_nodeMapClear (r : Role) (c : CompNo) (v : Bool) (s : State) :
    exec (.nodeMapClear r c v) s = .next (s.clearWrite r (objAt Obj.fabCompNodeMapClear c.val) v fun s =>
      s.modComp c.val fun x => { x with nodes := [] }) := rfl
theorem exec_integEventClear (r : Role) (c : CompNo) (v : Bool) (s : State) :
    exec (.integEventClear r c v) s = .next (s.clearWrite r (objAt Obj.integCompEventClear c.val) v fun s =>
      (s.setObjC Obj.integCompFirstEvent c.val 0).rearmLog c.val 0x0B) := rfl
theorem exec_phaseClear (r : Role) (c : CompNo) (v : Bool) (s : State) :
    exec (.phaseClear r c v) s = .next (s.clearWrite r (objAt Obj.evCompPhaseClear c.val) v fun s =>
      s.phaseClear c.val) := rfl
theorem exec_faultClear (r : Role) (v : Bool) (s : State) :
    exec (.faultClear r v) s = .next (s.clearWrite r Obj.faultClear v fun s =>
      { s with log := { s.log with entries := [], mirror := [] } }) := rfl

/-! What a clearing write does, by what the checks of R524 give. -/

theorem State.clearWrite_of_true {s : State} {r : Role} {key : Nat} (f : State → State)
    (h : s.checkWrite r key 1 = .ok) : s.clearWrite r key true f = (f s).reply .ok := by
  simp [State.clearWrite, b2n, h]

theorem State.clearWrite_of_false {s : State} {r : Role} {key : Nat} (f : State → State)
    (h : s.checkWrite r key 0 = .ok) : s.clearWrite r key false f = s.reply .outOfRange := by
  simp [State.clearWrite, b2n, h]

theorem State.clearWrite_of_refused {s : State} {r : Role} {key : Nat} (f : State → State) (v : Bool)
    (h : s.checkWrite r key (b2n v) ≠ .ok) : s.clearWrite r key v f = s.reply (s.checkWrite r key (b2n v)) := by
  unfold State.clearWrite
  split
  next hok => exact absurd hok h
  next => rfl

/-- A command that is a guarded clear empties its record, refuses a 0, and otherwise answers what the checks give. -/
theorem clears_of_exec_eq_clearWrite {i : Bool → Instr} {r : Role} {key : Nat} {f : State → State} {s : State}
    (hexec : ∀ v, exec (i v) s = .next (s.clearWrite r key v f)) :
    (s.checkWrite r key 1 = .ok → exec (i true) s = .next ((f s).reply .ok)) ∧
    (s.checkWrite r key 0 = .ok → exec (i false) s = .next (s.reply .outOfRange)) ∧
    (∀ v : Bool, s.checkWrite r key (if v then 1 else 0) ≠ .ok →
      exec (i v) s = .next (s.reply (s.checkWrite r key (if v then 1 else 0)))) := by
  refine ⟨fun h => ?one, fun h => ?zero, fun v h => ?refused⟩
  case one => rw [hexec, State.clearWrite_of_true f h]
  case zero => rw [hexec, State.clearWrite_of_false f h]
  case refused => rw [hexec, State.clearWrite_of_refused f v h]; rfl

/-- Settles O16: all eleven commands are guarded clears, each of its own object and record. -/
theorem clearingWritesEmptyTheirRecords : Obligations.ClearingWritesEmptyTheirRecords := fun r c s =>
  ⟨clears_of_exec_eq_clearWrite fun v => exec_mxTrapClear r c v s,
   clears_of_exec_eq_clearWrite fun v => exec_vxTrapClear r c v s,
   clears_of_exec_eq_clearWrite fun v => exec_prepFaultClear r c v s,
   clears_of_exec_eq_clearWrite fun v => exec_numEventClear r c v s,
   clears_of_exec_eq_clearWrite fun v => exec_updEventClear r c v s,
   clears_of_exec_eq_clearWrite fun v => exec_segClear r c v s,
   clears_of_exec_eq_clearWrite fun v => exec_tierEventClear r c v s,
   clears_of_exec_eq_clearWrite fun v => exec_nodeMapClear r c v s,
   clears_of_exec_eq_clearWrite fun v => exec_integEventClear r c v s,
   clears_of_exec_eq_clearWrite fun v => exec_phaseClear r c v s,
   clears_of_exec_eq_clearWrite fun v => exec_faultClear r v s⟩

end Sys2Proof.Machine
end

section
/-! Chapter 04: vector chains from the queue to their peg (R99, R123, R125, R127). -/

namespace Sys2Proof.Machine
open Sys2Proof

/-! The commands of the vector engine, each by the operation that carries it out. -/

theorem exec_vxChainExecute (t : TileNo) (s : State) : exec (.vxChainExecute t) s = .next (s.vxExecute t.val none) := rfl
theorem exec_vxRegUncorrectable (t : TileNo) (group : Nat) (s : State) :
    exec (.vxRegUncorrectable t group) s = execVxRegUncorrectable t group s := rfl
theorem exec_vxChainComplete (t : TileNo) (s : State) : exec (.vxChainComplete t) s = execVxChainComplete t s := rfl

/-! The head of the queue runs (R99, R123). -/

/-- The last thing a run does is to leave its chain waiting to complete, under the record address, peg and poster of the
chain. -/
theorem State.vxExecute_leaves_run {s : State} {k n : Nat} {q : VxDesc} {rest : List VxDesc} (failAt : Option Nat)
    (hheld : s.compOfTile k = some n) (hhead : (s.tile k).vxQueue = q :: rest) (hfree : (s.tile k).vxRun = none)
    (hrun : s.running n = true) (hon : (s.tile k).dom = .on) :
    let h := Vx.header q.bytes
    ∃ (v : State) (r : VxRun), s.vxExecute k failAt = v.modTile k (fun y => { y with vxRun := some r }) ∧
      r.poster = q.poster ∧ r.recAddr = Vx.recAddr h ∧ r.pegEn = Vx.pegEn h ∧ r.peg = Vx.peg h := by
  have hgo : (!s.running n || (s.tile k).dom ≠ .on) = false := by simp [hrun, hon]
  unfold State.vxExecute
  simp only [hheld, hhead, hfree, hgo]
  exact ⟨_, _, rfl, rfl, rfl, rfl, rfl⟩

theorem exec_vxChainExecute_runs (t : TileNo) (n : Nat) (q : VxDesc) (rest : List VxDesc) (s : State)
    (hheld : s.compOfTile t.val = some n) (hhead : (s.tile t.val).vxQueue = q :: rest)
    (hfree : (s.tile t.val).vxRun = none) (hrun : s.running n = true) (hon : (s.tile t.val).dom = .on) :
    let k := t.val
    let h := Vx.header q.bytes
    ∃ u r, exec (.vxChainExecute t) s = .next u ∧ u = s.vxExecute k none ∧ (u.tile k).vxRun = some r ∧
      r.poster = q.poster ∧ r.recAddr = Vx.recAddr h ∧ r.pegEn = Vx.pegEn h ∧ r.peg = Vx.peg h := by
  obtain ⟨v, r, hleaves, hown⟩ := State.vxExecute_leaves_run none hheld hhead hfree hrun hon
  have hwaits : ((s.vxExecute t.val none).tile t.val).vxRun = some r := by
    rw [hleaves, State.modTile_eq, State.tile_setTile_self]
  exact ⟨_, r, exec_vxChainExecute t s, rfl, hwaits, hown⟩

/-! A register-file error (R125). -/

theorem exec_vxRegUncorrectable_stops (t : TileNo) (group n : Nat) (q : VxDesc) (rest : List VxDesc) (s : State)
    (hheld : s.compOfTile t.val = some n) (hhead : (s.tile t.val).vxQueue = q :: rest)
    (hfree : (s.tile t.val).vxRun = none) (hrun : s.running n = true) (hon : (s.tile t.val).dom = .on)
    (hreached : (s.vxRun n t.val q.bytes (some group)).stop = some (vxPlain 0x0309))
    (hfirst : ∀ t0, (s.tile t.val).vregErr = some t0 → t0 + 2 ^ 36 ≤ s.now) :
    let k := t.val
    exec (.vxRegUncorrectable t group) s = .next
      (let s1 := s.vxExecute k (some group)
       s1.setTile k { s1.tile k with vregErr := some s.now }) := by
  have hgo : (!s.running n || (s.tile t.val).dom ≠ .on ||
      (s.vxRun n t.val q.bytes (some group)).stop ≠ some (vxPlain 0x0309)) = false := by simp [hrun, hon, hreached]
  rw [exec_vxRegUncorrectable]
  unfold execVxRegUncorrectable
  simp only [hheld, hhead, hfree, hgo]
  cases hlast : (s.tile t.val).vregErr with
  | none => rfl
  | some t0 => simp only [within36_eq_false (hfirst t0 hlast)]; rfl

/-! The chain that has run completes (R127). -/

theorem exec_vxChainComplete_completes (t : TileNo) (n : Nat) (r : VxRun) (s : State)
    (hheld : s.compOfTile t.val = some n) (hran : (s.tile t.val).vxRun = some r) (hrun : s.running n = true) :
    let k := t.val
    let status := r.record % 65536
    exec (.vxChainComplete t) s = .next
      (let s1 := ((s.setTile k { s.tile k with vxRun := none, since := s.now }).tsWrite k r.recAddr
         (leBytes 64 r.record)).incC Obj.vxCompChains n
       let s2 := if status = 0x0301 ∨ status = 0x0302 ∨ status = 0x0303 then
           (s1.firstTrap n k status r.record Obj.vxCompNanTraps Obj.vxCompFirstTrap).tileEvent k 0x27 1
         else if status ≠ 0 then s1.fault status n k else s1
       let s3 := s2.tileEvent k 0x21 1
       let s4 := if r.pegEn = true then s3.unitPost n r.peg else s3
       if status ≠ 0 then s4.signal r.poster 1 status r.recAddr else s4) := by
  rw [exec_vxChainComplete]
  unfold execVxChainComplete
  simp only [hheld, hran, hrun, Bool.not_true, Bool.false_eq_true, if_false, Bool.or_eq_true, decide_eq_true_eq, or_assoc]
  rfl

/-- Settles O5: a run leaves its chain waiting to complete, a first register-file error stops the run in its group, and
completion writes the record before it posts the peg. That a chain runs in one command and completes in a second is the
model's choice (log 38). -/
theorem vectorChainsRunAndComplete : Obligations.VectorChainsRunAndComplete :=
  ⟨exec_vxChainExecute_runs, exec_vxRegUncorrectable_stops, exec_vxChainComplete_completes⟩

end Sys2Proof.Machine
end

section
/-! Chapter 05: instructions of a thread that can issue (R134-R150), and its posts to the engines of its tile (R142-R144,
R163). -/

namespace Sys2Proof.Machine
open Sys2Proof

/-! The commands that run-ahead does not execute, each by the operation its beat is for. -/

theorem exec_mxPost (t : ThreadId) (rd rs1 : Fin 32) (s : State) :
    exec (.mxPost t rd rs1) s = .next (s.issue t rd.val fun b n =>
      b.posted t rd.val .matrix (b.mxPost t n ((b.thread t.key).getX rs1.val).toNat)) := rfl
theorem exec_vxPost (t : ThreadId) (rd rs1 : Fin 32) (s : State) :
    exec (.vxPost t rd rs1) s = .next (s.issue t rd.val fun b n =>
      b.posted t rd.val .vector (b.vxPost t n ((b.thread t.key).getX rs1.val).toNat)) := rfl
theorem exec_gxPost (t : ThreadId) (rd rs1 rs2 : Fin 32) (s : State) :
    exec (.gxPost t rd rs1 rs2) s = .next (s.issue t rd.val fun b n =>
      let odd := ((b.thread t.key).getX rs2.val).toNat % 2 = 1
      b.posted t rd.val (if odd then .gather1 else .gather0)
        (b.gxPost t n ((b.thread t.key).getX rs1.val).toNat (decide odd))) := rfl
theorem exec_engSpace (t : ThreadId) (rd rs1 : Fin 32) (s : State) :
    exec (.engSpace t rd rs1) s = .next (s.issue t rd.val fun b _ =>
      let q := b.engSpace t.tile.val ((b.thread t.key).getX rs1.val).toNat
      q.2.retire t rd.val q.1) := rfl
theorem exec_yeventsWrite (t : ThreadId) (v : W64) (s : State) :
    exec (.yeventsWrite t v) s = .next (s.issue t 0 fun b _ =>
      (b.modThread t.key fun h => h.csrWrite 0x804 v.toNat).retire t 0 0) := rfl
theorem exec_thrStart (t : ThreadId) (rd rs1 rs2 : Fin 32) (s : State) :
    exec (.thrStart t rd rs1 rs2) s = .next (s.issue t rd.val fun b n => b.thrStart t n rd.val rs1.val rs2.val 4) := rfl
theorem exec_thrExit (t : ThreadId) (s : State) :
    exec (.thrExit t) s = .next (s.issue t 0 fun b _ => b.thrExit t 4) := rfl
theorem exec_thrYield (t : ThreadId) (s : State) :
    exec (.thrYield t) s = .next (s.issue t 0 fun b _ => b.retire t 0 0) := rfl
theorem exec_thrRet (t : ThreadId) (s : State) : exec (.thrRet t) s = .next (s.issue t 0 fun b _ => b.thrRet t) := rfl

/-! Outside run-ahead such a command is performed on the state after its beat. -/

theorem State.issue_of_ready {s : State} {t : ThreadId} {n : Nat} (rd : Nat) (f : State → Nat → State)
    (hissue : s.issuer t = some n) (hready : (s.thread t.key).st = .ready) : s.issue t rd f = f (s.beat t n) n := by
  simp [State.issue, hissue, hready]

theorem exec_of_ready {i : Instr} {s : State} {t : ThreadId} {n rd : Nat} {f : State → Nat → State}
    (hexec : exec i s = .next (s.issue t rd f)) (hissue : s.issuer t = some n) (hready : (s.thread t.key).st = .ready) :
    exec i s = .next (f (s.beat t n) n) := by
  rw [hexec, State.issue_of_ready rd f hissue hready]

/-! What a post comes to, its queue having room (R54, R72, R122, R144, R163). -/

theorem State.posted_ite (s : State) (t : ThreadId) (rd : Nat) (e : Engine) (c : Prop) [Decidable c] (p q : Posted) :
    s.posted t rd e (if c then p else q) = if c then s.posted t rd e p else s.posted t rd e q := by
  split <;> rfl

theorem State.mxPost_of_room {s : State} {t : ThreadId} (n : Nat) {off : Nat}
    (hroom : (s.tile t.tile.val).mxQueue.length < 16) (hin : inStore off 64 = true) :
    let k := t.tile.val
    s.mxPost t n off =
      if s.tsPoisoned k off 64 = true then .done s 0x0103
      else if s.mxRefused n k (leNat (s.tsRead k off 64)) = false then
        .done ((s.setTile k { s.tile k with mxQueue := (s.tile k).mxQueue ++ [⟨leNat (s.tsRead k off 64), t.key⟩] }).tileEvent
          k 0x49 1) 0
      else .done (((s.incC Obj.mxCompRefused n).tileEvent k 0x09 1).fault 0x0206 n k) 0x0206 := by
  cases hbad : s.mxRefused n t.tile.val (leNat (s.tsRead t.tile.val off 64)) <;>
    simp [State.mxPost, State.modTile_eq, Nat.not_le.2 hroom, hin, hbad]

theorem State.mxPost_of_full {s : State} {t : ThreadId} (n off : Nat) (hfull : 16 ≤ (s.tile t.tile.val).mxQueue.length) :
    s.mxPost t n off = .full := by
  simp [State.mxPost, hfull]

theorem State.vxPost_of_room {s : State} {t : ThreadId} (n off : Nat) (hroom : (s.tile t.tile.val).vxQueue.length < 16) :
    let k := t.tile.val
    let len := Vx.length (leNat (s.tsRead k off 32))
    s.vxPost t n off =
      if inStore off 32 = true ∧ s.tsPoisoned k off (max 32 len) = true then .done s 0x0103
      else if s.vxCheck n k off = 0 then
        .done ((s.setTile k { s.tile k with vxQueue := (s.tile k).vxQueue ++ [⟨s.tsRead k off len, t.key⟩] }).tileEvent
          k 0x49 1) 0
      else .done ((s.incC Obj.vxCompRefused n).fault (s.vxCheck n k off) n k) (s.vxCheck n k off) := by
  simp [State.vxPost, State.modTile_eq, Nat.not_le.2 hroom]

theorem State.gxPost_of_room {s : State} {t : ThreadId} (n : Nat) {off : Nat} {eng : Bool}
    (hroom : ((s.tile t.tile.val).gx eng).queue.length < 8) (hin : inStore off 64 = true) :
    let k := t.tile.val
    let g := (s.tile k).gx eng
    s.gxPost t n off eng =
      if s.tsPoisoned k off 64 = true then .done s 0x0103
      else if s.gxRefused n k (leNat (s.tsRead k off 64)) = false then
        .done ((s.setGx k eng { g with queue := g.queue ++ [⟨leNat (s.tsRead k off 64), t.key⟩] }).tileEvent k 0x49 1) 0
      else .done ((s.incC Obj.prepCompGxRefused n).fault 0x0406 n k) 0x0406 := by
  cases hbad : s.gxRefused n t.tile.val (leNat (s.tsRead t.tile.val off 64)) <;>
    simp [State.gxPost, Nat.not_le.2 hroom, hin, hbad]

/-- ENG.SPACE of an engine that exists changes nothing (R142). -/
theorem State.engSpace_of_engine (s : State) (k : Nat) {e : Nat} (he : e < 4) :
    let y := s.tile k
    s.engSpace k e =
      (if e = 0 then 16 - y.mxQueue.length else if e = 1 then 16 - y.vxQueue.length
       else if e = 2 then 8 - y.gx0.queue.length else 8 - y.gx1.queue.length, s) := by
  obtain rfl | rfl | rfl | rfl : e = 0 ∨ e = 1 ∨ e = 2 ∨ e = 3 := by omega
  all_goals rfl

/-- Settles O3: each post retires with the code its checks come to, or stalls its thread on a full queue. That a poisoned
descriptor answers its reader 0x0103 is the model's reading (log 59). -/
theorem enginePostsQueueTheirDescriptor : Obligations.EnginePostsQueueTheirDescriptor := by
  unfold Obligations.EnginePostsQueueTheirDescriptor
  refine ⟨?matrix, ?matrixFull, ?vector, ?gather, ?space⟩
  case matrix =>
    intro t rd rs1 n s hissue hready b k off hroom hin
    rw [exec_of_ready (exec_mxPost t rd rs1 s) hissue hready, State.mxPost_of_room n hroom hin, State.posted_ite,
      State.posted_ite]
    rfl
  case matrixFull =>
    intro t rd rs1 n s hissue hready b hfull
    rw [exec_of_ready (exec_mxPost t rd rs1 s) hissue hready, State.mxPost_of_full n _ hfull]
    rfl
  case vector =>
    intro t rd rs1 n s hissue hready b k off hroom
    rw [exec_of_ready (exec_vxPost t rd rs1 s) hissue hready, State.vxPost_of_room n _ hroom, State.posted_ite,
      State.posted_ite]
    rfl
  case gather =>
    intro t rd rs1 rs2 n eng s hissue hready b k off heng hroom hin
    have hpick : decide (((b.thread t.key).getX rs2.val).toNat % 2 = 1) = eng := by rw [heng]; cases eng <;> rfl
    rw [exec_of_ready (exec_gxPost t rd rs1 rs2 s) hissue hready]
    dsimp only
    rw [hpick, State.gxPost_of_room n hroom hin, State.posted_ite, State.posted_ite]
    rfl
  case space =>
    intro t rd rs1 n s hissue hready b y e he
    rw [exec_of_ready (exec_engSpace t rd rs1 s) hissue hready, State.engSpace_of_engine b _ he]

/-! The next instruction (R134, R158). -/

theorem exec_userInstruction (t : ThreadId) (s : State) : exec (.userInstruction t) s = execUserInstruction t s := rfl
theorem exec_eventDivert (t : ThreadId) (s : State) : exec (.eventDivert t) s = execEventDivert t s := rfl

theorem exec_userInstruction_performs (t : ThreadId) (n insn len : Nat) (s : State) (hissue : s.issuer t = some n)
    (hra : (s.thread t.key).ra = none) (hfetch : s.fetchAt t = some (insn, len)) (hinsn : insn ≠ 0)
    (hgo : s.mustWait t (rvEff (s.thread t.key) insn len) = false) :
    exec (.userInstruction t) s = .next ((s.beat t n).perform t n insn len (rvEff (s.thread t.key) insn len)) := by
  simp [exec_userInstruction, execUserInstruction, hissue, hra, hfetch, hinsn, hgo, ok]

theorem exec_userInstruction_runs_ahead (t : ThreadId) (n insn len : Nat) (r : RunAhead) (s : State)
    (hissue : s.issuer t = some n) (hra : (s.thread t.key).ra = some r) (hfetch : s.fetchAt t = some (insn, len))
    (hinsn : insn ≠ 0) :
    exec (.userInstruction t) s = .next ((s.beat t n).performRa t n insn len (rvEff (s.thread t.key) insn len) r) := by
  simp [exec_userInstruction, execUserInstruction, hissue, hra, hfetch, hinsn, ok]

/-- A 16-bit instruction without a meaning is fetched as 0: it raises 0x0401 with its own bits, and stops run-ahead. -/
theorem exec_userInstruction_illegal (t : ThreadId) (n len : Nat) (s : State) (hissue : s.issuer t = some n)
    (hfetch : s.fetchAt t = some (0, len)) :
    let raw := leNat (readBytes (s.tile t.tile.val).prog ((s.thread t.key).pc.toNat - 2 ^ 57) 2)
    ((s.thread t.key).ra = none → exec (.userInstruction t) s = .next ((s.beat t n).exception t n 0x0401 raw)) ∧
    ((s.thread t.key).ra.isSome = true → exec (.userInstruction t) s = .next ((s.beat t n).raStop t)) := by
  refine ⟨fun hra => ?outside, fun hra => ?ahead⟩
  case outside =>
    have hgo : s.mustWait t .illegal = false := rfl
    simp [exec_userInstruction, execUserInstruction, hissue, hfetch, hra, hgo, State.perform, ok]
  case ahead =>
    obtain ⟨r, hr⟩ := Option.isSome_iff_exists.1 hra
    simp [exec_userInstruction, execUserInstruction, hissue, hfetch, hr, State.performRa, ok]

theorem exec_userInstruction_outside_program (t : ThreadId) (n : Nat) (s : State) (hissue : s.issuer t = some n)
    (hready : (s.thread t.key).st = .ready) (hfetch : s.fetchAt t = none) :
    exec (.userInstruction t) s = .next ((s.beat t n).exception t n 0x0403 (s.thread t.key).pc.toNat) := by
  simp [exec_userInstruction, execUserInstruction, hissue, hready, hfetch, ok]

/-! Exceptions and events (R140, R141). -/

theorem State.divert_to_handler (t : ThreadId) (n code tval : Nat) (s : State) (hout : (s.thread t.key).inHandler = false)
    (hset : (s.thread t.key).yhandler ≠ 0) :
    s.divert t n code tval = s.setThread t.key { s.thread t.key with
      ycause := BitVec.ofNat 64 code, yepc := (s.thread t.key).pc, ytval := BitVec.ofNat 64 tval,
      pc := (s.thread t.key).yhandler, inHandler := true, st := .ready } := by
  simp only [State.divert, State.modThread_eq, hout, Bool.false_eq_true, if_false, hset, State.thread_setThread_self,
    State.setThread_setThread]

theorem exec_eventDivert_diverts (t : ThreadId) (n b : Nat) (s : State) (hissue : s.issuer t = some n)
    (hready : (s.thread t.key).st = .ready) (hout : (s.thread t.key).inHandler = false)
    (hlowest : firstBelow 4 (fun b => (s.thread t.key).yevents.testBit b && (s.thread t.key).yevmask.toNat.testBit b) =
      some b) :
    exec (.eventDivert t) s = .next
      (let u := s.divert t n (kget 0 (s.thread t.key).evRec b % 65536) (kget 0 (s.thread t.key).evRec b / 65536)
       if (u.thread t.key).st = .halted then u.incC Obj.prepCompThreadFaults n else u) := by
  simp [exec_eventDivert, execEventDivert, hissue, hlowest, hout, hready, ok]

/-! THR.START (R142, R149, R150). -/

/-- The bits of the argument that name the thread are below 8; a core may run the threads below `threadsOf`. -/
theorem State.thrStart_eq (s : State) (t : ThreadId) (n rd rs1 rs2 len : Nat) :
    let arg := (s.thread t.key).getX rs2
    let k := t.coreKey * 8 + arg.toNat % 8
    s.thrStart t n rd rs1 rs2 len =
      if ((s.thread k).st = .idle ∨ (s.thread k).st = .halted) ∧ arg.toNat % 8 < s.threadsOf n then
        (s.setThread k { (s.thread k).setX 10 arg with
          pc := (s.thread t.key).getX rs1, st := .ready, inHandler := false }).retire t rd 0 len
      else (s.fault 0x040D n t.tile.val).retire t rd 0x040D len := by
  intro arg k
  have hguard : (((s.thread k).st ≠ .idle && (s.thread k).st ≠ .halted) || s.threadsOf n ≤ arg.toNat % 8) = true ↔
      ¬(((s.thread k).st = .idle ∨ (s.thread k).st = .halted) ∧ arg.toNat % 8 < s.threadsOf n) := by
    simp only [ne_eq, Bool.or_eq_true, Bool.and_eq_true, decide_eq_true_eq,
      Decidable.not_and_iff_not_or_not, not_or, Nat.not_lt]
  by_cases hmay : ((s.thread k).st = .idle ∨ (s.thread k).st = .halted) ∧ arg.toNat % 8 < s.threadsOf n
  · rw [if_pos hmay]
    exact if_neg fun h => hguard.1 h hmay
  · rw [if_neg hmay]
    exact if_pos (hguard.2 hmay)

/-! What retiring leaves alone (R134, R140). -/

@[simp] theorem Thread.setX_f (h : Thread) (r : Nat) (v : W64) : (h.setX r v).f = h.f := by
  unfold Thread.setX; split <;> rfl
@[simp] theorem Thread.setX_fcsr (h : Thread) (r : Nat) (v : W64) : (h.setX r v).fcsr = h.fcsr := by
  unfold Thread.setX; split <;> rfl

theorem State.retire_getX (s : State) (t : ThreadId) (rd v len q : Nat) :
    ((s.retire t rd v len).thread t.key).getX q =
      if q = rd ∧ rd ≠ 0 then BitVec.ofNat 64 v else (s.thread t.key).getX q := by
  rw [State.retire_thread_self, ← Thread.getX_setX]; rfl

theorem State.retire_store (s : State) (t : ThreadId) (rd v len j : Nat) :
    ((s.retire t rd v len).tile j).store = (s.tile j).store := by
  obtain ⟨es, h⟩ := State.tileEvent_tile (s.modThread t.key fun h =>
    { (h.setX rd (BitVec.ofNat 64 v)) with pc := h.pc + BitVec.ofNat 64 len, instret := (h.instret + 1) % 2 ^ 64 })
    t.tile.val 0x41 1 j
  rw [State.retire, h]; rfl

@[simp] theorem State.retire_peg (s : State) (t : ThreadId) (rd v len p : Nat) : (s.retire t rd v len).peg p = s.peg p := by
  rw [State.retire, State.tileEvent_get_peg]; rfl
@[simp] theorem State.retire_comps (s : State) (t : ThreadId) (rd v len : Nat) : (s.retire t rd v len).comps = s.comps := by
  rw [State.retire, State.tileEvent_comps]; rfl

/-- Settles O6: each instruction by the case of its operation, retiring by its frame. That THR.START keeps the other
registers and that the lowest pending bit diverts are the model's readings. -/
theorem threadInstructionsRun : Obligations.ThreadInstructionsRun := by
  unfold Obligations.ThreadInstructionsRun
  refine ⟨exec_userInstruction_performs, exec_userInstruction_runs_ahead, exec_userInstruction_illegal,
    exec_userInstruction_outside_program, State.divert_to_handler, exec_eventDivert_diverts, ?yevents, ?start,
    fun t n s => exec_of_ready (exec_thrExit t s), fun t n s => exec_of_ready (exec_thrYield t s),
    fun t n s => exec_of_ready (exec_thrRet t s), ?retire⟩
  case yevents => exact fun t v n s => exec_of_ready (exec_yeventsWrite t v s)
  case start =>
    intro t rd rs1 rs2 n s hissue hready
    rw [exec_of_ready (exec_thrStart t rd rs1 rs2 s) hissue hready, State.thrStart_eq]
  case retire =>
    intro t rd v len s u
    have hself : u.thread t.key = _ := s.retire_thread_self t rd v len
    refine ⟨s.retire_getX t rd v len, ?_, ?_, by rw [hself], by rw [hself],
      fun k hk => s.retire_thread_other t rd v len k hk, fun j a => congrArg (kget 0 · a) (s.retire_store t rd v len j),
      s.retire_peg t rd v len, s.retire_comps t rd v len⟩
    · rw [hself, Thread.setX_f]
    · rw [hself, Thread.setX_fcsr]

end Sys2Proof.Machine
end

section
/-! Chapter 05: the accesses of a thread (R136, R138, R153, R159, R234). -/

namespace Sys2Proof.Machine
open Sys2Proof

/-! The commands of single accesses, each by the operation its beat is for. -/

theorem exec_spanLoad (t : ThreadId) (rd : Fin 32) (a : W64) (w : Fin 4) (uns fl : Bool) (s : State) :
    exec (.spanLoad t rd a w uns fl) s = execSpanLoad t rd a w uns fl s := rfl
theorem exec_spanStore (t : ThreadId) (a : W64) (w : Fin 4) (d : W64) (s : State) :
    exec (.spanStore t a w d) s = .next (s.issue t 0 fun b n => b.doStore t n a.toNat w.val d.toNat 4) := rfl
theorem exec_tileLr (t : ThreadId) (rd : Fin 32) (a : W64) (wide aq : Bool) (s : State) :
    exec (.tileLr t rd a wide aq) s = .next (s.issue t rd.val fun b n => b.doLr t n rd.val a.toNat wide aq 4) := rfl

/-! A release, and a fence of earlier stores, goes on once no store of its thread is outstanding (R234, R235). -/

theorem State.releases_iff (s : State) (t : ThreadId) (rl : Bool) :
    s.releases t rl = true ↔ (rl = true → s.storesOpen t = false) := by
  cases rl <;> simp [State.releases]

theorem exec_spanAmo_of_released {t : ThreadId} (op : AmoOp) (rd : Fin 32) (a : W64) (wide : Bool) (d : W64) (aq : Bool)
    {rl : Bool} {s : State} (hrl : s.releases t rl = true) :
    exec (.spanAmo t op rd a wide d aq rl) s =
      .next (s.issue t rd.val fun b n => b.doAmo t n op rd.val a.toNat wide d.toNat aq 4) := by
  show execSpanAmo t op rd a wide d aq rl s = _
  simp [execSpanAmo, hrl, ok]
theorem exec_tileSc_of_released {t : ThreadId} (rd : Fin 32) (a : W64) (wide : Bool) (d : W64) {rl : Bool} {s : State}
    (hrl : s.releases t rl = true) :
    exec (.tileSc t rd a wide d rl) s =
      .next (s.issue t rd.val fun b n => b.doSc t n rd.val a.toNat wide d.toNat 4) := by
  show execTileSc t rd a wide d rl s = _
  simp [execTileSc, hrl, ok]
theorem exec_fence_of_open {t : ThreadId} {pred : Fin 16} (succ : Fin 16) {s : State}
    (hopen : s.fenceOpen t pred.val = true) :
    exec (.fence t pred succ) s = .next (s.issue t 0 fun b _ => b.doFence t succ.val 4) := by
  show execFence t pred succ s = _
  simp [execFence, hopen, ok]

theorem exec_spanLoad_of_ready {t : ThreadId} {n : Nat} {s : State} (hissue : s.issuer t = some n)
    (hready : (s.thread t.key).st = .ready) (rd : Fin 32) (a : W64) (w : Fin 4) (uns fl : Bool) :
    exec (.spanLoad t rd a w uns fl) s = .next ((s.beat t n).doLoad t n rd.val a.toNat w.val uns fl 4) := by
  simp [exec_spanLoad, execSpanLoad, hissue, hready, ok]

theorem State.doFence_eq (s : State) (t : ThreadId) (succ len : Nat) :
    s.doFence t succ len = (if bit succ 1 ∨ bit succ 3 then s.purge t.key else s).retire t 0 0 len := by
  simp [State.doFence]

/-! The checks of every access: alignment, then for span memory the mode, translation and permission (R136, R149). -/

theorem State.misaligned_of_aligned (s : State) (t : ThreadId) (n : Nat) {a len : Nat} (f : State → State)
    (h : a % len = 0) : s.misaligned t n a len f = f s := by
  simp [State.misaligned, h]

theorem State.misaligned_of_not_aligned (s : State) (t : ThreadId) (n : Nat) {a len : Nat} (f : State → State)
    (h : a % len ≠ 0) : s.misaligned t n a len f = s.exception t n 0x0402 a := by
  simp [State.misaligned, h]

theorem State.spanCheck_of_resident {s : State} {n : Nat} (t : ThreadId) (a : Nat) (k : AccKind) (f : State → State)
    (hmode : s.threaded n = false) : s.spanCheck t n a k f = s.exception t n 0x0404 a := by
  simp [State.spanCheck, hmode]

theorem State.spanCheck_of_denied {s : State} {t : ThreadId} {n a : Nat} {k : AccKind} (f : State → State)
    (hmode : s.threaded n = true)
    (hdenied : (s.translate n t.tile.val (pageOf a)).permits n .thread k (pageOf a) = false) :
    s.spanCheck t n a k f = (s.translate n t.tile.val (pageOf a)).exception t n 0x0405 a := by
  simp [State.spanCheck, hmode, hdenied]

theorem State.spanCheck_of_permitted {s : State} {t : ThreadId} {n a : Nat} {k : AccKind} (f : State → State)
    (hmode : s.threaded n = true)
    (hpermits : (s.translate n t.tile.val (pageOf a)).permits n .thread k (pageOf a) = true) :
    s.spanCheck t n a k f = f (s.translate n t.tile.val (pageOf a)) := by
  simp [State.spanCheck, hmode, hpermits]

/-! A load, by its place (R136, R138, R159). -/

section Load
variable {t : ThreadId} {n a w : Nat} (rd len : Nat) (uns fl : Bool) {s : State}

theorem State.doLoad_of_not_aligned (h : a % 2 ^ w ≠ 0) :
    s.doLoad t n rd a w uns fl len = s.exception t n 0x0402 a :=
  s.misaligned_of_not_aligned t n _ h

theorem State.doLoad_outside (halign : a % 2 ^ w = 0) (hplace : placeOf a (2 ^ w) = .other) :
    s.doLoad t n rd a w uns fl len = s.exception t n 0x0403 a := by
  rw [State.doLoad, State.misaligned_of_aligned s t n _ halign, hplace]

theorem State.doLoad_store {off : Nat} (halign : a % 2 ^ w = 0) (hplace : placeOf a (2 ^ w) = .store off) :
    s.doLoad t n rd a w uns fl len =
      if s.tsPoisoned t.tile.val off (2 ^ w) = true then s.exception t n 0x0103 a
      else s.retireLoad t rd fl (loadVal w uns (s.tsRead t.tile.val off (2 ^ w))) len := by
  rw [State.doLoad, State.misaligned_of_aligned s t n _ halign, hplace]

/-- The line a load finds in its core's prefetch buffer; none is found where no line kept is the one it names. -/
theorem State.doLoad_span (halign : a % 2 ^ w = 0) (hplace : placeOf a (2 ^ w) = .span a) :
    s.doLoad t n rd a w uns fl len = s.spanCheck t n a .read fun s =>
      ((s.core t.coreKey).pref.find? fun l => l.line = a / 64).elim
        (s.awaitAccess t n ⟨rd, fl, w, uns, .read, a, len, false⟩ []) fun l =>
        ((s.incC Obj.prepCompRaPrefetchHits n).tileEvent t.tile.val 0x47 1).retireLoad t rd fl
          (loadVal w uns (l.data.drop (a % 64))) len := by
  rw [State.doLoad, State.misaligned_of_aligned s t n _ halign, hplace]
  refine congrArg (s.spanCheck t n a .read) (funext fun u => ?_)
  cases (u.core t.coreKey).pref.find? fun l => l.line = a / 64 <;> rfl

theorem State.doLoad_span_of_not_prefetched (halign : a % 2 ^ w = 0) (hplace : placeOf a (2 ^ w) = .span a)
    (hmode : s.threaded n = true)
    (hpermits : (s.translate n t.tile.val (pageOf a)).permits n .thread .read (pageOf a) = true)
    (hmiss : ∀ l ∈ ((s.translate n t.tile.val (pageOf a)).core t.coreKey).pref, l.line ≠ a / 64) :
    s.doLoad t n rd a w uns fl len =
      (s.translate n t.tile.val (pageOf a)).awaitAccess t n ⟨rd, fl, w, uns, .read, a, len, false⟩ [] := by
  have hnone : ((s.translate n t.tile.val (pageOf a)).core t.coreKey).pref.find? (fun l => l.line = a / 64) = none :=
    List.find?_eq_none.2 fun l hl => by simpa using hmiss l hl
  rw [State.doLoad_span rd len uns fl halign hplace, State.spanCheck_of_permitted _ hmode hpermits, hnone]
  rfl

end Load

/-! The other accesses of the tile store: a store, an AMO, LR and SC (R138). -/

theorem State.doStore_store (t : ThreadId) (n a w d off len : Nat) (s : State) (halign : a % 2 ^ w = 0)
    (hplace : placeOf a (2 ^ w) = .store off) :
    s.doStore t n a w d len = (s.tsWrite t.tile.val off (leBytes (2 ^ w) d)).retire t 0 0 len := by
  rw [State.doStore, State.misaligned_of_aligned s t n _ halign, hplace]

theorem State.doAmo_store (t : ThreadId) (n rd a d off len : Nat) (op : AmoOp) (wide : Bool) (s : State) :
    let w := if wide then 3 else 2
    let old := s.tsRead t.tile.val off (2 ^ w)
    a % 2 ^ w = 0 → placeOf a (2 ^ w) = .store off → s.tsPoisoned t.tile.val off (2 ^ w) = false →
    s.doAmo t n op rd a wide d false len =
      (s.tsWrite t.tile.val off (accBytes (.amo op) old (leBytes (2 ^ w) d))).retire t rd (loadVal w false old) len := by
  intro w old halign hplace hclean
  rw [State.doAmo, State.misaligned_of_aligned s t n _ halign, hplace]
  exact if_neg (Bool.eq_false_iff.1 hclean)

theorem State.doLr_store (t : ThreadId) (n rd a off len : Nat) (wide : Bool) (s : State) :
    let w := if wide then 3 else 2
    a % 2 ^ w = 0 → placeOf a (2 ^ w) = .store off → s.tsPoisoned t.tile.val off (2 ^ w) = false →
    s.doLr t n rd a wide false len =
      (s.retire t rd (loadVal w false (s.tsRead t.tile.val off (2 ^ w))) len).modThread t.key fun h =>
        { h with resv := some (off / 64) } := by
  intro w halign hplace hclean
  rw [State.doLr, State.misaligned_of_aligned s t n _ halign, hplace]
  exact if_neg (Bool.eq_false_iff.1 hclean)

theorem State.doSc_store (t : ThreadId) (n rd a d off len : Nat) (wide : Bool) (s : State) :
    let w := if wide then 3 else 2
    let s1 := s.modThread t.key fun h => { h with resv := none }
    a % 2 ^ w = 0 → placeOf a (2 ^ w) = .store off →
    s.doSc t n rd a wide d len = if (s.thread t.key).resv = some (off / 64) then
      (s1.tsWrite t.tile.val off (leBytes (2 ^ w) d)).retire t rd 0 len else s1.retire t rd 1 len := by
  intro w s1 halign hplace
  rw [State.doSc, State.misaligned_of_aligned s t n _ halign, hplace]

/-- Settles O7: each command performs its access on the state after its beat, and an access goes by its alignment, its
place and its permission. That a poisoned load raises 0x0103 is the model's reading (log 60). -/
theorem loadsStoresAndAtomicsRun : Obligations.LoadsStoresAndAtomicsRun := by
  unfold Obligations.LoadsStoresAndAtomicsRun
  refine ⟨fun t n s hissue hready => ?commands, fun t n rd a w len uns fl s => ?load, State.doStore_store,
    State.doAmo_store, State.doLr_store, State.doSc_store⟩
  case commands =>
    refine ⟨exec_spanLoad_of_ready hissue hready, fun a w d => exec_of_ready (exec_spanStore t a w d s) hissue hready,
      fun op rd a wide d aq rl hrl => ?amo,
      fun rd a wide aq => exec_of_ready (exec_tileLr t rd a wide aq s) hissue hready,
      fun rd a wide d rl hrl => ?sc, fun pred succ hopen => ?fence⟩
    case amo =>
      exact exec_of_ready (exec_spanAmo_of_released op rd a wide d aq ((s.releases_iff t rl).2 hrl)) hissue hready
    case sc => exact exec_of_ready (exec_tileSc_of_released rd a wide d ((s.releases_iff t rl).2 hrl)) hissue hready
    case fence => rw [exec_of_ready (exec_fence_of_open succ hopen) hissue hready, State.doFence_eq]
  case load =>
    refine ⟨State.doLoad_of_not_aligned rd len uns fl, State.doLoad_outside rd len uns fl,
      fun off halign hplace hpoison => ?poisoned, fun off halign hplace hclean => ?clean,
      fun halign hplace hmode => ?resident, fun halign hplace hmode hdenied => ?denied,
      State.doLoad_span_of_not_prefetched rd len uns fl⟩
    case poisoned => rw [State.doLoad_store rd len uns fl halign hplace, if_pos hpoison]
    case clean => rw [State.doLoad_store rd len uns fl halign hplace, hclean]; rfl
    case resident => rw [State.doLoad_span rd len uns fl halign hplace, State.spanCheck_of_resident t a .read _ hmode]
    case denied => rw [State.doLoad_span rd len uns fl halign hplace, State.spanCheck_of_denied _ hmode hdenied]

end Sys2Proof.Machine
end

section
/-! Chapter 05: request slots, from the owning location to the thread that waits (R153, R154, R225, R231), and a lost entry of
the metadata cache (R366). -/

namespace Sys2Proof.Machine
open Sys2Proof

/-! The commands of request slots, each by the operation that carries it out. -/

theorem exec_spanRequestReceive (src : SpanSource) (it : Integ) (s : State) :
    exec (.spanRequestReceive src it) s = execSpanRequestReceive src it s := rfl
theorem exec_spanResponseReceive (t : TileNo) (k : Fin 256) (rem : Option SpanReply) (s : State) :
    exec (.spanResponseReceive t k rem) s = execSpanResponseReceive t k rem s := rfl
theorem exec_slotGrant (t : TileNo) (s : State) : exec (.slotGrant t) s = execSlotGrant t s := rfl
theorem exec_metacacheUncorrectable (c : CompNo) (g : Fin 48) (i : Nat) (s : State) :
    exec (.metacacheUncorrectable c g i) s = execMetacacheUncorrectable c g i s := rfl

/-! A request at its owning location (R153, R225). -/

/-- Nothing stands before a demand request of an unanswered slot: no access of it is held, its home is on this module, and
it is no peg operation. -/
theorem exec_spanRequestReceive_slot (t : TileNo) (k : Fin 256) (x : Slot) (n : Nat) (it : Integ) (s : State)
    (hslot : s.slotAt t.val k.val = some x) (hcomp : s.compOfTile t.val = some n) (hopen : x.reply = none)
    (hdemand : x.lookAhead = false) (hpeg : ∀ key, x.who ≠ .pegOp key)
    (hheld : ∀ h ∈ (s.comp n).held, h.src ≠ .slot t.val k.val) (hhere : ∀ m, s.owner n x.addr ≠ .module m) :
    exec (.spanRequestReceive (.slot t k) it) s =
      .next (s.performOrHold n (.slot t.val k.val) .thread x.kind x.addr x.bytes x.data it) := by
  have hwaits : ((s.comp n).held.any fun h => decide (h.src = .slot t.val k.val)) = false := by simpa using hheld
  rw [exec_spanRequestReceive]
  simp only [execSpanRequestReceive, hslot, hcomp, hopen, hdemand, hwaits]
  cases howner : s.owner n x.addr with
  | module m => exact absurd howner (hhere m)
  | _ =>
    cases hwho : x.who with
    | pegOp key => exact absurd hwho (hpeg key)
    | _ => rfl

theorem exec_spanRequestReceive_remote (node : BitVec 16) (tag : W32) (job a : W64) (kind : AccKind) (len : Fin 65)
    (data : List Byte) (it : Integ) (n m p : Nat) (s : State) (hjob : s.compOfJob job.toNat = some n)
    (hhome : s.owner n a.toNat = .page m p) (hline : a.toNat % 64 + len.val ≤ 64) :
    exec (.spanRequestReceive (.remote node tag job a kind len data) it) s =
      .next (s.performOrHold n (.remote node.toNat tag.toNat) .thread kind a.toNat len.val (padTo len.val data) it) := by
  simp [exec_spanRequestReceive, execSpanRequestReceive, hjob, hhome, Nat.not_lt.2 hline, ok]

theorem exec_spanRequestReceive_unknown_job (node : BitVec 16) (tag : W32) (job a : W64) (kind : AccKind) (len : Fin 65)
    (data : List Byte) (it : Integ) (s : State) (hjob : s.compOfJob job.toNat = none) :
    exec (.spanRequestReceive (.remote node tag job a kind len data) it) s =
      .next (s.remoteDenied node.toNat tag.toNat job.toNat (pageOf a.toNat)) := by
  simp [exec_spanRequestReceive, execSpanRequestReceive, hjob, ok]

/-! The answer of a slot reaches whoever waits for it (R153, R160, R231). -/

theorem exec_spanResponseReceive_delivers (t : TileNo) (k : Fin 256) (x : Slot) (n : Nat) (v : SpanReply)
    (rem : Option SpanReply) (s : State) (hslot : s.slotAt t.val k.val = some x) (hcomp : s.compOfTile t.val = some n)
    (hreply : x.reply = some v) : exec (.spanResponseReceive t k rem) s = .next (s.deliver t.val k.val n x v) := by
  simp [exec_spanResponseReceive, execSpanResponseReceive, hslot, hcomp, hreply, ok]

/-- Only a read of a pseudo-channel that took more than 2 µs counts as slow: of a store the slot is freed and no more. -/
theorem State.deliver_store (t k n key : Nat) (x : Slot) (v : SpanReply) (s : State) (hwho : x.who = .store key)
    (hkind : x.kind = .write) (hgood : v.fault = 0) : s.deliver t k n x v = (s.setSlot t k none).tileEvent t 0x67 1 := by
  cases htarget : x.target <;> simp [State.deliver, hwho, hkind, hgood, htarget]

theorem State.deliver_load (t k n key : Nat) (x : Slot) (v : SpanReply) (s : State) (hwho : x.who = .thread key)
    (hkind : x.kind = .read) (hprompt : s.now ≤ x.issued + 2000) :
    s.deliver t k n x v = ((s.setSlot t k none).tileEvent t 0x66 1).finishAccess (threadOf key) n v := by
  cases htarget : x.target <;> simp [State.deliver, hwho, hkind, htarget, Nat.not_lt.2 hprompt]

theorem State.finishAccess_of_waiting (t : ThreadId) (n : Nat) (a : PendAcc) (v : SpanReply) (s : State)
    (hst : (s.thread t.key).st ≠ .runahead) (hacc : (s.thread t.key).acc = some a) :
    let s2 := s.setThread t.key { s.thread t.key with st := .ready, acc := none }
    s.finishAccess t n v = if v.fault = 0 then
        s2.retireLoad t a.rd a.float (loadVal a.log2 a.unsigned v.data) a.len
      else s2.exception t n (excOf v.fault) a.addr := by
  simp [State.finishAccess, State.modThread_eq, hst, hacc]

/-! A parked request takes a slot (R154). -/

/-- The request leaves the parked ones for slot k; a thread parked on it goes on where it is a store, else waits for its
data. -/
theorem exec_slotGrant_grants (t : TileNo) (n i k : Nat) (q : Parked) (s : State) (hcomp : s.compOfTile t.val = some n)
    (hfirst : (s.tile t.val).parked.findIdx? (fun q => (s.slotOpen n t.val q.target).isSome) = some i)
    (hq : (s.tile t.val).parked[i]? = some q) (hopen : s.slotOpen n t.val q.target = some k) :
    let s1 := (s.setTile t.val { s.tile t.val with parked := (s.tile t.val).parked.eraseIdx i }).takeSlot n t.val k q false
    let wake (key : Nat) (st : ThrState) : State := s1.modThread key fun h => if h.st = .parked then { h with st := st } else h
    exec (.slotGrant t) s = .next (match q.who with
      | .store key => wake key .ready
      | .thread key => wake key .stalled
      | .pegOp key => wake key .stalled
      | .prefetch _ => s1) := by
  rw [exec_slotGrant]
  simp only [execSlotGrant, hcomp, hfirst, hq, hopen]
  cases q.who <;> rfl

theorem exec_metacacheUncorrectable_removes (c : CompNo) (g : Fin 48) (i : Nat) (e : MetaEnt) (s : State)
    (hent : (kget [] (s.comp c.val).cache g.val)[i]? = some e) :
    exec (.metacacheUncorrectable c g i) s = .next ((s.modComp c.val fun x => { x with
      cache := kput [] x.cache g.val ((kget [] (s.comp c.val).cache g.val).filter fun y => !y.same e) }).addUnver c.val
        ⟨e.range, e.kind, e.lease, e.level, e.index, 0x0B06⟩ 0) := by
  rw [exec_metacacheUncorrectable]
  simp only [execMetacacheUncorrectable, hent]
  rfl

/-- Settles O9: a request is performed or held where it is homed, its answer goes to its slot's owner, and the oldest
grantable request takes the lowest free slot. -/
theorem requestSlotsAreServed : Obligations.RequestSlotsAreServed :=
  ⟨exec_spanRequestReceive_slot, exec_spanRequestReceive_remote, exec_spanRequestReceive_unknown_job,
   exec_spanResponseReceive_delivers, State.deliver_store, State.deliver_load, State.finishAccess_of_waiting,
   exec_slotGrant_grants, exec_metacacheUncorrectable_removes⟩

end Sys2Proof.Machine
end

section
/-! Chapter 05: a gather descriptor from the queue to its record (R162, R164, R167, R168). -/

namespace Sys2Proof.Machine
open Sys2Proof

/-! The commands of the gather engines, each by the operation that carries it out. -/

theorem exec_gxDescExecute (t : TileNo) (eng : Bool) (rem : List (Nat × SpanReply)) (bad : Option (Nat × Integ))
    (s : State) : exec (.gxDescExecute t eng rem bad) s = execGxDescExecute t eng rem bad s := rfl
theorem exec_gxRingAdvance (t : TileNo) (eng : Bool) (rem : List (Nat × SpanReply)) (bad : Option (Nat × Integ))
    (s : State) : exec (.gxRingAdvance t eng rem bad) s = execGxRingAdvance t eng rem bad s := rfl
theorem exec_gxComplete (t : TileNo) (eng : Bool) (s : State) : exec (.gxComplete t eng) s = execGxComplete t eng s := rfl

/-! An engine that may work goes on with its descriptor, or starts the head of its queue (R162, R164). -/

theorem exec_gxDescExecute_starts (t : TileNo) (eng : Bool) (rem : List (Nat × SpanReply)) (bad : Option (Nat × Integ))
    (n : Nat) (d : GxDesc) (rest : List GxDesc) (s : State) (hcomp : s.engineComp t.val = some n)
    (hfree : ((s.tile t.val).gx eng).run = none) (hhead : ((s.tile t.val).gx eng).queue = d :: rest) :
    let r : GxRun := { desc := d, next := 0, staged := [], laNext := 0, laIssued := 0, laDropped := 0, examples := 0, mixed := false,
                       seen := [], status := 0, faultIdx := 0, faultSpan := 0 }
    exec (.gxDescExecute t eng rem bad) s = .next (((s.setGx t.val eng ⟨rest, some r⟩).unstall t.val
      (if eng then .gather1 else .gather0)).gxGo n t.val eng r rem bad) := by
  rw [exec_gxDescExecute]
  simp only [execGxDescExecute, hcomp, hfree, hhead]
  rfl

theorem exec_gxDescExecute_goes_on (t : TileNo) (eng : Bool) (rem : List (Nat × SpanReply)) (bad : Option (Nat × Integ))
    (n : Nat) (r : GxRun) (s : State) (hcomp : s.engineComp t.val = some n)
    (hrun : ((s.tile t.val).gx eng).run = some r) :
    exec (.gxDescExecute t eng rem bad) s = .next (s.gxGo n t.val eng r rem bad) := by
  rw [exec_gxDescExecute]
  simp only [execGxDescExecute, hcomp, hrun]
  rfl

theorem exec_gxRingAdvance_goes_on (t : TileNo) (eng : Bool) (rem : List (Nat × SpanReply)) (bad : Option (Nat × Integ))
    (n : Nat) (r : GxRun) (s : State) (hcomp : s.engineComp t.val = some n)
    (hrun : ((s.tile t.val).gx eng).run = some r) (hring : Gx.ring r.desc.bits = true) :
    exec (.gxRingAdvance t eng rem bad) s = .next (s.gxGo n t.val eng r rem bad) := by
  rw [exec_gxRingAdvance]
  simp only [execGxRingAdvance, hcomp, hrun, hring]
  rfl

/-! A descriptor that has ended completes (R167, R168). -/

theorem exec_gxComplete_completes (t : TileNo) (eng : Bool) (n : Nat) (r : GxRun) (s : State)
    (hcomp : s.engineComp t.val = some n) (hrun : ((s.tile t.val).gx eng).run = some r)
    (hended : Gx.count r.desc.bits ≤ r.next ∨ r.status ≠ 0) (hclear : s.gxHeld n t.val eng = false) :
    exec (.gxComplete t eng) s = .next
      (let k := t.val
       let d := r.desc.bits
       let s1 := (s.setGx k eng { (s.tile k).gx eng with run := none }).tsWrite k (Gx.recAddr d)
         (leBytes 64 (gxRecord r s.stamp k))
       let s2 := if Gx.pegEn d = true then s1.unitPost n (Gx.peg d) else s1
       let s3 := if r.status ≠ 0 then s2.signal r.desc.poster (if eng then 3 else 2) r.status (Gx.recAddr d) else s2
       (if r.status = 0x0407 ∨ r.status = 0x0408 ∨ r.status = 0x0409 then s3.fault r.status n k else s3).tileEvent k
         0x61 1) := by
  have hgo : ((r.next < Gx.count r.desc.bits && r.status = 0) || s.gxHeld n t.val eng) = false := by
    have hnot : ¬(r.next < Gx.count r.desc.bits ∧ r.status = 0) := by omega
    simpa [hclear] using hnot
  rw [exec_gxComplete]
  simp only [execGxComplete, hcomp, hrun, hgo, Bool.false_eq_true, if_false, Bool.or_eq_true, decide_eq_true_eq, or_assoc]
  rfl

/-- Settles O10: an engine that may work starts or goes on with one descriptor, and completion writes the record before it
posts the peg. -/
theorem gatherDescriptorsRunAndComplete : Obligations.GatherDescriptorsRunAndComplete :=
  ⟨exec_gxDescExecute_starts, exec_gxDescExecute_goes_on, exec_gxRingAdvance_goes_on, exec_gxComplete_completes⟩

end Sys2Proof.Machine
end

section
/-! Chapter 06: the verdict rule on the control record (R183, R185), and the lines of the keeper and of the update unit
(R188, R203, R205). -/

namespace Sys2Proof.Machine
open Sys2Proof

/-! The loss-scale rule, verdict by verdict (R183, R185). -/

/-- A field with no bit in common with the one replaced reads as before. -/
theorem fld_putFld_apart (w hi lo v hi' lo' : Nat) (h : lo ≤ hi) (h' : lo' ≤ hi') (apart : hi' < lo ∨ hi < lo') :
    fld (putFld w hi lo v) hi' lo' = fld w hi' lo' :=
  apart.elim (fld_putFld_below w hi lo v hi' lo' h · h') (fld_putFld_above w hi lo v hi' lo' h)

/-- The record every verdict starts from: the step, the verdict and S noted, the saturation counts cleared. -/
def verdictNoted (ct step v : Nat) : Nat :=
  putFld (putFld (putFld (putFld (putFld (putFld ct 79 72 (Ctl.lossLog2 ct)) 223 192 0) 255 224 0) 63 0 step) 87 80 v)
    103 88 0

/-- The record after a CLEAN verdict, its S as before. -/
def cleanRecord (ct step herringbone : Nat) : Nat :=
  putFld (putFld (verdictNoted ct step 0) 175 160 0) 159 128
    (if Ctl.cleanRun ct + 1 = herringbone then 0 else Ctl.cleanRun ct + 1)

/-- The record after a verdict that skips the step, its S as before. -/
def skipRecord (ct step v : Nat) : Nat :=
  putFld (putFld (putFld (verdictNoted ct step v) 159 128 0) 175 160 (Ctl.skipRun ct + 1)) 319 256 (Ctl.skipsTotal ct + 1)

theorem applyVerdict_clean (ct step hb limit : Nat) :
    applyVerdict ct step 0 hb limit =
      (if Ctl.cleanRun ct + 1 = hb ∧ Ctl.lossLog2 ct < 24 then
        putFld (putFld (cleanRecord ct step hb) 71 64 (Ctl.lossLog2 ct + 1)) 383 352 (Ctl.doublings ct + 1)
      else cleanRecord ct step hb, false, false) := by
  by_cases hraise : Ctl.cleanRun ct + 1 = hb ∧ Ctl.lossLog2 ct < 24 <;>
    simp [applyVerdict, cleanRecord, verdictNoted, hraise]

theorem applyVerdict_skip (ct step v hb limit : Nat) (hv : v ≠ 0) :
    applyVerdict ct step v hb limit =
      (if v = 1 ∧ 0 < Ctl.lossLog2 ct then
        putFld (putFld (skipRecord ct step v) 71 64 (Ctl.lossLog2 ct - 1)) 351 320 (Ctl.halvings ct + 1)
      else skipRecord ct step v, decide (v = 1 ∧ Ctl.lossLog2 ct = 0), decide (Ctl.skipRun ct + 1 = limit)) := by
  by_cases hlower : v = 1 ∧ 0 < Ctl.lossLog2 ct
  · simp [applyVerdict, skipRecord, verdictNoted, hlower]
    omega
  · have hfloor : (v = 1 ∧ Ctl.lossLog2 ct = 0) ↔ v = 1 := by omega
    simp [applyVerdict, skipRecord, verdictNoted, hv, hlower, hfloor]


/-- What a verdict notes, whichever it is. -/
theorem applyVerdict_notes (ct step v hb limit : Nat) (hv : v ≤ 2) :
    let r := (applyVerdict ct step v hb limit).1
    Ctl.lastStep r = step % 2 ^ 64 ∧ Ctl.lastVerdict r = v ∧ Ctl.lastStatus r = 0 ∧
    Ctl.lossPrev r = Ctl.lossLog2 ct ∧ Ctl.gradSat r = 0 ∧ Ctl.satOther r = 0 := by
  have hS : Ctl.lossLog2 ct % 256 = Ctl.lossLog2 ct := Nat.mod_eq_of_lt (fld_lt ct 71 64)
  rcases Nat.eq_zero_or_pos v with rfl | hskip
  · rw [applyVerdict_clean]
    split <;> simp (disch := omega) [Ctl.lastStep, Ctl.lastVerdict, Ctl.lastStatus, Ctl.lossPrev, Ctl.gradSat, Ctl.satOther,
      cleanRecord, verdictNoted, fld_putFld_self, fld_putFld_apart, hS]
  · have hv' : v % 256 = v := Nat.mod_eq_of_lt (by omega)
    rw [applyVerdict_skip ct step v hb limit (by omega)]
    split <;> simp (disch := omega) [Ctl.lastStep, Ctl.lastVerdict, Ctl.lastStatus, Ctl.lossPrev, Ctl.gradSat, Ctl.satOther,
      skipRecord, verdictNoted, fld_putFld_self, fld_putFld_apart, hS, hv']

/-- A CLEAN verdict: S and DOUBLINGS rise by one where the run reaches the herringbone with S below 24. -/
theorem applyVerdict_clean_counts (ct step hb limit : Nat) :
    let r := (applyVerdict ct step 0 hb limit).1
    let up := Ctl.cleanRun ct + 1 = hb ∧ Ctl.lossLog2 ct < 24
    Ctl.lossLog2 r = (if up then Ctl.lossLog2 ct + 1 else Ctl.lossLog2 ct) ∧
    Ctl.cleanRun r = (if Ctl.cleanRun ct + 1 ≠ hb then (Ctl.cleanRun ct + 1) % 2 ^ 32 else 0) ∧
    Ctl.skipRun r = 0 ∧ Ctl.skipsTotal r = Ctl.skipsTotal ct ∧
    Ctl.doublings r = (if up then (Ctl.doublings ct + 1) % 2 ^ 32 else Ctl.doublings ct) ∧
    Ctl.halvings r = Ctl.halvings ct := by
  have hrun : (if Ctl.cleanRun ct + 1 = hb then 0 else Ctl.cleanRun ct + 1) % 2 ^ 32 =
      if Ctl.cleanRun ct + 1 ≠ hb then (Ctl.cleanRun ct + 1) % 2 ^ 32 else 0 := by
    split <;> simp_all
  simp only [← hrun, applyVerdict_clean]
  by_cases hup : Ctl.cleanRun ct + 1 = hb ∧ Ctl.lossLog2 ct < 24
  · have hfits : fld ct 71 64 + 1 < 256 := Nat.lt_of_le_of_lt hup.2 (by decide)
    simp only [if_pos hup]
    simp (disch := omega) [Ctl.lossLog2, Ctl.cleanRun, Ctl.skipRun, Ctl.skipsTotal, Ctl.doublings, Ctl.halvings,
      cleanRecord, verdictNoted, fld_putFld_self, fld_putFld_apart, hfits]
  · simp only [if_neg hup]
    simp (disch := omega) [Ctl.lossLog2, Ctl.cleanRun, Ctl.skipRun, Ctl.skipsTotal, Ctl.doublings, Ctl.halvings,
      cleanRecord, verdictNoted, fld_putFld_self, fld_putFld_apart]

/-- A verdict that skips the step: an OVERFLOW lowers S by one, above 0, and counts in HALVINGS. -/
theorem applyVerdict_skip_counts (ct step v hb limit : Nat) (hv : v ≠ 0) :
    let r := (applyVerdict ct step v hb limit).1
    let down := v = 1 ∧ 0 < Ctl.lossLog2 ct
    Ctl.lossLog2 r = (if down then Ctl.lossLog2 ct - 1 else Ctl.lossLog2 ct) ∧ Ctl.cleanRun r = 0 ∧
    Ctl.skipRun r = (Ctl.skipRun ct + 1) % 2 ^ 16 ∧ Ctl.skipsTotal r = (Ctl.skipsTotal ct + 1) % 2 ^ 64 ∧
    Ctl.doublings r = Ctl.doublings ct ∧
    Ctl.halvings r = (if down then (Ctl.halvings ct + 1) % 2 ^ 32 else Ctl.halvings ct) := by
  simp only [applyVerdict_skip ct step v hb limit hv]
  by_cases hdown : v = 1 ∧ 0 < Ctl.lossLog2 ct
  · have hfits : fld ct 71 64 - 1 < 256 := Nat.lt_of_le_of_lt (Nat.sub_le _ _) (fld_lt ct 71 64)
    simp only [if_pos hdown]
    simp (disch := omega) [Ctl.lossLog2, Ctl.cleanRun, Ctl.skipRun, Ctl.skipsTotal, Ctl.doublings, Ctl.halvings,
      skipRecord, verdictNoted, fld_putFld_self, fld_putFld_apart, hfits]
  · simp only [if_neg hdown]
    simp (disch := omega) [Ctl.lossLog2, Ctl.cleanRun, Ctl.skipRun, Ctl.skipsTotal, Ctl.doublings, Ctl.halvings,
      skipRecord, verdictNoted, fld_putFld_self, fld_putFld_apart]

/-- The loss scale stays from 0 to 24. -/
theorem lossLog2_applyVerdict_le (ct step v hb limit : Nat) (hS : Ctl.lossLog2 ct ≤ 24) :
    Ctl.lossLog2 (applyVerdict ct step v hb limit).1 ≤ 24 := by
  rcases Nat.eq_zero_or_pos v with rfl | hskip
  · rw [(applyVerdict_clean_counts ct step hb limit).1]
    split <;> omega
  · rw [(applyVerdict_skip_counts ct step v hb limit (Nat.ne_of_gt hskip)).1]
    split <;> omega

/-- Settles O11: what every verdict notes, then a CLEAN verdict's counts and S, and those of one that skips its step. -/
theorem lossScaleFollowsTheVerdict : Obligations.LossScaleFollowsTheVerdict := by
  intro ct step v hb limit hv
  dsimp only
  obtain ⟨hstep, hverdict, hstatus, hprev, hgrad, hother⟩ := applyVerdict_notes ct step v hb limit hv
  have hbound := lossLog2_applyVerdict_le ct step v hb limit
  refine ⟨hstep, hverdict, hstatus, hprev, hgrad, hother, ?_⟩
  rcases Nat.eq_zero_or_pos v with rfl | hskip
  · obtain ⟨hloss, hclean, hrun, htotal, hdoubled, hhalved⟩ := applyVerdict_clean_counts ct step hb limit
    exact ⟨by simpa using hloss, by simpa using hclean, by simpa using hrun, by simpa using htotal,
      by simpa using hdoubled, by simpa using hhalved, by simp [applyVerdict_clean], by simp [applyVerdict_clean], hbound⟩
  · have hv0 : v ≠ 0 := Nat.ne_of_gt hskip
    obtain ⟨hloss, hclean, hrun, htotal, hdoubled, hhalved⟩ := applyVerdict_skip_counts ct step v hb limit hv0
    exact ⟨by simpa [hv0] using hloss, by simpa [hv0] using hclean, by simpa [hv0] using hrun, by simpa [hv0] using htotal,
      by simpa [hv0] using hdoubled, by simpa using hhalved, by simp [applyVerdict_skip, hv0],
      by simp [applyVerdict_skip, hv0], hbound⟩

/-! The lines the keeper and the update unit read, and the lines that go out (R185, R188, R203, R205). -/

theorem exec_verdictApply (c : CompNo) (rem : Option SpanReply) (s : State) :
    exec (.verdictApply c rem) s = execVerdictApply c rem s := rfl
theorem exec_plumbLineAccept (c : CompNo) (rem : Option SpanReply) (s : State) :
    exec (.plumbLineAccept c rem) s = execPlumbLineAccept c rem s := rfl
theorem exec_paramLinePublish (c : CompNo) (s : State) : exec (.paramLinePublish c) s = execParamLinePublish c s := rfl

/-- The guard of a unit's read: it goes on in RUNNING and HELD with an advance not yet acted on. -/
theorem advance_is_due (n unit p : Nat) (s : State) (hruns : s.unitsRun n = true)
    (hadv : s.advances n unit p ≠ 0) :
    (!s.unitsRun n || decide (s.advances n unit p = 0)) = false := by
  simp [hruns, hadv]

theorem exec_verdictApply_applies (c : CompNo) (rem : Option SpanReply) (bs : List Byte) (s s1 : State) :
    let n := c.val
    let l := leNat bs
    let ct := s1.control n
    let q := applyVerdict ct (fld l 63 0) (fld l 71 64) (s1.objC Obj.numCompHerringbone n) (s1.objC Obj.numCompSkipLimit n)
    s.unitsRun n = true → s.advances n unitVerdict (s.objC Obj.numCompVerdictPeg n) ≠ 0 →
    (s.actOn n unitVerdict).unitFetch n (s.objC Obj.numCompVerdictAddr n) 64 rem = (some bs, s1) →
    fld l 63 0 = Ctl.lastStep ct + 1 → fld l 71 64 ≤ 2 → fld l 127 72 = 0 → fld l 511 192 = 0 →
    exec (.verdictApply c rem) s = .next
      (let s2 := ((List.range 4092).foldl (fun a i => a.decayRecord n (i + 4)) s1).setControl n q.1
       let s3 := if fld l 71 64 = 0 then s2 else (s2.incC Obj.numCompStepsSkipped n).numEvent n 0x0501 0 (fld l 63 0)
       let s4 := if q.2.1 = true then s3.fault 0x0503 n else s3
       let s5 := if q.2.2 = true then (s4.fault 0x0504 n).raise 1 n else s4
       (s5.unitPost n (s5.objC Obj.numCompScalePeg n)).handVerdict n (fld l 63 0) (fld l 71 64) (Ctl.lossLog2 ct)
         (Ctl.lossLog2 q.1)) := by
  dsimp only
  intro hruns hadv hread hstep hverdict hlow hhigh
  have hgood : ((some bs).isNone || fld (leNat bs) 63 0 ≠ Ctl.lastStep (s1.control c.val) + 1 || 2 < fld (leNat bs) 71 64 ||
      fld (leNat bs) 127 72 ≠ 0 || fld (leNat bs) 511 192 ≠ 0) = false := by
    simp [hstep, hverdict, hlow, hhigh]
  rw [exec_verdictApply, execVerdictApply]
  simp only [advance_is_due _ _ _ s hruns hadv, hread, Option.getD_some, hgood, Bool.false_eq_true, if_false]
  rfl

theorem exec_verdictApply_refuses (c : CompNo) (rem : Option SpanReply) (b : Option (List Byte)) (s s1 : State) :
    let n := c.val
    let l := leNat (b.getD [])
    s.unitsRun n = true → s.advances n unitVerdict (s.objC Obj.numCompVerdictPeg n) ≠ 0 →
    (s.actOn n unitVerdict).unitFetch n (s.objC Obj.numCompVerdictAddr n) 64 rem = (b, s1) →
    (b = none ∨ fld l 63 0 ≠ Ctl.lastStep (s1.control n) + 1 ∨ 2 < fld l 71 64 ∨ fld l 127 72 ≠ 0 ∨ fld l 511 192 ≠ 0) →
    exec (.verdictApply c rem) s = .next
      (let s2 := ((s1.setControl n (putFld (s1.control n) 103 88 0x0505)).incC Obj.numCompVerdictsRefused n).fault 0x0505 n
       s2.unitPost n (s2.objC Obj.numCompScalePeg n)) := by
  dsimp only
  intro hruns hadv hread hbad
  have hrefused : (b.isNone || fld (leNat (b.getD [])) 63 0 ≠ Ctl.lastStep (s1.control c.val) + 1 ||
      2 < fld (leNat (b.getD [])) 71 64 || fld (leNat (b.getD [])) 127 72 ≠ 0 ||
      fld (leNat (b.getD [])) 511 192 ≠ 0) = true := by
    simpa [or_assoc] using hbad
  rw [exec_verdictApply, execVerdictApply]
  simp only [advance_is_due _ _ _ s hruns hadv, hread, hrefused, Bool.false_eq_true, if_false, if_true]
  rfl

theorem exec_plumbLineAccept_reads (c : CompNo) (rem : Option SpanReply) (bs : List Byte) (s s2 : State) :
    let n := c.val
    let l := leNat bs
    s.unitsRun n = true → s.advances n unitPlumb (s.objC Obj.updCompPlumbPeg n) ≠ 0 →
    (s.actOn n unitPlumb).unitFetch n ((s.actOn n unitPlumb).objC Obj.updCompPlumbAddr n) 64 rem = (some bs, s2) →
    exec (.plumbLineAccept c rem) s = .next
      (if fld l 63 0 = (s2.comp n).upd.lastPlumb + 1 ∧ fld l 511 96 = 0 then
        ((s2.modUpd n fun u => { u with lastPlumb := fld l 63 0,
                                        norms := kput (2 ^ 64) u.norms (fld l 63 0) (fld l 95 64) }).confPut n (fld l 63 0)
          fun x => { x with normSq := some (fld l 95 64) }).joinLine n (fld l 63 0)
      else s2.updEvent n 0x060A 0 (fld l 63 0) false) := by
  dsimp only
  intro hruns hadv hread
  rw [exec_plumbLineAccept, execPlumbLineAccept]
  simp only [advance_is_due _ _ _ s hruns hadv, hread, Bool.false_eq_true, if_false, Bool.and_eq_true, decide_eq_true_eq]
  split <;> rfl

/-- A line that cannot be read answers as a bad one, with no step: the model's reading of R203, which does not say. -/
theorem exec_plumbLineAccept_unread (c : CompNo) (rem : Option SpanReply) (s s2 : State)
    (hruns : s.unitsRun c.val = true) (hadv : s.advances c.val unitPlumb (s.objC Obj.updCompPlumbPeg c.val) ≠ 0)
    (hread : (s.actOn c.val unitPlumb).unitFetch c.val ((s.actOn c.val unitPlumb).objC Obj.updCompPlumbAddr c.val) 64 rem =
      (none, s2)) :
    exec (.plumbLineAccept c rem) s = .next (s2.updEvent c.val 0x060A 0 0 false) := by
  rw [exec_plumbLineAccept, execPlumbLineAccept]
  simp only [advance_is_due _ _ _ s hruns hadv, hread, Bool.false_eq_true, if_false]
  rfl

theorem exec_paramLinePublish_publishes (c : CompNo) (step used v clip : Nat) (rest : List (Nat × (Nat × Nat × Nat)))
    (s : State) (hruns : s.unitsRun c.val = true) (hdue : (s.comp c.val).upd.lines = (step, used, v, clip) :: rest) :
    exec (.paramLinePublish c) s =
      .next ((s.modUpd c.val fun u => { u with lines := rest }).putLine c.val step used v clip) := by
  rw [exec_paramLinePublish, execParamLinePublish]
  simp only [hdue, hruns, Bool.not_true, Bool.false_eq_true, if_false]
  rfl

/-- Settles O12: a verdict line is applied or refused, a plumb line accepted or refused, and the oldest parameter line due
is published. -/
theorem verdictsAndPlumbLinesAreTaken : Obligations.VerdictsAndPlumbLinesAreTaken :=
  ⟨exec_verdictApply_applies, exec_verdictApply_refuses, exec_plumbLineAccept_reads, exec_plumbLineAccept_unread,
    exec_paramLinePublish_publishes⟩

end Sys2Proof.Machine
end

section
/-! Chapter 08: pegs, and the waiters of a counting peg (R231, R242-R248). -/

namespace Sys2Proof.Machine
open Sys2Proof

/-! Serving the waiters of a counting peg from the head (R243). -/

theorem serveCount_of_enough {v : Nat} {w : Waiter} {r : List Waiter} (h : w.amount ≤ v) :
    serveCount v (w :: r) =
      ((serveCount (v - w.amount) r).1, w :: (serveCount (v - w.amount) r).2.1, (serveCount (v - w.amount) r).2.2) := by
  simp [serveCount, h]

theorem serveCount_of_too_few {v : Nat} {w : Waiter} {r : List Waiter} (h : ¬ w.amount ≤ v) :
    serveCount v (w :: r) = (v, [], w :: r) := by
  simp [serveCount, h]

theorem serveCount_splits (ws : List Waiter) : ∀ v, (serveCount v ws).2.1 ++ (serveCount v ws).2.2 = ws := by
  induction ws with
  | nil => intro v; rfl
  | cons w r ih =>
    intro v
    by_cases h : w.amount ≤ v
    · rw [serveCount_of_enough h]; simp [ih]
    · rw [serveCount_of_too_few h]; rfl

/-- What is left and what the satisfied waiters took is what there was. -/
theorem serveCount_conserves (ws : List Waiter) :
    ∀ v, (serveCount v ws).1 + ((serveCount v ws).2.1.map Waiter.amount).sum = v := by
  induction ws with
  | nil => intro v; rfl
  | cons w r ih =>
    intro v
    by_cases h : w.amount ≤ v
    · have hr := ih (v - w.amount)
      rw [serveCount_of_enough h, List.map_cons, List.sum_cons]
      omega
    · rw [serveCount_of_too_few h]; rfl

/-- The first waiter left asks for more than is left: it blocks those behind it. -/
theorem serveCount_blocks (ws : List Waiter) :
    ∀ v w r, (serveCount v ws).2.2 = w :: r → (serveCount v ws).1 < w.amount := by
  induction ws with
  | nil => intro v w r h; cases h
  | cons x l ih =>
    intro v w r h
    by_cases hx : x.amount ≤ v
    · rw [serveCount_of_enough hx] at h ⊢; exact ih _ w r h
    · rw [serveCount_of_too_few hx] at h ⊢
      obtain ⟨rfl, rfl⟩ := List.cons.inj h
      exact Nat.not_le.1 hx

/-! A waiter woken is an acquire of its thread or a reply to its module: pegs stay as they are. -/

@[simp] theorem State.purge_pegs (s : State) (k : Nat) : (s.purge k).pegs = s.pegs := by
  unfold State.purge
  split <;> rfl

@[simp] theorem State.wake_pegs (s : State) (w : Waiter) : (s.wake w).pegs = s.pegs := by
  obtain ⟨k, v⟩ | ⟨c, node, tag, v⟩ := w
  · exact s.purge_pegs k
  · rfl

theorem State.peg_wakes (ws : List Waiter) (s : State) (q : Nat) : (ws.foldl State.wake s).peg q = s.peg q :=
  congrArg (fun m => kget Peg.init m q) (foldl_same State.pegs State.wake State.wake_pegs ws s)

/-! A post (R243, R245). -/

theorem State.pegAdd_counting {s : State} {p n : Nat} (h : ¬ (s.peg p).value + n > 2 ^ 31 - 1) :
    let r := serveCount ((s.peg p).value + n) (s.peg p).waiters
    s.pegAdd false p n = some (r.2.1.foldl State.wake (s.setPeg p ⟨r.1, r.2.2⟩)) := by
  intro r
  unfold State.pegAdd
  exact if_neg h

theorem State.pegAdd_overflows {s : State} {p n : Nat} (h : (s.peg p).value + n > 2 ^ 31 - 1) :
    s.pegAdd false p n = none := by
  unfold State.pegAdd
  exact if_pos h

/-! The range of rs2 (R242). -/

theorem pegArgOk_post {v : Nat} (seq : Bool) (hlo : 1 ≤ v) (hhi : v < 2 ^ 31) : pegArgOk .post seq v = true := by
  simp only [pegArgOk, Bool.and_eq_true, decide_eq_true_eq]
  exact ⟨hlo, hhi⟩

theorem pegArgOk_counting {op : PegOp} {v : Nat} (hop : op = .wait ∨ op = .try_) (hlo : 1 ≤ v) (hhi : v < 2 ^ 31) :
    pegArgOk op false v = true := by
  obtain rfl | rfl := hop <;> exact pegArgOk_post false hlo hhi

theorem pegArgOk_wait_sequence {v : Nat} (h : v < 2 ^ 32) : pegArgOk .wait true v = true := decide_eq_true h

/-! An operation on a peg of this module, in the order of its checks (R242; that order is log 93). -/

theorem State.pegPerform_of_not_owned {s : State} {n p : Nat} (op : PegOp) (v : Nat) (h : s.pegOwned n p = false) :
    s.pegPerform n op p v = (.refused 0x0705, (s.incC Obj.spanCompPegRefused n).faultOnce 0x0705 n 0 p) := by
  simp [State.pegPerform, h]

section Owned
variable {s : State} {n p v : Nat} (howned : s.pegOwned n p = true)
include howned

theorem State.pegPerform_of_bad_argument {op : PegOp} (harg : pegArgOk op (s.pegSeq n p) v = false) :
    s.pegPerform n op p v = (.refused 0x0704, (s.incC Obj.spanCompPegRefused n).faultOnce 0x0704 n 0 p) := by
  simp [State.pegPerform, howned, harg]

theorem State.pegPerform_read : s.pegPerform n .read p v = (.done (s.peg p).value, s) := by
  simp [State.pegPerform, howned, pegArgOk]

theorem State.pegPerform_post (hlo : 1 ≤ v) (hhi : v < 2 ^ 31) :
    s.pegPerform n .post p v = match s.pegAdd (s.pegSeq n p) p v with
      | some t => (.done 0, t)
      | none => (.refused 0x0703, (s.incC Obj.spanCompPegOverflows n).faultOnce 0x0703 n 0 p) := by
  have hmine : ¬ (!s.pegOwned n p) = true := by simp [howned]
  have harg : ¬ (!pegArgOk .post (s.pegSeq n p) v) = true := by simp [pegArgOk_post _ hlo hhi]
  unfold State.pegPerform
  exact (if_neg hmine).trans (if_neg harg)

theorem State.pegPerform_overflows (hcount : s.pegSeq n p = false) (hlo : 1 ≤ v) (hhi : v < 2 ^ 31)
    (hover : 2 ^ 31 - 1 < (s.peg p).value + v) :
    s.pegPerform n .post p v = (.refused 0x0703, (s.incC Obj.spanCompPegOverflows n).faultOnce 0x0703 n 0 p) := by
  rw [State.pegPerform_post howned hlo hhi, hcount, State.pegAdd_overflows hover]

/-- A post to a sequence peg never overflows: it advances and wakes the waiters reached, in their order. -/
theorem State.pegPerform_advances (hseq : s.pegSeq n p = true) (hlo : 1 ≤ v) (hhi : v < 2 ^ 31) :
    let g := s.peg p
    let w := (g.value + v) % 2 ^ 32
    s.pegPerform n .post p v = (.done 0, (g.waiters.filter fun x => seqReached w x.amount).foldl State.wake
      ((s.setPeg p ⟨w, g.waiters.filter fun x => !seqReached w x.amount⟩).stampRing p w)) := by
  intro g w
  rw [State.pegPerform_post howned hlo hhi, hseq]
  rfl

theorem State.pegPerform_waits_sequence (hseq : s.pegSeq n p = true) (hhi : v < 2 ^ 32) :
    s.pegPerform n .wait p v = (if seqReached (s.peg p).value v = true then .done 0 else .wait, s) := by
  simp only [State.pegPerform, howned, hseq, pegArgOk_wait_sequence hhi, Bool.not_true, Bool.false_eq_true, if_false, if_true]
  split <;> rfl

/-- A wait or a try on a counting peg takes its tokens at once where nobody waits and they suffice, else takes none. -/
theorem State.pegPerform_takes {op : PegOp} (hop : op = .wait ∨ op = .try_) (hcount : s.pegSeq n p = false) (hlo : 1 ≤ v)
    (hhi : v < 2 ^ 31) :
    s.pegPerform n op p v = if (s.peg p).waiters = [] ∧ v ≤ (s.peg p).value then
      (.done 0, s.setPeg p ⟨(s.peg p).value - v, []⟩) else (.wait, s) := by
  have harg : pegArgOk op false v = true := pegArgOk_counting hop hlo hhi
  by_cases hfree : (s.peg p).waiters = [] ∧ v ≤ (s.peg p).value
  · obtain ⟨hnone, henough⟩ := hfree
    obtain rfl | rfl := hop <;> simp [State.pegPerform, howned, hcount, harg, hnone, henough]
  · obtain rfl | rfl := hop <;> simp [State.pegPerform, howned, hcount, harg, hfree]
end Owned

/-- Settles O14: a post that is not refused is a service of the queue from its head, which splits the queue, conserves
the tokens and stops at the first waiter it cannot satisfy. -/
theorem pegTokensAreConserved : Obligations.PegTokensAreConserved := by
  unfold Obligations.PegTokensAreConserved
  refine ⟨?post, ?take, ?read⟩
  case post =>
    intro p n s u hadd
    have hroom : ¬ (s.peg p).value + n > 2 ^ 31 - 1 := by
      intro hover
      rw [State.pegAdd_overflows hover] at hadd
      cases hadd
    rw [State.pegAdd_counting hroom] at hadd
    obtain rfl := Option.some.inj hadd
    simp only [State.peg_wakes, State.peg_setPeg_self]
    exact ⟨_, _, (serveCount_splits _ _).symm, rfl, serveCount_conserves _ _, serveCount_blocks _ _, rfl,
      fun q hq => State.peg_setPeg_other s p q _ hq⟩
  case take => exact fun n p v op s hop howned hcount hlo hhi => State.pegPerform_takes howned hop hcount hlo hhi
  case read => exact fun n p v s howned => State.pegPerform_read howned

end Sys2Proof.Machine
end

section
/-! Chapter 08: peg operations of threads, of other modules, and the end of remote ones (R231, R242-R248). -/

namespace Sys2Proof.Machine
open Sys2Proof

/-! The commands, each by the operation that carries it out. -/

theorem exec_pegPost (t : ThreadId) (rd rs1 rs2 : Fin 32) (s : State) :
    exec (.pegPost t rd rs1 rs2) s = .next (s.pegIssue t rd.val rs1.val rs2.val .post) := rfl
theorem exec_pegWait (t : ThreadId) (rd rs1 rs2 : Fin 32) (s : State) :
    exec (.pegWait t rd rs1 rs2) s = .next (s.pegIssue t rd.val rs1.val rs2.val .wait) := rfl
theorem exec_pegTry (t : ThreadId) (rd rs1 rs2 : Fin 32) (s : State) :
    exec (.pegTry t rd rs1 rs2) s = .next (s.pegIssue t rd.val rs1.val rs2.val .try_) := rfl
theorem exec_pegRead (t : ThreadId) (rd rs1 rs2 : Fin 32) (s : State) :
    exec (.pegRead t rd rs1 rs2) s = .next (s.pegIssue t rd.val rs1.val rs2.val .read) := rfl
theorem exec_remotePegOperation (node : BitVec 16) (tag : W32) (job : W64) (op : PegOp) (peg : Fin 16384) (v : W64)
    (s : State) : exec (.remotePegOperation node tag job op peg v) s = execRemotePegOperation node tag job op peg v s := rfl
theorem exec_remotePegReply (t : ThreadId) (status : BitVec 16) (value : W64) (registered : Bool) (s : State) :
    exec (.remotePegReply t status value registered) s = execRemotePegReply t status value registered s := rfl
theorem exec_remoteTimeout (t : TileNo) (k : Fin 256) (s : State) :
    exec (.remoteTimeout t k) s = execRemoteTimeout t k s := rfl

/-! A peg instruction of a thread that can issue (R242, R246). -/

/-- A post waits for the thread's stores, which are none; the others wait for nothing. -/
theorem State.pegIssue_of_ready {s : State} {t : ThreadId} {n : Nat} {op : PegOp} (rd rs1 rs2 : Nat)
    (hissue : s.issuer t = some n) (hready : (s.thread t.key).st = .ready) (hstores : op = .post → s.storesOpen t = false) :
    let b := s.beat t n
    s.pegIssue t rd rs1 rs2 op =
      b.pegDo t n rd ((b.thread t.key).getX rs1).toNat ((b.thread t.key).getX rs2).toNat op := by
  have hgo : (decide (op = .post) && decide ((s.thread t.key).st ≠ .runahead) && s.storesOpen t) = false := by
    by_cases hpost : op = .post
    · simp [hstores hpost]
    · simp [hpost]
  intro b
  rw [State.pegIssue, hgo, if_neg Bool.false_ne_true, State.issue_of_ready rd _ hissue hready]

theorem State.pegDo_of_bad_handle (t : ThreadId) (n rd h v : Nat) (op : PegOp) (s : State) (hbad : Hnd.bad h = true) :
    s.pegDo t n rd h v op = ((s.incC Obj.spanCompPegRefused n).faultOnce 0x0704 n 0 0).retire t rd 0x0704 := by
  rw [State.pegDo, if_pos hbad]
  rfl

section Here
variable {s u : State} {n h v : Nat} {op : PegOp} (t : ThreadId) (rd : Nat) (hgood : Hnd.bad h = false)
  (hhere : Hnd.remote h = false)
include hgood hhere

theorem State.pegDo_done {x : Nat} (hout : (s.compEvent n 0xA1 1).pegPerform n op (Hnd.peg h) v = (.done x, u)) :
    s.pegDo t n rd h v op = (if op = .post then u else u.purge t.key).retire t rd x := by
  simp [State.pegDo, hgood, hhere, hout]

theorem State.pegDo_refused {c : Nat} (hout : (s.compEvent n 0xA1 1).pegPerform n op (Hnd.peg h) v = (.refused c, u)) :
    s.pegDo t n rd h v op = (u.compEvent n 0xA3 1).retire t rd c := by
  simp [State.pegDo, hgood, hhere, hout]

theorem State.pegDo_try_unsatisfied (hout : (s.compEvent n 0xA1 1).pegPerform n .try_ (Hnd.peg h) v = (.wait, u)) :
    s.pegDo t n rd h v .try_ = u.retire t rd 1 := by
  simp [State.pegDo, hgood, hhere, hout]

theorem State.pegDo_wait_joins (hout : (s.compEvent n 0xA1 1).pegPerform n .wait (Hnd.peg h) v = (.wait, u)) :
    s.pegDo t n rd h v .wait = ((u.setPeg (Hnd.peg h) { u.peg (Hnd.peg h) with
      waiters := (u.peg (Hnd.peg h)).waiters ++ [.local t.key v] }).retire t 0 0).modThread t.key fun x =>
        { x with st := .waiting, waitPeg := some ⟨rd, Hnd.peg h, none⟩ } := by
  simp [State.pegDo, hgood, hhere, hout]
end Here

/-! An operation another module of the job asks for (R246, R247). -/

section Asked
variable {s u : State} {n : Nat} {op : PegOp} {peg : Fin 16384} {job v : W64} (node : BitVec 16) (tag : W32)
  (hjob : s.compOfJob job.toNat = some n)
include hjob

theorem exec_remotePegOperation_done {x : Nat} (hout : s.pegPerform n op peg.val v.toNat = (.done x, u)) :
    exec (.remotePegOperation node tag job op peg v) s =
      .next (u.respond n node.toNat tag.toNat 0 (pegOperand x false) []) := by
  rw [exec_remotePegOperation]
  simp only [execRemotePegOperation, hjob, hout]
  rfl

theorem exec_remotePegOperation_refused {c : Nat} (hout : s.pegPerform n op peg.val v.toNat = (.refused c, u)) :
    exec (.remotePegOperation node tag job op peg v) s =
      .next (u.respond n node.toNat tag.toNat c (pegOperand 0 false) []) := by
  rw [exec_remotePegOperation]
  simp only [execRemotePegOperation, hjob, hout]
  rfl

theorem exec_remotePegOperation_try_unsatisfied (hout : s.pegPerform n .try_ peg.val v.toNat = (.wait, u)) :
    exec (.remotePegOperation node tag job .try_ peg v) s =
      .next (u.respond n node.toNat tag.toNat 0 (pegOperand 1 false) []) := by
  rw [exec_remotePegOperation]
  simp only [execRemotePegOperation, hjob, hout]
  rfl

/-- The wait is refused where 2,048 are registered, else it joins the queue and the reply says so. -/
theorem exec_remotePegOperation_wait (hout : s.pegPerform n .wait peg.val v.toNat = (.wait, u)) :
    exec (.remotePegOperation node tag job .wait peg v) s = .next
      (if 2048 ≤ u.objC Obj.spanCompRemoteWaitersUsed n then
        (u.fault 0x0706 n 0 0 peg.val).respond n node.toNat tag.toNat 0x0706 (pegOperand 0 false) []
       else ((u.setPeg peg.val { u.peg peg.val with waiters := (u.peg peg.val).waiters ++
          [.remote n node.toNat tag.toNat v.toNat] }).setObjC Obj.spanCompRemoteWaitersUsed n
            (u.objC Obj.spanCompRemoteWaitersUsed n + 1)).respond n node.toNat tag.toNat 0 (pegOperand 0 true) []) := by
  rw [exec_remotePegOperation]
  simp only [execRemotePegOperation, hjob, hout]
  rw [if_neg (by decide)]
  split <;> rfl
end Asked

/-! The reply to a remote operation, and its time-out (R231, R246, R248). -/

theorem exec_remotePegReply_good (t : ThreadId) (value : W64) (registered : Bool) (i : Nat) (x : Slot) (s : State)
    (hslot : s.pegSlot t = some (i, x)) :
    exec (.remotePegReply t 0 value registered) s = .next
      (if registered then (s.setSlot t.tile.val i none).modThread t.key fun h => { h with st := .waiting }
       else (s.setSlot t.tile.val i none).pegEnd t.key value.toNat
        (x.addr % 4 ≠ 0 ∧ ¬(x.addr % 4 = pegCode .try_ ∧ value = 1))) := by
  rw [exec_remotePegReply]
  cases registered <;> simp [execRemotePegReply, hslot, ok]

theorem exec_remotePegReply_bad (t : ThreadId) (status : BitVec 16) (value : W64) (registered : Bool) (i : Nat) (x : Slot)
    (s : State) (hslot : s.pegSlot t = some (i, x)) (hbad : status ≠ 0) :
    exec (.remotePegReply t status value registered) s =
      .next ((s.setSlot t.tile.val i none).pegEnd t.key status.toNat false) := by
  rw [exec_remotePegReply]
  simp only [execRemotePegReply, hslot, if_pos hbad]
  rfl

theorem exec_remotePegReply_registered (t : ThreadId) (status : BitVec 16) (value : W64) (registered : Bool)
    (w : PegWaitFor) (m : Nat) (s : State) (hslot : s.pegSlot t = none) (hst : (s.thread t.key).st = .waiting)
    (hwait : (s.thread t.key).waitPeg = some w) (hremote : w.remote = some m) :
    exec (.remotePegReply t status value registered) s = .next (s.pegEnd t.key status.toNat (status = 0)) := by
  have hvalue : (if status = 0 then 0 else status.toNat) = status.toNat := by
    split
    next h => rw [h]; rfl
    next => rfl
  rw [exec_remotePegReply]
  simp only [execRemotePegReply, hslot, hst, hwait, hremote, hvalue, Option.isSome_some, decide_true, Bool.and_true, if_true]
  rfl

theorem exec_remoteTimeout_ends (t : TileNo) (k : Fin 256) (x : Slot) (n m : Nat) (s : State)
    (hslot : s.slotAt t.val k.val = some x) (hcomp : s.compOfTile t.val = some n) (htarget : x.target = .module m)
    (hjob : m < 65536) (hopen : x.reply = none) (hleft : x.left = true)
    (hlate : x.issued + s.obj Obj.spanRemoteTimeoutMs * 1000000 ≤ s.now) :
    exec (.remoteTimeout t k) s = .next (match x.who with
      | .pegOp key => ((s.lostAccess n 0x0708 x.addr).setSlot t.val k.val none).pegEnd key 0x0708 false
      | _ => (s.lostAccess n 0x0708 x.addr).answerSlot t.val k.val 0x0708 []) := by
  rw [exec_remoteTimeout]
  simp only [execRemoteTimeout, hslot, hcomp, htarget, hjob, hopen, hleft, Nat.not_lt.2 hlate, decide_true, decide_false,
    Option.isSome_none, Bool.not_true, Bool.or_false, Bool.false_eq_true, if_false]
  cases x.who <;> rfl

/-- Settles O15: a thread's instruction is its operation on the state after its beat, and an operation, its reply and its
time-out go by what the peg, the slot and the registered wait give. The order of the checks is the model's (log 93). -/
theorem pegOperationsRun : Obligations.PegOperationsRun := by
  unfold Obligations.PegOperationsRun
  refine ⟨?issue, State.pegDo_of_bad_handle, ?here, ?perform, ?asked, exec_remotePegReply_good, exec_remotePegReply_bad,
    exec_remotePegReply_registered, exec_remoteTimeout_ends⟩
  case issue =>
    intro t rd rs1 rs2 n s hissue hready b h v
    refine ⟨?_, ?_, ?_, fun hstores => ?_⟩
    · rw [exec_pegWait, State.pegIssue_of_ready _ _ _ hissue hready (op := .wait) nofun]
    · rw [exec_pegTry, State.pegIssue_of_ready _ _ _ hissue hready (op := .try_) nofun]
    · rw [exec_pegRead, State.pegIssue_of_ready _ _ _ hissue hready (op := .read) nofun]
    · rw [exec_pegPost, State.pegIssue_of_ready _ _ _ hissue hready fun _ => hstores]
  case here =>
    intro t n rd h v op s hgood hhere e
    refine ⟨fun x u => State.pegDo_done t rd hgood hhere, fun c u => State.pegDo_refused t rd hgood hhere, ?_, ?_⟩
    · rintro u rfl hout
      exact State.pegDo_try_unsatisfied t rd hgood hhere hout
    · rintro u rfl hout
      exact State.pegDo_wait_joins t rd hgood hhere hout
  case perform =>
    intro n p v op s
    exact ⟨State.pegPerform_of_not_owned op v, fun howned harg => State.pegPerform_of_bad_argument howned harg,
      State.pegPerform_overflows, State.pegPerform_advances, State.pegPerform_waits_sequence⟩
  case asked =>
    intro node tag job op peg v n s hjob send
    refine ⟨fun x u => exec_remotePegOperation_done node tag hjob, fun c u => exec_remotePegOperation_refused node tag hjob,
      ?_, ?_⟩
    · rintro u rfl hout
      exact exec_remotePegOperation_try_unsatisfied node tag hjob hout
    · rintro u rfl hout
      rw [exec_remotePegOperation_wait node tag hjob hout]
      split <;> rfl

end Sys2Proof.Machine
end

section
/-! Chapters 08, 09 and 12: writes of a segment, a definition, an offer, a quota and a key range (R222, R257, R269, R279,
R346), and of a node map (R289). -/

namespace Sys2Proof.Machine
open Sys2Proof

/-- R524: a write acts where its checks pass, and else answers what they give. -/
def State.ifWritable (s : State) (r : Role) (key v : Nat) (act : Host.Outcome State Fault Refusal) :
    Host.Outcome State Fault Refusal :=
  match s.checkWrite r key v with
  | .ok => act
  | st => .next (s.reply st)

theorem State.ifWritable_of_ok {s : State} {r : Role} {key v : Nat} (act : Host.Outcome State Fault Refusal)
    (h : s.checkWrite r key v = .ok) : s.ifWritable r key v act = act := by
  rw [State.ifWritable, h]

theorem State.ifWritable_of_refused {s : State} {r : Role} {key v : Nat} (act : Host.Outcome State Fault Refusal)
    (h : s.checkWrite r key v ≠ .ok) : s.ifWritable r key v act = .next (s.reply (s.checkWrite r key v)) := by
  unfold State.ifWritable
  split
  next hok => exact absurd hok h
  next => rfl

/-! The commands, each by what it does where its checks pass. -/

theorem exec_segWrite (r : Role) (c : CompNo) (v : BitVec 256) (s : State) :
    exec (.segWrite r c v) s = s.ifWritable r (objAt Obj.spanCompSegWrite c.val) v.toNat
      (if s.segFits c.val v.toNat then .next ((s.modComp c.val fun x => { x with segs := x.segs ++ [v.toNat] }).reply .ok)
       else .next ((s.fault 0x0701 c.val).reply .outOfRange 0x0701)) := rfl

theorem exec_defineWrite (r : Role) (c : CompNo) (v : BitVec 512) (s : State) :
    exec (.defineWrite r c v) s = s.ifWritable r (objAt Obj.tierCompDefineWrite c.val) v.toNat
      (let e := v.toNat
       let q := s.define c.val e
       if Pe.kind e ≠ 0x71 then .next (s.reply .stateConflict)
       else if Pe.result e ≠ 0 || Pe.peg e ≠ 0 || Pe.pegEn e then
         .next ((s.tierEvent c.val 0x0801 (Pe.obj e) 0).reply .outOfRange 0x0801)
       else .next (if q.1 = 0 then q.2.reply .ok else (q.2.tierEvent c.val q.1 (Pe.obj e) 0).reply .outOfRange q.1)) := by
  show execDefineWrite r c v s = _
  unfold execDefineWrite
  dsimp only
  rcases s.define c.val v.toNat with ⟨_ | k, t⟩ <;> rfl

theorem exec_lendOfferWrite (r : Role) (v : W64) (s : State) :
    exec (.lendOfferWrite r v) s = s.ifWritable r Obj.tierLendOffer v.toNat
      (if 2 ^ 48 ≤ v.toNat then .next (s.reply .outOfRange)
       else if (List.range 48).any fun g => v.toNat.testBit g && (List.range 8).any fun n => (s.groups n).testBit g then
         .next (s.reply .stateConflict)
       else .next ((s.setObj Obj.tierLendOffer v.toNat).reply .ok)) := rfl

/-- The object of a quota: of lent memory, of flash or of the checkpoint pool. -/
def quotaKey (n : Nat) (which : Fin 3) : Nat :=
  objAt (if which = 0 then Obj.tierCompLentQuotaGib else if which = 1 then Obj.tierCompFlashQuotaGib
    else Obj.tierCompCkptQuotaGib) n

/-- What compartment n holds now against a quota, in GiB. -/
def State.quotaCharge (s : State) (n : Nat) (which : Fin 3) : Nat :=
  if which = 0 then s.leasesHeld n false else if which = 1 then ceilDiv (s.chargedIn n 2) 16384 else s.leasesHeld n true

theorem exec_quotaWrite (r : Role) (c : CompNo) (which : Fin 3) (v : W32) (s : State) :
    exec (.quotaWrite r c which v) s = s.ifWritable r (quotaKey c.val which) v.toNat
      (if !Role.manages r then .next (s.reply .accessDenied)
       else if (s.comp c.val).st = .free || (s.comp c.val).st = .closing then .next (s.reply .stateConflict)
       else if which = 1 && 448 * popCount 32 (s.flashCh c.val) < v.toNat then .next (s.reply .outOfRange)
       else if v.toNat < s.quotaCharge c.val which then .next (s.reply .stateConflict)
       else .next ((s.setObj (quotaKey c.val which) v.toNat).reply .ok)) := rfl

theorem exec_krDescWrite (r : Role) (c : CompNo) (range : Fin 16) (v : BitVec 128) (s : State) :
    exec (.krDescWrite r c range v) s = s.ifWritable r (objAt Obj.integKrDesc c.val + range.val) v.toNat
      (if s.krFits c.val range.val v.toNat then
        .next ((s.setObj (objAt Obj.integKrDesc c.val + range.val) v.toNat).reply .ok)
       else .next ((s.integEvent c.val 0x0B01 range.val 0 0).reply .outOfRange 0x0B01)) := rfl

theorem exec_nodeMapWrite (r : Role) (c : CompNo) (v : BitVec 512) (s : State) :
    exec (.nodeMapWrite r c v) s = s.ifWritable r (objAt Obj.fabCompNodeMapWrite c.val) v.toNat
      (let q := s.nodeMapAct c.val v.toNat
       .next (q.2.reply q.1 (if q.1 = .ok then 0 else 0x090B))) := rfl

/-! The cases of the definition, the offer and the quota. -/

theorem exec_defineWrite_without_report (r : Role) (c : CompNo) (v : BitVec 512) (s t : State) (k : Nat)
    (hok : s.checkWrite r (objAt Obj.tierCompDefineWrite c.val) v.toNat = .ok) (hkind : Pe.kind v.toNat = 0x71)
    (hresult : Pe.result v.toNat = 0) (hpeg : Pe.peg v.toNat = 0) (hen : Pe.pegEn v.toNat = false)
    (hdef : s.define c.val v.toNat = (k, t)) :
    exec (.defineWrite r c v) s = .next
      (if k = 0 then t.reply .ok else (t.tierEvent c.val k (Pe.obj v.toNat) 0).reply .outOfRange k) := by
  rw [exec_defineWrite, State.ifWritable_of_ok _ hok]
  simp [hkind, hresult, hpeg, hen, hdef]

theorem exec_defineWrite_with_report (r : Role) (c : CompNo) (v : BitVec 512) (s : State)
    (hok : s.checkWrite r (objAt Obj.tierCompDefineWrite c.val) v.toNat = .ok) (hkind : Pe.kind v.toNat = 0x71)
    (hreport : Pe.result v.toNat ≠ 0 ∨ Pe.peg v.toNat ≠ 0 ∨ Pe.pegEn v.toNat = true) :
    exec (.defineWrite r c v) s = .next ((s.tierEvent c.val 0x0801 (Pe.obj v.toNat) 0).reply .outOfRange 0x0801) := by
  have hany : (decide (Pe.result v.toNat ≠ 0) || decide (Pe.peg v.toNat ≠ 0) || Pe.pegEn v.toNat) = true := by
    simpa only [Bool.or_eq_true, decide_eq_true_eq, or_assoc] using hreport
  rw [exec_defineWrite, State.ifWritable_of_ok _ hok]
  dsimp only
  rw [if_neg fun hother => hother hkind, if_pos hany]

theorem exec_lendOfferWrite_of_free_groups (r : Role) (v : W64) (s : State)
    (hok : s.checkWrite r Obj.tierLendOffer v.toNat = .ok) (hgroups : v.toNat < 2 ^ 48)
    (hfree : ∀ g < 48, v.toNat.testBit g = true → ∀ n < 8, (s.groups n).testBit g = false) :
    exec (.lendOfferWrite r v) s = .next ((s.setObj Obj.tierLendOffer v.toNat).reply .ok) := by
  have hnone : ¬ ((List.range 48).any fun g =>
      v.toNat.testBit g && (List.range 8).any fun n => (s.groups n).testBit g) = true := by
    simpa using hfree
  rw [exec_lendOfferWrite, State.ifWritable_of_ok _ hok, if_neg (Nat.not_le.2 hgroups), if_neg hnone]

theorem exec_quotaWrite_above_charge (r : Role) (c : CompNo) (which : Fin 3) (v : W32) (s : State)
    (hok : s.checkWrite r (quotaKey c.val which) v.toNat = .ok) (hrole : Role.manages r = true)
    (hfree : (s.comp c.val).st ≠ .free) (hclosing : (s.comp c.val).st ≠ .closing)
    (hflash : which = 1 → v.toNat ≤ 448 * popCount 32 (s.flashCh c.val)) (hcharge : s.quotaCharge c.val which ≤ v.toNat) :
    exec (.quotaWrite r c which v) s = .next ((s.setObj (quotaKey c.val which) v.toNat).reply .ok) := by
  have hcap : ¬ (decide (which = 1) && decide (448 * popCount 32 (s.flashCh c.val) < v.toNat)) = true := by
    simpa using hflash
  rw [exec_quotaWrite, State.ifWritable_of_ok _ hok, if_neg (by simp [hrole]), if_neg (by simp [hfree, hclosing]),
    if_neg hcap, if_neg (Nat.not_lt.2 hcharge)]

/-- Settles O17: every write answers the checks of R524 where they fail, and where they pass acts on what it finds. -/
theorem memoryWritesTakeTheirValue : Obligations.MemoryWritesTakeTheirValue := by
  unfold Obligations.MemoryWritesTakeTheirValue
  refine ⟨?segment, ?definition, ?offer, ?quota, ?range⟩
  case segment =>
    intro r c v s
    refine ⟨fun hok hfits => ?_, fun hok hfits => ?_, fun h => ?_⟩
    · rw [exec_segWrite, State.ifWritable_of_ok _ hok, if_pos hfits]
    · rw [exec_segWrite, State.ifWritable_of_ok _ hok, if_neg (Bool.eq_false_iff.1 hfits)]
    · rw [exec_segWrite, State.ifWritable_of_refused _ h]
  case definition =>
    intro r c v s t k
    refine ⟨exec_defineWrite_without_report r c v s t k, exec_defineWrite_with_report r c v s, fun h => ?_⟩
    rw [exec_defineWrite, State.ifWritable_of_refused _ h]
  case offer =>
    intro r v s
    refine ⟨exec_lendOfferWrite_of_free_groups r v s, fun h => ?_⟩
    rw [exec_lendOfferWrite, State.ifWritable_of_refused _ h]
  case quota =>
    intro r c which v s n key charge
    refine ⟨exec_quotaWrite_above_charge r c which v s, fun h => ?_⟩
    rw [exec_quotaWrite]
    exact State.ifWritable_of_refused _ h
  case range =>
    intro r c range v s key
    refine ⟨fun hok hfits => ?_, fun hok hfits => ?_, fun h => ?_⟩
    · rw [exec_krDescWrite, State.ifWritable_of_ok _ hok, if_pos hfits]
    · rw [exec_krDescWrite, State.ifWritable_of_ok _ hok, if_neg (Bool.eq_false_iff.1 hfits)]
    · rw [exec_krDescWrite, State.ifWritable_of_refused _ h]

end Sys2Proof.Machine
end

section
/-! The frame of a compartment's own writes (R90, R124, R172, R194, R217, R222, R249, R281, R289, R316, R373, R484). -/

namespace Sys2Proof.Machine
open Sys2Proof

/-- From s to t only objects, the fault log, the output and compartment c have changed, and of c neither its bytes nor its
state. -/
def State.OwnWrite (s t : State) (c : Nat) : Prop :=
  (∃ cs os g o, t = { s with comps := cs, objs := os, log := g, out := o }) ∧ (∀ n, n ≠ c → t.comp n = s.comp n) ∧
    (t.comp c).mem = (s.comp c).mem ∧ (t.comp c).st = (s.comp c).st

namespace State.OwnWrite
variable {s t u : State} {c : Nat}

theorem trans (h : s.OwnWrite t c) (h' : t.OwnWrite u c) : s.OwnWrite u c := by
  obtain ⟨⟨_, _, _, _, rfl⟩, hother, hmem, hst⟩ := h
  obtain ⟨⟨cs, os, g, o, rfl⟩, hother', hmem', hst'⟩ := h'
  exact ⟨⟨cs, os, g, o, rfl⟩, fun n hn => (hother' n hn).trans (hother n hn), hmem'.trans hmem, hst'.trans hst⟩

theorem reply (s : State) (st : Status) (fault : Nat) : s.OwnWrite (s.reply st fault) c :=
  ⟨⟨_, _, _, _, rfl⟩, fun _ _ => rfl, rfl, rfl⟩

theorem setObjC (s : State) (base n v : Nat) : s.OwnWrite (s.setObjC base n v) c :=
  ⟨⟨_, _, _, _, rfl⟩, fun _ _ => rfl, rfl, rfl⟩

/-- The record of c itself may change in everything but its bytes and its state. -/
theorem modComp (s : State) {f : Comp → Comp} (hmem : (f (s.comp c)).mem = (s.comp c).mem)
    (hst : (f (s.comp c)).st = (s.comp c).st) : s.OwnWrite (s.modComp c f) c := by
  refine ⟨⟨_, _, _, _, rfl⟩, fun n hn => State.comp_setComp_other s c n _ hn, ?_, ?_⟩
  · rw [State.modComp_eq, State.comp_setComp_self, hmem]
  · rw [State.modComp_eq, State.comp_setComp_self, hst]

theorem fault (s : State) (code comp subject : Nat) : s.OwnWrite (s.fault code comp subject) c := by
  obtain ⟨g, os, h, -⟩ := s.fault_frame code comp subject 0 0 0
  rw [h]
  exact ⟨⟨_, _, _, _, rfl⟩, fun _ _ => rfl, rfl, rfl⟩

/-- A fault of a port is logged, or was already in this window. -/
theorem portFault (s : State) (p code comp : Nat) : s.OwnWrite (s.portFault p code comp) c := by
  have hlast (w : List (Nat × Nat)) :
      (s.fault code comp p).OwnWrite { s.fault code comp p with log := { (s.fault code comp p).log with lastWin := w } } c :=
    ⟨⟨_, _, _, _, rfl⟩, fun _ _ => rfl, rfl, rfl⟩
  unfold State.portFault
  split
  · exact fault s code comp p
  · dsimp only
    split
    · exact ⟨⟨_, _, _, _, rfl⟩, fun _ _ => rfl, rfl, rfl⟩
    · exact (fault s code comp p).trans (hlast _)

theorem nodeMapAct (s : State) (c v : Nat) : s.OwnWrite (s.nodeMapAct c v).2 c := by
  unfold State.nodeMapAct
  dsimp only
  split
  · exact portFault s 0 0x090B c
  · dsimp only
    exact modComp s rfl rfl

/-! The three shapes of such a write. -/

/-- A record emptied, its family's logging armed again. -/
theorem rearmed (s : State) (base family : Nat) : s.OwnWrite ((s.setObjC base c 0).rearmLog c family) c :=
  (setObjC s base c 0).trans (modComp _ rfl rfl)

theorem clearWrite {f : State → State} (hact : s.OwnWrite (f s) c) (r : Role) (key : Nat) (v : Bool) :
    s.OwnWrite (s.clearWrite r key v f) c := by
  unfold State.clearWrite
  split
  · split
    · exact hact.trans (reply _ _ _)
    · exact reply s _ _
  · exact reply s _ _

theorem ifWritable {r : Role} {key v : Nat} {act : Host.Outcome State Fault Refusal}
    (hact : act = .next t → s.OwnWrite t c) (h : s.ifWritable r key v act = .next t) : s.OwnWrite t c := by
  by_cases hok : s.checkWrite r key v = .ok
  · rw [State.ifWritable_of_ok _ hok] at h
    exact hact h
  · rw [State.ifWritable_of_refused _ hok] at h
    obtain rfl := Host.Outcome.next.inj h
    exact reply s _ _

/-- A command that is a clearing write of a record of c. -/
theorem of_clear {i : Instr} {r : Role} {key : Nat} {v : Bool} {f : State → State} (h : exec i s = .next t)
    (hexec : exec i s = .next (s.clearWrite r key v f)) (hact : s.OwnWrite (f s) c) : s.OwnWrite t c := by
  obtain rfl := Host.Outcome.next.inj (hexec.symm.trans h)
  exact clearWrite hact r key v

theorem segWrite {r : Role} {c : CompNo} {v : BitVec 256} (h : exec (.segWrite r c v) s = .next t) : s.OwnWrite t c.val := by
  rw [exec_segWrite] at h
  refine ifWritable (fun hact => ?_) h
  split at hact <;> obtain rfl := Host.Outcome.next.inj hact
  · exact (modComp s rfl rfl).trans (reply _ _ _)
  · exact (fault s 0x0701 c.val 0).trans (reply _ _ _)

theorem nodeMapWrite {r : Role} {c : CompNo} {v : BitVec 512} (h : exec (.nodeMapWrite r c v) s = .next t) :
    s.OwnWrite t c.val := by
  rw [exec_nodeMapWrite] at h
  refine ifWritable (fun hact => ?_) h
  obtain rfl := Host.Outcome.next.inj hact
  exact (nodeMapAct s c.val v.toNat).trans (reply _ _ _)

end State.OwnWrite

/-- Settles O55: a write of the segments or of the node map changes the record of its own compartment or logs a fault, and
a clear empties an object or a part of that record. -/
theorem compartmentWritesTouchNoOther : Obligations.CompartmentWritesTouchNoOther := by
  unfold Obligations.CompartmentWritesTouchNoOther
  intro r c v w b s t i hi h
  have hown : s.OwnWrite t c.val := by
    simp only [List.mem_cons, List.not_mem_nil, or_false] at hi
    obtain rfl | rfl | rfl | rfl | rfl | rfl | rfl | rfl | rfl | rfl | rfl | rfl := hi
    · exact .segWrite h
    · exact .of_clear h (exec_segClear r c b s) (.modComp s rfl rfl)
    · exact .nodeMapWrite h
    · exact .of_clear h (exec_nodeMapClear r c b s) (.modComp s rfl rfl)
    · exact .of_clear h (exec_mxTrapClear r c b s) (.setObjC s _ _ _)
    · exact .of_clear h (exec_vxTrapClear r c b s) (.setObjC s _ _ _)
    · exact .of_clear h (exec_prepFaultClear r c b s) (.setObjC s _ _ _)
    · exact .of_clear h (exec_numEventClear r c b s) (.rearmed s _ _)
    · exact .of_clear h (exec_updEventClear r c b s) (.rearmed s _ _)
    · exact .of_clear h (exec_tierEventClear r c b s) (.rearmed s _ _)
    · exact .of_clear h (exec_integEventClear r c b s) (.rearmed s _ _)
    · exact .of_clear h (exec_phaseClear r c b s) (.modComp s rfl rfl)
  obtain ⟨⟨_, _, _, _, rfl⟩, hother, hmem, hst⟩ := hown
  exact ⟨hother, hmem, hst, rfl, rfl, rfl, rfl, rfl, rfl, rfl, rfl, rfl, rfl, rfl⟩

end Sys2Proof.Machine
end

section
/-! Chapter 09: page moves (R229, R258, R263) and the flash they may reach (R275, R276). -/

namespace Sys2Proof.Machine
open Sys2Proof

theorem exec_pageMoveStart (c : CompNo) (page : BitVec 40) (s : State) :
    exec (.pageMoveStart c page) s = execPageMoveStart c page s := rfl
theorem exec_pageOwnershipStep (c : CompNo) (page : BitVec 40) (verifies : Bool) (s : State) :
    exec (.pageOwnershipStep c page verifies) s = execPageOwnershipStep c page verifies s := rfl
theorem exec_flashProgramDone (c : CompNo) (page : BitVec 40) (s : State) :
    exec (.flashProgramDone c page) s = execFlashProgramDone c page s := rfl
theorem exec_flashGc (c : CompNo) (page : BitVec 40) (s : State) : exec (.flashGc c page) s = execFlashGc c page s := rfl
theorem exec_flashBlockRetire (ch : Fin 32) (sparePct : Fin 101) (s : State) :
    exec (.flashBlockRetire ch sparePct) s = execFlashBlockRetire ch sparePct s := rfl

/-! The start of a move (R258, R263). -/

section Start
variable {c : CompNo} {page : BitVec 40} {s s1 : State} (hplaced : (s.spage c.val page.toNat).loc ≠ .nowhere)
  (hstill : (s.spage c.val page.toNat).dest = .nowhere) (hfinal : (s.spage c.val page.toNat).final = false)
  (hver : s.pageUnver c.val page.toNat = false)
include hplaced hstill hfinal hver

/-- None of the reasons for which a page's move does not start (R263). -/
theorem pageMoveStart_guard_eq_false : (decide ((s.spage c.val page.toNat).loc = .nowhere) ||
    decide ((s.spage c.val page.toNat).dest ≠ .nowhere) || (s.spage c.val page.toNat).final ||
      s.pageUnver c.val page.toNat) = false := by
  simp [hplaced, hstill, hfinal, hver]

theorem exec_pageMoveStart_with_frame {f : PLoc} (hframe : s.moveFrame c.val page.toNat = some (some f, s1)) :
    exec (.pageMoveStart c page) s = .next ((s1.tickFresh.invalidate c.val page.toNat).setPage c.val page.toNat
      { s.spage c.val page.toNat with dest := f }) := by
  rw [exec_pageMoveStart]
  simp only [execPageMoveStart, pageMoveStart_guard_eq_false hplaced hstill hfinal hver, hframe, Bool.false_eq_true, if_false]
  rfl

/-- With no frame to move to a wish on demand is dropped where nothing else moves the object; any other move stops. -/
theorem exec_pageMoveStart_without_frame (hframe : s.moveFrame c.val page.toNat = some (none, s1))
    (hstays : s.evacuating c.val page.toNat = false) :
    let n := c.val
    let p := page.toNat
    let x := s.spage n p
    exec (.pageMoveStart c page) s = .next
      (if x.want = true ∧ (match s.pobj n (s.objOf n p) with | some o => o.moves.isEmpty | none => true) = true then
        s1.setPage n p { x with want := false }
       else (s1.quotaBlocked n (s.objOf n p) p).stopMove n (s.objOf n p) 0x0802 p) := by
  intro n p x
  rw [exec_pageMoveStart]
  simp only [execPageMoveStart, pageMoveStart_guard_eq_false hplaced hstill hfinal hver, hframe, hstays,
    Bool.false_eq_true, if_false, Bool.and_eq_true]
  exact (apply_ite Host.Outcome.next _ _ _).symm
end Start

/-! The ownership step, and the program of a page in flash (R229, R263, R275). -/

theorem exec_pageOwnershipStep_of_moving (c : CompNo) (page : BitVec 40) (verifies : Bool) (s : State)
    (hmoves : (s.spage c.val page.toNat).dest ≠ .nowhere) (hfinal : (s.spage c.val page.toNat).final = false) :
    let n := c.val
    let p := page.toNat
    let x := s.spage n p
    exec (.pageOwnershipStep c page verifies) s = .next
      (if verifies = false ∨ s.pageUnver n p = true then s.abandonPage n p
       else if x.dest.tier = 2 then s.setPage n p { x with final := true }
       else (s.ownStep n p x.dest).moved n p (s.evacuating n p)) := by
  intro n p x
  rw [exec_pageOwnershipStep]
  simp only [execPageOwnershipStep, hmoves, hfinal, decide_false, Bool.or_false, Bool.false_eq_true, if_false,
    Bool.or_eq_true, Bool.not_eq_true']
  split
  · rfl
  · split <;> rfl

/-- A page rewritten in place of itself performs the writes held at it, in their order; another takes its ownership step. -/
theorem exec_flashProgramDone_of_final (c : CompNo) (page : BitVec 40) (s : State)
    (hflash : (s.spage c.val page.toNat).dest.tier = 2) (hfinal : (s.spage c.val page.toNat).final = true) :
    let n := c.val
    let p := page.toNat
    let x := s.spage n p
    exec (.flashProgramDone c page) s = .next
      (if x.loc.tier = 2 then
        ((s.comp n).held.filter fun h => pageOf h.addr = p).foldl (fun a h =>
            let q := a.placedAccess n h.kind p (h.addr % 65536) h.data.length h.data .intact
            q.2.answer n h.src h.addr q.1)
          (((s.modComp n fun c => { c with held := c.held.filter fun h => pageOf h.addr ≠ p }).ownStep n p x.dest).incC
            Obj.tierCompFlashRmw n)
       else (s.ownStep n p x.dest).moved n p (s.evacuating n p)) := by
  intro n p x
  rw [exec_flashProgramDone]
  simp only [execFlashProgramDone, hflash, hfinal, ne_eq, not_true_eq_false, decide_false, Bool.not_true, Bool.or_false,
    Bool.false_eq_true, if_false]
  split <;> rfl

theorem exec_flashGc_relocates (c : CompNo) (page : BitVec 40) (ch i j : Nat) (s : State)
    (hplace : (s.spage c.val page.toNat).loc = .flash ch j) (hfinal : (s.spage c.val page.toNat).final = false)
    (hstill : (s.spage c.val page.toNat).dest = .nowhere) (hver : s.pageUnver c.val page.toNat = false)
    (hwritten : (s.obj Obj.tierFlashReadonlyMap).testBit ch = false)
    (hfree : freeIndex (s.flashUsed c.val ch) flashPerChannel ((s.flashUsed c.val ch).length + 1)
      (Config.choice s.fresh % flashPerChannel) = some i) :
    exec (.flashGc c page) s = .next
      (((s.invalidate c.val page.toNat).placePage c.val page.toNat (.flash ch i)).incC Obj.tierCompFlashGcPages c.val) := by
  simp [exec_flashGc, execFlashGc, hplace, hfinal, hstill, hver, hwritten, hfree, ok]

/-- The spare is stored, then the warning and the end of writing are each logged where it crosses their level. -/
theorem exec_flashBlockRetire_reports (ch : Fin 32) (sparePct : Fin 101) (s : State) :
    let old := s.obj Obj.tierFlashSparePct
    let was := fld old (8 * ch.val + 7) (8 * ch.val)
    let n := (firstBelow 8 fun n => (s.flashCh n).testBit ch.val).getD noComp
    let s1 := s.setObj Obj.tierFlashSparePct (old - was * 2 ^ (8 * ch.val) + sparePct.val * 2 ^ (8 * ch.val))
    let s2 := if sparePct.val < 25 ∧ 25 ≤ was then s1.fault 0x0807 n ch.val else s1
    exec (.flashBlockRetire ch sparePct) s = .next
      (if sparePct.val = 0 ∧ (s.obj Obj.tierFlashReadonlyMap).testBit ch.val = false then
        (s2.setObj Obj.tierFlashReadonlyMap (setBit (s.obj Obj.tierFlashReadonlyMap) ch.val true)).fault 0x0808 n ch.val
       else s2) := by
  intro old was n s1 s2
  rw [exec_flashBlockRetire]
  simp only [execFlashBlockRetire, Bool.and_eq_true, decide_eq_true_eq, Bool.not_eq_true']
  split <;> rfl

/-- Settles O20: each command by the case of its operation that the page, or the channel, is in. -/
theorem pagesMoveInTheirSteps : Obligations.PagesMoveInTheirSteps := by
  unfold Obligations.PagesMoveInTheirSteps
  refine ⟨?start, exec_pageOwnershipStep_of_moving, exec_flashProgramDone_of_final, exec_flashGc_relocates,
    exec_flashBlockRetire_reports⟩
  case start =>
    intro c page l s s1 n p x hplaced hstill hfinal hver hframe
    refine ⟨?_, ?_⟩
    · rintro f rfl
      exact exec_pageMoveStart_with_frame hplaced hstill hfinal hver hframe
    · rintro rfl hstays
      exact exec_pageMoveStart_without_frame hplaced hstill hfinal hver hframe hstays

end Sys2Proof.Machine
end

section
/-! Chapter 09: the entries of the placement ring (R256, R261, R265, R266). -/

namespace Sys2Proof.Machine
open Sys2Proof

/-! The commands, each by the operation that carries it out. -/

theorem exec_placeDefine (c : CompNo) (rem : Option SpanReply) (s : State) :
    exec (.placeDefine c rem) s = execPlaceDefine c rem s := rfl
theorem exec_placePromote (c : CompNo) (rem : Option SpanReply) (s : State) :
    exec (.placePromote c rem) s = execPlacePromote c rem s := rfl
theorem exec_placeEvict (c : CompNo) (rem : Option SpanReply) (s : State) :
    exec (.placeEvict c rem) s = execPlaceEvict c rem s := rfl
theorem exec_placeUnpin (c : CompNo) (rem : Option SpanReply) (s : State) :
    exec (.placeUnpin c rem) s = execPlaceUnpin c rem s := rfl
theorem exec_placeStream (c : CompNo) (rem : Option SpanReply) (slots : List (Option SpanReply)) (s : State) :
    exec (.placeStream c rem slots) s = execPlaceStream c rem slots s := rfl
theorem exec_placeRetire (c : CompNo) (rem : Option SpanReply) (s : State) :
    exec (.placeRetire c rem) s = execPlaceRetire c rem s := rfl

/-! The taking of an entry, and a definition (R256, R266). -/

/-- R266: an entry is taken where one is posted, fewer than 64 are open and its 64 bytes are read. -/
theorem State.peTake_of_posted (n : Nat) (kinds : Nat → Bool) (rem : Option SpanReply) (bs : List Byte) (s s1 : State)
    (hrun : s.running n = true)
    (hposted : ((s.peg (s.objC Obj.tierCompRingPeg n)).value + 2 ^ 32 - (s.comp n).pTaken % 2 ^ 32) % 2 ^ 32 ≠ 0)
    (hopen : (s.comp n).pOpen.length < 64)
    (hfetch : s.unitFetch n (s.objC Obj.tierCompRingAddr n +
      (s.comp n).pTaken % max 1 (s.objC Obj.tierCompRingEntries n) * 64) 64 rem = (some bs, s1))
    (hkind : kinds (Pe.kind (leNat bs)) = true) :
    s.peTake n kinds rem = some ((s.comp n).pNext, leNat bs,
      (s1.modComp n fun x => { x with pTaken := x.pTaken + 1, pNext := x.pNext + 1 }).unitPost n
        (s.objC Obj.tierCompTakenPeg n)) := by
  have hguard : (!s.running n || decide (((s.peg (s.objC Obj.tierCompRingPeg n)).value + 2 ^ 32 -
      (s.comp n).pTaken % 2 ^ 32) % 2 ^ 32 = 0) || decide (64 ≤ (s.comp n).pOpen.length)) = false := by
    rw [hrun, decide_eq_false hposted, decide_eq_false (Nat.not_le.2 hopen)]
    rfl
  simp only [State.peTake, hguard, hfetch, hkind, Bool.not_true, Bool.false_eq_true, if_false]

/-- R256: a DEFINE, or an entry of a reserved kind (log 112), is answered by the outcome of its definition. -/
theorem exec_placeDefine_of_taken (c : CompNo) (rem : Option SpanReply) (id e k : Nat) (s s1 t : State)
    (htake : s.peTake c.val (fun k => k = 0x71 || k < 0x71 || 0x76 < k) rem = some (id, e, s1))
    (hdef : s1.define c.val e = (k, t)) :
    exec (.placeDefine c rem) s = .next
      (if k = 0 then t.peFinish c.val e 0 false 0 0 0 0
       else if k = 0x0801 then t.peRefuse c.val e
       else (t.tierEvent c.val k (Pe.obj e) 0).peFinish c.val e k false 0 0 0 0) := by
  simp only [exec_placeDefine, execPlaceDefine, htake, hdef]
  split
  next h => obtain ⟨rfl, rfl⟩ := Prod.mk.inj h; rfl
  next h => obtain ⟨rfl, rfl⟩ := Prod.mk.inj h; rfl
  next hzero hrefused h =>
    obtain ⟨rfl, rfl⟩ := Prod.mk.inj h
    rw [if_neg hzero, if_neg hrefused]
    rfl

/-! An entry that names an object, of a sound layout (R265). -/

/-- R265: a pinned promotion ends an eviction that is running, and defers it. -/
def State.deferEviction (s : State) (n id : Nat) (o : PObj) : State :=
  match o.moves with
  | m :: rest =>
    (match m.kind with
     | .evict t =>
       ((s.setPObj n id (some { o with moves := rest, deferred := some t })).abandonMoves n o).endEntries n 0 true m
     | _ => s)
  | [] => s

theorem State.deferEviction_of_evicting {o : PObj} {m : Move} {rest : List Move} {t : Nat} (s : State) (n id : Nat)
    (hmoves : o.moves = m :: rest) (hkind : m.kind = .evict t) :
    s.deferEviction n id o =
      ((s.setPObj n id (some { o with moves := rest, deferred := some t })).abandonMoves n o).endEntries n 0 true m := by
  simp only [State.deferEviction, hmoves, hkind]

theorem State.deferEviction_of_not_evicting {o : PObj} (s : State) (n id : Nat)
    (hother : ∀ m rest t, o.moves = m :: rest → m.kind ≠ .evict t) : s.deferEviction n id o = s := by
  unfold State.deferEviction
  split
  next m rest hmoves =>
    split
    next t hkind => exact absurd hkind (hother m rest t hmoves)
    next => rfl
  next => rfl

section Sound
variable {c : CompNo} {rem : Option SpanReply} {id e : Nat} {o : PObj} {s s1 : State}
  (hobj : s1.pobj c.val (Pe.obj e) = some o) (hsound : Pe.sound e = true)
include hobj hsound

theorem exec_placePromote_without_pin (htake : s.peTake c.val (fun k => k = 0x72) rem = some (id, e, s1))
    (hpin : Pe.pin e = false) :
    exec (.placePromote c rem) s = .next (s1.openMove c.val (id, e) (.promote false) fun o => o) := by
  simp only [exec_placePromote, execPlacePromote, htake, hobj, hsound, hpin, Bool.not_true, Bool.false_and, Bool.or_self,
    Bool.false_eq_true, if_false, Bool.not_false, if_true]
  rfl

theorem exec_placePromote_with_pin (htake : s.peTake c.val (fun k => k = 0x72) rem = some (id, e, s1))
    (hpin : Pe.pin e = true) (hhome : Pol.home o.policy = 0) :
    exec (.placePromote c rem) s = .next ((s1.deferEviction c.val (Pe.obj e) o).openMove c.val (id, e) (.promote true)
      fun o => { o with pinned := true }) := by
  simp only [exec_placePromote, execPlacePromote, htake, hobj, hsound, hpin, hhome, Bool.not_true, ne_eq,
    not_true_eq_false, decide_false, Bool.and_false, Bool.or_self, Bool.false_eq_true, if_false, State.deferEviction]
  rcases o.moves with _ | ⟨⟨_ | t | _ | _, es, k⟩, rest⟩ <;> rfl

theorem exec_placeEvict_of_permitted (htake : s.peTake c.val (fun k => k = 0x73) rem = some (id, e, s1))
    (hpermits : Pol.permits o.policy (fld (Pe.policy e) 1 0) = true) :
    let n := c.val
    let t := fld (Pe.policy e) 1 0
    exec (.placeEvict c rem) s = .next
      (if o.pinned = true ∨ pinsQueued o = true then
        (if Pe.pressure e = true then (s1.quotaBlocked n (Pe.obj e) 0).peFinish n e 0x0802 false 0 0 0 0
         else (s1.setPObj n (Pe.obj e) (some { o with deferred := some t })).peFinish n e 0 true 0 0 0 0)
       else s1.openMove n (id, e) (.evict t) fun o => o) := by
  intro n t
  simp only [exec_placeEvict, execPlaceEvict, htake, hobj, hsound, hpermits, Bool.not_true, Bool.or_self,
    Bool.false_eq_true, if_false, Bool.or_eq_true]
  split
  · split <;> rfl
  · rfl

theorem exec_placeUnpin_of_sound (htake : s.peTake c.val (fun k => k = 0x74) rem = some (id, e, s1)) :
    let n := c.val
    exec (.placeUnpin c rem) s = .next
      (((s1.setPObj n (Pe.obj e) (some { o with pinned := false, deferred := none, moves := o.moves ++
        (match o.deferred with | some t => [⟨.evict t, [], 0⟩] | none => []) })).settle n (Pe.obj e) 8).peFinish n e 0
        false 0 0 0 0) := by
  intro n
  simp only [exec_placeUnpin, execPlaceUnpin, htake, hobj, hsound, Bool.not_true, Bool.false_eq_true, if_false]
  rcases o.deferred with _ | t
  · rw [List.append_nil]; rfl
  · rfl

theorem exec_placeStream_of_fits (slots : List (Option SpanReply))
    (htake : s.peTake c.val (fun k => k = 0x75) rem = some (id, e, s1)) (hfits : s1.streamFits c.val e o = true) :
    let n := c.val
    (Pol.measured o.policy = false → exec (.placeStream c rem slots) s = .next
      (let q := s1.streamFrom n e slots (Pe.count e) 0
       q.2.2.streamEnd n e q.1 q.2.1)) ∧
    (Pol.measured o.policy = true → exec (.placeStream c rem slots) s = .next
      (match s1.streamSlot n e 0 true (slots.getD 0 none) with
       | (.ok _, s2) => s2.modComp n fun c => { c with pOpen := c.pOpen ++ [⟨id, e, 0⟩] }
       | (.error x, s2) => s2.streamEnd n e (.error x) 0)) := by
  intro n
  simp only [exec_placeStream, execPlaceStream, htake, hobj, hsound, hfits, Bool.not_true, Bool.or_self,
    Bool.false_eq_true, if_false]
  refine ⟨fun hplain => ?_, fun hmeasured => ?_⟩
  · rw [hplain]; rfl
  · rw [hmeasured, if_pos rfl]
    rcases s1.streamSlot c.val e 0 true (slots.getD 0 none) with ⟨_ | _, s2⟩ <;> rfl

theorem exec_placeRetire_of_sound (htake : s.peTake c.val (fun k => k = 0x76) rem = some (id, e, s1)) :
    let n := c.val
    exec (.placeRetire c rem) s = .next
      (if o.pinned = true ∨ o.moves ≠ [] then (s1.tierEvent n 0x0803 (Pe.obj e) 0).peFinish n e 0x0803 false 0 0 0 0
       else (s1.setPObj n (Pe.obj e) none).peFinish n e 0 false 0 0 0 0) := by
  intro n
  simp only [exec_placeRetire, execPlaceRetire, htake, hobj, hsound, Bool.not_true, Bool.false_eq_true, if_false,
    Bool.or_eq_true, Bool.not_eq_true', List.isEmpty_eq_false_iff]
  exact (apply_ite Host.Outcome.next _ _ _).symm
end Sound

/-- R265: an entry whose object does not exist is refused, whichever of the five kinds it is of. -/
theorem exec_place_of_absent (c : CompNo) (rem : Option SpanReply) (slots : List (Option SpanReply)) (s s1 : State)
    (k id e : Nat) (i : Instr) (hi : (k, i) ∈ [(0x72, .placePromote c rem), (0x73, .placeEvict c rem),
      (0x74, .placeUnpin c rem), (0x75, .placeStream c rem slots), (0x76, .placeRetire c rem)])
    (htake : s.peTake c.val (fun x => x = k) rem = some (id, e, s1)) (habsent : s1.pobj c.val (Pe.obj e) = none) :
    exec i s = .next (s1.peRefuse c.val e) := by
  simp only [List.mem_cons, List.not_mem_nil, or_false, Prod.mk.injEq] at hi
  obtain ⟨rfl, rfl⟩ | ⟨rfl, rfl⟩ | ⟨rfl, rfl⟩ | ⟨rfl, rfl⟩ | ⟨rfl, rfl⟩ := hi
  · simp only [exec_placePromote, execPlacePromote, htake, habsent, ok]
  · simp only [exec_placeEvict, execPlaceEvict, htake, habsent, ok]
  · simp only [exec_placeUnpin, execPlaceUnpin, htake, habsent, ok]
  · simp only [exec_placeStream, execPlaceStream, htake, habsent, ok]
  · simp only [exec_placeRetire, execPlaceRetire, htake, habsent, ok]

/-- Settles O19: an entry taken is answered by the case of its kind, by its object and by its layout. That a DEFINE takes the
reserved kinds is log 112, that a measured stream goes slot by slot is log 155. -/
theorem placementEntriesRunToTheirRecord : Obligations.PlacementEntriesRunToTheirRecord := by
  unfold Obligations.PlacementEntriesRunToTheirRecord
  refine ⟨State.peTake_of_posted, exec_placeDefine_of_taken, ?promote, ?evict, ?unpin, ?stream, ?retire, ?absent⟩
  case promote =>
    intro c rem id e o s s1 n htake hobj hsound
    refine ⟨exec_placePromote_without_pin hobj hsound htake, fun hpin hhome hother => ?_,
      fun m rest t hpin hhome hmoves hkind => ?_⟩
    · rw [exec_placePromote_with_pin hobj hsound htake hpin hhome, State.deferEviction_of_not_evicting s1 _ _ hother]
    · rw [exec_placePromote_with_pin hobj hsound htake hpin hhome,
        State.deferEviction_of_evicting s1 _ _ hmoves hkind]
  case evict =>
    intro c rem id e o s s1 n t htake hobj hsound hpermits
    exact exec_placeEvict_of_permitted hobj hsound htake hpermits
  case unpin =>
    intro c rem id e o s s1 n htake hobj hsound
    exact exec_placeUnpin_of_sound hobj hsound htake
  case stream =>
    intro c rem slots id e o s s1 n htake hobj hsound hfits
    exact exec_placeStream_of_fits hobj hsound slots htake hfits
  case retire =>
    intro c rem id e o s s1 n htake hobj hsound
    exact exec_placeRetire_of_sound hobj hsound htake
  case absent =>
    intro c rem slots s k id e i s1 n hi htake habsent
    exact exec_place_of_absent c rem slots s s1 k id e i hi htake habsent

end Sys2Proof.Machine
end

section
/-! Chapters 09 and 14: leases lent (R270-R273, R407). -/

namespace Sys2Proof.Machine
open Sys2Proof

/-- Lease numbers of the offered groups that no compartment holds (R269): ten of a group, group g from 10 g. -/
def State.offeredLeases (s : State) : List Nat :=
  ((bitsOf 48 (s.obj Obj.tierLendOffer)).filter fun g => !(List.range 8).any fun n => (s.groups n).testBit g).flatMap
    fun g => (List.range 10).map fun i => 10 * g + i

/-- The offered leases that are not out. -/
def State.freeLeases (s : State) : List Nat := s.offeredLeases.filter fun k => (s.leaseOut k).isNone

/-- Lease k as it is granted now to a requester (R270). -/
def State.grantedLease (s : State) (node : BitVec 16) (job : W64) (comp : CompNo) (ckpt : Bool) (k : Nat) : LeaseOut :=
  { group := k / 10, slot := k % 10, node := node.toNat, job := job.toNat, comp := comp.val, ckpt := ckpt,
    st := .granted, heard := s.now, mem := [] }

/-! The commands, each by the operation that carries it out. -/

theorem exec_leaseRequest (node : BitVec 16) (job : W64) (comp : CompNo) (ckpt : Bool) (s : State) :
    exec (.leaseRequest node job comp ckpt) s =
      match s.freeLeases[Config.choice s.fresh % max 1 s.freeLeases.length]? with
      | none => .next (s.emit (.lease node.toNat 3 0 0))
      | some k => .next ((s.tickFresh.setLeaseOut k (some (s.grantedLease node job comp ckpt k))).emit
          (.lease node.toNat 2 k 0)) := rfl
theorem exec_leaseHeartbeat (side : LeaseSide) (s : State) :
    exec (.leaseHeartbeat side) s = execLeaseHeartbeat side s := rfl
theorem exec_leaseRelease (side : LeaseSide) (s : State) : exec (.leaseRelease side) s = execLeaseRelease side s := rfl
theorem exec_leaseScrubDone (k : W32) (s : State) : exec (.leaseScrubDone k) s = execLeaseScrubDone k s := rfl
theorem exec_tierLeaseOrphaned (k : W32) (s : State) : exec (.tierLeaseOrphaned k) s = execTierLeaseOrphaned k s := rfl
theorem exec_reclaim (r : Role) (group : Byte) (s : State) :
    exec (.reclaim r group) s = s.ifWritable r Obj.tierLendReclaim group.toNat
      (.next ((s.reclaimGroup group.toNat).reply .ok)) := rfl

/-! A request (R270 step 2). -/

section Request
variable (node : BitVec 16) (job : W64) (comp : CompNo) (ckpt : Bool) (s : State)

theorem exec_leaseRequest_of_none_free (hfree : s.freeLeases = []) :
    exec (.leaseRequest node job comp ckpt) s = .next (s.emit (.lease node.toNat 3 0 0)) := by
  rw [exec_leaseRequest, hfree]
  rfl

/-- The place drawn lies in the list of free leases, whatever the draw. -/
theorem exec_leaseRequest_of_free (hfree : s.freeLeases ≠ []) :
    ∃ k ∈ s.freeLeases, exec (.leaseRequest node job comp ckpt) s = .next
      ((s.tickFresh.setLeaseOut k (some (s.grantedLease node job comp ckpt k))).emit (.lease node.toNat 2 k 0)) := by
  have hpos : 0 < s.freeLeases.length := List.length_pos_iff.2 hfree
  have hdrawn : Config.choice s.fresh % max 1 s.freeLeases.length < s.freeLeases.length := by
    rw [Nat.max_eq_right hpos]
    exact Nat.mod_lt _ hpos
  refine ⟨_, List.getElem_mem hdrawn, ?_⟩
  rw [exec_leaseRequest, List.getElem?_eq_getElem hdrawn]
end Request

/-! A lease that is out (R270 steps 4-6, R273, R407). -/

section Out
variable {k : W32} {x : LeaseOut} {s : State} (hout : s.leaseOut k.toNat = some x)
include hout

theorem exec_leaseHeartbeat_of_out : exec (.leaseHeartbeat (.lender k)) s = .next
    ((s.setLeaseOut k.toNat (some { x with heard := s.now })).emit (.lease x.node 4 k.toNat 0)) := by
  simp only [exec_leaseHeartbeat, execLeaseHeartbeat, hout, ok]

theorem exec_leaseRelease_of_out :
    exec (.leaseRelease (.lender k)) s = .next (s.setLeaseOut k.toNat (some { x with st := .scrubbing })) := by
  simp only [exec_leaseRelease, execLeaseRelease, hout, ok]

theorem exec_leaseScrubDone_of_scrubbing (hscrub : x.st = .scrubbing) :
    exec (.leaseScrubDone k) s = .next (s.setLeaseOut k.toNat none) := by
  simp only [exec_leaseScrubDone, execLeaseScrubDone, hout, hscrub, if_true, ok]

theorem exec_tierLeaseOrphaned_of_silent (hscrub : x.st ≠ .scrubbing)
    (hsilent : x.heard + s.obj Obj.tierLendOrphanS * 1000000000 ≤ s.now) :
    exec (.tierLeaseOrphaned k) s = .next
      ((s.setLeaseOut k.toNat (some { x with st := .scrubbing })).fault 0x080A noComp k.toNat) := by
  have hguard : (decide (x.st ≠ .scrubbing) &&
      decide (x.heard + s.obj Obj.tierLendOrphanS * 1000000000 ≤ s.now)) = true := by
    rw [decide_eq_true hscrub, decide_eq_true hsilent]
    rfl
  simp only [exec_tierLeaseOrphaned, execTierLeaseOrphaned, hout, hguard, if_true, ok]
end Out

/-! A forced release (R272); that one of a lease not out is OUT_OF_RANGE is log 115. -/

theorem exec_forceRelease_lender (r : Role) (k : W32) (s : State) :
    exec (.forceRelease (.lender r k)) s = s.ifWritable r Obj.tierLendForceRelease k.toNat
      (match s.leaseOut k.toNat with
       | some x => .next ((s.setLeaseOut k.toNat (some { x with st := .scrubbing })).reply .ok)
       | none => .next (s.reply .outOfRange)) := rfl

/-- Settles O21: each command by what it finds the lease, or the list of free leases, to be; the two writes by the checks of
R524. -/
theorem lenderLeasesLiveAndReturn : Obligations.LenderLeasesLiveAndReturn := by
  unfold Obligations.LenderLeasesLiveAndReturn
  refine ⟨?request, ?out, ?force, ?reclaim, ?refused⟩
  case request =>
    intro node job comp ckpt s free
    exact ⟨exec_leaseRequest_of_none_free node job comp ckpt s, exec_leaseRequest_of_free node job comp ckpt s⟩
  case out =>
    intro k x s hout
    exact ⟨exec_leaseHeartbeat_of_out hout, exec_leaseRelease_of_out hout, exec_leaseScrubDone_of_scrubbing hout,
      exec_tierLeaseOrphaned_of_silent hout⟩
  case force =>
    intro r k s hok
    rw [exec_forceRelease_lender, State.ifWritable_of_ok _ hok]
    refine ⟨fun x hout => ?_, fun hin => ?_⟩
    · rw [hout]
    · rw [hin]
  case reclaim =>
    intro r group s hok
    rw [exec_reclaim, State.ifWritable_of_ok _ hok]
  case refused =>
    intro r group s h
    rw [exec_reclaim, State.ifWritable_of_refused _ h]

end Sys2Proof.Machine
end

section
/-! Chapters 09 and 14: leases borrowed (R270-R273, R406). -/

namespace Sys2Proof.Machine
open Sys2Proof

/-! The commands, each by the operation that carries it out. -/

theorem exec_leaseGrantReceive (c : CompNo) (range : Option (Fin 16)) (granted : Option (BitVec 16 × W32)) (s : State) :
    exec (.leaseGrantReceive c range granted) s = execLeaseGrantReceive c range granted s := rfl
theorem exec_reclaimNoticeReceive (c : CompNo) (node : BitVec 16) (k : W32) (d : BitVec 16) (s : State) :
    exec (.reclaimNoticeReceive c node k d) s = .next (s.notice c.val (leaseKey node.toNat k.toNat) d.toNat) := rfl
theorem exec_reclaimDeadline (c : CompNo) (node : BitVec 16) (k : W32) (s : State) :
    exec (.reclaimDeadline c node k) s = execReclaimDeadline c node k s := rfl
theorem exec_forceRelease (side : ForceSide) (s : State) : exec (.forceRelease side) s = execForceRelease side s := rfl
theorem exec_heartbeatMissLimit (c : CompNo) (node : BitVec 16) (k : W32) (s : State) :
    exec (.heartbeatMissLimit c node k) s = execHeartbeatMissLimit c node k s := rfl
theorem exec_lenderIsolated (c : CompNo) (node : BitVec 16) (s : State) :
    exec (.lenderIsolated c node) s = execLenderIsolated c node s := rfl

/-! A grant, or that no lender grants (R270 step 3, R406). -/

/-- That a dovetail in want of copies is abandoned at once, one lease being asked for at a time, is log 167. -/
theorem exec_leaseGrantReceive_of_none_granted (c : CompNo) (range : Option (Fin 16)) (s : State) :
    let n := c.val
    exec (.leaseGrantReceive c range none) s = .next
      (let s1 := (s.incC Obj.tierCompQuotaBlocked n).tierEvent n 0x0806 0 0
       match (s.comp n).ckpt.dove with
       | some d => if range.isNone = true ∧ s.copiesFull n d.slot = false then s1.abandonDovetail n 0x0D03 true else s1
       | none => s1) := by
  intro n
  simp only [exec_leaseGrantReceive, execLeaseGrantReceive]
  rcases (s.comp c.val).ckpt.dove with _ | d
  · rfl
  · simp only [Bool.and_eq_true, Bool.not_eq_true']
    rfl

section Granted
variable {c : CompNo} {range : Option (Fin 16)} {node : BitVec 16} {k : W32} {s : State}
  (hlisted : ∃ a ∈ s.lenders c.val, a % 65536 = node.toNat)
  (hquota : s.leasesHeld c.val range.isNone <
    s.objC (if range.isNone then Obj.tierCompCkptQuotaGib else Obj.tierCompLentQuotaGib) c.val)
  (hnew : kget none (s.comp c.val).leases (leaseKey node.toNat k.toNat) = none)
include hlisted hquota hnew

/-- None of the reasons for which a grant is ignored (R270, R278, R281). -/
theorem leaseGrantReceive_guard_eq_false : (!((s.lenders c.val).any fun a => decide (a % 65536 = node.toNat)) ||
    decide (s.objC (if range.isNone then Obj.tierCompCkptQuotaGib else Obj.tierCompLentQuotaGib) c.val ≤
      s.leasesHeld c.val range.isNone) ||
    (kget none (s.comp c.val).leases (leaseKey node.toNat k.toNat)).isSome) = false := by
  have hany : ((s.lenders c.val).any fun a => decide (a % 65536 = node.toNat)) = true := by simpa using hlisted
  rw [hany, decide_eq_false (Nat.not_le.2 hquota), hnew]
  rfl

theorem exec_leaseGrantReceive_for_pool (hrange : range = none) :
    exec (.leaseGrantReceive c range (some (node, k))) s = .next ((s.modComp c.val fun x =>
      { x with leases := kput none x.leases (leaseKey node.toNat k.toNat) (some ⟨node.toNat, none, 0, none, 0⟩)
        }).seekGranted c.val) := by
  have hguard := leaseGrantReceive_guard_eq_false hlisted hquota hnew
  subst hrange
  simp only [exec_leaseGrantReceive, execLeaseGrantReceive, hguard, Bool.false_eq_true, if_false, ok]

theorem exec_leaseGrantReceive_for_range (r : Fin 16) (hrange : range = some r)
    (hmax : s.rangeHeld c.val r.val < Kr.leaseMax (s.krDesc c.val r.val))
    (hserial : kget 0 (s.comp c.val).serials r.val < 2 ^ 32) :
    exec (.leaseGrantReceive c range (some (node, k))) s = .next (s.modComp c.val fun x =>
      { x with leases := kput none x.leases (leaseKey node.toNat k.toNat)
                 (some ⟨node.toNat, some r.val, kget 0 (s.comp c.val).serials r.val, none, 0⟩),
               serials := kput 0 x.serials r.val (kget 0 (s.comp c.val).serials r.val + 1) }) := by
  have hguard := leaseGrantReceive_guard_eq_false hlisted hquota hnew
  have hroom : (decide (Kr.leaseMax (s.krDesc c.val r.val) ≤ s.rangeHeld c.val r.val) ||
      decide (2 ^ 32 ≤ kget 0 (s.comp c.val).serials r.val)) = false := by
    rw [decide_eq_false (Nat.not_le.2 hmax), decide_eq_false (Nat.not_le.2 hserial)]
    rfl
  subst hrange
  simp only [exec_leaseGrantReceive, execLeaseGrantReceive, hguard, hroom, Bool.false_eq_true, if_false, ok]
end Granted

/-! A lease that is held (R270-R273). -/

section Held
variable {c : CompNo} {node : BitVec 16} {k : W32} {l : Lease} {s : State}
  (hheld : kget none (s.comp c.val).leases (leaseKey node.toNat k.toNat) = some l)

theorem exec_leaseRelease_of_empty (hempty : s.inLease c.val (leaseKey node.toNat k.toNat) = []) :
    exec (.leaseRelease (.borrower c node k)) s = .next (s.dropLease c.val (leaseKey node.toNat k.toNat)) := by
  simp only [exec_leaseRelease, execLeaseRelease, hempty, List.isEmpty_nil, if_true, ok]

include hheld

theorem exec_leaseHeartbeat_of_held : exec (.leaseHeartbeat (.borrower c node k)) s = .next ((s.modComp c.val fun x =>
    { x with leases := kput none x.leases (leaseKey node.toNat k.toNat) (some { l with missed := 0 }) }).emit
      (.lease node.toNat 4 k.toNat 0)) := by
  simp only [exec_leaseHeartbeat, execLeaseHeartbeat, hheld, ok]

theorem exec_reclaimDeadline_past_notice (d : Nat) (hnotice : l.notice = some d) (hpast : d ≤ s.now) :
    exec (.reclaimDeadline c node k) s = .next
      (if l.range = none then s.dropLease c.val (leaseKey node.toNat k.toNat)
       else if s.inLease c.val (leaseKey node.toNat k.toNat) = [] then s
       else (s.tierEvent c.val 0x0804 k.toNat 0).holdComp c.val 0x0804) := by
  simp only [exec_reclaimDeadline, execReclaimDeadline, hheld, hnotice, if_neg (Nat.not_lt.2 hpast),
    Option.isNone_iff_eq_none, List.isEmpty_iff]
  split
  · rfl
  · split <;> rfl

theorem exec_forceRelease_of_held : exec (.forceRelease (.borrower c node k)) s = .next
    (if s.inLease c.val (leaseKey node.toNat k.toNat) = [] then s.dropLease c.val (leaseKey node.toNat k.toNat)
     else ((s.tierEvent c.val 0x0805 k.toNat 0).loseLease c.val (leaseKey node.toNat k.toNat)).holdComp c.val 0x0805) := by
  simp only [exec_forceRelease, execForceRelease, hheld, Option.isNone_some, Bool.false_eq_true, if_false,
    List.isEmpty_iff]
  exact (apply_ite Host.Outcome.next _ _ _).symm
end Held

/-! A lender that falls silent with a route to it, and one without (R273). -/

theorem exec_heartbeatMissLimit_of_route (c : CompNo) (node : BitVec 16) (k : W32) (s : State)
    (hroute : s.hops node.toNat (s.portsOf c.val) ≠ []) :
    exec (.heartbeatMissLimit c node k) s =
      .next (s.notice c.val (leaseKey node.toNat k.toNat) (s.obj Obj.tierLendReclaimDeadlineMs)) := by
  simp only [exec_heartbeatMissLimit, execHeartbeatMissLimit, List.isEmpty_iff, if_neg hroute, ok]

/-- That the lender's loss is logged once, for its lowest lease that holds pages, is log 114. -/
theorem exec_lenderIsolated_without_route (c : CompNo) (node : BitVec 16) (s : State)
    (hkeys : s.leasesFrom c.val node.toNat ≠ []) (hroute : s.hops node.toNat (s.portsOf c.val) = []) :
    let n := c.val
    let keys := s.leasesFrom n node.toNat
    exec (.lenderIsolated c node) s = .next ((keys.foldl (fun a k => a.loseLease n k)
      (s.tierEvent n 0x0805 (keys.headD 0 % 2 ^ 32) 0)).holdComp n 0x0805) := by
  intro n keys
  simp only [exec_lenderIsolated, execLenderIsolated, hroute, List.isEmpty_nil, Bool.not_true, Bool.or_false,
    List.isEmpty_iff, if_neg hkeys]
  rfl

/-- Settles O22: each command by what the compartment holds of the lender. That leases without pages outlive an isolated
lender is log 114, that a dovetail asks for one lease at a time is log 167. -/
theorem borrowedLeasesAreHeldAndLost : Obligations.BorrowedLeasesAreHeldAndLost := by
  unfold Obligations.BorrowedLeasesAreHeldAndLost
  refine ⟨exec_leaseGrantReceive_of_none_granted, ?granted, ?held, ?noticed, exec_lenderIsolated_without_route⟩
  case granted =>
    intro c range node k s n key hlisted hquota hnew
    exact ⟨exec_leaseGrantReceive_for_pool hlisted hquota hnew, exec_leaseGrantReceive_for_range hlisted hquota hnew⟩
  case held =>
    intro c node k l s n key hheld
    refine ⟨exec_leaseHeartbeat_of_held hheld, exec_leaseRelease_of_empty, fun d hnotice hpast hpool => ?_,
      fun d hnotice hpast hrange hpages => ?_, fun hempty => ?_, fun hpages => ?_⟩
    · rw [exec_reclaimDeadline_past_notice hheld d hnotice hpast, if_pos hpool]
    · rw [exec_reclaimDeadline_past_notice hheld d hnotice hpast, if_neg hrange, if_neg hpages]
    · rw [exec_forceRelease_of_held hheld, if_pos hempty]
    · rw [exec_forceRelease_of_held hheld, if_neg hpages]
  case noticed =>
    intro c node k d s
    exact ⟨exec_reclaimNoticeReceive c node k d s, exec_heartbeatMissLimit_of_route c node k s⟩

end Sys2Proof.Machine
end

section
/-! Chapters 10, 11, 14 and 16: writes of a fabric parameter, a node-map part, a contributor, a checkpoint entry, an input
limit and an allotment (R288, R289, R296, R331, R401, R446, R447, R524). -/

namespace Sys2Proof.Machine
open Sys2Proof

/-! The commands, each by what it does where its checks pass. -/

theorem exec_fabricConfigWrite (r : Role) (which : Fin 8) (v : BitVec 128) (s : State) :
    exec (.fabricConfigWrite r which v) s = s.ifWritable r (fabConfigKey which.val) v.toNat
      (let q := s.fabConfigAct which.val v.toNat
       .next (q.2.reply q.1)) := rfl
theorem exec_contribWrite (r : Role) (c : CompNo) (v : BitVec 1024) (s : State) :
    exec (.contribWrite r c v) s = s.ifWritable r (objAt Obj.compContribWrite c.val) v.toNat
      (let q := s.contribAct c.val v.toNat
       .next (q.2.reply q.1 (if q.1 = .ok then 0 else 0x0A04))) := rfl
theorem exec_setWrite (r : Role) (c : CompNo) (v : BitVec 128) (s : State) :
    exec (.setWrite r c v) s = s.ifWritable r (objAt Obj.ckptCompSetWrite c.val) v.toNat
      (let q := s.setWriteAct c.val v.toNat
       .next (q.2.reply q.1 (if q.1 = .ok then 0 else 0x0D01))) := by
  show execSetWrite r c v s = _
  unfold execSetWrite
  dsimp only
  generalize s.setWriteAct c.val v.toNat = q
  rfl
theorem exec_inputLimitWrite (r : Role) (v : BitVec 16) (s : State) :
    exec (.inputLimitWrite r v) s = s.ifWritable r Obj.powerInputLimitW v.toNat
      (let q := s.inputLimitAct v.toNat
       .next (q.2.2.reply q.1 q.2.1)) := rfl
theorem exec_allotWrite (r : Role) (c : CompNo) (v : BitVec 16) (s : State) :
    exec (.allotWrite r c v) s = s.ifWritable r (objAt Obj.powerCompAllotW c.val) v.toNat
      (let q := s.allotAct c.val v.toNat
       .next (q.2.2.reply q.1 q.2.1)) := rfl

/-! A fabric parameter (R288), and the shares of the classes (R296). -/

theorem State.fabConfigAct_of_parameter (s : State) {which : Nat} (v : Nat) (hwhich : which < 7) :
    s.fabConfigAct which v = (.ok,
      if s.obj (fabConfigKey which) = v then s.setObj (fabConfigKey which) v
      else (s.setObj (fabConfigKey which) v).fabRestart) := by
  rw [State.fabConfigAct, if_neg (Nat.ne_of_lt hwhich)]
  exact (apply_ite (Prod.mk Status.ok) _ _ _).symm

theorem exec_fabricConfigWrite_of_parameter (r : Role) (which : Fin 8) (v : BitVec 128) (s : State)
    (hok : s.checkWrite r (fabConfigKey which.val) v.toNat = .ok) (hwhich : which.val < 7) :
    exec (.fabricConfigWrite r which v) s = .next
      ((if s.obj (fabConfigKey which.val) = v.toNat then s.setObj (fabConfigKey which.val) v.toNat
        else (s.setObj (fabConfigKey which.val) v.toNat).fabRestart).reply .ok) := by
  rw [exec_fabricConfigWrite, State.ifWritable_of_ok _ hok, s.fabConfigAct_of_parameter _ hwhich]

theorem exec_fabricConfigWrite_of_shares (r : Role) (which : Fin 8) (v : BitVec 128) (s : State)
    (hok : s.checkWrite r (fabConfigKey which.val) v.toNat = .ok) (hwhich : which.val = 7) :
    exec (.fabricConfigWrite r which v) s = .next
      (if sharesOk v.toNat then (s.setObj (fabConfigKey which.val) v.toNat).reply .ok else s.reply .outOfRange) := by
  rw [exec_fabricConfigWrite, State.ifWritable_of_ok _ hok, State.fabConfigAct, if_pos hwhich]
  split <;> rfl

/-! A part of the node map (R289). -/

/-- The entries a part of a node map brings: those that remain, at most 32. -/
def State.nodesAdded (s : State) (n : Nat) : Nat :=
  min 32 (s.objC Obj.spanCompJobModules n - (s.comp n).nodes.length)

/-- The node map with a part appended. -/
def State.nodesWith (s : State) (n v : Nat) : List Nat :=
  (s.comp n).nodes ++ (List.range (s.nodesAdded n)).map fun i => fld v (16 * i + 15) (16 * i)

theorem State.nodeMapAct_of_sound (s : State) (n v : Nat)
    (hroom : (s.comp n).nodes.length < s.objC Obj.spanCompJobModules n) (hrest : v >>> (16 * s.nodesAdded n) = 0)
    (hown : (s.nodesWith n v).length ≤ s.objC Obj.spanCompModuleIndex n ∨
      (s.nodesWith n v).getD (s.objC Obj.spanCompModuleIndex n) 0 = s.obj Obj.fabNode)
    (honce : ∀ i < (s.nodesWith n v).length, (s.nodesWith n v).getD i 0 ∉ (s.nodesWith n v).take i) :
    s.nodeMapAct n v = (.ok, s.modComp n fun c => { c with nodes := s.nodesWith n v }) := by
  have htwice : ((List.range (s.nodesWith n v).length).any fun i =>
      ((s.nodesWith n v).take i).contains ((s.nodesWith n v).getD i 0)) = false := by
    rw [List.any_eq_false]
    intro i hi
    rw [List.contains_iff_mem]
    exact honce i (List.mem_range.1 hi)
  have hown' : (decide ((s.nodesWith n v).length ≤ s.objC Obj.spanCompModuleIndex n) ||
      decide ((s.nodesWith n v).getD (s.objC Obj.spanCompModuleIndex n) 0 = s.obj Obj.fabNode)) = true := by
    simpa using hown
  have hguard : (decide (s.objC Obj.spanCompJobModules n ≤ (s.comp n).nodes.length) ||
      decide (v >>> (16 * s.nodesAdded n) ≠ 0) ||
      !(decide ((s.nodesWith n v).length ≤ s.objC Obj.spanCompModuleIndex n) ||
        decide ((s.nodesWith n v).getD (s.objC Obj.spanCompModuleIndex n) 0 = s.obj Obj.fabNode)) ||
      (List.range (s.nodesWith n v).length).any fun i =>
        ((s.nodesWith n v).take i).contains ((s.nodesWith n v).getD i 0)) = false := by
    rw [htwice, hown', decide_eq_false (Nat.not_le.2 hroom), decide_eq_false (not_not_intro hrest)]
    rfl
  exact if_neg (Bool.eq_false_iff.1 hguard)

/-- That the fault names port 0 is log 131. -/
theorem State.nodeMapAct_of_refused (s : State) (n v : Nat) (h : (s.nodeMapAct n v).1 ≠ .ok) :
    s.nodeMapAct n v = (.outOfRange, s.portFault 0 0x090B n) := by
  unfold State.nodeMapAct at h ⊢
  dsimp only at h ⊢
  split at h
  next hbad => exact if_pos hbad
  next => exact absurd rfl h

/-! A contributor (R331). -/

/-- What R331 refuses: a valid entry without a range, a range of another contributor, a reserved bit. -/
def State.ContribBad (s : State) (n v : Nat) : Prop :=
  (bit v 7 = true ∧ fld v 23 8 = 0) ∨ (∃ i < 8, i ≠ v % 8 ∧ fld (s.contrib n i) 23 8 &&& fld v 23 8 ≠ 0) ∨
    fld v 6 3 ≠ 0 ∨ fld v 63 24 ≠ 0 ∨ fld v 1023 832 ≠ 0

theorem State.contribAct_guard_iff (s : State) (n v : Nat) :
    ((bit v 7 && decide (fld v 23 8 = 0)) ||
      ((List.range 8).any fun i => decide (i ≠ v % 8) && decide (fld (s.contrib n i) 23 8 &&& fld v 23 8 ≠ 0)) ||
      decide (fld v 6 3 ≠ 0) || decide (fld v 63 24 ≠ 0) || decide (fld v 1023 832 ≠ 0)) = true ↔ s.ContribBad n v := by
  simp only [State.ContribBad, Bool.or_eq_true, Bool.and_eq_true, decide_eq_true_eq, List.any_eq_true, List.mem_range,
    or_assoc]

theorem State.contribAct_of_bad (s : State) (n v : Nat) (hbad : s.ContribBad n v) :
    s.contribAct n v = (.outOfRange, s.fault 0x0A04 n (v % 8)) := if_pos ((s.contribAct_guard_iff n v).2 hbad)

/-- That an entry with VALID = 0 empties its slot, and is refused as any other, is log 139. -/
theorem State.contribAct_of_sound (s : State) (n v : Nat) (hsound : ¬ s.ContribBad n v) :
    s.contribAct n v = (.ok, s.modComp n fun c =>
      { c with contribs := kput 0 c.contribs (v % 8) (if bit v 7 then v else 0) }) :=
  if_neg (mt (s.contribAct_guard_iff n v).1 hsound)

/-! The input limit and the allotments (R446, R447). -/

theorem exec_inputLimitWrite_of_permitted (r : Role) (v : BitVec 16) (s : State)
    (hok : s.checkWrite r Obj.powerInputLimitW v.toNat = .ok) :
    exec (.inputLimitWrite r v) s = .next
      (if v.toNat - 600 < s.allotted 8 then (s.fault 0x0E0F).reply .stateConflict 0x0E0F
       else (s.setObj Obj.powerInputLimitW v.toNat).reply .ok) := by
  rw [exec_inputLimitWrite, State.ifWritable_of_ok _ hok, State.inputLimitAct]
  split <;> rfl

theorem exec_allotWrite_of_permitted (r : Role) (c : CompNo) (v : BitVec 16) (s : State)
    (hok : s.checkWrite r (objAt Obj.powerCompAllotW c.val) v.toNat = .ok) :
    exec (.allotWrite r c v) s = .next
      (if s.allotable < s.allotted c.val + v.toNat then (s.fault 0x0E0F c.val).reply .stateConflict 0x0E0F
       else (s.setObjC Obj.powerCompAllotW c.val v.toNat).reply .ok) := by
  rw [exec_allotWrite, State.ifWritable_of_ok _ hok, State.allotAct]
  split <;> rfl

/-- Settles O18: each write by its check of R524, and where that passes by its chapter's own. That the fault of a node map
names port 0 is log 131, that a contributor's entry with VALID = 0 empties its slot is log 139. -/
theorem jobAndModuleWritesTakeTheirValue : Obligations.JobAndModuleWritesTakeTheirValue := by
  unfold Obligations.JobAndModuleWritesTakeTheirValue
  refine ⟨?parameter, ?nodeMap, ?contributor, ?entry, ?limit, ?allotment⟩
  case parameter =>
    intro r which v s key
    refine ⟨exec_fabricConfigWrite_of_parameter r which v s, exec_fabricConfigWrite_of_shares r which v s, fun h => ?_⟩
    rw [exec_fabricConfigWrite]
    exact State.ifWritable_of_refused _ h
  case nodeMap =>
    intro r c v s key nodes k all me
    refine ⟨fun hok hroom hrest hown honce => ?_, fun hok hbad => ?_, fun h => ?_⟩
    · rw [exec_nodeMapWrite, State.ifWritable_of_ok _ hok, s.nodeMapAct_of_sound _ _ hroom hrest hown honce]
      rfl
    · rw [exec_nodeMapWrite, State.ifWritable_of_ok _ hok, s.nodeMapAct_of_refused _ _ hbad]
      rfl
    · rw [exec_nodeMapWrite]
      exact State.ifWritable_of_refused _ h
  case contributor =>
    intro r c v s key slot bad
    refine ⟨fun hok hsound => ?_, fun hok hbad => ?_, fun h => ?_⟩
    · rw [exec_contribWrite, State.ifWritable_of_ok _ hok, s.contribAct_of_sound _ _ hsound]
      rfl
    · rw [exec_contribWrite, State.ifWritable_of_ok _ hok, s.contribAct_of_bad _ _ hbad]
      rfl
    · rw [exec_contribWrite]
      exact State.ifWritable_of_refused _ h
  case entry =>
    intro r c v s t st key
    refine ⟨fun hok hact => ?_, fun h => ?_⟩
    · rw [exec_setWrite, State.ifWritable_of_ok _ hok, hact]
    · rw [exec_setWrite]
      exact State.ifWritable_of_refused _ h
  case limit =>
    intro r v s key
    refine ⟨exec_inputLimitWrite_of_permitted r v s, fun h => ?_⟩
    rw [exec_inputLimitWrite]
    exact State.ifWritable_of_refused _ h
  case allotment =>
    intro r c v s key
    refine ⟨exec_allotWrite_of_permitted r c v s, fun h => ?_⟩
    rw [exec_allotWrite]
    exact State.ifWritable_of_refused _ h

end Sys2Proof.Machine
end

section
/-! Chapter 10: ports train, exchange keys and fall back (R284, R286, R304-R307). -/

namespace Sys2Proof.Machine
open Sys2Proof

/-! The commands, each by the operation that carries it out. -/

theorem exec_portRearm (r : Role) (v : Byte) (s : State) :
    exec (.portRearm r v) s = s.ifWritable r Obj.fabPortRearm v.toNat
      (let q := s.rearmAct v.toNat
       .next (q.2.reply q.1)) := rfl
theorem exec_portTrain (p : PortNo) (lanes : Fin 5) (rtt : W32) (s : State) :
    exec (.portTrain p lanes rtt) s = execPortTrain p lanes rtt s := rfl
theorem exec_keyingFrameReceive (p : PortNo) (f : KeyFrame) (s : State) :
    exec (.keyingFrameReceive p f) s = execKeyingFrameReceive p f s := rfl
theorem exec_linkFrameReceive (p : PortNo) (f : RxFrame) (s : State) :
    exec (.linkFrameReceive p f) s = execLinkFrameReceive p f s := rfl
theorem exec_keyingRepeat (p : PortNo) (s : State) : exec (.keyingRepeat p) s = execKeyingRepeat p s := rfl
theorem exec_keyingTimeout (p : PortNo) (s : State) : exec (.keyingTimeout p) s = execKeyingTimeout p s := rfl
theorem exec_laneLockFail (p : PortNo) (retrained : Bool) (s : State) :
    exec (.laneLockFail p retrained) s = execLaneLockFail p retrained s := rfl

/-! An isolated port is armed again (R286). -/

theorem State.rearmAct_of_isolated {s : State} {p : Nat} (hst : (s.port p).st = .isolated)
    (hconf : s.fabConfigured = true) : s.rearmAct p = (.ok, s.startTraining p) := by
  rw [State.rearmAct, hst, hconf]
  rfl

theorem State.rearmAct_refused {s : State} {p : Nat} (h : (s.port p).st ≠ .isolated ∨ s.fabConfigured = false) :
    s.rearmAct p = (.stateConflict, s) := by
  have hguard : ¬ (decide ((s.port p).st = .isolated) && s.fabConfigured) = true := by
    rw [Bool.and_eq_true, decide_eq_true_eq, Decidable.not_and_iff_not_or_not, Bool.not_eq_true]
    exact h
  exact if_neg hguard

/-! The lanes train, or do not (R284). -/

/-- The port as it enters KEYING, and its credential is sent (R306). -/
def State.enterKeying (s : State) (p lanes rtt : Nat) : State :=
  (s.setPort p { s.port p with
    st := .keying, width := lanes, rtt := rtt, keyAt := s.now, gotCred := false, gotEncap := false, sentEncap := false,
    frags := [] }).sendKeying p

section Train
variable {p : PortNo} {lanes : Fin 5} {rtt : W32} {s : State}
  (hmay : (s.port p.val).st = .training ∨ ((s.port p.val).st = .quiesced ∧ (s.port p.val).gotEncap = false))
include hmay

theorem portTrain_guard_eq_true : (decide ((s.port p.val).st = .training) ||
    (decide ((s.port p.val).st = .quiesced) && !(s.port p.val).gotEncap)) = true := by
  simpa only [Bool.or_eq_true, Bool.and_eq_true, decide_eq_true_eq, Bool.not_eq_true'] using hmay

theorem exec_portTrain_locks (hlanes : lanes = 4 ∨ lanes = 2)
    (hepoch : (s.port p.val).recredit = false ∨ (s.port p.val).epoch + 1 ≠ 2 ^ 32) :
    exec (.portTrain p lanes rtt) s = .next
      (let s1 := s.enterKeying p.val lanes.val rtt.toNat
       if lanes = 2 then s1.portFault p.val 0x090D else s1) := by
  have hlocked : (decide (lanes = 4) || decide (lanes = 2)) = true := by
    simpa only [Bool.or_eq_true, decide_eq_true_eq] using hlanes
  have hlast : ¬ ((s.port p.val).recredit && decide ((s.port p.val).epoch + 1 = 2 ^ 32)) = true := by
    rw [Bool.and_eq_true, decide_eq_true_eq, Decidable.not_and_iff_not_or_not, Bool.not_eq_true]
    exact hepoch
  simp only [exec_portTrain, execPortTrain, portTrain_guard_eq_true hmay, hlocked, if_neg hlast, Bool.not_true,
    Bool.false_eq_true, if_false, if_true]
  rfl

theorem exec_portTrain_fails (hfour : lanes ≠ 4) (htwo : lanes ≠ 2) :
    exec (.portTrain p lanes rtt) s = .next (s.trainFail p.val) := by
  simp only [exec_portTrain, execPortTrain, portTrain_guard_eq_true hmay, decide_eq_false hfour, decide_eq_false htwo,
    Bool.or_self, Bool.not_true, Bool.false_eq_true, if_false, ok]
end Train

/-! A fragment of the peer's credential or encapsulation (R306). -/

/-- The fragments held once one more has come. -/
def Port.fragsWith (x : Port) (k : Nat) : List Nat := if x.frags.contains k then x.frags else k :: x.frags

section Fragment
variable {p : PortNo} {f : KeyFrame} {s : State} (hst : (s.port p.val).st = .keying) (hfits : keyFits f = true)
  (hdue : if f.msg = 1 then (s.port p.val).gotCred = false
    else (s.port p.val).gotEncap = false ∧ (s.port p.val).gotCred = true)
include hst hfits hdue

/-- A message that is due is kept until it is whole, and then acted on. -/
theorem exec_keyingFrameReceive_of_due : exec (.keyingFrameReceive p f) s =
    if ((s.port p.val).fragsWith f.frag.toNat).length < f.frags.toNat then
      .next (s.setPort p.val { s.port p.val with frags := (s.port p.val).fragsWith f.frag.toNat })
    else if f.msg = 1 then
      (if !f.verifies then .next (s.isolatingViolation p.val 0x0902)
       else .next (((s.setPort p.val { s.port p.val with
         frags := [], gotCred := true, sentEncap := true, peer := f.addr.toNat,
         peerPort := f.port.toNat }).sendKeying p.val).keyed p.val))
    else .next ((s.setPort p.val { s.port p.val with frags := [], gotEncap := true }).keyed p.val) := by
  have hfresh : (if f.msg = 1 then (s.port p.val).gotCred else (s.port p.val).gotEncap || !(s.port p.val).gotCred) =
      false := by
    split at hdue
    next hcred => rw [if_pos hcred, hdue]
    next hencap => rw [if_neg hencap, hdue.1, hdue.2]; rfl
  have hup : ¬ (s.port p.val).st = .up := by rw [hst]; decide
  rw [exec_keyingFrameReceive, execKeyingFrameReceive]
  dsimp only
  rw [if_neg hup, if_neg (not_not_intro hst), hfits, hfresh]
  rfl

theorem exec_keyingFrameReceive_keeps_part
    (hpart : ((s.port p.val).fragsWith f.frag.toNat).length < f.frags.toNat) :
    exec (.keyingFrameReceive p f) s =
      .next (s.setPort p.val { s.port p.val with frags := (s.port p.val).fragsWith f.frag.toNat }) := by
  rw [exec_keyingFrameReceive_of_due hst hfits hdue, if_pos hpart]

theorem exec_keyingFrameReceive_takes_credential
    (hwhole : f.frags.toNat ≤ ((s.port p.val).fragsWith f.frag.toNat).length) (hcred : f.msg = 1) :
    exec (.keyingFrameReceive p f) s = .next
      (if f.verifies = true then ((s.setPort p.val { s.port p.val with
         frags := [], gotCred := true, sentEncap := true, peer := f.addr.toNat,
         peerPort := f.port.toNat }).sendKeying p.val).keyed p.val
       else s.isolatingViolation p.val 0x0902) := by
  rw [exec_keyingFrameReceive_of_due hst hfits hdue, if_neg (Nat.not_lt.2 hwhole), if_pos hcred]
  cases f.verifies <;> simp only [Bool.not_true, Bool.not_false, Bool.false_eq_true, if_true, if_false]

theorem exec_keyingFrameReceive_takes_secret
    (hwhole : f.frags.toNat ≤ ((s.port p.val).fragsWith f.frag.toNat).length) (hencap : f.msg ≠ 1) :
    exec (.keyingFrameReceive p f) s =
      .next ((s.setPort p.val { s.port p.val with frags := [], gotEncap := true }).keyed p.val) := by
  rw [exec_keyingFrameReceive_of_due hst hfits hdue, if_neg (Nat.not_lt.2 hwhole), if_neg hencap]
end Fragment

/-! The first frame under the new keys, repeats and the time-out (R306, R307). -/

section Keying
variable {p : PortNo} {s : State} (hst : (s.port p.val).st = .keying)
include hst

theorem exec_linkFrameReceive_lets_in (f : RxFrame) (hgot : (s.port p.val).gotEncap = true)
    (hsent : (s.port p.val).sentEncap = true) (htag : f.tagOk = true) :
    exec (.linkFrameReceive p f) s = .next (s.letIn p.val) := by
  simp only [exec_linkFrameReceive, execLinkFrameReceive, hst, hgot, hsent, htag, Bool.and_self, if_true, ok]

theorem exec_keyingRepeat_of_due (hdue : (s.port p.val).msgAt + 1000000 ≤ s.now) :
    exec (.keyingRepeat p) s = .next (s.sendKeying p.val) := by
  simp only [exec_keyingRepeat, execKeyingRepeat, hst, hdue, decide_true, Bool.and_self, if_true, ok]

theorem exec_keyingTimeout_of_due (hdue : (s.port p.val).keyAt + 50000000 ≤ s.now) :
    exec (.keyingTimeout p) s = .next (s.trainFail p.val) := by
  simp only [exec_keyingTimeout, execKeyingTimeout, hst, hdue, decide_true, Bool.and_self, if_true, ok]
end Keying

/-! A lane loses its lock (R284). -/

theorem exec_laneLockFail_of_trained (p : PortNo) (retrained : Bool) (s : State) (hwidth : (s.port p.val).width ≠ 0) :
    exec (.laneLockFail p retrained) s = .next
      (if (s.port p.val).width = 4 ∧ retrained = true then
        (s.setPort p.val { s.port p.val with width := 2 }).portFault p.val 0x090D
       else (((s.setPort p.val { s.port p.val with recredit := (s.port p.val).recredit || (s.port p.val).st = .up }).trainFail
         p.val).reroute p.val).endRemoteWaits) := by
  simp only [exec_laneLockFail, execLaneLockFail, if_neg hwidth, Bool.and_eq_true, decide_eq_true_eq]
  exact (apply_ite Host.Outcome.next _ _ _).symm

/-- Settles O23: each command by the state the port is in. -/
theorem portsTrainAndKey : Obligations.PortsTrainAndKey := by
  unfold Obligations.PortsTrainAndKey
  refine ⟨?rearm, ?train, ?fragment, fun p f s hst => exec_linkFrameReceive_lets_in hst f, ?timers,
    exec_laneLockFail_of_trained⟩
  case rearm =>
    intro r v s
    refine ⟨fun hok hst hconf => ?_, fun hok hbad => ?_, fun h => ?_⟩
    · rw [exec_portRearm, State.ifWritable_of_ok _ hok, State.rearmAct_of_isolated hst hconf]
    · rw [exec_portRearm, State.ifWritable_of_ok _ hok, State.rearmAct_refused hbad]
    · rw [exec_portRearm, State.ifWritable_of_refused _ h]
  case train =>
    intro p lanes rtt s x hmay
    exact ⟨exec_portTrain_locks hmay, exec_portTrain_fails hmay⟩
  case fragment =>
    intro p f s x held hst hfits hdue
    exact ⟨exec_keyingFrameReceive_keeps_part hst hfits hdue, exec_keyingFrameReceive_takes_credential hst hfits hdue,
      exec_keyingFrameReceive_takes_secret hst hfits hdue⟩
  case timers =>
    intro p s hst
    exact ⟨exec_keyingRepeat_of_due hst, exec_keyingTimeout_of_due hst⟩

end Sys2Proof.Machine
end

section
/-! Chapter 10: sealed frames, DATA frames, and replays (R290-R292, R297-R301, R312). -/

namespace Sys2Proof.Machine
open Sys2Proof

/-! What every sealed frame of a port that is UP passes first (R291, R292, R299). -/

theorem header_guard_eq_false {h ty : Nat} (hsound : Fh.sound h = true) (htype : Fh.type h = ty) :
    (!Fh.sound h || decide (Fh.type h ≠ ty)) = false := by
  rw [hsound, decide_eq_false (not_not_intro htype)]
  rfl

section FrameIn
variable {s : State} {p : Nat}

theorem State.frameIn_of_not_up (ty : Nat) (f : RxFrame) (hst : (s.port p).st ≠ .up) :
    s.frameIn p ty f = (false, s) := if_pos hst

variable {ty : Nat} {f : RxFrame} (hst : (s.port p).st = .up)
include hst

theorem State.frameIn_of_bad_tag (htag : f.tagOk = false) : s.frameIn p ty f = (false,
    ((((s.incC Obj.fabPortTagFailures p).violation p 0x0905).modPort p fun y => { y with discard := true }).sendReplayReq
      p)) := by
  rw [State.frameIn]
  dsimp only
  rw [if_neg (not_not_intro hst), htag]
  rfl

/-- A sound frame of the type it is taken for: its cumulative fields are taken, and none may be ahead (R292, R312). -/
theorem State.frameIn_of_sound (htag : f.tagOk = true) (hsound : Fh.sound f.header.toNat = true)
    (htype : Fh.type f.header.toNat = ty) :
    let x := s.port p
    let h := f.header.toNat
    let s1 := s.setPort p { x.take h with ctrRx := Fh.ctr h + 1 }
    s.frameIn p ty f = if x.ahead h = true then (false, (s1.violation p 0x0907).r304 p) else (true, s1) := by
  intro x h s1
  rw [State.frameIn]
  dsimp only
  rw [if_neg (not_not_intro hst), htag, header_guard_eq_false hsound htype]
  rfl
end FrameIn

/-! The commands, each by the operation that carries it out. -/

theorem exec_linkFrameReceive_of_not_keying (p : PortNo) (f : RxFrame) (s : State) (hst : (s.port p.val).st ≠ .keying) :
    exec (.linkFrameReceive p f) s = .next (s.frameIn p.val 2 f).2 := by
  rw [exec_linkFrameReceive]
  exact if_neg hst
theorem exec_dataFrameSend (p : PortNo) (vc : Fin 8) (count : Fin 33) (s : State) :
    exec (.dataFrameSend p vc count) s = execDataFrameSend p vc count s := rfl
theorem exec_dataFrameReceive (p : PortNo) (f : RxFrame) (pkts : List RxPkt) (s : State) :
    exec (.dataFrameReceive p f pkts) s = execDataFrameReceive p f pkts s := rfl
theorem exec_replayReqReceive (p : PortNo) (f : RxFrame) (s : State) :
    exec (.replayReqReceive p f) s = execReplayReqReceive p f s := rfl

/-! A DATA frame leaves (R297, R298, R300). -/

/-- The DATA frame of packets qs as port x sends it first. -/
def Port.dataFrame (x : Port) (v : Nat) (qs : List QPkt) : Frame :=
  { fseq := x.nextSeq, flits := flitSum qs, vc := v, ctr := x.ctrTx, epoch := x.epoch, sent := true, pkts := qs }

/-- The frame of packets qs leaves by port p: its credit is charged, it is kept for replay, its packets have gone. -/
def State.sendData (s : State) (p v : Nat) (qs : List QPkt) : State :=
  let x := s.port p
  let s1 := { s.setPort p { x.charge v (flitSum qs) with
                nextSeq := (x.nextSeq + flitSum qs) % 4096, retry := x.retry ++ [x.dataFrame v qs], lastVc := v } with
              egress := s.egress.filter fun q => !qs.contains q }
  ((qs.foldl (fun a q => ((a.freeFlits q).markLeft q).countOut q) s1).incC Obj.fabPortFramesTx p).emitData p
    (x.dataFrame v qs)

section Send
variable {p : PortNo} {vc : Fin 8} {count : Fin 33} {s : State}

/-- None of the reasons for which the first packets of a VC are not framed now. -/
theorem dataFrameSend_guard_eq_false
    (hlen : ((s.queued p.val vc.val).take count.val).length = count.val) (hcount : 0 < count.val)
    (hmost : flitSum ((s.queued p.val vc.val).take count.val) ≤ 32)
    (hcredit : flitSum ((s.queued p.val vc.val).take count.val) ≤ kget 0 (s.port p.val).avail vc.val)
    (hwindow : (s.port p.val).window + flitSum ((s.queued p.val vc.val).take count.val) ≤ 2048)
    (hturn : (List.range 8).find? (fun i => s.canSend p.val (((s.port p.val).lastVc + 1 + i) % 8)) =
      some ((vc.val + 7 - (s.port p.val).lastVc % 8) % 8)) :
    let qs := (s.queued p.val vc.val).take count.val
    (decide (qs.length < count.val) || decide (count.val = 0) || decide (32 < flitSum qs) ||
      decide (kget 0 (s.port p.val).avail vc.val < flitSum qs) ||
      decide (2048 < (s.port p.val).window + flitSum qs) ||
      !decide ((List.range 8).find? (fun i => s.canSend p.val (((s.port p.val).lastVc + 1 + i) % 8)) =
        some ((vc.val + 7 - (s.port p.val).lastVc % 8) % 8))) = false := by
  intro qs
  rw [decide_eq_false (Nat.not_lt.2 (Nat.le_of_eq hlen.symm)), decide_eq_false (Nat.ne_of_gt hcount),
    decide_eq_false (Nat.not_lt.2 hmost), decide_eq_false (Nat.not_lt.2 hcredit), decide_eq_false (Nat.not_lt.2 hwindow),
    decide_eq_true hturn]
  rfl

theorem exec_dataFrameSend_of_turn (hst : (s.port p.val).st = .up) (hctr : (s.port p.val).ctrTx < 2 ^ 32 - 1)
    (hsent : ∀ f ∈ (s.port p.val).retry, f.sent = true)
    (hlen : ((s.queued p.val vc.val).take count.val).length = count.val) (hcount : 0 < count.val)
    (hmost : flitSum ((s.queued p.val vc.val).take count.val) ≤ 32)
    (hcredit : flitSum ((s.queued p.val vc.val).take count.val) ≤ kget 0 (s.port p.val).avail vc.val)
    (hwindow : (s.port p.val).window + flitSum ((s.queued p.val vc.val).take count.val) ≤ 2048)
    (hturn : (List.range 8).find? (fun i => s.canSend p.val (((s.port p.val).lastVc + 1 + i) % 8)) =
      some ((vc.val + 7 - (s.port p.val).lastVc % 8) % 8)) :
    exec (.dataFrameSend p vc count) s = .next (s.sendData p.val vc.val ((s.queued p.val vc.val).take count.val)) := by
  have hnone : ¬ ((s.port p.val).retry.any fun f => !f.sent) = true := by simpa using hsent
  have hguard := dataFrameSend_guard_eq_false hlen hcount hmost hcredit hwindow hturn
  rw [exec_dataFrameSend, execDataFrameSend]
  dsimp only at hguard ⊢
  rw [if_neg (not_not_intro hst), if_neg (Nat.not_le.2 hctr), if_neg hnone, if_neg (Bool.eq_false_iff.1 hguard)]
  rfl
end Send

/-! A DATA frame arrives (R299), by how far its FSEQ lies after the one expected. -/

section Receive
variable {p : PortNo} {f : RxFrame} {s t : State} (pkts : List RxPkt) (hin : s.frameIn p.val 1 f = (true, t))
include hin

theorem exec_dataFrameReceive_of_behind
    (hbehind : 2048 ≤ (Fh.fseq f.header.toNat + 4096 - (t.port p.val).expect) % 4096) :
    exec (.dataFrameReceive p f pkts) s = .next ((t.violation p.val 0).sendLink p.val) := by
  rw [exec_dataFrameReceive, execDataFrameReceive, hin]
  exact if_pos hbehind

theorem exec_dataFrameReceive_of_ahead (hlo : 1 ≤ (Fh.fseq f.header.toNat + 4096 - (t.port p.val).expect) % 4096)
    (hhi : (Fh.fseq f.header.toNat + 4096 - (t.port p.val).expect) % 4096 < 2048) :
    exec (.dataFrameReceive p f pkts) s = .next
      (if (t.port p.val).discard = true then t else (t.violation p.val 0x0906).sendReplayReq p.val) := by
  rw [exec_dataFrameReceive, execDataFrameReceive, hin]
  dsimp only
  rw [if_neg (Nat.not_le.2 hhi), if_pos hlo]
  exact (apply_ite Host.Outcome.next _ _ _).symm

theorem exec_dataFrameReceive_of_expected
    (hseq : (Fh.fseq f.header.toNat + 4096 - (t.port p.val).expect) % 4096 = 0)
    (hcredit : kget 0 (t.port p.val).sumAcc (Fh.vc f.header.toNat) - kget 0 (t.port p.val).retTx (Fh.vc f.header.toNat) +
      Fh.flits f.header.toNat ≤ shareOf (t.port p.val).share (Fh.vc f.header.toNat)) :
    let h := f.header.toNat
    let x := t.port p.val
    exec (.dataFrameReceive p f pkts) s = .next
      ((pkts.foldl (fun a r => a.packetIn p.val (Fh.vc h) r) (t.setPort p.val
        { x with expect := (x.expect + Fh.flits h) % 4096, discard := false, reqAt := none,
                 sumAcc := kput 0 x.sumAcc (Fh.vc h) (kget 0 x.sumAcc (Fh.vc h) + Fh.flits h) })).checkCut p.val) := by
  intro h x
  rw [exec_dataFrameReceive, execDataFrameReceive, hin]
  dsimp only
  rw [hseq, if_neg (by decide), if_neg (by decide), if_neg (Nat.not_lt.2 hcredit)]
  rfl
end Receive

/-! The peer asks for a replay (R300, R301). -/

theorem exec_replayReqReceive_of_taken {p : PortNo} {f : RxFrame} {s t : State} (hin : s.frameIn p.val 5 f = (true, t)) :
    let x := t.port p.val
    exec (.replayReqReceive p f) s = .next
      (if 16 ≤ x.reqs then t.violation p.val 0x0906
       else (x.retry.filter (·.sent)).foldl (fun a g => a.emitData p.val g)
         ((t.setPort p.val { x with reqs := x.reqs + 1 }).incC Obj.fabPortReplays p.val
           (x.retry.filter (·.sent)).length)) := by
  intro x
  rw [exec_replayReqReceive, execReplayReqReceive, hin]
  exact (apply_ite Host.Outcome.next _ _ _).symm

/-- Settles O24: what frameIn lets through is handled by its type; what it does not is answered by frameIn alone. -/
theorem framesLeaveAndArriveInOrder : Obligations.FramesLeaveAndArriveInOrder := by
  unfold Obligations.FramesLeaveAndArriveInOrder
  refine ⟨?checked, exec_linkFrameReceive_of_not_keying, fun p vc count s => exec_dataFrameSend_of_turn, ?received,
    fun p f s t => exec_replayReqReceive_of_taken⟩
  case checked =>
    intro s p ty f x h s1
    exact ⟨State.frameIn_of_not_up ty f, State.frameIn_of_bad_tag, State.frameIn_of_sound⟩
  case received =>
    intro p f pkts s t hin
    exact ⟨exec_dataFrameReceive_of_behind pkts hin, exec_dataFrameReceive_of_ahead pkts hin,
      exec_dataFrameReceive_of_expected pkts hin⟩

end Sys2Proof.Machine
end

section
/-! Chapter 10: audits, re-credits, new keys, and requests not delivered (R302-R305, R307, R310). -/

namespace Sys2Proof.Machine
open Sys2Proof

/-! The commands, each by the operation that carries it out. -/

theorem exec_auditEpochEnd (p : PortNo) (s : State) : exec (.auditEpochEnd p) s = execAuditEpochEnd p s := rfl
theorem exec_auditFrameReceive (p : PortNo) (f : RxFrame) (a : AuditBody) (s : State) :
    exec (.auditFrameReceive p f a) s = execAuditFrameReceive p f a s := rfl
theorem exec_auditAbsent (p : PortNo) (s : State) : exec (.auditAbsent p) s = execAuditAbsent p s := rfl
theorem exec_recreditFrameReceive (p : PortNo) (f : RxFrame) (next : BitVec 12) (shares : BitVec 128) (s : State) :
    exec (.recreditFrameReceive p f next shares) s = execRecreditFrameReceive p f next shares s := rfl
theorem exec_rekeyStart (p : PortNo) (s : State) : exec (.rekeyStart p) s = execRekeyStart p s := rfl
theorem exec_rekeyFrameReceive (p : PortNo) (f : RxFrame) (sound : Bool) (s : State) :
    exec (.rekeyFrameReceive p f sound) s = execRekeyFrameReceive p f sound s := rfl
theorem exec_undeliveredReceive (tag : W32) (s : State) :
    exec (.undeliveredReceive tag) s = execUndeliveredReceive tag s := rfl

/-! Audits (R302, R303). -/

theorem exec_auditEpochEnd_of_due (p : PortNo) (s : State) (hst : (s.port p.val).st = .up)
    (hdue : 2 ^ 20 ≤ (s.port p.val).auditFlits ∨ (s.port p.val).auditAt + 1000 * s.obj Obj.fabAuditUs ≤ s.now) :
    let x := s.port p.val
    exec (.auditEpochEnd p) s = .next ((s.setPort p.val
      { x with auditAt := s.now, auditFlits := 0, auditNo := x.auditNo + 1, reqs := 0 }).sendFrame p.val 3 4 0 0
        ([x.nextSeq, x.auditNo] ++ (List.range 8).map (kget 0 x.sumTx) ++ (List.range 8).map (kget 0 x.retTx) ++
          (List.range 8).map (kget 0 x.retRx)) []) := by
  have hguard : ¬ (decide ((s.port p.val).st ≠ .up) || (decide ((s.port p.val).auditFlits < 2 ^ 20) &&
      decide (s.now < (s.port p.val).auditAt + 1000 * s.obj Obj.fabAuditUs))) = true := by
    rw [decide_eq_false (not_not_intro hst), Bool.false_or, Bool.and_eq_true, decide_eq_true_eq, decide_eq_true_eq,
      Decidable.not_and_iff_not_or_not, Nat.not_lt, Nat.not_lt]
    exact hdue
  rw [exec_auditEpochEnd]
  exact if_neg hguard

/-- What an AUDIT frame is held to: the flits returned, and the balance of R297. -/
theorem auditFrame_agrees_iff (x : Port) (a : AuditBody) :
    (((List.range 8).all fun v => decide (kget 0 x.retRx v = auditSum a.ret v)) && x.balanced) = true ↔
      (∀ v < 8, kget 0 x.retRx v = auditSum a.ret v) ∧ x.balanced = true := by
  simp only [Bool.and_eq_true, List.all_eq_true, List.mem_range, decide_eq_true_eq]

/-- The port once an audit is heard at a time: its cut is kept for the flits still to come. -/
def Port.auditHeard (x : Port) (now : Nat) (a : AuditBody) : Port :=
  { x with heardAt := now, cut := some (a.cut.toNat, (List.range 8).map (auditSum a.tx)) }

section Audit
variable {p : PortNo} {f : RxFrame} {a : AuditBody} {s t : State} (hin : s.frameIn p.val 3 f = (true, t))
include hin

theorem exec_auditFrameReceive_agrees
    (hagrees : (∀ v < 8, kget 0 (t.port p.val).retRx v = auditSum a.ret v) ∧ (t.port p.val).balanced = true) :
    exec (.auditFrameReceive p f a) s =
      .next ((t.setPort p.val ((t.port p.val).auditHeard s.now a)).checkCut p.val) := by
  rw [exec_auditFrameReceive, execAuditFrameReceive, hin]
  exact if_pos ((auditFrame_agrees_iff _ a).2 hagrees)

theorem exec_auditFrameReceive_disagrees
    (hdiffers : ¬ ((∀ v < 8, kget 0 (t.port p.val).retRx v = auditSum a.ret v) ∧ (t.port p.val).balanced = true)) :
    exec (.auditFrameReceive p f a) s =
      .next ((t.setPort p.val ((t.port p.val).auditHeard s.now a)).mismatch p.val) := by
  rw [exec_auditFrameReceive, execAuditFrameReceive, hin]
  exact if_neg (mt (auditFrame_agrees_iff _ a).1 hdiffers)
end Audit

theorem exec_auditAbsent_of_silent (p : PortNo) (s : State) (hst : (s.port p.val).st = .up)
    (hsilent : (s.port p.val).heardAt + 3000 * s.obj Obj.fabAuditUs < s.now) :
    exec (.auditAbsent p) s = .next (s.mismatch p.val) := by
  simp only [exec_auditAbsent, execAuditAbsent, hst, hsilent, decide_true, Bool.and_self, if_true, ok]

/-! A re-credit (R304 steps 5 to 7). -/

/-- The frames a peer that expects sequence number d past the acknowledged one has not yet accepted. -/
def Port.unaccepted (x : Port) (d : Nat) : List Frame :=
  x.retry.filter fun g => decide (d < (g.fseq + 4096 - x.acked) % 4096 + g.flits)

theorem exec_recreditFrameReceive_of_sound (p : PortNo) (f : RxFrame) (next : BitVec 12) (shares : BitVec 128) (s : State)
    (hst : (s.port p.val).st = .quiesced) (hsecret : (s.port p.val).gotEncap = true) (htag : f.tagOk = true)
    (hsound : Fh.sound f.header.toNat = true) (htype : Fh.type f.header.toNat = 6)
    (hnext : (next.toNat + 4096 - (s.port p.val).acked) % 4096 ≤
      ((s.port p.val).nextSeq + 4096 - (s.port p.val).acked) % 4096) :
    let x := s.port p.val
    let keep := x.unaccepted ((next.toNat + 4096 - x.acked) % 4096)
    exec (.recreditFrameReceive p f next shares) s = .next
      ((((s.setPort p.val (Port.recreditTo { x with
        st := .up, recredit := false, acked := next.toNat, reqs := 0, auditAt := s.now, auditFlits := 0, heardAt := s.now,
        discard := false, reqAt := none, retry := keep.map fun g => { g with sent := false } }
          (s.obj Obj.fabVcCredits) shares.toNat)).resendAll p.val keep.length).incC Obj.fabPortRecredits p.val).portFault
            p.val 0x0904) := by
  have hdue : ¬ (decide ((s.port p.val).st ≠ .quiesced) || !(s.port p.val).gotEncap) = true := by
    rw [decide_eq_false (not_not_intro hst), hsecret]
    exact Bool.false_ne_true
  intro x keep
  rw [exec_recreditFrameReceive, execRecreditFrameReceive]
  dsimp only
  rw [if_neg hdue, htag, Bool.not_true, header_guard_eq_false hsound htype, if_neg Bool.false_ne_true,
    if_neg Bool.false_ne_true, if_neg (Nat.not_lt.2 hnext)]
  rfl

/-! New keys (R305, R307). -/

theorem exec_rekeyStart_of_due (p : PortNo) (s : State) (hst : (s.port p.val).st = .up)
    (hidle : (s.port p.val).rekeying = false)
    (hdue : 2 ^ 32 - 2 ^ 24 ≤ (s.port p.val).ctrTx ∨ 2 ^ 32 - 2 ^ 24 ≤ (s.port p.val).ctrRx ∨
      (s.port p.val).epochAt + s.obj Obj.fabRekeyS * 1000000000 ≤ s.now) :
    let x := s.port p.val
    exec (.rekeyStart p) s = .next
      (if x.epoch + 1 = 2 ^ 32 then s.isolatingViolation p.val 0x090A
       else (s.setPort p.val { x with rekeying := true }).sendFrame p.val 4 25 0 0 [x.epoch + 1] []) := by
  have hcounts : (decide (2 ^ 32 - 2 ^ 24 ≤ (s.port p.val).ctrTx) || decide (2 ^ 32 - 2 ^ 24 ≤ (s.port p.val).ctrRx) ||
      decide ((s.port p.val).epochAt + s.obj Obj.fabRekeyS * 1000000000 ≤ s.now)) = true := by
    simpa only [Bool.or_eq_true, decide_eq_true_eq, or_assoc] using hdue
  intro x
  rw [exec_rekeyStart, execRekeyStart, hcounts, hidle, decide_eq_false (not_not_intro hst), if_neg (by decide)]
  exact (apply_ite Host.Outcome.next _ _ _).symm

theorem exec_rekeyFrameReceive_of_taken {p : PortNo} {f : RxFrame} (sound : Bool) {s t : State}
    (hin : s.frameIn p.val 4 f = (true, t)) :
    let x := t.port p.val
    exec (.rekeyFrameReceive p f sound) s = .next
      (if sound = false then (t.violation p.val 0x0909).r304 p.val
       else if x.epoch + 1 = 2 ^ 32 then t.isolatingViolation p.val 0x090A
       else if x.rekeying = true then t.newEpoch p.val
       else (t.sendFrame p.val 4 25 0 0 [x.epoch + 1] []).newEpoch p.val) := by
  simp only [exec_rekeyFrameReceive, execRekeyFrameReceive, hin, Bool.not_eq_true', apply_ite Host.Outcome.next, ok]

/-! A request another module did not get (R310). -/

section Undelivered
variable {tag : W32} {n m : Nat} {x : Slot} {s : State} (hcomp : s.compOfTile (tag.toNat / 256) = some n)
  (hslot : s.slotAt (tag.toNat / 256) (tag.toNat % 256) = some x) (htarget : x.target = .module m) (hfar : m < 65536)
  (hwaits : x.reply = none) (htile : tag.toNat / 256 < 1024)

/-- A request of compartment n is counted as undelivered and its outcome as unknown. -/
def State.countUndelivered (s : State) (n a : Nat) : State :=
  ((s.incC Obj.fabCompUndelivered n).compEvent n 0xE2 1).lostAccess n 0x0708 a

include hcomp hslot htarget hfar hwaits htile

/-- The request that the tag names ends by who made it. -/
theorem exec_undeliveredReceive_of_waiting : exec (.undeliveredReceive tag) s =
    match x.who with
    | .pegOp k => .next (((s.countUndelivered n x.addr).setSlot (tag.toNat / 256) (tag.toNat % 256) none).pegEnd k 0x0708
        false)
    | _ => .next ((s.countUndelivered n x.addr).answerSlot (tag.toNat / 256) (tag.toNat % 256) 0x0708 []) := by
  have hguard : ¬ (!decide (m < 65536) || x.reply.isSome || decide (1024 ≤ tag.toNat / 256)) = true := by
    rw [decide_eq_true hfar, hwaits, decide_eq_false (Nat.not_le.2 htile)]
    exact Bool.false_ne_true
  simp only [exec_undeliveredReceive, execUndeliveredReceive, hcomp, hslot, htarget]
  rw [if_neg hguard]
  rfl

theorem exec_undeliveredReceive_of_pegOp {k : Nat} (hwho : x.who = .pegOp k) :
    exec (.undeliveredReceive tag) s = .next
      (((s.countUndelivered n x.addr).setSlot (tag.toNat / 256) (tag.toNat % 256) none).pegEnd k 0x0708 false) := by
  rw [exec_undeliveredReceive_of_waiting hcomp hslot htarget hfar hwaits htile, hwho]

theorem exec_undeliveredReceive_of_access (hwho : ∀ k, x.who ≠ .pegOp k) :
    exec (.undeliveredReceive tag) s = .next
      ((s.countUndelivered n x.addr).answerSlot (tag.toNat / 256) (tag.toNat % 256) 0x0708 []) := by
  rw [exec_undeliveredReceive_of_waiting hcomp hslot htarget hfar hwaits htile]
  split
  next k hpeg => exact absurd hpeg (hwho k)
  next => rfl
end Undelivered

/-- Settles O25: each command of a port by its timers and counters, each frame by what frameIn let through, the
undelivered request by who made it. -/
theorem creditsAreAuditedAndKeysRenewed : Obligations.CreditsAreAuditedAndKeysRenewed := by
  unfold Obligations.CreditsAreAuditedAndKeysRenewed
  refine ⟨exec_auditEpochEnd_of_due, ?audit, exec_auditAbsent_of_silent, exec_recreditFrameReceive_of_sound,
    exec_rekeyStart_of_due, fun p f sound s t => exec_rekeyFrameReceive_of_taken sound, ?undelivered⟩
  case audit =>
    intro p f a s t hin x u
    exact ⟨exec_auditFrameReceive_agrees hin, exec_auditFrameReceive_disagrees hin⟩
  case undelivered =>
    intro tag n m x s t i hcomp hslot htarget hfar hwaits htile s1
    exact ⟨fun k => exec_undeliveredReceive_of_pegOp hcomp hslot htarget hfar hwaits htile,
      exec_undeliveredReceive_of_access hcomp hslot htarget hfar hwaits htile⟩

end Sys2Proof.Machine
end

section
/-! Chapter 11: the commands of a compartment (R319-R327). -/

namespace Sys2Proof.Machine
open Sys2Proof

/-- R322: a command acts for a role that may issue it, and another role is denied. -/
def State.ifCommands (s : State) (r : Role) (n code : Nat) (act : Host.Outcome State Fault Refusal) :
    Host.Outcome State Fault Refusal :=
  if mayCommand r n code then act else .next (s.reply .accessDenied)

section IfCommands
variable {s : State} {r : Role} {n code : Nat} (act : Host.Outcome State Fault Refusal)

theorem State.ifCommands_of_may (h : mayCommand r n code = true) : s.ifCommands r n code act = act := if_pos h
theorem State.ifCommands_of_denied (h : mayCommand r n code = false) :
    s.ifCommands r n code act = .next (s.reply .accessDenied) := if_neg (Bool.eq_false_iff.1 h)
end IfCommands

theorem Done.out_ok (t : State) : Done.out ⟨.ok, 0, 0, t⟩ = .next (t.reply .ok) := rfl

/-! The commands, each by what it does for a role that may issue it. -/

theorem exec_compCreate (r : Role) (c : CompNo) (s : State) :
    exec (.compCreate r c) s = s.ifCommands r c.val 1 (s.createAct c.val).out := rfl
theorem exec_compAttest (r : Role) (c : CompNo) (s : State) :
    exec (.compAttest r c) s = s.ifCommands r c.val 2 (s.attestAct c.val).out := rfl
theorem exec_compStart (r : Role) (c : CompNo) (s : State) :
    exec (.compStart r c) s = s.ifCommands r c.val 3 (s.startAct c.val).out := rfl
theorem exec_compHold (r : Role) (c : CompNo) (s : State) :
    exec (.compHold r c) s = s.ifCommands r c.val 4 (s.holdAct c.val).out := rfl
theorem exec_compResume (r : Role) (c : CompNo) (s : State) :
    exec (.compResume r c) s = s.ifCommands r c.val 5 (s.resumeAct c.val).out := rfl
theorem exec_compCloseNow (r : Role) (c : CompNo) (s : State) :
    exec (.compCloseNow r c) s = s.ifCommands r c.val 7 (s.closeNowAct c.val).out := rfl

/-- A CLOSE that is held has no answer yet. -/
def State.closeOutcome : Option Done × State → Host.Outcome State Fault Refusal
  | (some d, _) => d.out
  | (none, t) => .next t

theorem exec_compClose (r : Role) (c : CompNo) (s : State) :
    exec (.compClose r c) s = s.ifCommands r c.val 6 (State.closeOutcome (s.closeAct c.val)) := rfl

/-! A command in a state that does not allow it (R323). -/

section OutsideItsState
variable {s : State} {n : Nat}

theorem State.createAct_of_not_free (h : (s.comp n).st ≠ .free) : s.createAct n = s.badState n := if_pos (by simp [h])
theorem State.attestAct_of_not_forming (h : (s.comp n).st ≠ .forming) : s.attestAct n = s.badState n := if_pos h
theorem State.startAct_of_not_attested (h : (s.comp n).st ≠ .attested) : s.startAct n = s.badState n := if_pos (by simp [h])
theorem State.holdAct_of_not_running (h : (s.comp n).st ≠ .running) : s.holdAct n = s.badState n := if_pos h
theorem State.resumeAct_of_not_held (h : (s.comp n).st ≠ .held) : s.resumeAct n = s.badState n := if_pos (by simp [h])
theorem State.closeAct_of_not_open (h : s.openState n = false) : s.closeAct n = (some (s.badState n), s) :=
  if_pos (by simp [h])
theorem State.closeNowAct_of_not_open (h : s.openState n = false) : s.closeNowAct n = s.badState n := if_pos (by simp [h])
end OutsideItsState

/-- R323: a command allowed in one state is judged by that state for a role that may issue it. -/
theorem exec_command_outside_its_state (r : Role) (c : CompNo) (s : State) {k : Nat} {i : Instr} {st : CState}
    (hcommand : (k, i, st) ∈ [(1, Instr.compCreate r c, CState.free), (2, .compAttest r c, .forming),
      (3, .compStart r c, .attested), (4, .compHold r c, .running), (5, .compResume r c, .held)]) :
    ∃ act : Done, exec i s = s.ifCommands r c.val k act.out ∧ ((s.comp c.val).st ≠ st → act = s.badState c.val) := by
  simp only [List.mem_cons, Prod.mk.injEq, List.not_mem_nil, or_false] at hcommand
  obtain ⟨rfl, rfl, rfl⟩ | ⟨rfl, rfl, rfl⟩ | ⟨rfl, rfl, rfl⟩ | ⟨rfl, rfl, rfl⟩ | ⟨rfl, rfl, rfl⟩ := hcommand
  · exact ⟨_, exec_compCreate r c s, State.createAct_of_not_free⟩
  · exact ⟨_, exec_compAttest r c s, State.attestAct_of_not_forming⟩
  · exact ⟨_, exec_compStart r c s, State.startAct_of_not_attested⟩
  · exact ⟨_, exec_compHold r c s, State.holdAct_of_not_running⟩
  · exact ⟨_, exec_compResume r c s, State.resumeAct_of_not_held⟩

/-! CREATE (R320, R324). -/

section Create
variable {s : State} {n : Nat} (hst : (s.comp n).st = .free) (hmode : s.mode = .ready ∨ s.mode = .run)
include hst hmode

/-- A FREE compartment of a module in READY or RUN is created as its geometry allows. -/
theorem State.createAct_of_free : s.createAct n =
    match s.geometryBad n (s.objC Obj.compGeometry n) with
    | some st => ⟨st, 0x0A01, 0, s.fault 0x0A01 n⟩
    | none => ⟨.ok, 0, 0,
        ((((s.tickFresh.resetObjs n).setComp n { Comp.init with
          st := .forming, upd := { Upd.init with noise := ⟨s.draw256 % 2 ^ 64, 0, 0⟩ }, stream := (s.comp n).stream,
          gov := (s.comp n).gov }).setCState n .forming).lightTiles n).reseed n⟩ := by
  have hallowed : ¬ (decide ((s.comp n).st ≠ .free) || (decide (s.mode ≠ .ready) && decide (s.mode ≠ .run))) = true := by
    rcases hmode with hmode | hmode <;> simp [hst, hmode]
  exact if_neg hallowed

theorem State.createAct_of_bad_geometry {st : Status} (hgeo : s.geometryBad n (s.objC Obj.compGeometry n) = some st) :
    s.createAct n = ⟨st, 0x0A01, 0, s.fault 0x0A01 n⟩ := by
  rw [State.createAct_of_free hst hmode, hgeo]

theorem State.createAct_of_good_geometry (hgeo : s.geometryBad n (s.objC Obj.compGeometry n) = none) :
    s.createAct n = ⟨.ok, 0, 0,
      ((((s.tickFresh.resetObjs n).setComp n { Comp.init with
        st := .forming, upd := { Upd.init with noise := ⟨s.draw256 % 2 ^ 64, 0, 0⟩ }, stream := (s.comp n).stream,
        gov := (s.comp n).gov }).setCState n .forming).lightTiles n).reseed n⟩ := by
  rw [State.createAct_of_free hst hmode, hgeo]
end Create

/-! ATTEST, START, HOLD, RESUME and the closes (R323, R325, R326). -/

theorem State.attestAct_of_met {s : State} {n : Nat} (hst : (s.comp n).st = .forming)
    (hmet : firstUnmet (s.unmet n) = none) (hroom : s.rot.queue.length < 8) :
    let s2 := (if s.objC Obj.vxCompSeedMode n = 1 then s.reseed n else s).takeLedgers n
    let s3 := s2.modComp n fun x => { x with digests := s2.takeDigests n }
    let s4 := (s3.setObjC Obj.rotCompTerms n (s3.computeTerms n)).setCState n .attested
    s.attestAct n = ⟨.ok, 0, 0, (s4.queueReport ⟨some n, (s.comp n).nonce⟩).getD s4⟩ := by
  intro s2 s3 s4
  rw [State.attestAct, if_neg (not_not_intro hst), hmet]
  exact if_neg (Nat.not_le.2 hroom)

theorem State.startAct_of_lacking_nothing {s : State} {n : Nat} (hst : (s.comp n).st = .attested)
    (hholdup : s.mode ≠ .holdup) (hfault : s.mode ≠ .fault) (hcause : s.objC Obj.compHoldCause n = 0)
    (hkeyed : s.contribValid n &&& s.objC Obj.compContribKeyed n = s.contribValid n)
    (hjob : s.objC Obj.rotCompJobKeyInstalled n ≠ 0) (hrest : (s.comp n).ckpt.rest = none)
    (hbad : (s.comp n).ckpt.badRestore = false) :
    s.startAct n = ⟨.ok, 0, 0, ((((s.enterRunning n).startThreads n).setObjC Obj.phaseCompCurrent n 0).setObjC
      Obj.phaseCompCurrentSince n s.now).firstEntry n⟩ :=
  if_neg (by simp [hst, hholdup, hfault, hcause, hkeyed, hjob, hrest, hbad])

theorem State.holdAct_of_running {s : State} {n : Nat} (hst : (s.comp n).st = .running) :
    s.holdAct n = ⟨.ok, 0, 0, (s.fault 0x0A0B n).holdComp n 0x0A0B⟩ := if_neg (not_not_intro hst)

theorem State.resumeAct_of_resumable {s : State} {n : Nat} (hst : (s.comp n).st = .held)
    (hcause : s.objC Obj.compHoldCause n = 0x0A0B ∨
      (s.objC Obj.compHoldCause n = 0x0804 ∧ s.inReclaimed n = false))
    (hrest : (s.comp n).ckpt.rest = none) (hbad : (s.comp n).ckpt.badRestore = false) :
    s.resumeAct n = ⟨.ok, 0, 0, ((((s.pauseEntries n (s.now - s.objC Obj.phaseCompCurrentSince n)).endRelease n
      4).closePhaseNow n 0).enterRunning n).firstEntry n⟩ := by
  have hmay : (decide (s.objC Obj.compHoldCause n = 0x0A0B) ||
      (decide (s.objC Obj.compHoldCause n = 0x0804) && !s.inReclaimed n)) = true := by
    simpa only [Bool.or_eq_true, Bool.and_eq_true, decide_eq_true_eq, Bool.not_eq_true'] using hcause
  refine if_neg ?_
  rw [hmay, hrest, hbad]
  simp [hst]

theorem State.closeNowAct_of_open {s : State} {n : Nat} (hopen : s.openState n = true) :
    s.closeNowAct n = ⟨.ok, 0, 0, (s.answerClose n).closing n⟩ := if_neg (by simp [hopen])

theorem State.closeAct_of_open {s : State} {n : Nat} (hopen : s.openState n = true)
    (hfirst : (s.comp n).closeAt = none) :
    s.closeAct n = if (s.comp n).ckpt.dove.isSome then (none, s.modComp n fun x => { x with closeAt := some s.now })
      else (some ⟨.ok, 0, 0, s.closing n⟩, s) := if_neg (by simp [hopen, hfirst])

/-- Settles O26: each command is its act for a role that may issue it, and its act goes by the compartment's state. -/
theorem compartmentCommandsMoveTheirState : Obligations.CompartmentCommandsMoveTheirState := by
  unfold Obligations.CompartmentCommandsMoveTheirState
  refine ⟨?create, ?attest, ?start, ?hold, ?resume, ?close, ?closeNow, ?outside, ?closes⟩
  case create =>
    intro r c s hmay hst hmode
    rw [exec_compCreate, State.ifCommands_of_may _ hmay]
    exact ⟨fun st hgeo => by rw [State.createAct_of_bad_geometry hst hmode hgeo]; rfl,
      fun hgeo => by rw [State.createAct_of_good_geometry hst hmode hgeo, Done.out_ok]⟩
  case attest =>
    intro r c s hmay hst hmet hroom s2 s3 s4
    rw [exec_compAttest, State.ifCommands_of_may _ hmay, State.attestAct_of_met hst hmet hroom, Done.out_ok]
  case start =>
    intro r c s hmay hst hholdup hfault hcause hkeyed hjob hrest hbad
    rw [exec_compStart, State.ifCommands_of_may _ hmay,
      State.startAct_of_lacking_nothing hst hholdup hfault hcause hkeyed hjob hrest hbad, Done.out_ok]
  case hold =>
    intro r c s hmay hst
    rw [exec_compHold, State.ifCommands_of_may _ hmay, State.holdAct_of_running hst, Done.out_ok]
  case resume =>
    intro r c s hmay hst hcause hrest hbad
    rw [exec_compResume, State.ifCommands_of_may _ hmay, State.resumeAct_of_resumable hst hcause hrest hbad,
      Done.out_ok]
  case close =>
    intro r c s hmay hopen hfirst
    rw [exec_compClose, State.ifCommands_of_may _ hmay, State.closeAct_of_open hopen hfirst]
    split <;> rfl
  case closeNow =>
    intro r c s hmay hopen
    rw [exec_compCloseNow, State.ifCommands_of_may _ hmay, State.closeNowAct_of_open hopen, Done.out_ok]
  case outside =>
    intro r c s k i st hcommand
    obtain ⟨act, hexec, hbad⟩ := exec_command_outside_its_state r c s hcommand
    refine ⟨fun hmay hst => ?_, fun hdenied => ?_⟩
    · rw [hexec, State.ifCommands_of_may _ hmay, hbad hst]
      rfl
    · rw [hexec, State.ifCommands_of_denied _ hdenied]
  case closes =>
    intro r c s
    refine ⟨fun hdenied => ?_, fun hdenied => ?_, fun hopen => ⟨fun hmay => ?_, fun hmay => ?_⟩⟩
    · rw [exec_compClose, State.ifCommands_of_denied _ hdenied]
    · rw [exec_compCloseNow, State.ifCommands_of_denied _ hdenied]
    · rw [exec_compClose, State.ifCommands_of_may _ hmay, State.closeAct_of_not_open hopen]
      rfl
    · rw [exec_compCloseNow, State.ifCommands_of_may _ hmay, State.closeNowAct_of_not_open hopen]

end Sys2Proof.Machine
end

section
/-! Chapter 11: a held CLOSE, and the end of a compartment (R326, R327). -/

namespace Sys2Proof.Machine
open Sys2Proof

theorem exec_deferredCloseExecute (c : CompNo) (s : State) :
    exec (.deferredCloseExecute c) s = execDeferredCloseExecute c s := rfl
theorem exec_closeDeferTimeout (c : CompNo) (s : State) : exec (.closeDeferTimeout c) s = execCloseDeferTimeout c s := rfl
theorem exec_teardownComplete (c : CompNo) (s : State) : exec (.teardownComplete c) s = execTeardownComplete c s := rfl
theorem exec_flashEraseDone (channel : PortNo) (s : State) : exec (.flashEraseDone channel) s =
    .next (s.setObj Obj.compFlashErasing (setBit (s.obj Obj.compFlashErasing) channel.val false)) := rfl

/-! A held CLOSE (R326). -/

theorem exec_deferredCloseExecute_of_due (c : CompNo) (s : State) (hheld : (s.comp c.val).closeAt.isSome = true)
    (hdove : (s.comp c.val).ckpt.dove = none) :
    exec (.deferredCloseExecute c) s = .next ((s.answerClose c.val).closing c.val) := by
  rw [exec_deferredCloseExecute]
  exact if_pos (by simp [hheld, hdove])

theorem exec_closeDeferTimeout_of_due (c : CompNo) (t : Nat) (s : State) (hheld : (s.comp c.val).closeAt = some t)
    (hdove : (s.comp c.val).ckpt.dove.isSome = true) (hlate : t + s.obj Obj.compCloseDeferMs * 1000000 ≤ s.now) :
    exec (.closeDeferTimeout c) s = .next (((s.modComp c.val fun x => { x with closeAt := none }).fault 0x0A0C
      c.val).answerHeld c.val .stateConflict 0x0A0C) := by
  rw [exec_closeDeferTimeout, execCloseDeferTimeout]
  simp only [hheld]
  exact if_pos (by rw [hdove, decide_eq_true hlate]; rfl)

/-! A compartment becomes FREE (R319, R327, R447). -/

/-- Nothing of the tiles' change reaches a compartment. -/
theorem State.eachTile_comp (s : State) (n : Nat) (f : Nat → Tile → Tile) (m : Nat) :
    (s.eachTile n f).comp m = s.comp m :=
  foldl_same (fun a => State.comp a m) _ (fun a t => State.setTile_get_comp a t (f t (a.tile t)) m) _ s

/-- Of its record only its function's stream and the governed level stay. -/
theorem State.freeComp_comp (s : State) (n : Nat) : (s.freeComp n).comp n =
    { Comp.init with st := .free, stream := (s.comp n).stream, gov := (s.comp n).gov } := by
  rw [State.freeComp, State.setCState_comp_self, State.comp_setComp_self]
  dsimp only
  rw [State.eachTile_comp]

theorem State.freeComp_allotment (s : State) (n : Nat) : (s.freeComp n).objC Obj.powerCompAllotW n = 0 := by
  simp [State.freeComp, State.objC, State.setObjC]

theorem State.freeComp_geometry (s : State) (n : Nat) : (s.freeComp n).objC Obj.compGeometry n = 0 := by
  have hapart : objAt Obj.compGeometry n ≠ objAt Obj.powerCompAllotW n := by
    simp [objAt, Obj.compGeometry, Obj.powerCompAllotW]
  simp [State.freeComp, State.objC, State.setObjC, hapart]

theorem exec_teardownComplete_of_closing (c : CompNo) (s : State) (hst : (s.comp c.val).st = .closing) :
    exec (.teardownComplete c) s = .next
      ((s.setObj Obj.compFlashErasing (s.obj Obj.compFlashErasing ||| s.flashCh c.val)).freeComp c.val) := by
  rw [exec_teardownComplete]
  exact if_neg (not_not_intro hst)

/-- Settles O27: a held CLOSE goes by the dovetail and its deadline; the teardown ends in `freeComp`, of which each value
asked for is a lemma. -/
theorem teardownFreesTheCompartment : Obligations.TeardownFreesTheCompartment := by
  unfold Obligations.TeardownFreesTheCompartment
  refine ⟨exec_deferredCloseExecute_of_due, exec_closeDeferTimeout_of_due, ?teardown, exec_flashEraseDone⟩
  case teardown =>
    intro c s hst
    exact ⟨_, exec_teardownComplete_of_closing c s hst, congrArg Comp.st (State.freeComp_comp _ _),
      State.freeComp_geometry _ _, State.freeComp_allotment _ _, congrArg Comp.mem (State.freeComp_comp _ _),
      congrArg Comp.segs (State.freeComp_comp _ _)⟩

end Sys2Proof.Machine
end

section
/-! Chapter 11: the tally, the keys of a compartment, the quorum release (R335-R340), and deliveries of keys (R391). -/

namespace Sys2Proof.Machine
open Sys2Proof

/-! The commands, each by the operation that carries it out. -/

theorem exec_tallyClose (c : CompNo) (s : State) : exec (.tallyClose c) s = execTallyClose c s := rfl
theorem exec_tallyPostReceive (c : CompNo) (module : BitVec 16) (step : W64) (counts : List W32) (s : State) :
    exec (.tallyPostReceive c module step counts) s = execTallyPostReceive c module step counts s := rfl
theorem exec_tallyPostRetry (c : CompNo) (module : BitVec 16) (step : W64) (s : State) :
    exec (.tallyPostRetry c module step) s = execTallyPostRetry c module step s := rfl
theorem exec_releaseRequest (r : Role) (c : CompNo) (v : BitVec 384) (s : State) :
    exec (.releaseRequest r c v) s =
      s.ifWritable r (objAt Obj.compReleaseRequest c.val) v.toNat (s.releaseAct c.val v.toNat).out := rfl
theorem exec_releaseApprove (r : Role) (c : CompNo) (v : List Byte) (signed : Bool) (s : State) :
    exec (.releaseApprove r c v signed) s =
      s.ifWritable r (objAt Obj.compReleaseApprove c.val) 0 (s.approveAct c.val (padTo 29888 v) signed).out := rfl
theorem exec_releaseExpired (c : CompNo) (s : State) : exec (.releaseExpired c) s = execReleaseExpired c s := rfl

/-- A refused state of the compartment counts as a refused delivery, so KEY_DELIVER is not a plain write of R524. -/
theorem exec_keyDeliver_of_writable {r : Role} {c : CompNo} {record : List Byte} (opened : Option (BitVec 256)) {s : State}
    (hok : s.checkWrite r (objAt Obj.rotCompKeyDeliver c.val) (leNat (record.take 1680)) = .ok) :
    exec (.keyDeliver r c record opened) s =
      (s.deliverAct c.val (padTo 1680 record) (opened.map (·.toNat))).out := by
  show execKeyDeliver r c record opened s = _
  rw [execKeyDeliver, hok]

/-! The tally (R335-R337). -/

theorem exec_tallyClose_of_advance (c : CompNo) (s : State) : let n := c.val
    s.unitsRun n = true → s.advances n unitTally (s.objC Obj.compTallyClosePeg n) ≠ 0 →
    exec (.tallyClose c) s = .next
      ((((s.actOn n unitTally).modComp n fun x =>
        { x with tally := [], sent := x.sent ++ [(s.objC Obj.compTallyStep n, s.tallyCounts n)] }).setObjC Obj.compTallyStep n
          (s.objC Obj.compTallyStep n + 1)).postAll n 1
            ([s.objC Obj.spanCompModuleIndex n, s.objC Obj.compTallyStep n] ++ s.tallyCounts n)) := by
  intro n hruns hadv
  rw [exec_tallyClose]
  exact if_neg (Bool.eq_false_iff.1 (advance_is_due n unitTally _ s hruns hadv))

/-- A slot of the tally with the counts of one more module. -/
def TallySlot.gather (x : TallySlot) (m : Nat) (counts : List W32) : TallySlot :=
  { x with
    posted := x.posted ++ [m],
    sums := (List.range 9).foldl (fun a i => kput 0 a i (kget 0 a i + (counts.getD i 0).toNat)) x.sums }

/-- Compartment n keeps a slot of the tally under its step. -/
def State.keepTally (s : State) (n : Nat) (y : TallySlot) : State :=
  s.modComp n fun c => { c with tallies := c.tallies.map fun z => if z.step = y.step then y else z }

section TallyPost
variable {c : CompNo} {module : BitVec 16} {step : W64} (counts : List W32) {x : TallySlot} {s : State}
  (hmodule : module.toNat < s.objC Obj.spanCompJobModules c.val)
include hmodule

/-- A post for a step that has a slot is gathered once. -/
theorem exec_tallyPostReceive_of_slot (hruns : s.unitsRun c.val = true)
    (hslot : (s.comp c.val).tallies.find? (fun x => decide (x.step = step.toNat)) = some x) :
    let y := x.gather module.toNat counts
    let s1 := s.keepTally c.val y
    exec (.tallyPostReceive c module step counts) s = .next
      (if x.posted.contains module.toNat then (s.faultOnce 0x0A07 c.val module.toNat).reply .ok
       else (if y.posted.length = s.objC Obj.spanCompJobModules c.val then s1.finalTally c.val y else s1).reply .ok) := by
  intro y s1
  rw [exec_tallyPostReceive, execTallyPostReceive]
  dsimp only
  rw [if_neg (Nat.not_le.2 hmodule), hruns, if_neg (by decide), hslot]
  exact (apply_ite Host.Outcome.next _ _ _).symm

theorem exec_tallyPostReceive_without_slot (hnone : s.unitsRun c.val = false ∨
      (s.comp c.val).tallies.find? (fun x => decide (x.step = step.toNat)) = none) :
    exec (.tallyPostReceive c module step counts) s = .next (s.reply .notReady) := by
  rw [exec_tallyPostReceive, execTallyPostReceive]
  dsimp only
  rw [if_neg (Nat.not_le.2 hmodule)]
  split
  next => rfl
  next hruns =>
    have hfind := hnone.resolve_left fun h => hruns (by rw [h]; rfl)
    rw [hfind]
    rfl
end TallyPost

theorem exec_tallyPostRetry_of_sent (c : CompNo) (module : BitVec 16) (step : W64) (node : Nat) (q : Nat × List Nat)
    (s : State) (hnode : s.nodeOf c.val module.toNat = some node)
    (hsent : (s.comp c.val).sent.find? (fun q => decide (q.1 = step.toNat)) = some q) (hruns : s.unitsRun c.val = true) :
    exec (.tallyPostRetry c module step) s =
      .next (s.emit (.post 1 node ([s.objC Obj.spanCompModuleIndex c.val, q.1] ++ q.2))) := by
  rw [exec_tallyPostRetry, execTallyPostRetry]
  simp only [hnode, hsent, hruns, if_true, ok]

/-! A key delivered (R391). -/

/-- The slot a delivered record names: a contributor, or 0xFF for the job key. -/
def keySlot (rec_ : List Byte) : Nat := leNat ((rec_.drop 8).take 1)

section Deliver
variable {s : State} {n : Nat} {rec_ : List Byte} {key : Nat} (hst : (s.comp n).st = .attested)
  (hjob : leNat (rec_.take 8) = s.objC Obj.spanCompJobId n)
  (hterms : leNat ((rec_.drop 16).take 48) = s.objC Obj.rotCompTerms n) (hres : leNat ((rec_.drop 9).take 7) = 0)
include hst hjob hterms hres

/-- Of a record made for this job and these terms, to a slot in use that has no key yet, only the commitment is left to
check. -/
theorem State.deliverAct_of_due
    (hfree : (if keySlot rec_ = 0xFF then decide (s.objC Obj.rotCompJobKeyInstalled n ≠ 0)
      else decide (keySlot rec_ < 8) && (s.objC Obj.compContribKeyed n).testBit (keySlot rec_)) = false)
    (hused : (decide (keySlot rec_ ≠ 0xFF) && (decide (8 ≤ keySlot rec_) || !bit (s.contrib n (keySlot rec_)) 7)) = false) :
    s.deliverAct n rec_ (some key) =
      if keySlot rec_ = 0xFF then
        if keyCommit key = s.objC Obj.rotCompJobKeyCommit n then ⟨.ok, 0, 0, s.setObjC Obj.rotCompJobKeyInstalled n 1⟩
        else s.refuseKey n (keySlot rec_) .accessDenied 0x0C08
      else if keyCommit key = fld (s.contrib n (keySlot rec_)) 831 448 then
        ⟨.ok, 0, 0, s.setObjC Obj.compContribKeyed n (setBit (s.objC Obj.compContribKeyed n) (keySlot rec_) true)⟩
      else s.refuseKey n (keySlot rec_) .accessDenied 0x0A05 := by
  unfold keySlot at hfree hused ⊢
  unfold State.deliverAct
  dsimp only
  rw [hfree, hused, decide_eq_false (not_not_intro hst), decide_eq_false (not_not_intro hjob),
    decide_eq_false (not_not_intro hterms), decide_eq_false (not_not_intro hres), if_neg (by decide), if_neg (by decide)]

theorem State.deliverAct_of_job_key (hslot : keySlot rec_ = 0xFF) (hfree : s.objC Obj.rotCompJobKeyInstalled n = 0)
    (hcommit : keyCommit key = s.objC Obj.rotCompJobKeyCommit n) :
    s.deliverAct n rec_ (some key) = ⟨.ok, 0, 0, s.setObjC Obj.rotCompJobKeyInstalled n 1⟩ := by
  rw [State.deliverAct_of_due hst hjob hterms hres, if_pos hslot, if_pos hcommit]
  · rw [if_pos hslot, decide_eq_false (not_not_intro hfree)]
  · rw [decide_eq_false (not_not_intro hslot), Bool.false_and]

theorem State.deliverAct_of_contributor_key (hslot : keySlot rec_ < 8)
    (hfree : (s.objC Obj.compContribKeyed n).testBit (keySlot rec_) = false)
    (hvalid : bit (s.contrib n (keySlot rec_)) 7 = true)
    (hcommit : keyCommit key = fld (s.contrib n (keySlot rec_)) 831 448) :
    s.deliverAct n rec_ (some key) =
      ⟨.ok, 0, 0, s.setObjC Obj.compContribKeyed n (setBit (s.objC Obj.compContribKeyed n) (keySlot rec_) true)⟩ := by
  have hjobless : keySlot rec_ ≠ 0xFF := by omega
  rw [State.deliverAct_of_due hst hjob hterms hres, if_neg hjobless, if_pos hcommit]
  · rw [if_neg hjobless, hfree, Bool.and_false]
  · rw [decide_eq_false (Nat.not_le.2 hslot), hvalid, Bool.not_true, Bool.or_false, Bool.and_false]
end Deliver

/-! Quorum release (R338-R340). -/

theorem State.releaseAct_of_object {s : State} {n v : Nat} {o : PObj}
    (hidle : ∀ x, (s.comp n).release = some x → x.st ≠ 1) (hobj : s.pobj n (fld v 15 0) = some o)
    (hres : fld v 127 16 = 0) :
    s.releaseAct n v = ⟨.ok, 0, 0,
      (s.setPObj n (fld v 15 0) (some { o with policy := o.policy ||| 64 })).modComp n fun x =>
        { x with release := some ⟨fld v 15 0, Ctl.lastStep (s.control n), fld v 383 128,
          digest48 ((s.homedPages n o).flatMap fun p => readBytes (s.comp n).mem (p * 65536) 65536), s.now, [], 1⟩ }⟩ := by
  unfold State.releaseAct
  dsimp only
  rw [if_neg, hobj]
  · exact if_neg (not_not_intro hres)
  · split
    next x hx => simpa using hidle x hx
    next => exact Bool.false_ne_true

/-- An approval that R339 accepts is the request with one slot more; the last of release_m grants it. -/
theorem State.approveAct_of_new_contributor {s : State} {n : Nat} {w : List Byte} {x : Release}
    (hpending : (s.comp n).release = some x) (hst : x.st = 1) (hres : leNat ((w.drop 1).take 31) = 0)
    (hslot : leNat (w.take 1) < 8) (hvalid : bit (s.contrib n (leNat (w.take 1))) 7 = true)
    (hkey : digest48 ((w.drop 32).take 64) = fld (s.contrib n (leNat (w.take 1))) 447 64)
    (hnew : x.slots.contains (leNat (w.take 1)) = false) :
    let slots := x.slots ++ [leNat (w.take 1)]
    s.approveAct n w true =
      if s.objC Obj.compReleaseM n ≤ slots.length then
        ⟨.ok, 0, 0, ((s.modComp n fun y => { y with release := some { x with slots := slots, st := 2 } }).fault 0x0A09
          n).raise 5 n⟩
      else ⟨.ok, 0, 0, s.modComp n fun y => { y with release := some { x with slots := slots, st := 1 } }⟩ := by
  intro slots
  have haccepted : ¬ (decide (8 ≤ leNat (w.take 1)) || !bit (s.contrib n (leNat (w.take 1))) 7 ||
      decide (digest48 ((w.drop 32).take 64) ≠ fld (s.contrib n (leNat (w.take 1))) 447 64) || !true ||
      x.slots.contains (leNat (w.take 1))) = true := by
    rw [decide_eq_false (Nat.not_le.2 hslot), hvalid, decide_eq_false (not_not_intro hkey), hnew]
    decide
  unfold State.approveAct
  rw [hpending]
  dsimp only
  rw [if_neg (not_not_intro hst), if_neg (not_not_intro hres), if_neg haccepted]
  by_cases hfull : s.objC Obj.compReleaseM n ≤ (x.slots ++ [leNat (w.take 1)]).length
  · simp only [slots, hfull, decide_true, if_true]
  · simp only [slots, hfull, decide_false, Bool.false_eq_true, if_false]

theorem exec_releaseExpired_of_due (c : CompNo) (x : Release) (s : State) (hpending : (s.comp c.val).release = some x)
    (hst : x.st = 1) (hlate : x.since + s.objC Obj.compReleaseWindowS c.val * 1000000000 ≤ s.now) :
    exec (.releaseExpired c) s = .next
      (((s.modComp c.val fun y => { y with release := some { x with st := 3 } }).fault 0x0A0A c.val).raise 5 c.val) := by
  rw [exec_releaseExpired, execReleaseExpired]
  simp only [hpending]
  exact if_pos (by rw [decide_eq_true hst, decide_eq_true hlate]; rfl)

/-- Settles O28: a post of the tally goes by its step's slot, a write by its check of R524 and then by its act. -/
theorem talliesGatherAndReleasesNeedApproval : Obligations.TalliesGatherAndReleasesNeedApproval := by
  unfold Obligations.TalliesGatherAndReleasesNeedApproval
  refine ⟨exec_tallyClose_of_advance, ?post, fun c module step counts s => exec_tallyPostReceive_without_slot counts,
    exec_tallyPostRetry_of_sent, ?key, ?request, ?approve, exec_releaseExpired_of_due⟩
  case post =>
    intro c module step counts x s n m hmodule hruns hslot y s1
    rw [exec_tallyPostReceive_of_slot counts hmodule hruns hslot]
    exact ⟨fun hposted => congrArg _ (if_pos hposted), fun hnew => congrArg _ (if_neg (Bool.eq_false_iff.1 hnew))⟩
  case key =>
    intro r c record key s n rec_ slot hok hst hjob hterms hres
    rw [exec_keyDeliver_of_writable _ hok]
    refine ⟨fun hslot hfree hcommit => ?_, fun hslot hfree hvalid hcommit => ?_⟩
    · exact congrArg Done.out (State.deliverAct_of_job_key hst hjob hterms hres hslot hfree hcommit)
    · exact congrArg Done.out (State.deliverAct_of_contributor_key hst hjob hterms hres hslot hfree hvalid hcommit)
  case request =>
    intro r c v o s n id hok hidle hobj hres
    rw [exec_releaseRequest, State.ifWritable_of_ok _ hok, State.releaseAct_of_object hidle hobj hres,
      Done.out_ok]
  case approve =>
    intro r c v x s n w slot slots hok hpending hst hres hslot hvalid hkey hnew
    rw [exec_releaseApprove, State.ifWritable_of_ok _ hok,
      State.approveAct_of_new_contributor hpending hst hres hslot hvalid hkey hnew]
    split <;> rfl

end Sys2Proof.Machine
end

section
/-! Chapters 12 and 18: the commands of a queue pair other than loads and mailboxes (R242, R372, R498, R501-R503). -/

namespace Sys2Proof.Machine
open Sys2Proof

/-! The commands, each by the operation that carries it out. -/

theorem exec_nop (f : FuncNo) (q : PairNo) (s : State) : exec (.nop f q) s = execNop f q s := rfl
theorem exec_importBlock (f : FuncNo) (q : PairNo) (d : HostRead) (opened : Option (List Byte)) (s : State) :
    exec (.importBlock f q d opened) s = execImportBlock f q d opened s := rfl
theorem exec_spanWrite (f : FuncNo) (q : PairNo) (d : HostRead) (remote : Option SpanReply) (s : State) :
    exec (.spanWrite f q d remote) s = execSpanWrite f q d remote s := rfl
theorem exec_exportPage (f : FuncNo) (q : PairNo) (bad : Option (Fin 1024 × Integ)) (s : State) :
    exec (.exportPage f q bad) s = execExportPage f q bad s := rfl
theorem exec_readReleased (f : FuncNo) (q : PairNo) (bad : Option (Fin 1024 × Integ)) (s : State) :
    exec (.readReleased f q bad) s = execReadReleased f q bad s := rfl
theorem exec_hostPegPost (f : FuncNo) (q : PairNo) (s : State) : exec (.hostPegPost f q) s = execHostPegPost f q s := rfl
theorem exec_hostPegTry (f : FuncNo) (q : PairNo) (s : State) : exec (.hostPegTry f q) s = execHostPegTry f q s := rfl
theorem exec_hostPegRead (f : FuncNo) (q : PairNo) (s : State) : exec (.hostPegRead f q) s = execHostPegRead f q s := rfl

/-! A command at the head of its pair (R498, R503, R509). -/

/-- What a command that its checks let through leaves: completed, or under way. -/
def Ends.settled (f q : Nat) : Ends → State
  | .done st fault value s => s.finish f q st fault value
  | .waits s => s

@[simp] theorem Ends.settled_done (f q : Nat) (st : Status) (fault value : Nat) (s : State) :
    (Ends.done st fault value s).settled f q = s.finish f q st fault value := rfl
@[simp] theorem Ends.settled_waits (f q : Nat) (s : State) : (Ends.waits s).settled f q = s := rfl

section AtHead
variable {s : State} {f q op : Nat} {moves data : Bool} {shape : State → Nat → Nat → Bool} {states : CState → Bool}
  {t : Taken} (act : Taken → State → Ends) (hhead : s.headOf f q = some t) (hop : Sq.opcode t.raw = op)
  (hlink : moves = true → s.hostLink = true)
include hhead hop hlink

/-- The head is the command's own and its link is up, so its checks decide. -/
theorem State.hostRun_of_head : s.hostRun f q op moves data shape states act =
    (s.hostRefusal f t.raw data shape states).elim ((act t s).settled f q) fun r => s.hostRefuse f q r.1 r.2 := by
  have hturn : (decide (Sq.opcode t.raw ≠ op) || (moves && !s.hostLink)) = false := by
    rw [decide_eq_false (not_not_intro hop), Bool.false_or]
    cases moves with
    | false => rfl
    | true => rw [hlink rfl]; rfl
  unfold State.hostRun
  rw [hhead]
  dsimp only
  rw [hturn, if_neg Bool.false_ne_true]
  cases s.hostRefusal f t.raw data shape states with
  | none => rfl
  | some r => rfl

theorem exec_of_free {i : Instr} (hi : exec i s = ok (s.hostRun f q op moves data shape states act))
    (hfree : s.hostRefusal f t.raw data shape states = none) : exec i s = .next ((act t s).settled f q) := by
  rw [hi, State.hostRun_of_head act hhead hop hlink, hfree]
  rfl

theorem exec_of_refused {i : Instr} (hi : exec i s = ok (s.hostRun f q op moves data shape states act)) {st : Status}
    {code : Nat} (href : s.hostRefusal f t.raw data shape states = some (st, code)) :
    exec i s = .next (s.hostRefuse f q st code) := by
  rw [hi, State.hostRun_of_head act hhead hop hlink, href]
  rfl
end AtHead

/-! IMPORT (R372). -/

/-- The slot, the SEQ and the target an import block names. -/
def importSlot (b : List Byte) : Nat := leNat (slice b 8 1)
def importSeq (b : List Byte) : Nat := leNat (slice b 16 8)
def importAddr (b : List Byte) : Nat := leNat (slice b 24 8)

/-- The store of an import whose tag opened to the page `p`, its SEQ noted in the object `key`. -/
def State.importStore (s : State) (n a key seq : Nat) (p : List Byte) : Ends :=
  let w := s.hostStore n .unit .unit a (padTo 65536 p)
  if w.1 = 0 then .done .ok 0 65616 ((w.2.2.setObj key seq).incC Obj.integCompImports n)
  else .done (hostStatus w.1) w.1 0 (s.storeRefused w.2.2 n a w.1)

/-- Of a sound block from a keyed slot of this job, in sequence, to a page of the slot's ranges, only the tag is left to
check. -/
theorem State.importAct_of_due {s : State} {n : Nat} {b : List Byte} (opened : Option (List Byte))
    (hres : leNat (slice b 9 7) = 0) (htail : leNat (slice b 32 32) = 0) (hslot : importSlot b < 8)
    (hpage : importAddr b % 65536 = 0)
    (hhome : (∃ i g, s.owner n (importAddr b) = .page i g) ∨ (∃ m, s.owner n (importAddr b) = .module m))
    (hkeyed : (s.objC Obj.compContribKeyed n).testBit (importSlot b) = true)
    (hjob : leNat (slice b 0 8) = s.objC Obj.spanCompJobId n)
    (hseq : s.obj (objAt Obj.integCompImportSeq n + importSlot b) < importSeq b)
    (hobj : s.objOf n (pageOf (importAddr b)) ≠ 0)
    (hrange : (fld (s.contrib n (importSlot b)) 23 8).testBit (s.rangeAt n (pageOf (importAddr b))) = true) :
    s.importAct n b opened = opened.elim
      (s.importRefused n (s.rangeAt n (pageOf (importAddr b))) (pageOf (importAddr b)) .accessDenied)
      (s.importStore n (importAddr b) (objAt Obj.integCompImportSeq n + importSlot b) (importSeq b)) := by
  unfold State.importAct State.importStore
  unfold importSlot importSeq importAddr at *
  dsimp only
  rw [if_neg, if_neg, if_neg (Nat.not_le.2 hseq), if_neg]
  · cases opened with
    | none => rfl
    | some p =>
      dsimp only [Option.elim]
      rcases s.hostStore n .unit .unit (leNat (slice b 24 8)) (padTo 65536 p) with ⟨_ | code, written, s1⟩ <;> rfl
  · rw [decide_eq_false hobj, hrange]; decide
  · rw [hkeyed, decide_eq_false (not_not_intro hjob)]; decide
  · rw [decide_eq_false (not_not_intro hres), decide_eq_false (not_not_intro htail), decide_eq_false (Nat.not_le.2 hslot),
      decide_eq_false (not_not_intro hpage)]
    rcases hhome with ⟨i, g, h⟩ | ⟨m, h⟩ <;> rw [h] <;> exact Bool.false_ne_true

/-! SPAN_WRITE (R498): one whose page is homed here waits for its own held lines only. -/

theorem State.spanWriteAct_of_new {s : State} {f : Nat} (q : Nat) {t : Taken} (bs : List Byte) (remote : Option SpanReply)
    (hnew : t.posted = false) (hhome : ∀ m, s.owner (f - 1) (Sq.target t.raw) ≠ .module m) :
    let w := s.hostStore (f - 1) (.host f q) .host (Sq.target t.raw) (padTo (Sq.len t.raw) bs)
    let s2 := w.2.2.markPosted f q
    s.spanWriteAct f q t (.data bs) remote =
      if w.1 ≠ 0 then .done (hostStatus w.1) w.1 w.2.1 w.2.2
      else if s2.hostHeld (f - 1) f q = true then .waits s2 else .done .ok 0 (Sq.len t.raw) s2 := by
  intro w
  have hhere : ¬ (match s.owner (f - 1) (Sq.target t.raw) with
      | .module _ => true
      | _ => false) = true := by
    split
    next m h => exact absurd h (hhome m)
    next => exact Bool.false_ne_true
  -- The store is one opaque value, so that no check evaluates its lines.
  have hstore : s.hostStore (f - 1) (.host f q) .host (Sq.target t.raw) (padTo (Sq.len t.raw) bs) = w := rfl
  clear_value w
  unfold State.spanWriteAct State.withData
  dsimp only
  rw [hnew, if_neg Bool.false_ne_true, hstore]
  obtain ⟨_ | code, written, s1⟩ := w
  · exact if_neg hhere
  · rfl

/-! The pegs (R242). -/

/-- How a peg command ends by what its peg answers: a try that would wait completes with 1. -/
def hostPegEnds (n : Nat) : PegOut × State → Ends
  | (.done v, s) => .done .ok 0 v s
  | (.wait, s) => .done .ok 0 1 s
  | (.refused c, s) => .done (if c = 0x0705 then .accessDenied else .outOfRange) c 0 (s.compEvent n 0xA3 1)

theorem State.hostPegAct_of_good (s : State) (n : Nat) (op : PegOp) {e : Nat} (hgood : Hnd.bad (Sq.target e) = false) :
    s.hostPegAct n op e =
      hostPegEnds n ((s.compEvent n 0xA1 1).pegPerform n op (Hnd.peg (Sq.target e)) (Sq.arg e)) :=
  if_neg (Bool.eq_false_iff.1 hgood)

/-- Settles O38: each command is `hostRun` of its own action, so its checks turn it away or its action ends it. That an
200, kept as the model has them. -/
theorem queueCommandsMoveDataAndOperatePegs : Obligations.QueueCommandsMoveDataAndOperatePegs := by
  unfold Obligations.QueueCommandsMoveDataAndOperatePegs
  intro f q s t hhead n e done free turnsAway
  have hturn {op : Nat} {moves data : Bool} {shape : State → Nat → Nat → Bool} {states : CState → Bool} {i : Instr}
      (act : Taken → State → Ends) (hi : exec i s = ok (s.hostRun f.val q.val op moves data shape states act)) :
      turnsAway op moves data shape states i :=
    fun st code hop hlink href => exec_of_refused act hhead hop hlink hi href
  refine ⟨?nop, hturn _ (exec_nop f q s), ?block, fun d o => hturn _ (exec_importBlock f q d o s), ?write,
    fun d o => hturn _ (exec_spanWrite f q d o s), ?page, fun bad => hturn _ (exec_exportPage f q bad s), ?released,
    fun bad => hturn _ (exec_readReleased f q bad s), ?pegs⟩
  case nop =>
    rintro ⟨hop, hlink, hfree⟩
    rw [exec_of_free _ hhead hop hlink (exec_nop f q s) hfree, Ends.settled_done]
  case block =>
    rintro bs opened b slot a key r ⟨hop, hlink, hfree⟩ hres htail hslot hpage hhome hkeyed hjob hseq hobj hrange
    rw [exec_of_free _ hhead hop hlink (exec_importBlock f q (.data bs) opened s) hfree]
    dsimp only [State.withData]
    have hdue : s.importAct n b opened = opened.elim (s.importRefused n r (pageOf a) .accessDenied)
        (s.importStore n a key (leNat (slice b 16 8))) :=
      State.importAct_of_due opened hres htail hslot hpage hhome hkeyed hjob hseq hobj hrange
    rw [hdue]
    cases opened with
    | none => exact congrArg _ (Ends.settled_done ..)
    | some p =>
      dsimp only [Option.elim, State.importStore]
      rw [apply_ite (Ends.settled f.val q.val), Ends.settled_done, Ends.settled_done]
  case write =>
    rintro bs remote a w s2 ⟨hop, hlink, hfree⟩ hnew hhome
    rw [exec_of_free _ hhead hop hlink (exec_spanWrite f q (.data bs) remote s) hfree,
      State.spanWriteAct_of_new q.val bs remote hnew hhome, apply_ite (Ends.settled f.val q.val),
      apply_ite (Ends.settled f.val q.val), Ends.settled_done, Ends.settled_done, Ends.settled_waits]
  case page =>
    rintro bad p r s1 ⟨hop, hlink, hfree⟩ hkey hcontrib
    -- The page read is one opaque value, so that no check evaluates its 1,024 lines.
    have hread : s.readPage n p bad = r := rfl
    have hallowed : (decide (s.objC Obj.rotCompJobKeyInstalled n = 0) || (s.contribOf n (s.rangeAt n p)).isSome) = false := by
      rw [decide_eq_false hkey, hcontrib]; rfl
    clear_value r
    rw [exec_of_free _ hhead hop hlink (exec_exportPage f q bad s) hfree]
    dsimp only
    rw [if_neg (Bool.eq_false_iff.1 hallowed), hread, apply_ite (Ends.settled f.val q.val), Ends.settled_done,
      Ends.settled_done]
  case released =>
    rintro bad p r ⟨hop, hlink, hfree⟩ hreleased hhome
    have hread : s.readPage n p bad = r := rfl
    clear_value r
    rw [exec_of_free _ hhead hop hlink (exec_readReleased f q bad s) hfree]
    dsimp only
    rw [hreleased, hhome, if_neg (by decide), if_neg (by decide), hread, apply_ite (Ends.settled f.val q.val),
      apply_ite (Ends.settled f.val q.val), Ends.settled_done, Ends.settled_done, Ends.settled_done]
  case pegs =>
    intro peg runs
    have hruns {op : Nat} {o : PegOp} {i : Instr} (hi : exec i s = ok (s.hostRun f.val q.val op false true pegShape
        attestedToHeld fun t s => s.hostPegAct (f.val - 1) o t.raw)) : runs op o i := by
      refine ⟨hturn _ hi, fun s1 hrun hgood => ?_⟩
      obtain ⟨hop, hlink, hfree⟩ := hrun
      have hends : exec i s = .next ((hostPegEnds n (peg o)).settled f.val q.val) := by
        rw [exec_of_free _ hhead hop hlink hi hfree, State.hostPegAct_of_good s _ o hgood]
      refine ⟨fun v hpeg => ?_, fun hpeg => ?_, fun c hpeg => ?_⟩ <;>
        rw [hends, hpeg, hostPegEnds, Ends.settled_done]
    exact ⟨hruns (exec_hostPegPost f q s), hruns (exec_hostPegTry f q s), hruns (exec_hostPegRead f q s)⟩

end Sys2Proof.Machine
end

section
/-! The step: the command at the front of the queue, or a tick; and what every step keeps (R19, R527, R552, R553). -/

namespace Sys2Proof.Machine
open Sys2Proof

theorem step_of_command {s : State} {c : Instr} {rest : List Instr} (h : s.pending = c :: rest) :
    step s = exec c { s with pending := rest } := by simp only [step, h]
theorem step_of_empty {s : State} (h : s.pending = []) : step s = .next s.tick := by simp only [step, h]

theorem State.withFetchWord_of_no_command {nbits w : Nat} (s : State) (h : decodeTableWord nbits w = none) :
    s.withFetchWord nbits w = s := by simp only [State.withFetchWord, h]

/-- Settles O50: each clause is the case of the step, of the fetched word or of the tick that it names. One queue, first in
first out, and the tick of an empty queue are the model's choice. -/
theorem stepRunsTheFrontCommandOrATick : Obligations.StepRunsTheFrontCommandOrATick := by
  unfold Obligations.StepRunsTheFrontCommandOrATick
  refine ⟨⟨fun c rest s => step_of_command rfl, fun s nbits w h => s.withFetchWord_of_no_command h⟩, fun s h => ?_⟩
  rw [step_of_empty h]
  exact ⟨fun hoff => congrArg _ (if_pos hoff), fun hon => congrArg _ (if_neg hon)⟩

/-- Settles O57: log and mirror are empty, and the next SEQ starts below the stored ceiling. -/
theorem resetFaultLogIsInOrder : Obligations.ResetFaultLogIsInOrder where
  entries := ⟨Nat.zero_le _, .nil, fun _ h => nomatch h⟩
  mirror := ⟨Nat.zero_le _, .nil, fun _ h => nomatch h⟩
  ceiling := by decide

/-- Every command goes on, and keeps the waiting queue and the order of the fault log (R552): each by its own meaning. -/
theorem Goes.exec {cmds : List Instr} {s : State} (h : Kept cmds s) (i : Instr) : Goes cmds (Machine.exec i s) :=
  match i with
  | .cadenceWindow samples => Goes.execCadenceWindow h samples
  | .boostEntry d => Goes.execBoostEntry h d
  | .boostRailStep d lowest => Goes.execBoostRailStep h d lowest
  | .boostExit d => Goes.execBoostExit h d
  | .pacerPermit c deficit => Goes.execPacerPermit h c deficit
  | .retainEntry t => Goes.execRetainEntry h t
  | .tileWake t => Goes.execTileWake h t
  | .tileHandshakeTimeout t waitedUs => Goes.execTileHandshakeTimeout h t waitedUs
  | .tilePowerFail t => Goes.execTilePowerFail h t
  | .tileStoreError t word uncorrectable => Goes.execTileStoreError h t word uncorrectable
  | .fencedSlotComplete t slot => Goes.execFencedSlotComplete h t slot
  | .unfence r tileNo passes => Goes.execUnfence h r tileNo passes
  | .seamFrameReceive l tagOk => Goes.execSeamFrameReceive h l tagOk
  | .mxPost t rd rs1 => Goes.execMxPost h t rd rs1
  | .mxOpExecute t => Goes.execMxOpExecute h t
  | .mxAccUncorrectable t acc => Goes.execMxAccUncorrectable h t acc
  | .mxOpComplete t => Goes.execMxOpComplete h t
  | .mxTrapClear r c v => Goes.execMxTrapClear h r c v
  | .vxPost t rd rs1 => Goes.execVxPost h t rd rs1
  | .vxChainExecute t => Goes.execVxChainExecute h t
  | .vxRegUncorrectable t group => Goes.execVxRegUncorrectable h t group
  | .vxChainComplete t => Goes.execVxChainComplete h t
  | .vxTrapClear r c v => Goes.execVxTrapClear h r c v
  | .userInstruction t => Goes.execUserInstruction h t
  | .eventDivert t => Goes.execEventDivert h t
  | .yeventsWrite t v => Goes.execYeventsWrite h t v
  | .spanLoad t rd addr log2 unsigned float => Goes.execSpanLoad h t rd addr log2 unsigned float
  | .spanStore t addr log2 data => Goes.execSpanStore h t addr log2 data
  | .spanAmo t op rd addr wide data aq rl => Goes.execSpanAmo h t op rd addr wide data aq rl
  | .tileLr t rd addr wide aq => Goes.execTileLr h t rd addr wide aq
  | .tileSc t rd addr wide data rl => Goes.execTileSc h t rd addr wide data rl
  | .fence t pred succ => Goes.execFence h t pred succ
  | .spanResponseReceive t slot remote => Goes.execSpanResponseReceive h t slot remote
  | .slotGrant t => Goes.execSlotGrant h t
  | .gxPost t rd rs1 rs2 => Goes.execGxPost h t rd rs1 rs2
  | .engSpace t rd rs1 => Goes.execEngSpace h t rd rs1
  | .thrStart t rd rs1 rs2 => Goes.execThrStart h t rd rs1 rs2
  | .thrExit t => Goes.execThrExit h t
  | .thrYield t => Goes.execThrYield h t
  | .thrRet t => Goes.execThrRet h t
  | .runaheadEntry t beats => Goes.execRunaheadEntry h t beats
  | .runaheadLimit t beats => Goes.execRunaheadLimit h t beats
  | .runaheadExit t => Goes.execRunaheadExit h t
  | .prefetchAgeOut t core line => Goes.execPrefetchAgeOut h t core line
  | .gxDescExecute t eng remote bad => Goes.execGxDescExecute h t eng remote bad
  | .gxRingAdvance t eng remote bad => Goes.execGxRingAdvance h t eng remote bad
  | .gxComplete t eng => Goes.execGxComplete h t eng
  | .prepFaultClear r c v => Goes.execPrepFaultClear h r c v
  | .verdictApply c remote => Goes.execVerdictApply h c remote
  | .numEventClear r c v => Goes.execNumEventClear h r c v
  | .plumbLineAccept c remote => Goes.execPlumbLineAccept h c remote
  | .paramLinePublish c => Goes.execParamLinePublish h c
  | .updRingTake c remote => Goes.execUpdRingTake h c remote
  | .updCommitEvaluate c entry => Goes.execUpdCommitEvaluate h c entry
  | .updConfirmTimeout c entry => Goes.execUpdConfirmTimeout h c entry
  | .updCommitCopyDone c entry => Goes.execUpdCommitCopyDone h c entry
  | .noiseFillDone c entry => Goes.execNoiseFillDone h c entry
  | .updEventClear r c v => Goes.execUpdEventClear h r c v
  | .segWrite r c v => Goes.execSegWrite h r c v
  | .segClear r c v => Goes.execSegClear h r c v
  | .spanRequestReceive src it => Goes.execSpanRequestReceive h src it
  | .metacacheUncorrectable c group entry => Goes.execMetacacheUncorrectable h c group entry
  | .pegPost t rd rs1 rs2 => Goes.execPegPost h t rd rs1 rs2
  | .pegWait t rd rs1 rs2 => Goes.execPegWait h t rd rs1 rs2
  | .pegTry t rd rs1 rs2 => Goes.execPegTry h t rd rs1 rs2
  | .pegRead t rd rs1 rs2 => Goes.execPegRead h t rd rs1 rs2
  | .remotePegOperation node tag job op peg rs2 => Goes.execRemotePegOperation h node tag job op peg rs2
  | .remotePegReply t status value registered => Goes.execRemotePegReply h t status value registered
  | .remoteTimeout t slot => Goes.execRemoteTimeout h t slot
  | .defineWrite r c v => Goes.execDefineWrite h r c v
  | .placeDefine c remote => Goes.execPlaceDefine h c remote
  | .placePromote c remote => Goes.execPlacePromote h c remote
  | .placeEvict c remote => Goes.execPlaceEvict h c remote
  | .placeUnpin c remote => Goes.execPlaceUnpin h c remote
  | .placeStream c remote slots => Goes.execPlaceStream h c remote slots
  | .placeRetire c remote => Goes.execPlaceRetire h c remote
  | .pageMoveStart c page => Goes.execPageMoveStart h c page
  | .pageOwnershipStep c page verifies => Goes.execPageOwnershipStep h c page verifies
  | .lendOfferWrite r v => Goes.execLendOfferWrite h r v
  | .leaseRequest node job comp ckpt => Goes.execLeaseRequest h node job comp ckpt
  | .leaseGrantReceive c range granted => Goes.execLeaseGrantReceive h c range granted
  | .leaseHeartbeat side => Goes.execLeaseHeartbeat h side
  | .leaseRelease side => Goes.execLeaseRelease h side
  | .leaseScrubDone lease => Goes.execLeaseScrubDone h lease
  | .reclaim r group => Goes.execReclaim h r group
  | .reclaimNoticeReceive c node lease dMs => Goes.execReclaimNoticeReceive h c node lease dMs
  | .reclaimDeadline c node lease => Goes.execReclaimDeadline h c node lease
  | .forceRelease side => Goes.execForceRelease h side
  | .heartbeatMissLimit c node lease => Goes.execHeartbeatMissLimit h c node lease
  | .lenderIsolated c node => Goes.execLenderIsolated h c node
  | .tierLeaseOrphaned lease => Goes.execTierLeaseOrphaned h lease
  | .flashProgramDone c page => Goes.execFlashProgramDone h c page
  | .flashGc c page => Goes.execFlashGc h c page
  | .flashBlockRetire ch sparePct => Goes.execFlashBlockRetire h ch sparePct
  | .quotaWrite r c which v => Goes.execQuotaWrite h r c which v
  | .tierEventClear r c v => Goes.execTierEventClear h r c v
  | .fabricConfigWrite r which v => Goes.execFabricConfigWrite h r which v
  | .portRearm r v => Goes.execPortRearm h r v
  | .portTrain p lanes rtt => Goes.execPortTrain h p lanes rtt
  | .keyingFrameReceive p f => Goes.execKeyingFrameReceive h p f
  | .keyingRepeat p => Goes.execKeyingRepeat h p
  | .keyingTimeout p => Goes.execKeyingTimeout h p
  | .linkFrameReceive p f => Goes.execLinkFrameReceive h p f
  | .dataFrameSend p vc count => Goes.execDataFrameSend h p vc count
  | .dataFrameReceive p f pkts => Goes.execDataFrameReceive h p f pkts
  | .replayReqReceive p f => Goes.execReplayReqReceive h p f
  | .auditEpochEnd p => Goes.execAuditEpochEnd h p
  | .auditFrameReceive p f a => Goes.execAuditFrameReceive h p f a
  | .recreditFrameReceive p f next shares => Goes.execRecreditFrameReceive h p f next shares
  | .rekeyStart p => Goes.execRekeyStart h p
  | .rekeyFrameReceive p f sound => Goes.execRekeyFrameReceive h p f sound
  | .undeliveredReceive tag => Goes.execUndeliveredReceive h tag
  | .nodeMapWrite r c v => Goes.execNodeMapWrite h r c v
  | .nodeMapClear r c v => Goes.execNodeMapClear h r c v
  | .compCreate r c => Goes.execCompCreate h r c
  | .compAttest r c => Goes.execCompAttest h r c
  | .compStart r c => Goes.execCompStart h r c
  | .compHold r c => Goes.execCompHold h r c
  | .compResume r c => Goes.execCompResume h r c
  | .compClose r c => Goes.execCompClose h r c
  | .compCloseNow r c => Goes.execCompCloseNow h r c
  | .deferredCloseExecute c => Goes.execDeferredCloseExecute h c
  | .closeDeferTimeout c => Goes.execCloseDeferTimeout h c
  | .flashEraseDone channel => Goes.execFlashEraseDone h channel
  | .contribWrite r c v => Goes.execContribWrite h r c v
  | .keyDeliver r c record opened => Goes.execKeyDeliver h r c record opened
  | .tallyClose c => Goes.execTallyClose h c
  | .tallyPostReceive c module step counts => Goes.execTallyPostReceive h c module step counts
  | .tallyPostRetry c module step => Goes.execTallyPostRetry h c module step
  | .releaseRequest r c v => Goes.execReleaseRequest h r c v
  | .releaseApprove r c v signed => Goes.execReleaseApprove h r c v signed
  | .releaseExpired c => Goes.execReleaseExpired h c
  | .krDescWrite r c range v => Goes.execKrDescWrite h r c range v
  | .integEventClear r c v => Goes.execIntegEventClear h r c v
  | .entropyFail => Goes.execEntropyFail h
  | .svnAdvance r cls => Goes.execSvnAdvance h r cls
  | .reportRequest r c nonce => Goes.execReportRequest h r c nonce
  | .moduleReportRequest r nonce => Goes.execModuleReportRequest h r nonce
  | .reportSigned signature => Goes.execReportSigned h signature
  | .slotMeasure c entry next ledger => Goes.execSlotMeasure h c entry next ledger
  | .getVersion sess sound => Goes.execGetVersion h sess sound
  | .getCapabilities sess sound => Goes.execGetCapabilities h sess sound
  | .negotiateAlgorithms sess sound => Goes.execNegotiateAlgorithms h sess sound
  | .getDigests sess sound => Goes.execGetDigests h sess sound
  | .getCertificate sess sound slot off len => Goes.execGetCertificate h sess sound slot off len
  | .challenge sess sound ready => Goes.execChallenge h sess sound ready
  | .getMeasurements sess sound block signed ready => Goes.execGetMeasurements h sess sound block signed ready
  | .kemEncap sess sound => Goes.execKemEncap h sess sound
  | .pskExchange sess sound hint => Goes.execPskExchange h sess sound hint
  | .pskFinish sess sound => Goes.execPskFinish h sess sound
  | .keyUpdate sess sound => Goes.execKeyUpdate h sess sound
  | .spdmHeartbeat sess sound => Goes.execSpdmHeartbeat h sess sound
  | .endSession sess sound => Goes.execEndSession h sess sound
  | .chunkGet sess sound chunk => Goes.execChunkGet h sess sound chunk
  | .spdmUnsupportedRequest sess => Goes.execSpdmUnsupportedRequest h sess
  | .spdmLockoutEnd => Goes.execSpdmLockoutEnd h
  | .keyProg sess sound c => Goes.execKeyProg h sess sound c
  | .kSetGo sess sound c => Goes.execKSetGo h sess sound c
  | .kSetStop sess sound c => Goes.execKSetStop h sess sound c
  | .lockInterface sess sound c => Goes.execLockInterface h sess sound c
  | .getDeviceInterfaceReport sess sound c => Goes.execGetDeviceInterfaceReport h sess sound c
  | .startInterface sess sound c => Goes.execStartInterface h sess sound c
  | .stopInterface sess sound c => Goes.execStopInterface h sess sound c
  | .tdiError c streamLost => Goes.execTdiError h c streamLost
  | .setWrite r c v => Goes.execSetWrite h r c v
  | .boundaryTake c remote => Goes.execBoundaryTake h c remote
  | .ckptPageCopy c page => Goes.execCkptPageCopy h c page
  | .shardPostReceive c module step digest bytes locs => Goes.execShardPostReceive h c module step digest bytes locs
  | .shardPostRetry c module => Goes.execShardPostRetry h c module
  | .dovetailCommit c => Goes.execDovetailCommit h c
  | .dovetailTimeout c => Goes.execDovetailTimeout h c
  | .abandonPostReceive c step => Goes.execAbandonPostReceive h c step
  | .copyAheadDone c page => Goes.execCopyAheadDone h c page
  | .copyAheadTimeout c page => Goes.execCopyAheadTimeout h c page
  | .ckptCopyLost c slot copy => Goes.execCkptCopyLost h c slot copy
  | .ckptHoldupDeadline c => Goes.execCkptHoldupDeadline h c
  | .restoreRequest r c v found => Goes.execRestoreRequest h r c v found
  | .restoreSetReceive c rid module set => Goes.execRestoreSetReceive h c rid module set
  | .restoreTimeout c => Goes.execRestoreTimeout h c
  | .restoreAbortPost c rid => Goes.execRestoreAbortPost h c rid
  | .phaseMarkTake c remote => Goes.execPhaseMarkTake h c remote
  | .phaseOverrun c => Goes.execPhaseOverrun h c
  | .inputApplied mv bad => Goes.execInputApplied h mv bad
  | .inputLow mv => Goes.execInputLow h mv
  | .inputLoss mv => Goes.execInputLoss h mv
  | .inputOvervoltage mv => Goes.execInputOvervoltage h mv
  | .inputPowerSample watts common => Goes.execInputPowerSample h watts common
  | .powerLimitEval => Goes.execPowerLimitEval h
  | .inputLimitWrite r v => Goes.execInputLimitWrite h r v
  | .allotWrite r c v => Goes.execAllotWrite h r c v
  | .governorWindow => Goes.execGovernorWindow h
  | .valveTick x => Goes.execValveTick h x
  | .coolantFlowLow x => Goes.execCoolantFlowLow h x
  | .coolantInletRange x => Goes.execCoolantInletRange h x
  | .thermalEval x => Goes.execThermalEval h x
  | .thermalEmergency x => Goes.execThermalEmergency h x
  | .thermalFault x => Goes.execThermalFault h x
  | .busWarnAssert => Goes.execBusWarnAssert h
  | .busWarnDeassert => Goes.execBusWarnDeassert h
  | .holdupPause => Goes.execHoldupPause h
  | .holdupExit mv => Goes.execHoldupExit h mv
  | .ptpSync x => Goes.execPtpSync h x
  | .ptpFollowUp x => Goes.execPtpFollowUp h x
  | .ptpDelayReq x => Goes.execPtpDelayReq h x
  | .ptpDelayResp x => Goes.execPtpDelayResp h x
  | .ptpAnnounce x => Goes.execPtpAnnounce h x
  | .ptpSyncSend p => Goes.execPtpSyncSend h p
  | .ptpAnnounceSend p => Goes.execPtpAnnounceSend h p
  | .ptpDelayReqSend p => Goes.execPtpDelayReqSend h p
  | .timeSourceLost => Goes.execTimeSourceLost h
  | .timeHoldoverLimit => Goes.execTimeHoldoverLimit h
  | .tileSelWrite r c v => Goes.execTileSelWrite h r c v
  | .aggWrite r c j v => Goes.execAggWrite h r c j v
  | .evSelectEffect c => Goes.execEvSelectEffect h c
  | .snapReq c => Goes.execSnapReq h c
  | .snapNow r c v => Goes.execSnapNow h r c v
  | .phaseClear r c v => Goes.execPhaseClear h r c v
  | .nop f q => Goes.execNop h f q
  | .loadProgram f q d => Goes.execLoadProgram h f q d
  | .loadSpan f q d => Goes.execLoadSpan h f q d
  | .loadMapTable f q d => Goes.execLoadMapTable h f q d
  | .loadPhasePlan f q d => Goes.execLoadPhasePlan h f q d
  | .loadScaleTable f q d => Goes.execLoadScaleTable h f q d
  | .loadLayerTable f q d => Goes.execLoadLayerTable h f q d
  | .importBlock f q d opened => Goes.execImportBlock h f q d opened
  | .spanWrite f q d remote => Goes.execSpanWrite h f q d remote
  | .exportPage f q bad => Goes.execExportPage h f q bad
  | .readReleased f q bad => Goes.execReadReleased h f q bad
  | .hostPegPost f q => Goes.execHostPegPost h f q
  | .hostPegTry f q => Goes.execHostPegTry h f q
  | .hostPegRead f q => Goes.execHostPegRead h f q
  | .mboxRead f q => Goes.execMboxRead h f q
  | .mboxAck f q => Goes.execMboxAck h f q
  | .sqTail f q v entries => Goes.execSqTail h f q v entries
  | .cqHead f q v entries => Goes.execCqHead h f q v entries
  | .queueEnable f q v => Goes.execQueueEnable h f q v
  | .causeWrite f reg v => Goes.execCauseWrite h f reg v
  | .mbDoorbell f regs v req ext => Goes.execMbDoorbell h f regs v req ext
  | .hostBarViolation f at_ => Goes.execHostBarViolation h f at_
  | .mbQuarantineEnd f => Goes.execMbQuarantineEnd h f
  | .publishEntry c k ring src => Goes.execPublishEntry h c k ring src
  | .hostLinkDown => Goes.execHostLinkDown h
  | .hostLinkUp width gts vfs => Goes.execHostLinkUp h width gts vfs
  | .hostFlr f => Goes.execHostFlr h f
  | .endpointReset perst => Goes.execEndpointReset h perst
  | .dictRead r index sub offset len => Goes.execDictRead h r index sub offset len
  | .dictWrite r index sub type value x => Goes.execDictWrite h r index sub type value x
  | .dictDescribe r index sub => Goes.execDictDescribe h r index sub
  | .xieskInit m => Goes.execXieskInit h m
  | .xieskConfirm m => Goes.execXieskConfirm h m
  | .xieskData m ext => Goes.execXieskData h m ext
  | .xieskClose src ident sound tagOk => Goes.execXieskClose h src ident sound tagOk
  | .handshakeTimeout ident => Goes.execHandshakeTimeout h ident
  | .partialMessageTimeout slot counter => Goes.execPartialMessageTimeout h slot counter
  | .sessionIdleTimeout slot => Goes.execSessionIdleTimeout h slot
  | .sessionLifetime slot => Goes.execSessionLifetime h slot
  | .sessClose r slot => Goes.execSessClose h r slot
  | .sourceIgnoreEnd src => Goes.execSourceIgnoreEnd h src
  | .dictRoRequest p node tag op => Goes.execDictRoRequest h p node tag op
  | .moduleStart r => Goes.execModuleStart h r
  | .autoStart => Goes.execAutoStart h
  | .moduleService r => Goes.execModuleService h r
  | .exitService r => Goes.execExitService h r
  | .moduleStandby r => Goes.execModuleStandby h r
  | .resetModule r => Goes.execResetModule h r
  | .resetFull r => Goes.execResetFull h r
  | .resetPinAssert low => Goes.execResetPinAssert h low
  | .verifyPass fuseOk slots => Goes.execVerifyPass h fuseOk slots
  | .verifyTimeout => Goes.execVerifyTimeout h
  | .bringupComplete railsOk hbmStacks flash tiles spare => Goes.execBringupComplete h railsOk hbmStacks flash tiles spare
  | .bringupTimeout => Goes.execBringupTimeout h
  | .requestWatchdog t slot => Goes.execRequestWatchdog h t slot
  | .fwStage r v => Goes.execFwStage h r v
  | .fwCommit r cls signed => Goes.execFwCommit h r cls signed
  | .faultClear r v => Goes.execFaultClear h r v
  | .faultLogMirror => Goes.execFaultLogMirror h
  | .persistentCounterStore => Goes.execPersistentCounterStore h
  | .laneLockFail p retrained => Goes.execLaneLockFail h p retrained
  | .auditAbsent p => Goes.execAuditAbsent h p
  | .lenderReclaimDeadline => Goes.execLenderReclaimDeadline h
  | .ckptCopyRebuilt c slot => Goes.execCkptCopyRebuilt h c slot
  | .teardownComplete c => Goes.execTeardownComplete h c
  | .restoreWriteDone c img => Goes.execRestoreWriteDone h c img
  | .queueRegisterWrite f q reg v => Goes.execQueueRegisterWrite h f q reg v

/-- A step goes on, takes exactly the command at the front, and keeps the order of the fault log. -/
theorem goes_step {s : State} (h : s.log.Sound) : Goes s.pending.tail (step s) := by
  cases hq : s.pending with
  | nil =>
    rw [step_of_empty hq]
    refine ⟨_, rfl, ?_⟩
    unfold State.tick
    split
    · exact ⟨hq, h⟩
    · exact ⟨hq, h⟩
  | cons c rest =>
    rw [step_of_command hq]
    exact Goes.exec (s := { s with pending := rest }) ⟨rfl, h⟩ c

/-- Settles O58: what every command and the tick keep. -/
theorem everyStepKeepsTheFaultLogInOrder : Obligations.EveryStepKeepsTheFaultLogInOrder := by
  intro s t hs ht
  obtain ⟨t', hstep, hkept⟩ := goes_step hs
  obtain rfl : t = t' := Host.Outcome.next.inj (ht.symm.trans hstep)
  exact hkept.sound

/-- Settles O59: what every command and the tick go on to. That no command of the 284 stops, and that commands wait in one
queue, is the model's choice. -/
theorem everyStepGoesOnAndTakesOneCommand : Obligations.EveryStepGoesOnAndTakesOneCommand := by
  intro s hs
  obtain ⟨t, hstep, hkept⟩ := goes_step hs
  exact ⟨t, hstep, hkept.queue⟩

theorem reaches_succ {s t u : State} {k : Nat} (hstep : step s = .next t) (hrun : Reaches t k u) : Reaches s (k + 1) u := by
  have h : core.step s = .next t := hstep
  simp only [Reaches, Host.Core.run, h]
  exact hrun

/-- Settles O60, by induction on the number of steps: each takes one command off the queue and keeps the log in order for the
next. It rests on the model's choice of one queue of commands, none of which stops. -/
theorem aWaitingQueueIsWorkedOff : Obligations.AWaitingQueueIsWorkedOff := by
  intro s k
  induction k generalizing s with
  | zero => exact fun hs _ => ⟨s, rfl, rfl, hs⟩
  | succ k ih =>
    intro hs hk
    obtain ⟨t, hstep, hqueue, hsound⟩ := goes_step hs
    obtain ⟨u, hrun, hleft, hlog⟩ := ih t hsound (by rw [hqueue, List.length_tail]; omega)
    exact ⟨u, reaches_succ hstep hrun, by rw [hleft, hqueue, List.drop_tail], hlog⟩

end Sys2Proof.Machine
end

section
/-! Chapter 13: entropy, fuses and reports (R376, R382-R384), and weights measured as they stream (R389). -/

namespace Sys2Proof.Machine
open Sys2Proof

/-! The commands, each by the operation that carries it out. -/

theorem exec_entropyFail (s : State) : exec .entropyFail s = .next (s.failModule 0x0C04) := rfl
theorem exec_svnAdvance (r : Role) (cls : Byte) (s : State) :
    exec (.svnAdvance r cls) s = s.ifWritable r Obj.rotSvnAdvance cls.toNat
      (.next ((s.svnAct cls.toNat).2.reply (s.svnAct cls.toNat).1)) := rfl
theorem exec_reportRequest (r : Role) (c : CompNo) (nonce : BitVec 256) (s : State) :
    exec (.reportRequest r c nonce) s = s.ifWritable r (objAt Obj.rotCompReportRequest c.val) nonce.toNat
      (s.reportAct (some c.val) nonce.toNat).out := rfl
theorem exec_moduleReportRequest (r : Role) (nonce : BitVec 256) (s : State) :
    exec (.moduleReportRequest r nonce) s = s.ifWritable r Obj.rotReportRequest nonce.toNat
      (s.reportAct none nonce.toNat).out := rfl
theorem exec_reportSigned (signature : List Byte) (s : State) :
    exec (.reportSigned signature) s = execReportSigned signature s := rfl
theorem exec_slotMeasure (c : CompNo) (entry : Nat) (next ledger : Option SpanReply) (s : State) :
    exec (.slotMeasure c entry next ledger) s = execSlotMeasure c entry next ledger s := rfl

/-! Entropy and fuses (R376, R382). -/

theorem State.failModule_of_power {s : State} (code : Nat) (hpower : s.mode ≠ .off) :
    s.failModule code = (s.fault code).enterFault code := if_neg hpower

theorem State.svnAct_of_ahead {s : State} {cls : Nat} (hcls : cls ≤ 5) (hahead : s.svnFused cls < kget 0 s.rot.svn cls)
    (hbits : kget 0 s.rot.svn cls ≤ 64) :
    s.svnAct cls = (.ok, (s.setObj Obj.rotSvnFused (putFld (s.obj Obj.rotSvnFused) (64 * cls + 63) (64 * cls)
      (kget 0 s.rot.svn cls))).fault 0x0C0E) :=
  if_neg (by simp [hcls, hahead, hbits])

theorem State.svnAct_of_not_ahead {s : State} {cls : Nat}
    (h : 5 < cls ∨ kget 0 s.rot.svn cls ≤ s.svnFused cls ∨ 64 < kget 0 s.rot.svn cls) :
    s.svnAct cls = (.outOfRange, s) :=
  if_pos (by simpa [or_assoc] using h)

/-! Reports (R383, R384). -/

theorem State.reportAct_of_forming {s : State} {n : Nat} (nonce : Nat) (hst : (s.comp n).st = .forming) :
    s.reportAct (some n) nonce = ⟨.ok, 0, 0, s.modComp n fun x => { x with nonce := nonce }⟩ := if_pos hst

section Asked
variable {s : State} {c : Option Nat} {nonce : Nat} (hst : ∀ n, c = some n → (s.comp n).st ≠ .forming)
include hst

theorem State.reportAct_of_room {t : State} (hroom : s.queueReport ⟨c, nonce⟩ = some t) :
    s.reportAct c nonce = ⟨.ok, 0, 0, t⟩ := by
  cases c with
  | none => simp only [State.reportAct, hroom]
  | some n => simp only [State.reportAct, hst n rfl, if_false, hroom]

theorem State.reportAct_of_full (hfull : s.queueReport ⟨c, nonce⟩ = none) :
    s.reportAct c nonce = ⟨.stateConflict, 0x0C06, 0, s.fault 0x0C06 (c.getD noComp)⟩ := by
  cases c with
  | none => simp only [State.reportAct, hfull]
  | some n => simp only [State.reportAct, hst n rfl, if_false, hfull]
end Asked

/-- Settles O29: each write by its check of R524 and then by its act; a measured slot by its ledger. That a measured stream
goes slot by slot and that a ledger that cannot be read is a slot that does not match is the model's choice. -/
theorem rootOfTrustReportsAndMeasures : Obligations.RootOfTrustReportsAndMeasures := by
  unfold Obligations.RootOfTrustReportsAndMeasures
  refine ⟨fun s hpower => ?entropy, ?svn, ?report, ?moduleReport, ?signed, ?measure⟩
  case entropy => rw [exec_entropyFail, State.failModule_of_power _ hpower]
  case svn =>
    intro r cls s hok
    rw [exec_svnAdvance, State.ifWritable_of_ok _ hok]
    exact ⟨fun hcls hahead hbits => by rw [State.svnAct_of_ahead hcls hahead hbits],
      fun h => by rw [State.svnAct_of_not_ahead h]⟩
  case report =>
    intro r c nonce s n hok
    rw [exec_reportRequest, State.ifWritable_of_ok _ hok]
    have hasks (hst : (s.comp n).st ≠ .forming) : ∀ m, some n = some m → (s.comp m).st ≠ .forming := by
      rintro _ ⟨⟩
      exact hst
    exact ⟨fun hst => congrArg Done.out (State.reportAct_of_forming _ hst),
      fun t hst hroom => congrArg Done.out (State.reportAct_of_room (hasks hst) hroom),
      fun hst hfull => congrArg Done.out (State.reportAct_of_full (hasks hst) hfull)⟩
  case moduleReport =>
    intro r nonce s hok
    rw [exec_moduleReportRequest, State.ifWritable_of_ok _ hok]
    exact ⟨fun t hroom => congrArg Done.out (State.reportAct_of_room (c := none) (fun _ h => nomatch h) hroom),
      fun hfull => congrArg Done.out (State.reportAct_of_full (c := none) (fun _ h => nomatch h) hfull)⟩
  case signed =>
    rintro signature body t ⟨c, nonce⟩ rest s hsigning hqueue v
    rw [exec_reportSigned, execReportSigned, hsigning, hqueue]
    cases c <;> rfl
  case measure =>
    intro c entry i next ledger x o s n e a dst k h le hopen hobj
    rw [exec_slotMeasure, execSlotMeasure]
    dsimp only
    rw [hopen]
    dsimp only
    rw [hobj]
    dsimp only
    refine ⟨fun hnone => ?uncovered, fun want s1 hcovering hread hmatch => ?verified, fun want s1 hcovering hread hmatch => ?mismatch⟩
    case uncovered => rw [hnone]; rfl
    case verified =>
      rw [hcovering]
      dsimp only
      rw [hread]
      dsimp only
      rw [if_neg (not_not_intro hmatch)]
      split
      · split
        next h1 => rw [h1]; rfl
        next h1 => rw [h1]; rfl
      · rfl
    case mismatch =>
      rw [hcovering]
      dsimp only
      rw [hread]
      cases want with
      | none => rfl
      | some w => exact if_pos (hmatch w rfl)

end Sys2Proof.Machine
end

section
/-! Chapter 13: the SPDM responder (R393, R394, R398). -/

namespace Sys2Proof.Machine
open Sys2Proof

/-! A request sound and in its place has its effect; another is an error of R398. -/

section Request
variable {s : State} {sess : SessNoS} {sound inOrder : Bool} (f : State → State)

theorem State.spdmDo_of_sound (hsound : sound = true) (horder : inOrder = true) :
    s.spdmDo sess sound inOrder f = .next (f s) := by subst hsound horder; rfl
theorem State.spdmDo_of_unsound (hsound : sound = false) :
    s.spdmDo sess sound inOrder f = .next (s.spdmFail sess 0x01) := by subst hsound; rfl
theorem State.spdmDo_of_out_of_order (hsound : sound = true) (horder : inOrder = false) :
    s.spdmDo sess sound inOrder f = .next (s.spdmFail sess 0x04) := by subst hsound horder; rfl
end Request

/-! The requests, each by what it does when sound and in its place. -/

theorem exec_getVersion (sess : SessNoS) (sound : Bool) (s : State) :
    exec (.getVersion sess sound) s = execGetVersion sess sound s := rfl
theorem exec_getCapabilities (sess : SessNoS) (sound : Bool) (s : State) :
    exec (.getCapabilities sess sound) s = execGetCapabilities sess sound s := rfl
theorem exec_negotiateAlgorithms (sess : SessNoS) (sound : Bool) (s : State) :
    exec (.negotiateAlgorithms sess sound) s = execNegotiateAlgorithms sess sound s := rfl
theorem exec_getDigests (sess : SessNoS) (sound : Bool) (s : State) :
    exec (.getDigests sess sound) s = execGetDigests sess sound s := rfl
theorem exec_getCertificate (sess : SessNoS) (sound : Bool) (slot : Byte) (off len : BitVec 16) (s : State) :
    exec (.getCertificate sess sound slot off len) s = execGetCertificate sess sound slot off len s := rfl
theorem exec_challenge (sess : SessNoS) (sound ready : Bool) (s : State) :
    exec (.challenge sess sound ready) s = execChallenge sess sound ready s := rfl
theorem exec_getMeasurements (sess : SessNoS) (sound : Bool) (block : Byte) (signed ready : Bool) (s : State) :
    exec (.getMeasurements sess sound block signed ready) s = execGetMeasurements sess sound block signed ready s := rfl
theorem exec_kemEncap (sess : SessNoS) (sound : Bool) (s : State) :
    exec (.kemEncap sess sound) s = execKemEncap sess sound s := rfl
theorem exec_pskExchange (sess : SessNoS) (sound : Bool) (hint : BitVec 128) (s : State) :
    exec (.pskExchange sess sound hint) s = execPskExchange sess sound hint s := rfl
theorem exec_pskFinish (sess : SessNoS) (sound : Bool) (s : State) :
    exec (.pskFinish sess sound) s = execPskFinish sess sound s := rfl
theorem exec_keyUpdate (sess : SessNoS) (sound : Bool) (s : State) :
    exec (.keyUpdate sess sound) s = execKeyUpdate sess sound s := rfl
theorem exec_spdmHeartbeat (sess : SessNoS) (sound : Bool) (s : State) :
    exec (.spdmHeartbeat sess sound) s = execSpdmHeartbeat sess sound s := rfl
theorem exec_endSession (sess : SessNoS) (sound : Bool) (s : State) :
    exec (.endSession sess sound) s = execEndSession sess sound s := rfl
theorem exec_chunkGet (sess : SessNoS) (sound : Bool) (chunk : BitVec 16) (s : State) :
    exec (.chunkGet sess sound chunk) s = execChunkGet sess sound chunk s := rfl
theorem exec_spdmLockoutEnd (s : State) : exec .spdmLockoutEnd s = execSpdmLockoutEnd s := rfl

section Up
variable {sess : SessNoS} {s : State} (hup : s.spdmUp = true)
include hup

theorem exec_challenge_of_up (ready : Bool) :
    exec (.challenge sess true ready) s = .next (if !ready || s.rot.signing.isSome then s.spdmLater
      else (s.modSpdm fun q => { q with proved := true }).spdmSay 0x03) := by
  rw [exec_challenge, execChallenge, State.spdmDo_of_sound _ rfl hup]

theorem exec_getMeasurements_of_block {block : Byte} {data : List Byte} (ready : Bool) (hcount : block ≠ 0)
    (hall : block ≠ 0xFF) (hdata : s.measurement block.toNat = some data) :
    exec (.getMeasurements sess true block false ready) s = .next (s.spdmSay 0x60 data) := by
  rw [exec_getMeasurements, execGetMeasurements, if_neg hcount, if_neg hall, hdata]
  exact State.spdmDo_of_sound _ rfl hup

theorem exec_kemEncap_of_proved (hproved : s.rot.spdm.proved = true) :
    exec (.kemEncap sess true) s = .next
      ((s.tickFresh.modSpdm fun q => { q with psks := q.psks ++ [Config.random s.fresh % 2 ^ 128] }).spdmSay 0x7E
        (leBytes 16 (Config.random s.fresh % 2 ^ 128))) := by
  rw [exec_kemEncap, execKemEncap, State.spdmDo_of_sound _ rfl (by rw [hup, hproved]; rfl)]

theorem exec_pskExchange_of_locked (hint : BitVec 128) (hlocked : s.rot.spdm.lockTo.isSome = true) :
    exec (.pskExchange sess true hint) s = .next (s.spdmErr 0x03) := by
  rw [exec_pskExchange, execPskExchange, State.spdmDo_of_sound _ (by rw [hlocked]; rfl) hup, if_pos hlocked]

theorem exec_pskExchange_opens {hint : BitVec 128} {k : Nat} (hfree : s.rot.spdm.lockTo = none)
    (hkept : hint.toNat ∈ s.rot.spdm.psks) (hplace : firstBelow 4 (fun k => (s.spdmSess k).isNone) = some k) :
    exec (.pskExchange sess true hint) s = .next
      (((s.modSpdm fun q => { q with psks := q.psks.filter (· ≠ hint.toNat) }).setSpdmSess k
        (some ⟨hint.toNat, false, 0, []⟩)).spdmSay 0x66 [BitVec.ofNat 8 k]) := by
  have hknown : s.rot.spdm.psks.contains hint.toNat = true := List.contains_iff_mem.2 hkept
  rw [exec_pskExchange, execPskExchange, State.spdmDo_of_sound _ (by rw [hknown, Bool.or_true]; rfl) hup, hfree, hplace]
  rfl
end Up

section Established
variable {k : Fin 4} {y : SpdmSess} {s : State} (hopen : s.spdmSess k.val = some y)
include hopen

theorem exec_pskFinish_of_open (hnew : y.finished = false) :
    exec (.pskFinish (some k) true) s = .next
      ((s.setSpdmSess k.val (some { y with finished := true })).spdmSay 0x67) := by
  rw [exec_pskFinish, execPskFinish]
  simp only [hopen, hnew, Option.map_some]
  exact State.spdmDo_of_sound _ rfl rfl

/-- A session established is one whose PSK_FINISH came. -/
theorem State.spdmSecured_of_finished (hfinished : y.finished = true) : s.spdmSecured (some k) = true := by
  simp only [State.spdmSecured, hopen, hfinished]

theorem exec_keyUpdate_of_established (hfinished : y.finished = true) :
    exec (.keyUpdate (some k) true) s = .next
      ((s.setSpdmSess k.val (some { y with updates := y.updates + 1 })).spdmSay 0x69) := by
  rw [exec_keyUpdate, execKeyUpdate, State.spdmDo_of_sound _ rfl (State.spdmSecured_of_finished hopen hfinished)]
  simp only [hopen, Option.map_some]

theorem exec_spdmHeartbeat_of_established (hfinished : y.finished = true) :
    exec (.spdmHeartbeat (some k) true) s = .next (s.spdmSay 0x68) := by
  rw [exec_spdmHeartbeat, execSpdmHeartbeat, State.spdmDo_of_sound _ rfl (State.spdmSecured_of_finished hopen hfinished)]

theorem exec_endSession_of_established (hfinished : y.finished = true) :
    exec (.endSession (some k) true) s = .next ((s.setSpdmSess k.val none).spdmSay 0x6C) := by
  rw [exec_endSession, execEndSession, State.spdmDo_of_sound _ rfl (State.spdmSecured_of_finished hopen hfinished)]
end Established

theorem exec_chunkGet_of_part {sess : SessNoS} {s : State} {chunk : BitVec 16}
    (hpart : (s.rot.spdm.large.drop (4096 * chunk.toNat)).take 4096 ≠ []) :
    exec (.chunkGet sess true chunk) s = .next ((s.modSpdm fun q => { q with
      large := if s.rot.spdm.large.length ≤ 4096 * (chunk.toNat + 1) then [] else s.rot.spdm.large }).emit
        (.spdm 0x06 ((s.rot.spdm.large.drop (4096 * chunk.toNat)).take 4096))) := by
  have hlarge : s.rot.spdm.large ≠ [] := fun h => hpart (by rw [h, List.drop_nil, List.take_nil])
  rw [exec_chunkGet, execChunkGet]
  refine State.spdmDo_of_sound _ ?_ ?_
  · rw [List.isEmpty_eq_false_iff.2 hpart, Bool.not_false, Bool.or_true]; rfl
  · rw [List.isEmpty_eq_false_iff.2 hlarge]; rfl

theorem exec_spdmLockoutEnd_of_due {s : State} {t : Nat} (hlocked : s.rot.spdm.lockTo = some t) (hdue : t ≤ s.now) :
    exec .spdmLockoutEnd s = .next (s.modSpdm fun q => { q with lockTo := none }) := by
  rw [exec_spdmLockoutEnd, execSpdmLockoutEnd, hlocked]
  exact if_pos hdue

/-- Settles O30: each request by its phase, its session and its operands. The codes, the order of the messages and the busy
answer within the lock-out are the model's choice. -/
theorem spdmRequestsAreAnsweredInOrder : Obligations.SpdmRequestsAreAnsweredInOrder := by
  unfold Obligations.SpdmRequestsAreAnsweredInOrder
  refine ⟨fun sess s => ⟨rfl, fun hphase => ?capabilities, fun hphase => ?algorithms, rfl⟩, ?negotiated, ?session,
    fun sess chunk s => exec_chunkGet_of_part, fun t s => exec_spdmLockoutEnd_of_due, ?errors⟩
  case capabilities =>
    rw [exec_getCapabilities, execGetCapabilities, State.spdmDo_of_sound _ rfl (decide_eq_true hphase)]
  case algorithms =>
    rw [exec_negotiateAlgorithms, execNegotiateAlgorithms, State.spdmDo_of_sound _ rfl (decide_eq_true hphase)]
  case negotiated =>
    intro sess s hup
    refine ⟨?digests, fun off len => ?certificate, fun hidle => ?proves, fun hbusy => ?busy, exec_challenge_of_up hup false,
      fun block ready data => exec_getMeasurements_of_block hup ready, exec_kemEncap_of_proved hup,
      exec_pskExchange_of_locked hup, fun hint k => exec_pskExchange_opens hup⟩
    case digests => rw [exec_getDigests, execGetDigests, State.spdmDo_of_sound _ rfl hup]
    case certificate =>
      rw [exec_getCertificate, execGetCertificate]
      exact State.spdmDo_of_sound _ rfl hup
    case proves => rw [exec_challenge_of_up hup, hidle]; rfl
    case busy => rw [exec_challenge_of_up hup, Option.isSome_iff_ne_none.2 hbusy]; rfl
  case session =>
    intro k y s hopen
    exact ⟨exec_pskFinish_of_open hopen, fun hfinished => ⟨exec_keyUpdate_of_established hopen hfinished,
      exec_spdmHeartbeat_of_established hopen hfinished, exec_endSession_of_established hopen hfinished⟩⟩
  case errors =>
    intro sess s i
    refine ⟨fun hi => ?unsound, fun hopen hi => ?early⟩
    case unsound =>
      simp only [List.mem_cons, List.not_mem_nil, or_false] at hi
      obtain rfl | rfl | rfl | rfl | rfl | rfl | rfl | rfl | rfl | rfl := hi <;> rfl
    case early =>
      simp only [List.mem_cons, List.not_mem_nil, or_false] at hi
      obtain rfl | rfl | rfl := hi
      · rw [exec_keyUpdate, execKeyUpdate, State.spdmDo_of_out_of_order _ rfl hopen]
      · rw [exec_spdmHeartbeat, execSpdmHeartbeat, State.spdmDo_of_out_of_order _ rfl hopen]
      · rw [exec_endSession, execEndSession, State.spdmDo_of_out_of_order _ rfl hopen]

end Sys2Proof.Machine
end

section
/-! Chapter 13: streams and interfaces (R395-R397). -/

namespace Sys2Proof.Machine
open Sys2Proof

/-! The messages, each by the operation that carries it out. -/

theorem exec_keyProg (sess : SessNoS) (sound : Bool) (c : CompNo) (s : State) :
    exec (.keyProg sess sound c) s = execKeyProg sess sound c s := rfl
theorem exec_kSetGo (sess : SessNoS) (sound : Bool) (c : CompNo) (s : State) :
    exec (.kSetGo sess sound c) s = execKSetGo sess sound c s := rfl
theorem exec_kSetStop (sess : SessNoS) (sound : Bool) (c : CompNo) (s : State) :
    exec (.kSetStop sess sound c) s = execKSetStop sess sound c s := rfl
theorem exec_lockInterface (sess : SessNoS) (sound : Bool) (c : CompNo) (s : State) :
    exec (.lockInterface sess sound c) s = execLockInterface sess sound c s := rfl
theorem exec_getDeviceInterfaceReport (sess : SessNoS) (sound : Bool) (c : CompNo) (s : State) :
    exec (.getDeviceInterfaceReport sess sound c) s = execGetDeviceInterfaceReport sess sound c s := rfl
theorem exec_startInterface (sess : SessNoS) (sound : Bool) (c : CompNo) (s : State) :
    exec (.startInterface sess sound c) s = execStartInterface sess sound c s := rfl
theorem exec_stopInterface (sess : SessNoS) (sound : Bool) (c : CompNo) (s : State) :
    exec (.stopInterface sess sound c) s = execStopInterface sess sound c s := rfl
theorem exec_tdiError (c : CompNo) (lost : Bool) (s : State) :
    exec (.tdiError c lost) s = .next ((if lost then s.setStream c.val .insecure else s).tdiError c.val) := rfl

theorem State.tdiError_eq (s : State) (n : Nat) : s.tdiError n =
    if s.objC Obj.rotCompTdiState n = 1 ∨ s.objC Obj.rotCompTdiState n = 2 then
      ((s.setObjC Obj.rotCompTdiState n 3).fault 0x0C0D n).raise 4 n else s := by
  simp [State.tdiError]

/-- Settles O31: each message of an established session by the state of the stream or the interface. The response codes, the
messages inside a finished session and the states of a stream are the model's choice. -/
theorem streamsAndInterfacesKeepTheirStates : Obligations.StreamsAndInterfacesKeepTheirStates := by
  unfold Obligations.StreamsAndInterfacesKeepTheirStates
  refine ⟨?secured, ?outside, ?error⟩
  case secured =>
    intro sess c s n hsecured
    refine ⟨?prog, fun hstream => ?go, fun hstream => ?stop, fun htdi => ?lock, fun htdi => ?report, fun htdi => ?start,
      ?unlock⟩
    case prog => rw [exec_keyProg, execKeyProg, State.spdmDo_of_sound _ rfl hsecured]
    case go =>
      rw [exec_kSetGo, execKSetGo, State.spdmDo_of_sound _ rfl (by rw [hsecured, decide_eq_true hstream]; rfl)]
    case stop =>
      rw [exec_kSetStop, execKSetStop, State.spdmDo_of_sound _ rfl (by rw [hsecured, decide_eq_true hstream]; rfl)]
    case lock =>
      rw [exec_lockInterface, execLockInterface,
        State.spdmDo_of_sound _ rfl (by rw [hsecured, decide_eq_true htdi]; rfl)]
      simp only [Bool.and_eq_true, Bool.or_eq_true, decide_eq_true_eq, or_assoc]
      rfl
    case report =>
      have hadmitted : (decide (s.tdi n = 1) || decide (s.tdi n = 2)) = true := by simpa using htdi
      rw [exec_getDeviceInterfaceReport, execGetDeviceInterfaceReport,
        State.spdmDo_of_sound _ rfl (by rw [hsecured, hadmitted]; rfl)]
    case start =>
      rw [exec_startInterface, execStartInterface,
        State.spdmDo_of_sound _ rfl (by rw [hsecured, decide_eq_true htdi]; rfl)]
    case unlock => rw [exec_stopInterface, execStopInterface, State.spdmDo_of_sound _ rfl hsecured]
  case outside =>
    intro sess c s i hopen hi
    simp only [List.mem_cons, List.not_mem_nil, or_false] at hi
    obtain rfl | rfl | rfl | rfl | rfl | rfl | rfl := hi
    · rw [exec_keyProg, execKeyProg, State.spdmDo_of_out_of_order _ rfl hopen]
    · rw [exec_kSetGo, execKSetGo, State.spdmDo_of_out_of_order _ rfl (by rw [hopen]; rfl)]
    · rw [exec_kSetStop, execKSetStop, State.spdmDo_of_out_of_order _ rfl (by rw [hopen]; rfl)]
    · rw [exec_lockInterface, execLockInterface, State.spdmDo_of_out_of_order _ rfl (by rw [hopen]; rfl)]
    · rw [exec_getDeviceInterfaceReport, execGetDeviceInterfaceReport,
        State.spdmDo_of_out_of_order _ rfl (by rw [hopen]; rfl)]
    · rw [exec_startInterface, execStartInterface, State.spdmDo_of_out_of_order _ rfl (by rw [hopen]; rfl)]
    · rw [exec_stopInterface, execStopInterface, State.spdmDo_of_out_of_order _ rfl hopen]
  case error =>
    intro c lost s n s1
    rw [exec_tdiError, State.tdiError_eq]
    cases lost <;> rfl

end Sys2Proof.Machine
end

section
/-! Chapter 14: dovetails and the copies of a checkpoint (R409-R415, R418). -/

namespace Sys2Proof.Machine
open Sys2Proof

/-! The commands, each by the operation that carries it out. -/

theorem exec_boundaryTake (c : CompNo) (rem : Option SpanReply) (s : State) :
    exec (.boundaryTake c rem) s = execBoundaryTake c rem s := rfl
theorem exec_ckptPageCopy (c : CompNo) (page : BitVec 40) (s : State) :
    exec (.ckptPageCopy c page) s = execCkptPageCopy c page s := rfl
theorem exec_shardPostReceive (c : CompNo) (module : BitVec 16) (step : W64) (digest : BitVec 384) (bytes : W64)
    (locs : List (W32 × W32)) (s : State) :
    exec (.shardPostReceive c module step digest bytes locs) s = execShardPostReceive c module step digest bytes locs s := rfl
theorem exec_shardPostRetry (c : CompNo) (module : BitVec 16) (s : State) :
    exec (.shardPostRetry c module) s = execShardPostRetry c module s := rfl
theorem exec_dovetailCommit (c : CompNo) (s : State) : exec (.dovetailCommit c) s = execDovetailCommit c s := rfl
theorem exec_dovetailTimeout (c : CompNo) (s : State) : exec (.dovetailTimeout c) s = execDovetailTimeout c s := rfl
theorem exec_abandonPostReceive (c : CompNo) (step : W64) (s : State) :
    exec (.abandonPostReceive c step) s = execAbandonPostReceive c step s := rfl
theorem exec_copyAheadDone (c : CompNo) (page : BitVec 40) (s : State) :
    exec (.copyAheadDone c page) s = execCopyAheadDone c page s := rfl
theorem exec_copyAheadTimeout (c : CompNo) (page : BitVec 40) (s : State) :
    exec (.copyAheadTimeout c page) s = execCopyAheadTimeout c page s := rfl
theorem exec_ckptHoldupDeadline (c : CompNo) (s : State) :
    exec (.ckptHoldupDeadline c) s = execCkptHoldupDeadline c s := rfl
theorem exec_ckptCopyLost (c : CompNo) (slot copy : Fin 3) (s : State) :
    exec (.ckptCopyLost c slot copy) s = execCkptCopyLost c slot copy s := rfl
theorem exec_ckptCopyRebuilt (c : CompNo) (slot : Fin 3) (s : State) :
    exec (.ckptCopyRebuilt c slot) s = execCkptCopyRebuilt c slot s := rfl

/-! A boundary (R410, R411). -/

section Boundary
variable {c : CompNo} {rem : Option SpanReply} {bs : List Byte} {s s1 : State}
  (hlive : (s.comp c.val).st = .running ∨ (s.comp c.val).st = .held)
  (hadvance : s.advances c.val unitBoundary (s.objC Obj.ckptCompBoundaryPeg c.val) ≠ 0)
  (hidle : (s.comp c.val).ckpt.dove = none) (hmode : s.mode ≠ .holdup) (hopen : (s.comp c.val).closeAt = none)
  (hread : s.unitFetch c.val (s.objC Obj.ckptCompBoundaryAddr c.val) 64 rem = (some bs, s1))
include hlive hadvance hidle hmode hopen hread

theorem exec_boundaryTake_starts
    (hnew : ∀ b, (s.comp c.val).ckpt.lastBoundary = some b → b < fld (leNat bs) 63 0)
    (hlast : fld (leNat bs) 63 0 = Ctl.lastStep (s.control c.val)) (hrest : leNat bs >>> 64 = 0)
    (hset : (s.comp c.val).ckpt.set ≠ []) :
    exec (.boundaryTake c rem) s = .next ((s1.actOn c.val unitBoundary).startDovetail c.val (fld (leNat bs) 63 0)) := by
  rw [exec_boundaryTake, execBoundaryTake]
  dsimp only
  rw [if_neg (by simpa [hadvance, hidle, hmode, hopen, or_iff_not_imp_left] using hlive), hread]
  dsimp only
  refine if_neg ?_
  cases hb : (s.comp c.val).ckpt.lastBoundary with
  | none => simp [hlast, hrest, hset]
  | some b => simpa [hlast, hrest, hset] using hlast ▸ hnew b hb

theorem exec_boundaryTake_refuses
    (hbad : (∃ b, (s.comp c.val).ckpt.lastBoundary = some b ∧ fld (leNat bs) 63 0 ≤ b) ∨
      fld (leNat bs) 63 0 ≠ Ctl.lastStep (s.control c.val) ∨ leNat bs >>> 64 ≠ 0 ∨ (s.comp c.val).ckpt.set = []) :
    exec (.boundaryTake c rem) s = .next (((s1.actOn c.val unitBoundary).fault 0x0D02 c.val 0 0
      (fld (leNat bs) 63 0)).unitPost c.val (s.objC Obj.ckptCompArmedPeg c.val)) := by
  rw [exec_boundaryTake, execBoundaryTake]
  dsimp only
  rw [if_neg (by simpa [hadvance, hidle, hmode, hopen, or_iff_not_imp_left] using hlive), hread]
  dsimp only
  refine if_pos ?_
  cases hb : (s.comp c.val).ckpt.lastBoundary with
  | none => simpa [hb, or_assoc] using hbad
  | some b => simpa [hb, or_assoc] using hbad
end Boundary

/-! Copies of pages (R412, R415). -/

section Copy
variable {c : CompNo} {page : BitVec 40} {d : Dovetail} {s : State} (hdove : (s.comp c.val).ckpt.dove = some d)
  (hpending : (s.spage c.val page.toNat).pending = true)
include hpending

theorem exec_copyAheadTimeout_of_late {t : Nat} (hahead : (s.spage c.val page.toNat).ahead = some t)
    (hlate : t + s.obj Obj.ckptAheadTimeoutMs * 1000000 ≤ s.now) :
    exec (.copyAheadTimeout c page) s = .next (s.abandonDovetail c.val 0x0D06 true) := by
  rw [exec_copyAheadTimeout, execCopyAheadTimeout]
  rw [hahead]
  exact if_pos (by rw [hpending, decide_eq_true hlate]; rfl)

include hdove

theorem exec_ckptPageCopy_of_first (hfirst : ∀ q ∈ (s.comp c.val).pages,
      page.toNat ≤ q.1 ∨ q.2.pending = false ∨ q.2.ahead.isSome = true) :
    exec (.ckptPageCopy c page) s = .next (s.dovetailCopy c.val page.toNat d) := by
  rw [exec_ckptPageCopy, execCkptPageCopy]
  rw [hdove]
  refine if_pos ?_
  rw [hpending, Bool.true_and, List.all_eq_true]
  exact fun q hq => by simpa [or_assoc] using hfirst q hq

theorem exec_copyAheadDone_of_waited (hahead : (s.spage c.val page.toNat).ahead.isSome = true) :
    exec (.copyAheadDone c page) s = .next (s.dovetailCopy c.val page.toNat d) := by
  rw [exec_copyAheadDone, execCopyAheadDone]
  rw [hdove]
  exact if_pos (by rw [hpending, hahead]; rfl)
end Copy

/-! Posts of the shards, the commit and the end of a dovetail (R412, R413, R418). -/

section Dove
variable {c : CompNo} {d : Dovetail} {s : State} (hdove : (s.comp c.val).ckpt.dove = some d)
include hdove

theorem exec_shardPostReceive_of_module {module : BitVec 16} (step : W64) (digest : BitVec 384) (bytes : W64)
    (locs : List (W32 × W32)) (hmodule : module.toNat < s.objC Obj.spanCompJobModules c.val) :
    exec (.shardPostReceive c module step digest bytes locs) s = .next
      (if step.toNat = d.step ∨ step.toNat = d.step + 1 then ((s.modCkpt c.val fun q => { q with
         posts := ((s.comp c.val).ckpt.posts.filter fun q => q.module ≠ module.toNat || q.step ≠ step.toNat) ++
           [⟨module.toNat, step.toNat, digest.toNat, bytes.toNat, locs.map fun l => (l.1.toNat, l.2.toNat)⟩] }).tryRecord
             c.val).reply .ok
       else s.reply .notReady) := by
  rw [exec_shardPostReceive, execShardPostReceive]
  dsimp only
  rw [hdove]
  by_cases htaken : step.toNat = d.step ∨ step.toNat = d.step + 1
  · rw [if_pos htaken]
    exact if_neg (by simpa [hmodule, or_iff_not_imp_left] using htaken)
  · rw [if_neg htaken]
    exact if_pos (by simp [not_or.1 htaken])

theorem exec_shardPostRetry_of_posted {module : BitVec 16} {node : Nat} (hnode : s.nodeOf c.val module.toNat = some node)
    (hposted : d.posted = true) :
    exec (.shardPostRetry c module) s = .next (s.emit (.post 2 node ([s.objC Obj.spanCompModuleIndex c.val, d.step,
      (s.ckptSlot c.val d.slot).digest, s.shardBytes c.val] ++ (s.copyLocs c.val d.slot).flatMap fun l => [l.1, l.2]))) := by
  rw [exec_shardPostRetry, execShardPostRetry]
  dsimp only
  rw [hdove, hnode]
  exact if_neg (by simp [hposted])

theorem exec_dovetailCommit_of_record (hrecord : d.record = true) :
    exec (.dovetailCommit c) s = .next
      ((((((s.modCkpt c.val fun q => { q with
        dove := none, posts := q.posts.filter fun p => decide (d.step < p.step),
        slots := kmod CkptSlot.init q.slots d.slot fun k => { k with step := some d.step } }).setObjC
          Obj.ckptCompLastCommitted c.val d.step).setObjC Obj.ckptCompHints c.val
            ((s.copyLocs c.val d.slot).foldr (fun l a => l.1 + l.2 * 2 ^ 32 + a * 2 ^ 64) 0)).setObjC Obj.ckptCompLastStatus
              c.val 0).setObjC Obj.ckptCompInProgress c.val 0).unitPost c.val (s.objC Obj.ckptCompCommitPeg c.val)) := by
  rw [exec_dovetailCommit, execDovetailCommit]
  dsimp only
  rw [hdove]
  exact if_neg (by simp [hrecord])

theorem exec_dovetailTimeout_of_late (hlate : d.armedAt + s.objC Obj.ckptCompDovetailMs c.val * 1000000 ≤ s.now) :
    exec (.dovetailTimeout c) s = .next (s.abandonDovetail c.val 0x0D05 true) := by
  rw [exec_dovetailTimeout, execDovetailTimeout, hdove]
  exact if_pos hlate

theorem exec_abandonPostReceive_of_step {step : W64} (hstep : d.step = step.toNat) :
    exec (.abandonPostReceive c step) s = .next (s.abandonDovetail c.val 0x0D05 false) := by
  rw [exec_abandonPostReceive, execAbandonPostReceive, hdove]
  exact if_pos hstep
end Dove

theorem exec_ckptHoldupDeadline_of_late (c : CompNo) (s : State) (hmode : s.mode = .holdup)
    (hlate : s.modeAt + (s.obj Obj.holdupBudgetS * 1000000000 - s.obj Obj.ckptHoldupMarginMs * 1000000) ≤ s.now) :
    exec (.ckptHoldupDeadline c) s = .next (s.abandonDovetail c.val 0x0D05 true) := by
  rw [exec_ckptHoldupDeadline, execCkptHoldupDeadline]
  exact if_pos (by rw [decide_eq_true hmode, decide_eq_true hlate]; rfl)

/-! Lost copies (R409). -/

/-- A copy leaves its slot: 0x0D04, and its leases are dropped. -/
def State.dropCopy (s : State) (n k i : Nat) (y : CkptCopy) : State :=
  y.leases.foldl (fun a l => a.dropLease n l) ((s.setCkptSlot n k { s.ckptSlot n k with
    copies := (s.ckptSlot n k).copies.eraseIdx i }).fault 0x0D04 n 0 0 ((s.ckptSlot n k).step.getD 0))

section Lost
variable {c : CompNo} {slot copy : Fin 3} {y : CkptCopy} {s : State}
  (hcopy : (s.ckptSlot c.val slot.val).copies[copy.val]? = some y) (hgone : s.copyGone c.val y = true)
include hcopy hgone

theorem exec_ckptCopyLost_with_another (hleft : (s.ckptSlot c.val slot.val).copies.eraseIdx copy.val ≠ []) :
    let s2 := (s.dropCopy c.val slot.val copy.val y).modCkpt c.val fun q =>
      { q with rebuilding := q.rebuilding ++ [(slot.val, copy.val)] }
    exec (.ckptCopyLost c slot copy) s = .next ((s2.askCopy c.val slot.val).getD s2) := by
  intro s2
  rw [exec_ckptCopyLost, execCkptCopyLost]
  dsimp only
  rw [hcopy]
  dsimp only
  rw [if_neg (by simp [hgone]), if_neg (by simp [hleft])]
  rfl

theorem exec_ckptCopyLost_of_last (hleft : (s.ckptSlot c.val slot.val).copies.eraseIdx copy.val = [])
    (hother : ∀ d, (s.comp c.val).ckpt.dove = some d → d.slot ≠ slot.val) :
    exec (.ckptCopyLost c slot copy) s = .next ((s.dropCopy c.val slot.val copy.val y).setCkptSlot c.val slot.val
      { s.ckptSlot c.val slot.val with copies := (s.ckptSlot c.val slot.val).copies.eraseIdx copy.val, step := none,
                                       record := [] }) := by
  rw [exec_ckptCopyLost, execCkptCopyLost]
  dsimp only
  rw [hcopy]
  dsimp only
  rw [if_neg (by simp [hgone]), if_pos (by simp [hleft])]
  refine congrArg _ (if_neg ?_)
  cases hdove : (s.comp c.val).ckpt.dove with
  | none => simp
  | some d => simpa using hother d hdove
end Lost

theorem exec_ckptCopyRebuilt_of_whole {c : CompNo} {slot : Fin 3} {s t : State}
    (hlost : ∃ q ∈ (s.comp c.val).ckpt.rebuilding, q.1 = slot.val)
    (hwhole : ∃ y ∈ (s.ckptSlot c.val slot.val).copies, y.whole = true)
    (hadded : s.addCopy c.val slot.val true = some t) :
    exec (.ckptCopyRebuilt c slot) s = .next (((t.modCkpt c.val fun q => { q with
      rebuilding := q.rebuilding.eraseP fun z => decide (z.1 = slot.val) }).incC Obj.ckptCompCopiesRebuilt c.val).tryPosts
        c.val) := by
  have hany : ((s.comp c.val).ckpt.rebuilding.any fun q => decide (q.1 = slot.val)) = true := by simpa using hlost
  rw [exec_ckptCopyRebuilt, execCkptCopyRebuilt]
  dsimp only
  rw [hany, List.any_eq_true.2 hwhole, hadded]
  rfl

/-- Settles O32: a boundary by its line, a page by its marks, each message and each deadline by the dovetail in progress, a
copy by what is left of its slot. That the copies are made from leases held and one lease is asked for at a time, and that a
lost copy's leases are dropped at once, is the model's choice. -/
theorem dovetailCopiesPostsAndCommits : Obligations.DovetailCopiesPostsAndCommits := by
  unfold Obligations.DovetailCopiesPostsAndCommits
  refine ⟨?boundary, ?copy, fun c module step digest bytes locs d s hdove hmodule =>
      exec_shardPostReceive_of_module hdove step digest bytes locs hmodule,
    fun c module d node s hdove => exec_shardPostRetry_of_posted hdove,
    fun c d s hdove => ⟨exec_dovetailCommit_of_record hdove, exec_dovetailTimeout_of_late hdove,
      fun step => exec_abandonPostReceive_of_step hdove⟩,
    exec_ckptHoldupDeadline_of_late, ?lost, fun c slot s t => exec_ckptCopyRebuilt_of_whole⟩
  case boundary =>
    intro c rem bs s s1 n k w step hlive hadvance hidle hmode hopen hread
    exact ⟨exec_boundaryTake_starts hlive hadvance hidle hmode hopen hread,
      exec_boundaryTake_refuses hlive hadvance hidle hmode hopen hread⟩
  case copy =>
    intro c page d s n x hdove hpending
    exact ⟨exec_ckptPageCopy_of_first hdove hpending, exec_copyAheadDone_of_waited hdove hpending,
      fun t => exec_copyAheadTimeout_of_late hpending⟩
  case lost =>
    intro c slot copy y s n k x hcopy hgone left s1
    exact ⟨exec_ckptCopyLost_with_another hcopy hgone, exec_ckptCopyLost_of_last hcopy hgone⟩

end Sys2Proof.Machine
end

section
/-! Chapter 14: a restore (R420-R423). -/

namespace Sys2Proof.Machine
open Sys2Proof

/-! The commands, each by the operation that carries it out. -/

theorem exec_restoreRequest (r : Role) (c : CompNo) (v : BitVec 512) (found : List RecFound) (s : State) :
    exec (.restoreRequest r c v found) s = execRestoreRequest r c v found s := rfl
theorem exec_restoreSetReceive (c : CompNo) (rid : W64) (module : BitVec 16) (set : List (W64 × BitVec 384)) (s : State) :
    exec (.restoreSetReceive c rid module set) s = execRestoreSetReceive c rid module set s := rfl
theorem exec_restoreTimeout (c : CompNo) (s : State) : exec (.restoreTimeout c) s = execRestoreTimeout c s := rfl
theorem exec_restoreAbortPost (c : CompNo) (rid : W64) (s : State) :
    exec (.restoreAbortPost c rid) s = execRestoreAbortPost c rid s := rfl
theorem exec_restoreWriteDone (c : CompNo) (img : Option ShardImg) (s : State) :
    exec (.restoreWriteDone c img) s = execRestoreWriteDone c img s := rfl

/-! The request (R420, R421). -/

theorem exec_restoreRequest_of_ok {r : Role} {c : CompNo} {v : BitVec 512} {found : List RecFound} {s t : State} {st : Status}
    (hok : s.checkWrite r (objAt Obj.ckptCompRestore c.val) v.toNat = .ok)
    (hact : s.restoreAct c.val v.toNat found = (st, t)) :
    exec (.restoreRequest r c v found) s = .next (t.reply st (if st = .ok || st = .outOfRange then 0 else 0x0D0A)) := by
  rw [exec_restoreRequest, execRestoreRequest, hok]
  dsimp only
  rw [hact]
  rfl

section RestoreAct
variable {s : State} {n v : Nat} (found : List RecFound)

theorem State.restoreAct_of_open (hopen : (s.comp n).ckpt.rest.isSome = true) :
    s.restoreAct n v found = (.stateConflict, s.fault 0x0D0A n 0 0 (fld v 127 64)) := if_pos hopen

variable (hidle : (s.comp n).ckpt.rest = none)
include hidle

theorem State.restoreAct_of_unsound (hbad : fld v 63 0 = 0 ∨ fld v 511 384 ≠ 0) :
    s.restoreAct n v found = (.outOfRange, s) := by
  rw [State.restoreAct]
  dsimp only
  rw [if_neg (by simp [hidle])]
  exact if_pos (by simpa using hbad)

theorem State.restoreAct_of_sound (hrid : fld v 63 0 ≠ 0) (hres : fld v 511 384 = 0)
    (hkeyed : (s.comp n).st = .attested → s.keysReady n = true) (hheld : (s.comp n).st = .held → s.contribUnver n = false) :
    s.restoreAct n v found =
      let j := s.judge n (fld v 127 64) found
      let me := s.objC Obj.spanCompModuleIndex n
      let count := j.2.2.foldl (fun a q => a + q.2.length) 0
      let s1 := if count = 0 then s else (s.incC Obj.ckptCompCorruptCopies n count).faultOnce 0x0D0C n
      let x : Restore := ⟨fld v 63 0, s.now, j.2.1, j.1, j.2.2, [(me, j.1)], none⟩
      let s2 := (s1.modCkpt n fun q => { q with rest := some x }).restoreStatus n 0 1 0 (fld v 63 0)
      (.ok, (s2.postAll n 5 ([fld v 63 0, me] ++ j.1.flatMap fun q => [q.1, q.2])).chooseRestore n) := by
  rw [State.restoreAct]
  dsimp only
  rw [if_neg (by simp [hidle]), if_neg (by simp [hrid, hres]), if_neg (by simpa using hkeyed), if_neg (by simpa using hheld)]
end RestoreAct

/-! A restore in progress (R421-R423). -/

section Restoring
variable {c : CompNo} {x : Restore} {s : State} (hrest : (s.comp c.val).ckpt.rest = some x)
include hrest

theorem exec_restoreSetReceive_of_new {rid : W64} {module : BitVec 16} (set : List (W64 × BitVec 384))
    (hrid : x.rid = rid.toNat) (hopen : x.step = none) (hmodule : module.toNat < s.objC Obj.spanCompJobModules c.val)
    (hnew : ∀ q ∈ x.sets, q.1 ≠ module.toNat) :
    exec (.restoreSetReceive c rid module set) s = .next ((s.modCkpt c.val fun q => { q with rest := some { x with
      sets := x.sets ++ [(module.toNat, set.map fun q => (q.1.toNat, q.2.toNat))] } }).chooseRestore c.val) := by
  rw [exec_restoreSetReceive, execRestoreSetReceive]
  dsimp only
  rw [hrest]
  exact if_neg (by simpa [hrid, hopen, hmodule] using fun y hy => hnew (module.toNat, y) hy rfl)

theorem exec_restoreTimeout_of_late (hopen : x.step = none) (hlate : x.since + s.obj Obj.ckptRestoreMs * 1000000 ≤ s.now) :
    exec (.restoreTimeout c) s = .next (s.finishRestore c.val 0x0D09 0) := by
  rw [exec_restoreTimeout, execRestoreTimeout, hrest]
  exact if_pos (by rw [hopen, decide_eq_true hlate]; rfl)

theorem exec_restoreAbortPost_of_id {rid : W64} (hrid : x.rid = rid.toNat) :
    exec (.restoreAbortPost c rid) s = .next (s.finishRestore c.val 0x0D0E 0) := by
  rw [exec_restoreAbortPost, execRestoreAbortPost, hrest]
  exact if_pos hrid

variable {img : Option ShardImg} {step : Nat} (hstep : x.step = some step)
include hstep

theorem exec_restoreWriteDone_without_source {e : Nat} (hsource : s.restoreSource c.val step img = .error e) :
    exec (.restoreWriteDone c img) s = .next (s.finishRestore c.val e step) := by
  rw [exec_restoreWriteDone, execRestoreWriteDone]
  dsimp only
  rw [hrest]
  dsimp only
  rw [hstep]
  dsimp only
  rw [hsource]
  rfl

theorem exec_restoreWriteDone_of_source {e : Nat} {s1 s2 : State} {pols : List (Nat × Nat)} {pages : List ShardPage}
    (hsource : s.restoreSource c.val step img = .ok (s1, pols, pages))
    (hpages : (s1.restorePols c.val pols).restorePages c.val pages = (e, s2)) :
    exec (.restoreWriteDone c img) s = .next
      (if e = 0 then
        let q := (s2.restoreUnits c.val step).repair c.val step
          ((x.corrupt.filter fun q => decide (q.1 = step)).flatMap (·.2))
        q.2.finishRestore c.val (if q.1 = 0 then 0 else 0x0D0D) step
       else s2.finishRestore c.val e step) := by
  rw [exec_restoreWriteDone, execRestoreWriteDone]
  dsimp only
  rw [hrest]
  dsimp only
  rw [hstep]
  dsimp only
  rw [hsource]
  dsimp only
  rw [hpages]
  cases e <;> rfl
end Restoring

/-- Settles O33: a request by what its act finds, a set, an end and a write pass by the restore in progress. That a reserved
byte of the record that is not zero is OUT_OF_RANGE is the model's choice. -/
theorem restoreAgreesWritesAndEnds : Obligations.RestoreAgreesWritesAndEnds := by
  unfold Obligations.RestoreAgreesWritesAndEnds
  refine ⟨?request, fun c rid module set x s hrest => exec_restoreSetReceive_of_new hrest set,
    fun c x s hrest => ⟨exec_restoreTimeout_of_late hrest, fun rid => exec_restoreAbortPost_of_id hrest,
      fun img step e hstep => exec_restoreWriteDone_without_source hrest hstep,
      fun img step e s1 s2 pols pages hstep => exec_restoreWriteDone_of_source hrest hstep⟩⟩
  case request =>
    intro r c v found s n rid j me count hok
    exact ⟨fun hopen => exec_restoreRequest_of_ok hok (State.restoreAct_of_open found hopen),
      fun hidle hbad => exec_restoreRequest_of_ok hok (State.restoreAct_of_unsound found hidle hbad),
      fun hidle hrid hres hkeyed hheld =>
        exec_restoreRequest_of_ok hok (State.restoreAct_of_sound found hidle hrid hres hkeyed hheld)⟩

end Sys2Proof.Machine
end

section
/-! Chapters 15 and 17: phase marks (R439-R441), event selections and snapshots (R480-R483). -/

namespace Sys2Proof.Machine
open Sys2Proof

/-! The commands, each by the operation that carries it out. -/

theorem exec_phaseMarkTake (c : CompNo) (rem : Option SpanReply) (s : State) :
    exec (.phaseMarkTake c rem) s = execPhaseMarkTake c rem s := rfl
theorem exec_phaseOverrun (c : CompNo) (s : State) : exec (.phaseOverrun c) s = execPhaseOverrun c s := rfl
theorem exec_tileSelWrite (r : Role) (c : CompNo) (v : W64) (s : State) :
    exec (.tileSelWrite r c v) s = execTileSelWrite r c v s := rfl
theorem exec_aggWrite (r : Role) (c : CompNo) (j : Fin 64) (v : BitVec 128) (s : State) :
    exec (.aggWrite r c j v) s = execAggWrite r c j v s := rfl
theorem exec_evSelectEffect (c : CompNo) (s : State) : exec (.evSelectEffect c) s = .next (s.modComp c.val fun x =>
    { x with selFrom := if x.selFrom ≤ s.now then 0 else x.selFrom,
             aggFrom := x.aggFrom.filter fun q => decide (s.now < q.2) }) := rfl
theorem exec_snapReq (c : CompNo) (s : State) : exec (.snapReq c) s = execSnapReq c s := rfl
theorem exec_snapNow (r : Role) (c : CompNo) (v : Bool) (s : State) :
    exec (.snapNow r c v) s = .next (s.clearWrite r (objAt Obj.evCompSnapNow c.val) v fun t => t.snapshot c.val) := rfl

theorem exec_phaseMarkTake_of_posted {c : CompNo} {rem : Option SpanReply} {bs : List Byte} {s s1 : State}
    (hrun : s.running c.val = true)
    (hposted : ((s.peg (s.objC Obj.phaseCompRingPeg c.val)).value + 2 ^ 32 - (s.comp c.val).phTaken % 2 ^ 32) % 2 ^ 32 ≠ 0)
    (hread : s.unitFetch c.val (s.objC Obj.phaseCompRingAddr c.val +
      (s.comp c.val).phTaken % max 1 (s.objC Obj.phaseCompRingEntries c.val) * 64) 64 rem = (some bs, s1)) :
    let i := (s.comp c.val).phTaken
    let e := leNat bs
    let s2 := (s1.modComp c.val fun c =>
      { c with phTaken := i + 1, stamps := c.stamps.filter fun q => !seqReached (i + 1) q.1 }).unitPost c.val
        (s.objC Obj.phaseCompTakenPeg c.val)
    exec (.phaseMarkTake c rem) s = .next
      (if s2.markRefused c.val e = true then s2.incC Obj.phaseCompMarksRefused c.val
       else ((s2.nextPhase c.val (Mk.phase e) (Mk.step e) (s.stampOf c.val i)).incC Obj.phaseCompMarks c.val).compEvent
         c.val 0xE4 1) := by
  intro i e s2
  rw [exec_phaseMarkTake, execPhaseMarkTake]
  dsimp only
  rw [if_neg (by rw [hrun, decide_eq_false hposted]; decide), hread]
  dsimp only
  exact (apply_ite Host.Outcome.next _ _ _).symm

theorem exec_phaseOverrun_of_late {c : CompNo} {s : State} (hrun : s.running c.val = true)
    (hopen : s.objC Obj.phaseCompCurrent c.val ≠ 0) (hplan : s.objC Obj.phaseCompCurrent c.val ≠ 255)
    (hlate : s.objC Obj.phaseCompCurrentSince c.val +
      2000 * Pl.us (s.planEntry c.val (s.objC Obj.phaseCompCurrent c.val)) ≤ s.now) :
    exec (.phaseOverrun c) s = .next (if (s.comp c.val).phOver = true then s
      else (s.modComp c.val fun c => { c with phOver := true }).incC Obj.phaseCompOverruns c.val) := by
  rw [exec_phaseOverrun, execPhaseOverrun]
  rw [hrun, decide_eq_false hopen, decide_eq_false hplan, decide_eq_false (Nat.not_lt.2 hlate)]
  cases (s.comp c.val).phOver <;> rfl

theorem exec_tileSelWrite_of_ok {r : Role} {c : CompNo} {v : W64} {s t : State} {st : Status}
    (hok : s.checkWrite r (objAt Obj.evCompTileSel c.val) v.toNat = .ok) (hact : s.tileSelAct r c.val v.toNat = (st, t)) :
    exec (.tileSelWrite r c v) s = .next (if st = .ok then t.reply .ok else t.selRefused c.val st) := by
  rw [exec_tileSelWrite, execTileSelWrite, hok]
  dsimp only
  rw [hact]
  cases st <;> rfl

theorem exec_aggWrite_of_ok {r : Role} {c : CompNo} {j : Fin 64} {v : BitVec 128} {s t : State} {st : Status}
    (hok : s.checkWrite r (aggKey c.val j.val) v.toNat = .ok) (hact : s.aggAct r c.val j.val v.toNat = (st, t)) :
    exec (.aggWrite r c j v) s = .next (if st = .ok then t.reply .ok else t.selRefused c.val st) := by
  rw [exec_aggWrite, execAggWrite, hok]
  dsimp only
  rw [hact]
  cases st <;> rfl

theorem exec_snapReq_of_advance {c : CompNo} {s : State} (hst : (s.comp c.val).st ≠ .free)
    (hadvance : s.advances c.val unitSnap (s.objC Obj.evCompSnapReqPeg c.val) ≠ 0) :
    exec (.snapReq c) s = .next ((s.actOn c.val unitSnap).snapshot c.val) := by
  rw [exec_snapReq, execSnapReq]
  exact if_neg (by rw [decide_eq_false hst, decide_eq_false hadvance]; decide)

theorem exec_snapNow_of_ok {r : Role} {c : CompNo} {s : State}
    (hok : s.checkWrite r (objAt Obj.evCompSnapNow c.val) 1 = .ok) :
    exec (.snapNow r c true) s = .next ((s.snapshot c.val).reply .ok) := by
  rw [exec_snapNow, State.clearWrite_of_true _ hok]

/-- Settles O34: each command by what it finds: the ring's next mark, the open phase, the selection written, the peg. -/
theorem phasesSelectionsAndSnapshots : Obligations.PhasesSelectionsAndSnapshots := by
  unfold Obligations.PhasesSelectionsAndSnapshots
  exact ⟨fun c rem bs s s1 => exec_phaseMarkTake_of_posted, fun c s => exec_phaseOverrun_of_late,
    fun r c v s t st => exec_tileSelWrite_of_ok, fun r c j v s t st => exec_aggWrite_of_ok, exec_evSelectEffect,
    fun c s => exec_snapReq_of_advance, fun r c s => exec_snapNow_of_ok⟩

end Sys2Proof.Machine
end

section
/-! Chapters 16 and 20: the supply, the bus warning and hold-up (R444, R464, R465, R543, R544, R561). -/

namespace Sys2Proof.Machine
open Sys2Proof

/-! The commands, each by the operation that carries it out. -/

theorem exec_inputApplied (mv : BitVec 16) (bad : List (BitVec 24)) (s : State) :
    exec (.inputApplied mv bad) s = execInputApplied mv bad s := rfl
theorem exec_inputLow (mv : BitVec 16) (s : State) : exec (.inputLow mv) s = execInputLow mv s := rfl
theorem exec_inputLoss (mv : BitVec 16) (s : State) : exec (.inputLoss mv) s = execInputLoss mv s := rfl
theorem exec_inputOvervoltage (mv : BitVec 16) (s : State) :
    exec (.inputOvervoltage mv) s = execInputOvervoltage mv s := rfl
theorem exec_busWarnAssert (s : State) : exec .busWarnAssert s = execBusWarnAssert s := rfl
theorem exec_busWarnDeassert (s : State) : exec .busWarnDeassert s = execBusWarnDeassert s := rfl
theorem exec_holdupPause (s : State) : exec .holdupPause s = execHoldupPause s := rfl
theorem exec_holdupExit (mv : BitVec 16) (s : State) : exec (.holdupExit mv) s = execHoldupExit mv s := rfl

/-! The input (R444, R519, R543). -/

theorem exec_inputApplied_of_off {mv : BitVec 16} (bad : List (BitVec 24)) {s : State} (hoff : s.mode = .off)
    (hmv : 44000 ≤ mv.toNat) :
    exec (.inputApplied mv bad) s = .next
      (bad.foldl (fun a k => if persClass k.toNat = 1 then (a.setObj k.toNat (objDefault k.toNat)).fault 0x1109 else a)
        (((s.enterMode .standby).setInput mv.toNat).setObj Obj.holdupBusWarning (b2n s.pins.busWarn))) := by
  rw [exec_inputApplied, execInputApplied, if_neg (Nat.not_lt.2 hmv), if_neg (not_not_intro hoff)]
  rfl

theorem exec_inputApplied_of_low {mv : BitVec 16} (bad : List (BitVec 24)) (s : State) (hmv : mv.toNat < 44000) :
    exec (.inputApplied mv bad) s = .next s := by
  rw [exec_inputApplied, execInputApplied, if_pos hmv]
  rfl

theorem exec_inputApplied_of_power {mv : BitVec 16} (bad : List (BitVec 24)) {s : State} (hpower : s.mode ≠ .off)
    (hmv : 44000 ≤ mv.toNat) : exec (.inputApplied mv bad) s = .next (s.setInput mv.toNat) := by
  rw [exec_inputApplied, execInputApplied, if_neg (Nat.not_lt.2 hmv), if_pos hpower]
  rfl

section Power
variable {mv : BitVec 16} {s : State} (hpower : s.mode ≠ .off)
include hpower

theorem exec_inputLow_of_power (hmv : mv.toNat < 44000) :
    exec (.inputLow mv) s = .next ((s.setInput mv.toNat).supplyFails 0x0E01) := by
  rw [exec_inputLow, execInputLow]
  exact if_neg (by rw [decide_eq_false (Nat.not_le.2 hmv), decide_eq_false hpower]; decide)

theorem exec_inputLoss_of_power (hmv : mv.toNat < 40000) : exec (.inputLoss mv) s = .next (s.powerLoss mv.toNat) := by
  rw [exec_inputLoss, execInputLoss]
  exact if_neg (by rw [decide_eq_false (Nat.not_le.2 hmv), decide_eq_false hpower]; decide)

theorem exec_inputOvervoltage_of_power (hmv : 58000 < mv.toNat) :
    exec (.inputOvervoltage mv) s = .next ((s.setInput mv.toNat).failModule 0x0E05) := by
  rw [exec_inputOvervoltage, execInputOvervoltage]
  exact if_neg (by rw [decide_eq_false (Nat.not_le.2 hmv), decide_eq_false hpower]; decide)
end Power

/-! The bus warning (R464, R544, R561). -/

theorem exec_busWarnAssert_of_clear {s : State} (hclear : s.pins.busWarn = false) :
    let s1 := { s with pins := { s.pins with busWarn := true } }
    exec .busWarnAssert s = .next (if s.mode = .off then s1 else (s1.setObj Obj.holdupBusWarning 1).supplyFails 0x0E02) := by
  intro s1
  rw [exec_busWarnAssert, execBusWarnAssert, hclear, apply_ite Host.Outcome.next]
  rfl

theorem exec_busWarnDeassert_of_power {s : State} (hpower : s.mode ≠ .off) :
    let s2 := { s with pins := { s.pins with busWarn := false } }.setObj Obj.holdupBusWarning 0
    exec .busWarnDeassert s = .next
      (if (s.mode = .standby ∧ s.startPending = true) ∨ s2.autoReady = true then s2.enterVerify else s2) := by
  intro s2
  rw [exec_busWarnDeassert, execBusWarnDeassert, if_neg hpower, apply_ite Host.Outcome.next]
  simp only [Bool.or_eq_true, Bool.and_eq_true, decide_eq_true_eq]
  rfl

/-! Hold-up (R464, R465). -/

section Holdup
variable {s : State} (hholdup : s.mode = .holdup)
include hholdup

theorem exec_holdupPause_of_spent (hruns : s.power.paused = false)
    (hspent : s.modeAt + s.obj Obj.holdupBudgetS * 1000000000 ≤ s.now) :
    exec .holdupPause s = .next ({ s.fault 0x0E04 with power := { s.power with paused := true } }.recapAll) := by
  rw [exec_holdupPause, execHoldupPause]
  exact if_neg (by
    rw [decide_eq_false (not_not_intro hholdup), hruns, decide_eq_false (Nat.not_lt.2 hspent)]; decide)

theorem exec_holdupExit_of_clear {mv : BitVec 16} (hlow : 46000 ≤ mv.toNat) (hhigh : mv.toNat ≤ 58000)
    (hwarn : s.pins.busWarn = false) (hclear : s.modeAt + s.obj Obj.holdupClearMs * 1000000 ≤ s.now) :
    let s1 := ((s.setInput mv.toNat).fault 0x0E03).enterMode
      (if ((List.range 8).any fun n => s.running n) then .run else .ready)
    exec (.holdupExit mv) s = .next (({ s1 with power := { s1.power with paused := false } }.recapAll).raiseAll 2) := by
  intro s1
  rw [exec_holdupExit, execHoldupExit]
  exact if_neg (by
    rw [decide_eq_false (not_not_intro hholdup), decide_eq_false (Nat.not_lt.2 hlow), decide_eq_false (Nat.not_lt.2 hhigh),
      hwarn, decide_eq_false (Nat.not_lt.2 hclear)]; decide)
end Holdup

/-- Settles O35: each event by the mode, the voltage and the line it finds. That the 46 V held for clear_ms is read as time in
HOLDUP, and that an input applied with power only shows its voltage, is the model's choice. -/
theorem supplyEventsMoveTheModule : Obligations.SupplyEventsMoveTheModule := by
  unfold Obligations.SupplyEventsMoveTheModule
  exact ⟨fun mv bad s => ⟨exec_inputApplied_of_off bad, exec_inputApplied_of_low bad s, exec_inputApplied_of_power bad⟩,
    fun mv s hpower => ⟨exec_inputLow_of_power hpower, exec_inputLoss_of_power hpower,
      exec_inputOvervoltage_of_power hpower⟩,
    fun s => exec_busWarnAssert_of_clear, fun s => exec_busWarnDeassert_of_power, fun s => exec_holdupPause_of_spent,
    fun mv s hholdup => exec_holdupExit_of_clear hholdup⟩

end Sys2Proof.Machine
end

section
/-! Chapter 16: the input power limit and the governor (R445, R448-R456). -/

namespace Sys2Proof.Machine
open Sys2Proof

theorem exec_inputPowerSample (watts common : BitVec 16) (s : State) :
    exec (.inputPowerSample watts common) s = execInputPowerSample watts common s := rfl
theorem exec_powerLimitEval (s : State) : exec .powerLimitEval s = execPowerLimitEval s := rfl
theorem exec_governorWindow (s : State) : exec .governorWindow s = execGovernorWindow s := rfl

/-- Settles O36: a sample by its level and the limit, an interval by what its samples left, a window by the fold over the
compartments. How a sample stands to the last change of level is the model's choice. -/
theorem inputPowerIsHeldToItsLimit : Obligations.InputPowerIsHeldToItsLimit := by
  unfold Obligations.InputPowerIsHeldToItsLimit
  refine ⟨?sample, ?interval, ?window⟩
  case sample =>
    intro watts common s hpower limit w s1 p s2
    rw [exec_inputPowerSample, execInputPowerSample, if_neg hpower]
    by_cases hover : p.factor = 0 ∧ limit < w
    · rw [if_pos hover]
      refine (if_pos (by rw [decide_eq_true hover.1, decide_eq_true hover.2]; rfl)).trans ?_
      exact (apply_ite Host.Outcome.next _ _ _).symm
    · rw [if_neg hover]
      exact if_neg (by simpa using hover)
  case interval =>
    intro s hpower hnew p s1
    rw [exec_powerLimitEval, execPowerLimitEval]
    dsimp only
    rw [if_neg (by simp [hpower, hnew])]
    cases s.power.due with
    | some l => rfl
    | none =>
      dsimp only [p]
      split
      · rfl
      · split <;> rfl
  case window =>
    intro s hpower hnew s1 s2
    rw [exec_governorWindow, execGovernorWindow]
    exact if_neg (by simp [hpower, hnew])

end Sys2Proof.Machine
end

section
/-! Chapter 16: cooling and the thermal levels (R457-R462, R568). -/

namespace Sys2Proof.Machine
open Sys2Proof

/-! The commands, each by the operation that carries it out. -/

theorem exec_valveTick (x : Sensors) (s : State) : exec (.valveTick x) s = execValveTick x s := rfl
theorem exec_coolantFlowLow (x : Sensors) (s : State) : exec (.coolantFlowLow x) s = execCoolantFlowLow x s := rfl
theorem exec_coolantInletRange (x : Sensors) (s : State) : exec (.coolantInletRange x) s = execCoolantInletRange x s := rfl
theorem exec_thermalEval (x : Sensors) (s : State) : exec (.thermalEval x) s = execThermalEval x s := rfl
theorem exec_thermalEmergency (x : Sensors) (s : State) : exec (.thermalEmergency x) s = execThermalEmergency x s := rfl
theorem exec_thermalFault (x : Sensors) (s : State) : exec (.thermalFault x) s = execThermalFault x s := rfl

/-- R568: with the sensors' domain without power each command of the cooling does nothing. -/
theorem exec_cooling_of_not_sensing {x : Sensors} {s : State} (hoff : s.sensing = false) {i : Instr}
    (hi : i ∈ [Instr.valveTick x, .coolantFlowLow x, .coolantInletRange x, .thermalEval x, .thermalEmergency x,
      .thermalFault x]) : exec i s = .next s := by
  simp only [List.mem_cons, List.not_mem_nil, or_false] at hi
  obtain rfl | rfl | rfl | rfl | rfl | rfl := hi
  · rw [exec_valveTick, execValveTick, hoff]; rfl
  · rw [exec_coolantFlowLow, execCoolantFlowLow, hoff]; rfl
  · rw [exec_coolantInletRange, execCoolantInletRange, hoff]; rfl
  · rw [exec_thermalEval, execThermalEval, hoff]; rfl
  · rw [exec_thermalEmergency, execThermalEmergency, hoff]; rfl
  · rw [exec_thermalFault, execThermalFault, hoff]; rfl

/-- A coolant fault raises the thermal level to 2 from below. -/
def State.raisedThermal (u : State) : State := if u.obj Obj.thermalStatus < 2 then u.setThermal 2 else u

section Sensing
variable {x : Sensors} {s : State} (hsensing : s.sensing = true)
include hsensing

theorem exec_coolantFlowLow_of_sensing : let t := s.takeSensors x
    exec (.coolantFlowLow x) s = .next
      (if t.power.flowLow = false ∧ 2 * x.flow < t.power.flowSet100 ∧ 100 ≤ x.valve then
        State.raisedThermal { t.fault 0x0E0C with power := { t.power with flowLow := true } } else t) := by
  intro t
  rw [exec_coolantFlowLow, execCoolantFlowLow, if_neg (by simp [hsensing])]
  by_cases hlow : t.power.flowLow = false ∧ 2 * x.flow < t.power.flowSet100 ∧ 100 ≤ x.valve
  · rw [if_pos hlow]
    exact if_neg (by simpa [and_assoc] using hlow)
  · rw [if_neg hlow]
    exact if_pos (by simpa [or_iff_not_imp_left] using hlow)

theorem exec_coolantInletRange_of_sensing : let t := s.takeSensors x
    exec (.coolantInletRange x) s = .next
      (if t.power.inletBad = false ∧ (t.power.tIn < 2000 ∨ 4500 < t.power.tIn) then
        State.raisedThermal { t.fault 0x0E0D with power := { t.power with inletBad := true } } else t) := by
  intro t
  rw [exec_coolantInletRange, execCoolantInletRange, if_neg (by simp [hsensing])]
  by_cases hbad : t.power.inletBad = false ∧ (t.power.tIn < 2000 ∨ 4500 < t.power.tIn)
  · rw [if_pos hbad]
    exact if_neg (by simpa [or_iff_not_imp_left] using hbad)
  · rw [if_neg hbad]
    exact if_pos (by simpa [or_iff_not_imp_left] using hbad)

theorem exec_thermalEval_of_due (hnew : s.power.thermNo < s.now / 100000000) :
    let t := s.takeSensors x
    let u : State := { t with power := { t.power with thermNo := s.now / 100000000 } }
    let cur := u.obj Obj.thermalStatus
    exec (.thermalEval x) s = .next
      (if cur < u.thermalLevel 0 then u.setThermal (u.thermalLevel 0)
       else if cur ≤ u.thermalLevel 30 then { u with power := { u.power with seenAt := u.now } }
       else if u.power.seenAt + 100000000 ≤ u.now then u.setThermal (u.thermalLevel 0) else u) := by
  intro t u cur
  rw [exec_thermalEval, execThermalEval, if_neg (by simp [hsensing, hnew]), apply_ite Host.Outcome.next,
    apply_ite Host.Outcome.next, apply_ite Host.Outcome.next]
  rfl

theorem exec_thermalEval_again (hold : s.now / 100000000 ≤ s.power.thermNo) : exec (.thermalEval x) s = .next s := by
  rw [exec_thermalEval, execThermalEval, if_pos (by simp [hsensing, hold])]
  rfl

theorem exec_thermalEmergency_of_sensing : let t := s.takeSensors x
    exec (.thermalEmergency x) s = .next (if t.thermalLevel 0 = 3 then t.setThermal 3 else t) := by
  intro t
  rw [exec_thermalEmergency, execThermalEmergency, hsensing, apply_ite Host.Outcome.next]
  rfl

theorem exec_thermalFault_of_sensing : let t := s.takeSensors x
    exec (.thermalFault x) s = .next
      (if (t.obj Obj.thermalStatus = 3 ∧ t.power.emergAt + 10000000000 ≤ t.now) ∨ 1200 < hottest x.hot then
        t.failModule 0x0E0B else t) := by
  intro t
  rw [exec_thermalFault, execThermalFault, hsensing, apply_ite Host.Outcome.next]
  simp only [Bool.or_eq_true, Bool.and_eq_true, decide_eq_true_eq]
  rfl

theorem exec_valveTick_again (hold : s.now / 10000000 ≤ s.power.valveNo) : exec (.valveTick x) s = .next s := by
  rw [exec_valveTick, execValveTick, if_pos (by simp [hsensing, hold])]
  rfl
end Sensing

/-- Settles O48: each command by the readings it takes and the interval it falls in. That 0x0E0C and 0x0E0D raise the level at
once, their durations left to the event, is the model's choice. -/
theorem coolingIsControlledAndProtects : Obligations.CoolingIsControlledAndProtects := by
  unfold Obligations.CoolingIsControlledAndProtects
  intro x s t p raised
  refine ⟨fun hoff i => exec_cooling_of_not_sensing hoff, fun hsensing => ⟨fun hnew => ?valve,
    exec_valveTick_again hsensing, exec_coolantFlowLow_of_sensing hsensing, exec_coolantInletRange_of_sensing hsensing,
    exec_thermalEval_of_due hsensing, exec_thermalEval_again hsensing, exec_thermalEmergency_of_sensing hsensing,
    exec_thermalFault_of_sensing hsensing⟩⟩
  case valve =>
    intro pff target dt fff e low high i f q
    rw [exec_valveTick, execValveTick, if_neg (by simp [hsensing, hnew])]
    simp only [Bool.and_eq_true]
    rfl

end Sys2Proof.Machine
end

section
/-! Chapter 17: span time over the network (R471-R478). -/

namespace Sys2Proof.Machine
open Sys2Proof

/-! The commands, each by the operation that carries it out. -/

theorem exec_ptpSync (x : PtpIn) (s : State) : exec (.ptpSync x) s = execPtpSync x s := rfl
theorem exec_ptpFollowUp (x : PtpIn) (s : State) : exec (.ptpFollowUp x) s = execPtpFollowUp x s := rfl
theorem exec_ptpDelayReq (x : PtpIn) (s : State) : exec (.ptpDelayReq x) s = execPtpDelayReq x s := rfl
theorem exec_ptpDelayResp (x : PtpIn) (s : State) : exec (.ptpDelayResp x) s = execPtpDelayResp x s := rfl
theorem exec_ptpAnnounce (x : PtpIn) (s : State) : exec (.ptpAnnounce x) s = execPtpAnnounce x s := rfl
theorem exec_ptpSyncSend (p : PortNo) (s : State) : exec (.ptpSyncSend p) s = execPtpSyncSend p s := rfl
theorem exec_ptpAnnounceSend (p : PortNo) (s : State) : exec (.ptpAnnounceSend p) s = execPtpAnnounceSend p s := rfl
theorem exec_ptpDelayReqSend (p : Fin 33) (s : State) : exec (.ptpDelayReqSend p) s = execPtpDelayReqSend p s := rfl
theorem exec_timeSourceLost (s : State) : exec .timeSourceLost s = execTimeSourceLost s := rfl
theorem exec_timeHoldoverLimit (s : State) : exec .timeHoldoverLimit s = execTimeHoldoverLimit s := rfl

/-! Messages received (R475-R478). -/

section Received
variable {x : PtpIn} {s t : State} {m : PtpMsg}

theorem exec_ptpSync_of_accepted (hin : s.ptpIn 0 x = (some m, t)) :
    exec (.ptpSync x) s = .next (if m.oneStep = true then t.measure m.port m.ts (t.timestamp m.port)
      else t.modPtp m.port fun z => { z with sync := some (m.seq, t.timestamp m.port) }) := by
  rw [exec_ptpSync, execPtpSync, hin, apply_ite Host.Outcome.next]
  rfl

theorem exec_ptpFollowUp_of_accepted (hin : s.ptpIn 1 x = (some m, t)) :
    exec (.ptpFollowUp x) s = .next ((t.ptpPort m.port).sync.elim t fun q =>
      if q.1 = m.seq then t.measure m.port m.ts q.2 else t) := by
  rw [exec_ptpFollowUp, execPtpFollowUp, hin]
  dsimp only
  cases (t.ptpPort m.port).sync with
  | none => rfl
  | some q => exact (apply_ite Host.Outcome.next _ _ _).symm

theorem exec_ptpDelayReq_of_accepted (hin : s.ptpIn 2 x = (some m, t)) :
    exec (.ptpDelayReq x) s = .next (if m.port = mgmtPort then t
      else (t.ptpFrame m.port (pack [(0, 3), (8, m.seq), (32, t.timestamp m.port)])).getD t) := by
  rw [exec_ptpDelayReq, execPtpDelayReq, hin, apply_ite Host.Outcome.next]
  rfl

section Response
variable (hin : s.ptpIn 3 x = (some m, t))
include hin

theorem exec_ptpDelayResp_of_pair {t1 t2 t3 : Nat} (hreq : (t.ptpPort m.port).req = some (m.seq, t3))
    (hpair : (t.ptpPort m.port).pair = some (t1, t2)) :
    exec (.ptpDelayResp x) s = .next (t.takeDelay m.port ((((t2 : Int) - t1) + ((m.ts : Int) - t3)) / 2)) := by
  rw [exec_ptpDelayResp, execPtpDelayResp, hin]
  dsimp only
  rw [hreq, hpair]
  exact if_neg (not_not_intro rfl)

theorem exec_ptpDelayResp_of_other (hother : (t.ptpPort m.port).req = none ∨ (t.ptpPort m.port).pair = none ∨
    (∀ q t3, (t.ptpPort m.port).req = some (q, t3) → q ≠ m.seq)) : exec (.ptpDelayResp x) s = .next t := by
  rw [exec_ptpDelayResp, execPtpDelayResp, hin]
  dsimp only
  cases hreq : (t.ptpPort m.port).req with
  | none => rfl
  | some r =>
    cases hpair : (t.ptpPort m.port).pair with
    | none => rfl
    | some p =>
      have hseq : r.1 ≠ m.seq := by simpa [hreq, hpair, Prod.ext_iff] using hother
      exact if_pos hseq
end Response
end Received

/-! Messages sent (R474, R476-R478). -/

section Master
variable {p : PortNo} {s s1 s2 : State} (hmaster : s.isMaster p.val = true)
include hmaster

theorem exec_ptpSyncSend_of_due (hdue : s.ptpDue (s.ptpPort p.val).syncAt (secUnits / 16) = true)
    (hsync : s.ptpFrame p.val (pack [(0, 0), (8, (s.ptpPort p.val).syncSeq)]) = some s1)
    (hfollow : s1.ptpFrame p.val (pack [(0, 1), (8, (s.ptpPort p.val).syncSeq), (32, s.timestamp p.val)]) = some s2) :
    exec (.ptpSyncSend p) s = .next
      (s2.modPtp p.val fun y => { y with syncSeq := (y.syncSeq + 1) % 65536, syncAt := some s.time }) := by
  rw [exec_ptpSyncSend, execPtpSyncSend]
  rw [hmaster, hdue, hsync]
  dsimp only
  rw [hfollow]
  rfl

theorem exec_ptpAnnounceSend_of_due (hdue : s.ptpDue (s.ptpPort p.val).annAt secUnits = true)
    (hsent : s.ptpFrame p.val (pack [(0, 4), (8, (s.ptpPort p.val).annSeq)] + s.announced) = some s1) :
    exec (.ptpAnnounceSend p) s = .next
      (s1.modPtp p.val fun y => { y with annSeq := (y.annSeq + 1) % 65536, annAt := some s.time }) := by
  rw [exec_ptpAnnounceSend, execPtpAnnounceSend]
  rw [hmaster, hdue, hsent]
  rfl
end Master

/-- Settles O49: each message by what ptpIn made of it, each message sent by the port's timers, the source by whether it
qualifies. That a holdover past its limit is HOLDOVER_EXPIRED (R472, R488), and what a message of a pair is matched by, is
the model's choice. -/
theorem timeMessagesAreTakenAndSent : Obligations.TimeMessagesAreTakenAndSent := by
  unfold Obligations.TimeMessagesAreTakenAndSent
  refine ⟨?received, fun p s s1 s2 hmaster => ⟨exec_ptpSyncSend_of_due hmaster, exec_ptpAnnounceSend_of_due hmaster⟩,
    ?slave, ?request, ?lost, ?holdover⟩
  case received =>
    intro x s t
    refine ⟨fun hin => ?sync, fun hin => ?followUp, fun hin => ?delayReq, fun hin => ?delayResp, fun hin => ?announce,
      fun m => ⟨exec_ptpSync_of_accepted, exec_ptpFollowUp_of_accepted, exec_ptpDelayReq_of_accepted,
        fun t1 t2 t3 hin => exec_ptpDelayResp_of_pair hin, exec_ptpDelayResp_of_other, fun hin => ?dataset⟩⟩
    case sync => rw [exec_ptpSync, execPtpSync, hin]; rfl
    case followUp => rw [exec_ptpFollowUp, execPtpFollowUp, hin]; rfl
    case delayReq => rw [exec_ptpDelayReq, execPtpDelayReq, hin]; rfl
    case delayResp => rw [exec_ptpDelayResp, execPtpDelayResp, hin]; rfl
    case announce => rw [exec_ptpAnnounce, execPtpAnnounce, hin]; rfl
    case dataset => rw [exec_ptpAnnounce, execPtpAnnounce, hin]; rfl
  case slave =>
    intro p s hslave
    exact ⟨by rw [exec_ptpSyncSend, execPtpSyncSend, hslave]; rfl,
      by rw [exec_ptpAnnounceSend, execPtpAnnounceSend, hslave]; rfl⟩
  case request =>
    intro p s hpower x sent
    rw [exec_ptpDelayReqSend, execPtpDelayReqSend, if_neg hpower]
    refine ⟨fun hmgmt => ?management, fun s1 hfabric hdue hsent => ?fabric⟩
    case management =>
      rw [if_pos hmgmt, apply_ite Host.Outcome.next]
      simp only [Option.isNone_iff_eq_none]
      rfl
    case fabric =>
      rw [if_neg hfabric, hdue, hsent]
      rfl
  case lost =>
    intro p s hpower hsource
    rw [exec_timeSourceLost, execTimeSourceLost, hsource, apply_ite Host.Outcome.next]
    simp only [hpower, decide_false, Bool.false_or]
    rfl
  case holdover =>
    intro s hpower
    rw [exec_timeHoldoverLimit, execTimeHoldoverLimit]
    by_cases hlimit : s.obj Obj.timeState = 3 ∧ s.obj Obj.timeHoldoverLimitS ≤ s.holdoverSeconds
    · rw [if_pos hlimit]
      exact if_neg (by simp [hpower, hlimit])
    · rw [if_neg hlimit]
      exact if_pos (by simpa [hpower, or_iff_not_imp_left] using hlimit)

end Sys2Proof.Machine
end

section
/-! Chapter 18: the loads of a forming compartment (R386, R498-R500), and the acknowledge of a result (R506). -/

namespace Sys2Proof.Machine
open Sys2Proof

/-! The loads, each by its action on the bytes read. -/

theorem exec_loadProgram (f : FuncNo) (q : PairNo) (d : HostRead) (s : State) :
    exec (.loadProgram f q d) s = execLoadProgram f q d s := rfl
theorem exec_loadSpan (f : FuncNo) (q : PairNo) (d : HostRead) (s : State) :
    exec (.loadSpan f q d) s = execLoadSpan f q d s := rfl
theorem exec_loadMapTable (f : FuncNo) (q : PairNo) (d : HostRead) (s : State) :
    exec (.loadMapTable f q d) s = execLoadMapTable f q d s := rfl
theorem exec_loadPhasePlan (f : FuncNo) (q : PairNo) (d : HostRead) (s : State) :
    exec (.loadPhasePlan f q d) s = execLoadPhasePlan f q d s := rfl
theorem exec_loadScaleTable (f : FuncNo) (q : PairNo) (d : HostRead) (s : State) :
    exec (.loadScaleTable f q d) s = execLoadScaleTable f q d s := rfl
theorem exec_loadLayerTable (f : FuncNo) (q : PairNo) (d : HostRead) (s : State) :
    exec (.loadLayerTable f q d) s = execLoadLayerTable f q d s := rfl

theorem State.loadRun_of_head {s : State} {f q k : Nat} {t : Taken} (d : HostRead)
    (act : Nat → Nat → List Byte → State → Ends) (hhead : s.headOf f q = some t) (hkind : Sq.kind t.raw = k) :
    s.loadRun f q k d act = s.hostRun f q 1 true true (loadShape k) forming fun t s =>
      s.withData f q t.raw d fun bs => act (f - 1) t.raw bs s := by
  rw [State.loadRun, hhead]
  exact if_neg (not_not_intro hkind)

/-- How a load of kind k at the head of its pair ends: by its action on the bytes, by the failed read, or refused. -/
theorem load_ends {f : FuncNo} {q : PairNo} {k : Nat} {i : HostRead → Instr} {s u : State} {t : Taken} {bs : List Byte}
    (act : Nat → Nat → List Byte → State → Ends) (hhead : s.headOf f.val q.val = some t)
    (hi : ∀ d, exec (i d) s = ok (s.loadRun f.val q.val k d act))
    (hact : (act (f.val - 1) t.raw (padTo (Sq.len t.raw) bs) s).settled f.val q.val = u) :
    ((Sq.opcode t.raw = 1 ∧ Sq.kind t.raw = k ∧ s.hostLink = true) ∧
        s.hostRefusal f.val t.raw true (loadShape k) forming = none → exec (i (.data bs)) s = .next u) ∧
    ((Sq.opcode t.raw = 1 ∧ Sq.kind t.raw = k ∧ s.hostLink = true) ∧
        s.hostRefusal f.val t.raw true (loadShape k) forming = none → exec (i .failed) s =
      .next ((s.hostViolation f.val (some q.val) 0x1007).finish f.val q.val .accessDenied 0x1007 0)) ∧
    (∀ (st : Status) (code : Nat) (d : HostRead), (Sq.opcode t.raw = 1 ∧ Sq.kind t.raw = k ∧ s.hostLink = true) →
      s.hostRefusal f.val t.raw true (loadShape k) forming = some (st, code) →
      exec (i d) s = .next (s.hostRefuse f.val q.val st code)) := by
  have hrun (d : HostRead) (hkind : Sq.kind t.raw = k) :=
    (hi d).trans (congrArg ok (State.loadRun_of_head d act hhead hkind))
  refine ⟨?data, ?failed, ?refused⟩
  case data =>
    rintro ⟨⟨hop, hkind, hlink⟩, hfree⟩
    rw [exec_of_free _ hhead hop (fun _ => hlink) (hrun _ hkind) hfree]
    exact congrArg _ hact
  case failed =>
    rintro ⟨⟨hop, hkind, hlink⟩, hfree⟩
    exact exec_of_free _ hhead hop (fun _ => hlink) (hrun _ hkind) hfree
  case refused =>
    rintro st code d ⟨hop, hkind, hlink⟩ href
    exact exec_of_refused _ hhead hop (fun _ => hlink) (hrun _ hkind) href

/-- A checked table is stored and marked loaded, or the store's code ends it. -/
theorem State.storeTable_eq (s : State) (n e a : Nat) (bs : List Byte) (mark : Upd → Upd) :
    s.storeTable n e a bs mark =
      let w := s.hostStore n .unit .unit a bs
      if w.1 = 0 then (w.2.2.modUpd n mark).loaded n e bs
      else .done (hostStatus w.1) w.1 0 (s.storeRefused w.2.2 n a w.1) := by
  unfold State.storeTable
  rcases s.hostStore n .unit .unit a bs with ⟨_ | code, written, s1⟩ <;> rfl

/-- Settles O37: each load by its action, of which the images and the stores are the branches. That a contributor's page is
answered without a fault code is the model's choice. -/
theorem queueLoadsWriteTheirTables : Obligations.QueueLoadsWriteTheirTables := by
  unfold Obligations.QueueLoadsWriteTheirTables
  intro f q bs s t hhead n e b at_ free digested loaded stored ends base count
  refine ⟨load_ends _ hhead (fun d => exec_loadProgram f q d s) rfl, fun hspan hcontrib htable =>
      load_ends _ hhead (fun d => exec_loadSpan f q d s) ?span,
    load_ends _ hhead (fun d => exec_loadMapTable f q d s) ?maps,
    load_ends _ hhead (fun d => exec_loadPhasePlan f q d s) ?plan,
    load_ends _ hhead (fun d => exec_loadScaleTable f q d s) ?scale,
    load_ends _ hhead (fun d => exec_loadLayerTable f q d s) ?layer⟩
  case span =>
    dsimp only
    rw [hspan, hcontrib, htable]
    dsimp only [stored]
    rcases s.hostStore n .unit .unit (Sq.target e) b with ⟨_ | code, written, s1⟩ <;> rfl
  case maps => exact apply_ite (Ends.settled f.val q.val) _ _ _
  case plan => exact apply_ite (Ends.settled f.val q.val) _ _ _
  case scale =>
    simp only [Bool.and_eq_true]
    rw [apply_ite (Ends.settled f.val q.val), State.storeTable_eq, apply_ite (Ends.settled f.val q.val)]
    rfl
  case layer =>
    simp only [Bool.and_eq_true]
    rw [apply_ite (Ends.settled f.val q.val), State.storeTable_eq, apply_ite (Ends.settled f.val q.val)]
    rfl

/-! The acknowledge (R506). -/

theorem exec_mboxAck (f : FuncNo) (q : PairNo) (s : State) : exec (.mboxAck f q) s = execMboxAck f q s := rfl

/-- What the mailboxes keep through a violation: only the functions, the objects, the log and what is sent change. -/
theorem State.faultOnce_mboxes (s : State) (code comp subject d0 : Nat) :
    (s.faultOnce code comp subject d0).mboxes = s.mboxes := by
  unfold State.faultOnce
  split
  · rfl
  · exact State.fault_mboxes s code comp subject 0 d0 0

theorem State.raiseFunc_mboxes (s : State) (f b : Nat) : (s.raiseFunc f b).mboxes = s.mboxes := by
  unfold State.raiseFunc
  split
  · exact State.raiseOn_mboxes s 0 b
  · exact State.raise_mboxes s b (f - 1)

theorem State.hostViolation_mboxes (s : State) (f : Nat) (at_ : Option Nat) (code : Nat) :
    (s.hostViolation f at_ code).mboxes = s.mboxes := by
  obtain ⟨s1, hs1, hcounted⟩ : ∃ s1, (if f = 0 then s.inc Obj.hostPfViolations else
      s.incC Obj.hostCompViolations (f - 1)).faultOnce code (funcComp f) f = s1 ∧ s1.mboxes = s.mboxes :=
    ⟨_, rfl, by rw [State.faultOnce_mboxes]; split <;> rfl⟩
  unfold State.hostViolation
  dsimp only
  rw [hs1]
  cases at_ with
  | none => exact hcounted
  | some q =>
    dsimp only
    split
    · split
      · rw [State.raiseFunc_mboxes, State.fault_mboxes]; exact hcounted
      · exact hcounted
    · split
      · rw [State.raiseFunc_mboxes, State.fault_mboxes]; exact hcounted
      · exact hcounted

/-- Settles O54: an acknowledge let through has an ARG below 2^32, so it names the generation or it does not. -/
theorem acknowledgeRetiresOnlyItsGeneration : Obligations.AcknowledgeRetiresOnlyItsGeneration := by
  unfold Obligations.AcknowledgeRetiresOnlyItsGeneration
  intro f q s t hhead hop hfree n k m
  have hshape : mboxAckShape s n t.raw = true := by
    by_contra hbad
    unfold State.hostRefusal at hfree
    rw [Bool.eq_false_iff.2 hbad] at hfree
    split at hfree
    · cases hfree
    · split at hfree <;> cases hfree
  have harg : Sq.arg t.raw < 2 ^ 32 := by
    unfold mboxAckShape at hshape
    rw [Bool.and_eq_true, decide_eq_true_eq, decide_eq_true_eq] at hshape
    exact hshape.2
  have hends := exec_of_free (moves := false) _ hhead hop (fun h => Bool.noConfusion h) (exec_mboxAck f q s) hfree
  rw [Nat.mod_eq_of_lt harg]
  refine ⟨fun hready hgen => ⟨s.setMBox n k { MBox.init with gen := m.gen }, ?retired, ?_⟩, fun hstale => ⟨_, ?stale, ?_, rfl⟩⟩
  case retired =>
    rw [hends]
    exact congrArg (fun x => Host.Outcome.next (Ends.settled f.val q.val x)) (if_pos (by rw [hready, decide_eq_true hgen]; rfl))
  case stale =>
    rw [hends]
    exact congrArg (fun x => Host.Outcome.next (Ends.settled f.val q.val x)) (if_neg (by simpa [or_iff_not_imp_left] using hstale))
  · rw [State.mbox_setMBox_self]
    exact ⟨rfl, rfl, rfl, rfl, rfl, rfl⟩
  · exact State.hostViolation_mboxes _ _ _ _

end Sys2Proof.Machine
end
section
/-! Chapter 18: the registers of BAR0, the link, the resets and the mailbox of the endpoint (R489, R493, R496, R497,
R508-R511). -/

namespace Sys2Proof.Machine
open Sys2Proof

/-! The registers on a function that is up (R493, R496, R497, R508). -/

theorem exec_sqTail (f : FuncNo) (q : PairNo) (v : W32) (es : List (Option (BitVec 512))) (s : State) :
    exec (.sqTail f q v es) s = execSqTail f q v es s := rfl
theorem exec_cqHead (f : FuncNo) (q : PairNo) (v : W32) (es : List (Option (BitVec 512))) (s : State) :
    exec (.cqHead f q v es) s = execCqHead f q v es s := rfl
theorem exec_queueEnable (f : FuncNo) (q : PairNo) (v : Byte) (s : State) :
    exec (.queueEnable f q v) s = execQueueEnable f q v s := rfl
theorem exec_hostBarViolation (f : FuncNo) (at_ : Option (Fin 17)) (s : State) :
    exec (.hostBarViolation f at_) s = execHostBarViolation f at_ s := rfl

/-- Whether a value is within the rule of its register of a pair, and the pair that holds it then. -/
def Pair.regFits (reg : Fin 4) (v : W64) : Bool :=
  match reg with
  | 0 => v.toNat % 4096 = 0
  | 1 => v.toNat % 4096 = 0
  | 2 => decide (4 ≤ v.toNat ∧ v.toNat ≤ 16)
  | 3 => v.toNat ≤ 2047

def Pair.withReg (x : Pair) (reg : Fin 4) (v : W64) : Pair :=
  match reg with
  | 0 => { x with sqBase := v }
  | 1 => { x with cqBase := v }
  | 2 => { x with depth := v.toNat }
  | 3 => { x with vector := v.toNat }

theorem exec_queueRegisterWrite (f : FuncNo) (q : PairNo) (reg : Fin 4) (v : W64) (s : State) :
    exec (.queueRegisterWrite f q reg v) s =
      if (!s.hostUp f.val) = true then .next s
      else if (s.pair f.val q.val).qstate ≠ 0 then .next (s.hostViolation f.val (some q.val) 0x1006)
      else if (!Pair.regFits reg v) = true then .next (s.hostViolation f.val (some q.val) 0x1008)
      else .next (s.setPair f.val q.val ((s.pair f.val q.val).withReg reg v)) := rfl

theorem causeWrite_down {f : FuncNo} {s : State} (h : (!s.hostUp f.val) = true) (reg : Fin 3) (v : W64) :
    exec (.causeWrite f reg v) s = .next s :=
  if_pos h

theorem sqTail_inactive {f : FuncNo} {s : State} (q : PairNo) (v : W32) (es : List (Option (BitVec 512)))
    (h : (s.pair f.val q.val).qstate ≠ 1) :
    exec (.sqTail f q v es) s = .next s := by
  rw [exec_sqTail, execSqTail]
  exact if_pos (by simp [h])

theorem cqHead_disabled {f : FuncNo} {s : State} (q : PairNo) (v : W32) (es : List (Option (BitVec 512)))
    (h : (s.pair f.val q.val).qstate = 0) :
    exec (.cqHead f q v es) s = .next s := by
  rw [exec_cqHead, execCqHead]
  exact if_pos (by simp [h])

section Up
variable {f : FuncNo} {s : State} (hup : s.hostUp f.val = true)
include hup

theorem sqTail_active (q : PairNo) (v : W32) (es : List (Option (BitVec 512))) (hactive : (s.pair f.val q.val).qstate = 1) :
    exec (.sqTail f q v es) s =
      if 2 ^ 31 ≤ (v.toNat + 2 ^ 32 - (s.pair f.val q.val).sqTaken) % 2 ^ 32 ∨
          (s.pair f.val q.val).entries < (v.toNat + 2 ^ 32 - (s.pair f.val q.val).sqTaken) % 2 ^ 32 then
        .next (s.hostViolation f.val (some q.val) 0x1004)
      else .next ((s.setPair f.val q.val { s.pair f.val q.val with tail := v.toNat }).takeNow f.val q.val es) := by
  rw [exec_sqTail, execSqTail]
  dsimp only
  rw [if_neg (by simp [hup, hactive])]
  simp only [Bool.or_eq_true, decide_eq_true_eq]
  rfl

theorem cqHead_enabled (q : PairNo) (v : W32) (es : List (Option (BitVec 512))) (h : (s.pair f.val q.val).qstate ≠ 0) :
    exec (.cqHead f q v es) s =
      if 2 ^ 31 ≤ (v.toNat + 2 ^ 32 - (s.pair f.val q.val).head) % 2 ^ 32 ∨
          2 ^ 31 ≤ ((s.pair f.val q.val).produced + 2 ^ 32 - v.toNat) % 2 ^ 32 then
        .next (s.hostViolation f.val (some q.val) 0x1005)
      else .next ((s.setPair f.val q.val { s.pair f.val q.val with head := v.toNat }).takeNow f.val q.val es) := by
  rw [exec_cqHead, execCqHead]
  dsimp only
  rw [if_neg (by simp [hup, h])]
  simp only [Bool.or_eq_true, decide_eq_true_eq]
  rfl

theorem queueEnable_zero (q : PairNo) : exec (.queueEnable f q 0) s = .next (s.disablePair f.val q.val) := by
  rw [exec_queueEnable, execQueueEnable, if_neg (by simp [hup]), if_neg (by decide)]
  exact if_pos rfl

theorem queueEnable_one (q : PairNo) : exec (.queueEnable f q 1) s = .next
    (if (s.pair f.val q.val).enable = true then s else s.setPair f.val q.val
      { s.pair f.val q.val with enable := true, qstate := 1, sqTaken := 0, tail := 0, produced := 1, head := 1 }) := by
  rw [exec_queueEnable, execQueueEnable]
  dsimp only
  rw [if_neg (by simp [hup]), if_neg (by decide), if_neg (by decide)]
  exact (apply_ite Host.Outcome.next _ _ _).symm

theorem queueEnable_other (q : PairNo) (v : Byte) (hv : 1 < v.toNat) :
    exec (.queueEnable f q v) s = .next (s.hostViolation f.val (some q.val) 0x1008) := by
  rw [exec_queueEnable, execQueueEnable, if_neg (by simp [hup])]
  exact if_pos hv

theorem queueRegisterWrite_enabled (q : PairNo) (reg : Fin 4) (v : W64) (h : (s.pair f.val q.val).qstate ≠ 0) :
    exec (.queueRegisterWrite f q reg v) s = .next (s.hostViolation f.val (some q.val) 0x1006) := by
  rw [exec_queueRegisterWrite, if_neg (by simp [hup])]
  exact if_pos h

theorem queueRegisterWrite_disabled (q : PairNo) (reg : Fin 4) (v : W64) (h : (s.pair f.val q.val).qstate = 0) :
    exec (.queueRegisterWrite f q reg v) s = if Pair.regFits reg v = true then
      .next (s.setPair f.val q.val ((s.pair f.val q.val).withReg reg v))
      else .next (s.hostViolation f.val (some q.val) 0x1008) := by
  rw [exec_queueRegisterWrite, if_neg (by simp [hup]), if_neg (not_not.2 h)]
  cases Pair.regFits reg v <;> rfl

theorem causeWrite_up (v : W64) :
    exec (.causeWrite f 0 v) s = .next (s.modFunc f.val fun y => { y with cause := (BitVec.ofNat 64 y.cause &&& ~~~v).toNat }) ∧
    exec (.causeWrite f 1 v) s = .next (s.modFunc f.val fun y => { y with mask := v }) ∧
    exec (.causeWrite f 2 v) s = .next (if v.toNat ≤ 2047 then s.modFunc f.val fun y => { y with vector := v.toNat }
      else s.hostViolation f.val none 0x1008) := by
  have hnot : ¬ (!s.hostUp f.val) = true := by simp [hup]
  exact ⟨if_neg hnot, if_neg hnot, (if_neg hnot).trans (apply_ite Host.Outcome.next _ _ _).symm⟩

theorem hostBarViolation_up (at_ : Option (Fin 17)) :
    exec (.hostBarViolation f at_) s = .next (s.hostViolation f.val (at_.map (·.val)) 0x1008) := by
  rw [exec_hostBarViolation, execHostBarViolation]
  exact if_pos hup
end Up

/-- Every access to a function that is not up ends before it looks at anything. -/
theorem register_down {f : FuncNo} {s : State} (hdown : s.hostUp f.val = false) (q : PairNo) (v : W32)
    (es : List (Option (BitVec 512))) (e : Byte) (r4 : Fin 4) (r3 : Fin 3) (w : W64) (at_ : Option (Fin 17)) :
    ∀ i ∈ [Instr.sqTail f q v es, .cqHead f q v es, .queueEnable f q e, .queueRegisterWrite f q r4 w,
      .causeWrite f r3 w, .hostBarViolation f at_], exec i s = .next s := by
  have hnot : (!s.hostUp f.val) = true := by rw [hdown]; rfl
  simp only [List.forall_mem_cons, List.not_mem_nil, false_imp_iff, implies_true, and_true]
  refine ⟨?tail, ?head, ?enable, ?register, ?cause, ?access⟩
  case tail => rw [exec_sqTail, execSqTail]; exact if_pos (by simp [hdown])
  case head => rw [exec_cqHead, execCqHead]; exact if_pos (by simp [hdown])
  case enable => rw [exec_queueEnable, execQueueEnable]; exact if_pos hnot
  case register => exact if_pos hnot
  case cause => exact causeWrite_down hnot r3 w
  case access => rw [exec_hostBarViolation, execHostBarViolation]; exact if_neg (by simp [hdown])

/-- Settles O40: a rule per register on a function that is up, and one for a function that is not. -/
theorem queueRegistersMoveTheirPair : Obligations.QueueRegistersMoveTheirPair := by
  unfold Obligations.QueueRegistersMoveTheirPair
  intro f q s x bad
  refine ⟨fun hup => ⟨?tail, ?inactive, ?head, queueEnable_zero hup q, queueEnable_one hup q, queueEnable_other hup q,
    queueRegisterWrite_enabled hup q, ?register, causeWrite_up hup, hostBarViolation_up hup⟩,
    fun hdown v es e r4 r3 w at_ => register_down hdown q v es e r4 r3 w at_⟩
  case tail =>
    intro v es d hactive
    rw [sqTail_active hup q v es hactive]
    exact ⟨fun hwindow hroom => if_neg (not_or.2 ⟨Nat.not_le.2 hwindow, Nat.not_lt.2 hroom⟩), fun hout => if_pos hout⟩
  case inactive => exact fun v es h => sqTail_inactive q v es h
  case head =>
    intro v es ahead short
    refine ⟨cqHead_disabled q v es, fun hen hahead hshort => ?_, fun hen hout => ?_⟩
    · rw [cqHead_enabled hup q v es hen]
      exact if_neg (not_or.2 ⟨Nat.not_le.2 hahead, Nat.not_le.2 hshort⟩)
    · rw [cqHead_enabled hup q v es hen]
      exact if_pos hout
  case register =>
    intro v hdis
    refine ⟨?_, ?_, ?_, ?_⟩ <;>
    · rw [queueRegisterWrite_disabled hup q _ v hdis]
      simp only [Pair.regFits, Pair.withReg, decide_eq_true_eq]
      rfl

/-! The link and the resets (R489, R509, R510, R548). -/

theorem exec_hostLinkDown (s : State) : exec .hostLinkDown s = execHostLinkDown s := rfl
theorem exec_hostLinkUp (w : Fin 9) (g : Byte) (vfs : Fin 9) (s : State) :
    exec (.hostLinkUp w g vfs) s = execHostLinkUp w g vfs s := rfl
theorem exec_hostFlr (f : FuncNo) (s : State) : exec (.hostFlr f) s = execHostFlr f s := rfl
theorem exec_endpointReset (perst : Bool) (s : State) : exec (.endpointReset perst) s = execEndpointReset perst s := rfl
theorem exec_mbDoorbell (f : FuncNo) (g : MbRegs) (v : W32) (req : HostRead) (ext : List DictExt) (s : State) :
    exec (.mbDoorbell f g v req ext) s = execMbDoorbell f g v req ext s := rfl
theorem exec_mbQuarantineEnd (f : FuncNo) (s : State) : exec (.mbQuarantineEnd f) s = execMbQuarantineEnd f s := rfl

theorem hostLinkUp_powered (w : Fin 9) (g : Byte) (vfs : Fin 9) (s : State)
    (hmode : s.mode ∈ [.bringup, .ready, .run, .holdup, .service]) (hwidth : w.val ∈ [1, 2, 4, 8])
    (hrate : g.toNat ∈ [2, 5, 8, 16, 32, 64, 128]) :
    let num := if s.hostLink = true ∧ s.obj Obj.hostNumVfs ≠ 0 then s.obj Obj.hostNumVfs else vfs.val
    let s1 := (((s.setObj Obj.hostLinkWidth w.val).setObj Obj.hostLinkGts g.toNat).setObj Obj.hostFlitMode
      (b2n (decide (64 ≤ g.toNat)))).setObj Obj.hostNumVfs num
    let s2 : State := { s1 with hostLink := true, pins := { s1.pins with perstLow := false } }
    exec (.hostLinkUp w g vfs) s = .next
      ((List.range 9).foldl State.deliverFunc (if w.val < 8 ∨ g.toNat < 128 then s2.fault 0x1001 else s2)) := by
  intro num s1 s2
  have hpowered : (s.mode = .bringup || s.mode = .ready || s.mode = .run || s.mode = .holdup || s.mode = .service) = true := by
    simpa [or_assoc] using hmode
  rw [exec_hostLinkUp, execHostLinkUp]
  dsimp only
  rw [if_neg (by rw [hpowered, List.contains_iff_mem.2 hwidth, List.contains_iff_mem.2 hrate]; decide)]
  simp only [Bool.and_eq_true, Bool.or_eq_true, decide_eq_true_eq]
  rfl

theorem hostFlr_up (f : FuncNo) (s : State) (hup : s.hostUp f.val = true) :
    exec (.hostFlr f) s = .next (if f.val = 0 then
        ((List.range 8).foldl State.tdiError (s.fault 0x100F (funcComp f.val) f.val)).resetEndpoint
      else ((s.fault 0x100F (funcComp f.val) f.val).tdiError (f.val - 1)).resetFunc f.val) := by
  rw [exec_hostFlr, execHostFlr, if_neg (by simp [hup])]
  exact (apply_ite Host.Outcome.next _ _ _).symm

/-! The dictionary mailbox (R537, R538). -/

/-- A doorbell that R537 takes: the mailbox neither busy nor quarantined, the value 1, the lengths and vector in range. -/
def Func.rings (y : Func) (g : MbRegs) (v : W32) : Prop :=
  y.mbStatus ≠ 1 ∧ y.mbStatus ≠ 3 ∧ v = 1 ∧ g.reqLen ≠ 0 ∧ g.reqLen.toNat ≤ 65536 ∧ 64 ≤ g.repLen.toNat ∧
    g.repLen.toNat ≤ 262144 ∧ g.vec.toNat ≤ 2047

theorem Func.rings_iff (y : Func) (g : MbRegs) (v : W32) : y.rings g v ↔
    ¬ (y.mbStatus = 1 || y.mbStatus = 3 || v ≠ 1 || g.reqLen = 0 || decide (65536 < g.reqLen.toNat) ||
      decide (g.repLen.toNat < 64) || decide (262144 < g.repLen.toNat) || decide (2047 < g.vec.toNat)) = true := by
  unfold Func.rings
  simp only [Bool.or_eq_true, decide_eq_true_eq, not_or, ne_eq, not_not, not_lt, and_assoc]

theorem mbDoorbell_violation {f : FuncNo} {s : State} (hup : s.hostUp f.val = true) {g : MbRegs} {v : W32}
    (h : ¬ (s.func f.val).rings g v) (req : HostRead) (ext : List DictExt) :
    exec (.mbDoorbell f g v req ext) s = .next (s.hostViolation f.val (some 16) 0x1008) := by
  rw [exec_mbDoorbell, execMbDoorbell]
  dsimp only
  rw [if_neg (by simp [hup])]
  exact if_pos (not_not.1 (mt (Func.rings_iff _ g v).2 h))

theorem mbQuarantineEnd_eq (f : FuncNo) (s : State) : exec (.mbQuarantineEnd f) s = .next
    (if (s.func f.val).mbStatus = 3 ∧ (s.func f.val).mbQuarAt + 1000000000 ≤ s.now then
      s.setFunc f.val { s.func f.val with mbStatus := 0, mbViol := [] } else s) := by
  rw [exec_mbQuarantineEnd, execMbQuarantineEnd]
  dsimp only
  by_cases h : (s.func f.val).mbStatus = 3 ∧ (s.func f.val).mbQuarAt + 1000000000 ≤ s.now
  · rw [if_pos h, if_neg (by simp [h.1, h.2])]
    rfl
  · rw [if_neg h, if_pos (by simpa [or_iff_not_imp_left] using h)]
    rfl

/-- Settles O41. The modes in which the link trains, the 0x1008 of a doorbell out of range and the mailbox idle again
after a failed read are the model's readings. -/
theorem endpointLinksResetsAndItsMailbox : Obligations.EndpointLinksResetsAndItsMailbox := by
  unfold Obligations.EndpointLinksResetsAndItsMailbox
  refine ⟨?down, ?stays, hostLinkUp_powered, hostFlr_up, ?reset, ?doorbell, mbQuarantineEnd_eq⟩
  case down =>
    intro s hlink
    rw [exec_hostLinkDown, execHostLinkDown]
    exact if_neg (by simp [hlink])
  case stays =>
    intro s hlink
    rw [exec_hostLinkDown, execHostLinkDown]
    exact if_pos (by simp [hlink])
  case reset =>
    intro perst s hmode
    rw [exec_endpointReset, execEndpointReset]
    exact if_neg hmode
  case doorbell =>
    intro f g v req ext s hup y fits s1
    refine ⟨fun hbad => mbDoorbell_violation hup hbad req ext, fun hfits => ?_, fun bs hfits => ?_⟩
    · rw [exec_mbDoorbell, execMbDoorbell]
      dsimp only
      rw [if_neg (by simp [hup]), if_neg ((Func.rings_iff _ g v).1 hfits)]
      rfl
    · intro b m s2 s3
      rw [exec_mbDoorbell, execMbDoorbell]
      dsimp only
      rw [if_neg (by simp [hup]), if_neg ((Func.rings_iff _ g v).1 hfits)]
      exact (apply_ite Host.Outcome.next _ _ _).symm

end Sys2Proof.Machine
end
section
/-! Chapter 19: one entry of the dictionary read, written or described (R517, R521-R526). -/

namespace Sys2Proof.Machine
open Sys2Proof

/-- What is told of an entry that has been executed: nothing yet where it is held for a CLOSE, else its reply. -/
def EntryOut.told (o : EntryOut) (key type : Nat) : State :=
  if o.held = true then o.s
  else o.s.emit (.dictReply o.code type o.s.mode.code (o.s.stateFor key) o.fault o.total o.data)

theorem State.entryCommand_of_off {s : State} (hoff : s.mode = .off) (r : Role) (e : Entry) (x : DictExt) :
    s.entryCommand r e x = s :=
  if_pos hoff

theorem State.entryCommand_of_row {s : State} (hpower : s.mode ≠ .off) {e : Entry} {row : ObjRow}
    (hrow : objRow e.key = some row) (r : Role) (x : DictExt) :
    s.entryCommand r e x = (s.doEntry r e x (replyMax - 16)).told e.key row.type := by
  unfold State.entryCommand EntryOut.told
  rw [if_neg hpower, hrow]

theorem EntryOut.told_refused (s : State) (st : Status) (total key type : Nat) :
    (entryRefused s st 0 total).told key type =
      s.emit (.dictReply st.code type s.mode.code (s.stateFor key) 0 total []) :=
  if_neg Bool.false_ne_true

theorem State.doEntry_read {s : State} {e : Entry} {row : ObjRow} (hsound : e.sound = true) (hrow : objRow e.key = some row)
    (hop : e.op = 1) (r : Role) (x : DictExt) (space : Nat) : s.doEntry r e x space = s.readEntry r row e space := by
  unfold State.doEntry
  rw [hrow, hsound]
  exact if_pos hop

theorem State.doEntry_write {s : State} {e : Entry} {row : ObjRow} (hsound : e.sound = true) (hrow : objRow e.key = some row)
    (hop : e.op = 2) (r : Role) (x : DictExt) (space : Nat) : s.doEntry r e x space = s.writeEntry r row e x := by
  unfold State.doEntry
  rw [hrow, hsound]
  dsimp only
  rw [if_neg (by decide), if_neg (by omega), if_pos hop]

theorem State.doEntry_describe {s : State} {e : Entry} {row : ObjRow} (hsound : e.sound = true)
    (hrow : objRow e.key = some row) (hop : e.op = 3) (r : Role) (x : DictExt) {space : Nat} (hspace : 48 ≤ space) :
    s.doEntry r e x space = if roleReads r row e.key = false ∧ roleWrites r row e.key = false then
      entryRefused s .accessDenied 0 row.size else ⟨0, 0, row.size, describe r row e.key, false, s⟩ := by
  unfold State.doEntry
  rw [hrow, hsound]
  dsimp only
  rw [if_neg (by decide), if_neg (by omega), if_neg (by omega), if_neg (Nat.not_lt.2 hspace)]
  simp only [Bool.not_eq_true', Bool.or_eq_false_iff]

/-- Whether a READ names a part the object has (R525): a part of a byte array, the whole of another. -/
def ObjRow.hasPart (row : ObjRow) (off len : Nat) : Bool :=
  if row.type = 16 then decide (off < row.size) && (len = 0 || decide (off + len ≤ row.size))
  else off = 0 && len = 0

theorem State.told_readEntry (s : State) (r : Role) (row : ObjRow) (e : Entry) (space key type : Nat) :
    (s.readEntry r row e space).told key type =
      if roleReads r row e.key = false then (entryRefused s .accessDenied 0 row.size).told key type
      else if row.hasPart e.offset e.length = false then (entryRefused s .outOfRange 0 row.size).told key type
      else if s.notReady row e.key = true then (entryRefused s .notReady 0 row.size).told key type
      else if space < 24 + ((if e.length = 0 then row.size - e.offset else e.length) + 7) / 8 * 8 then
        (entryRefused s .replySpace 0 row.size).told key type
      else s.emit (.dictReply 0 type s.mode.code (s.stateFor key) 0 row.size
        (((leBytes row.size (s.dictValue r row e.key)).drop e.offset).take
          (if e.length = 0 then row.size - e.offset else e.length))) := by
  unfold State.readEntry
  dsimp only
  simp only [apply_ite (fun o : EntryOut => o.told key type), Bool.not_eq_true']
  rfl

theorem State.told_writeEntry (s : State) (r : Role) (row : ObjRow) (e : Entry) (x : DictExt) (key type : Nat) :
    (s.writeEntry r row e x).told key type =
      if roleWrites r row e.key = false then (entryRefused s .accessDenied 0 row.size).told key type
      else if s.stateAllows row e.key = false then (entryRefused s .stateConflict 0 row.size).told key type
      else if e.type ≠ row.type then (entryRefused s .typeMismatch 0 row.size).told key type
      else if e.length ≠ row.size then (entryRefused s .outOfRange 0 row.size).told key type
      else if (s.writeValue r row e.key (leNat e.value) x).held = true then (s.writeValue r row e.key (leNat e.value) x).s
      else (s.writeValue r row e.key (leNat e.value) x).s.emit (.dictReply
        (s.writeValue r row e.key (leNat e.value) x).st.code type (s.writeValue r row e.key (leNat e.value) x).s.mode.code
        ((s.writeValue r row e.key (leNat e.value) x).s.stateFor key) (s.writeValue r row e.key (leNat e.value) x).fault
        row.size (s.writeValue r row e.key (leNat e.value) x).data) := by
  unfold State.writeEntry
  dsimp only
  simp only [apply_ite (fun o : EntryOut => o.told key type), Bool.not_eq_true']
  rfl

/-- A value that every rule lets through, of an object that no command writes, is stored. -/
theorem State.writeValue_stored {s : State} {r : Role} {row : ObjRow} {key v : Nat} {x : DictExt}
    (htype : typeOk row v = true) (hcheck : s.checkWrite r key v = .ok)
    (hvalue : s.valueStatus row.base (key / 256 - row.base / 256) v = .ok) (hkept : row.pers = 1 → x.stored = true)
    (hown : ((commandWrites s r (key / 256 - row.base / 256) (key % 256 - row.base % 256) v row.size x).find?
      fun q => q.1 = row.base) = none) :
    s.writeValue r row key v x = ⟨.ok, 0, [], false, s.storeObj row.base (key / 256 - row.base / 256) key v⟩ := by
  unfold State.writeValue
  dsimp only
  rw [if_neg (by rw [htype]; decide), hcheck]
  dsimp only
  rw [hvalue]
  dsimp only
  rw [if_neg (by simpa using hkept), hown]

/-- Settles O42: each check of R524 and R525 in its order, first for an entry, then for the reply told of it. -/
theorem dictionaryEntriesAreCheckedInOrder : Obligations.DictionaryEntriesAreCheckedInOrder := by
  unfold Obligations.DictionaryEntriesAreCheckedInOrder
  intro r index sub s key type reply refused
  refine ⟨fun off len ty bs x hoff => ?off, fun hpower => ⟨fun hnone off len ty bs x => ?undefined, fun row hrow =>
    ⟨fun off len => ?read, fun ty bs x => ?write, fun v x => ?value, ?describe⟩⟩⟩
  case off =>
    rw [exec_dictRead, exec_dictWrite, exec_dictDescribe]
    simp only [State.entryCommand_of_off hoff, and_self]
  case undefined =>
    have htype : type = 0 := by simp only [type, hnone, Option.elim_none]
    simp only [refused, reply, htype]
    rw [exec_dictRead, exec_dictWrite, exec_dictDescribe]
    refine ⟨?_, ?_, ?_⟩ <;> exact congrArg Host.Outcome.next (s.entryCommand_of_undefined r _ _ hpower rfl hnone)
  case value =>
    intro i htype hcheck hvalue hkept hown
    exact State.writeValue_stored htype hcheck hvalue hkept hown
  all_goals
    have htype : type = row.type := by simp only [type, hrow, Option.elim_some]
    simp only [refused, reply, htype]
  case read =>
    rw [exec_dictRead, State.entryCommand_of_row hpower hrow, State.doEntry_read rfl hrow rfl, State.told_readEntry]
    simp only [apply_ite Host.Outcome.next, EntryOut.told_refused]
    rfl
  case write =>
    rw [exec_dictWrite, State.entryCommand_of_row hpower hrow, State.doEntry_write rfl hrow rfl, State.told_writeEntry]
    simp only [apply_ite Host.Outcome.next, EntryOut.told_refused]
    rfl
  case describe =>
    rw [exec_dictDescribe, State.entryCommand_of_row hpower hrow, State.doEntry_describe rfl hrow rfl r noExt (by decide),
      apply_ite (fun o : EntryOut => o.told _ _), EntryOut.told_refused, apply_ite Host.Outcome.next]
    rfl

end Sys2Proof.Machine
end
section
/-! Chapter 19: sessions on the management port (R530-R536), and the reads of the fabric (R539, R540). -/

namespace Sys2Proof.Machine
open Sys2Proof

/-! Handshakes (R532). -/

theorem exec_xieskInit (m : InitSeg) (s : State) : exec (.xieskInit m) s = execXieskInit m s := rfl
theorem exec_xieskConfirm (m : ConfirmSeg) (s : State) : exec (.xieskConfirm m) s = execXieskConfirm m s := rfl
theorem exec_xieskClose (src : BitVec 128) (id : W32) (sound tagOk : Bool) (s : State) :
    exec (.xieskClose src id sound tagOk) s = execXieskClose src id sound tagOk s := rfl
theorem exec_sessClose (r : Role) (k : Byte) (s : State) : exec (.sessClose r k) s = execSessClose r k s := rfl
theorem exec_sessionIdleTimeout (k : Fin 8) (s : State) :
    exec (.sessionIdleTimeout k) s = execSessionIdleTimeout k s := rfl
theorem exec_sessionLifetime (k : Fin 8) (s : State) : exec (.sessionLifetime k) s = execSessionLifetime k s := rfl
theorem exec_sourceIgnoreEnd (src : BitVec 128) (s : State) :
    exec (.sourceIgnoreEnd src) s = execSourceIgnoreEnd src s := rfl

/-- The state a handshake is noted in, under the next identifier (R532). -/
def State.noteHandshake (s : State) (m : InitSeg) : State :=
  { s with xiesk := { s.xiesk with
    hands := s.xiesk.hands ++ [⟨m.src.toNat, s.xiesk.nextIdent, m.role, m.cert.toNat, s.now, false, 0⟩],
    nextIdent := if s.xiesk.nextIdent + 1 < 2 ^ 32 then s.xiesk.nextIdent + 1 else 1 } }

theorem xieskInit_heard {m : InitSeg} {s : State} (hears : s.hears m.src.toNat = true) :
    exec (.xieskInit m) s = .next
      (if m.sound = false ∨ sessionRole m.role = false then
        (s.refuseWith m.src.toNat 0 .accessDenied).sourceFault m.src.toNat 0x1102
      else if s.obj Obj.sessMaxSessions ≤ s.sessionsOpen then s.refuseWith m.src.toNat 0 .rateLimited
      else if 4 ≤ (s.xiesk.hands.filter fun h => !h.accepted).length then s.sourceFault m.src.toNat 0x1103
      else if s.anchored m = false ∨ s.roleLives m.role = false then
        (s.refuseWith m.src.toNat 0 .accessDenied).sourceFault m.src.toNat 0x1102
      else (s.noteHandshake m).acceptWaiting) := by
  rw [exec_xieskInit, execXieskInit]
  dsimp only
  rw [if_neg (by rw [hears]; decide)]
  simp only [Bool.or_eq_true, Bool.not_eq_true', apply_ite Host.Outcome.next]
  rfl

section Confirm
variable {m : ConfirmSeg} {s : State} (hears : s.hears m.src.toNat = true) (hsound : m.sound = true)
include hears hsound

theorem xieskConfirm_unknown
    (hnone : (s.xiesk.hands.find? fun h => h.ident = m.ident.toNat && h.source = m.src.toNat && h.accepted) = none) :
    exec (.xieskConfirm m) s = .next (s.sourceFault m.src.toNat 0x1101) := by
  rw [exec_xieskConfirm, execXieskConfirm]
  dsimp only
  rw [if_neg (by rw [hears]; decide), if_neg (by rw [hsound]; decide), hnone]
  rfl

theorem xieskConfirm_known {h : Handshake}
    (hfound : (s.xiesk.hands.find? fun h => h.ident = m.ident.toNat && h.source = m.src.toNat && h.accepted) = some h) :
    let s1 := s.setHands (s.xiesk.hands.filter fun x => decide (x.ident ≠ m.ident.toNat))
    (m.tagOk = false → exec (.xieskConfirm m) s = .next (s.sourceFault m.src.toNat 0x1104)) ∧
    (m.tagOk = true → m.signed = false ∨ s.roleLives h.role = false → exec (.xieskConfirm m) s = .next
      (((s1.emit (.segment m.src.toNat 3 m.ident.toNat (leBytes 1 Status.accessDenied.code))).refuseWith m.src.toNat m.ident.toNat
        .accessDenied).sourceFault m.src.toNat 0x1102)) ∧
    (∀ k : Nat, m.tagOk = true → m.signed = true → s.roleLives h.role = true → s1.freeSess = some k →
      exec (.xieskConfirm m) s = .next
        ((s1.setSess k (some ⟨h.role, m.ident.toNat, m.src.toNat, h.cert, s.now, s.now, 0, 0, [], 1, [], 2, h.keys, []⟩)).emit
          (.segment m.src.toNat 3 m.ident.toNat [0]))) := by
  intro s1
  rw [exec_xieskConfirm, execXieskConfirm]
  dsimp only
  rw [if_neg (by rw [hears]; decide), if_neg (by rw [hsound]; decide), hfound]
  dsimp only
  refine ⟨fun htag => ?tag, fun htag hbad => ?refused, fun k htag hsigned hlives hfree => ?opened⟩
  case tag => exact if_pos (by rw [htag]; rfl)
  case refused =>
    rw [if_neg (by rw [htag]; decide)]
    exact if_pos (by simpa using hbad)
  case opened =>
    rw [if_neg (by rw [htag]; decide), if_neg (by rw [hsigned, hlives]; decide)]
    change (match s1.freeSess with | none => _ | some k => _) = _
    rw [hfree]
    rfl
end Confirm

/-! What ends a session (R534, R536). -/

theorem xieskClose_open {src : BitVec 128} {id : W32} {k : Nat} {s : State} (hears : s.hears src.toNat = true)
    (hslot : s.slotOf id.toNat = some k) (tagOk : Bool) :
    exec (.xieskClose src id true tagOk) s = .next (if tagOk = true then s.endSession k else s.authDrop k src.toNat) := by
  rw [exec_xieskClose, execXieskClose, if_neg (by rw [hears]; decide), if_neg (by decide), hslot, apply_ite Host.Outcome.next]
  rfl

theorem sessClose_ok {r : Role} {k : Byte} {s : State} (h : s.checkWrite r Obj.sessClose k.toNat = .ok) :
    exec (.sessClose r k) s = .next ((s.endSession k.toNat).reply .ok) := by
  rw [exec_sessClose, execSessClose, h]
  rfl

theorem sessionTimeouts_open {k : Fin 8} {x : Sess} {s : State} (hsess : s.sess k.val = some x) :
    exec (.sessionIdleTimeout k) s = .next
      (if x.last + s.obj Obj.sessIdleTimeoutS * 1000000000 ≤ s.now then s.endSession k.val else s) ∧
    exec (.sessionLifetime k) s = .next
      (if x.opened + s.obj Obj.sessLifetimeS * 1000000000 ≤ s.now ∨ 2 ^ 32 ≤ x.rxHigh ∨ 2 ^ 32 < x.txNext then s.endSession k.val
       else s) := by
  rw [exec_sessionIdleTimeout, execSessionIdleTimeout, exec_sessionLifetime, execSessionLifetime, hsess]
  simp only [Bool.or_eq_true, decide_eq_true_eq, or_assoc, apply_ite Host.Outcome.next]
  exact ⟨rfl, rfl⟩

theorem sourceIgnoreEnd_ignored {src : BitVec 128} {t : Nat} {s : State} (h : (s.source src.toNat).ignoreTo = some t) :
    exec (.sourceIgnoreEnd src) s = .next (if t ≤ s.now then s.setSource src.toNat ⟨[], none⟩ else s) := by
  rw [exec_sourceIgnoreEnd, execSourceIgnoreEnd, h, apply_ite Host.Outcome.next]
  rfl

/-- Settles O43. The order of the checks of an INIT, and what both CONFIRM and CLOSE do, are the model's readings. -/
theorem sessionsOpenAndEnd : Obligations.SessionsOpenAndEnd := by
  unfold Obligations.SessionsOpenAndEnd
  refine ⟨fun m s hears => ?init, fun m s hears hsound => ?confirm,
    fun src id k s hears hslot => ⟨xieskClose_open hears hslot true, xieskClose_open hears hslot false⟩,
    fun r k s h => sessClose_ok h, fun k x s h => sessionTimeouts_open h, fun id s => rfl,
    fun src t s h => sourceIgnoreEnd_ignored h⟩
  case init =>
    rw [xieskInit_heard hears]
    refine ⟨fun hbad => by rw [if_pos hbad], fun hsound hrole => ?_⟩
    rw [if_neg (by simp [hsound, hrole])]
    refine ⟨fun hmost => by rw [if_pos hmost], fun hroom => ?_⟩
    rw [if_neg (Nat.not_le.2 hroom)]
    refine ⟨fun hmany => congrArg Host.Outcome.next (if_pos hmany), fun hfew => ?_⟩
    have hnot : ¬ 4 ≤ (s.xiesk.hands.filter fun h => !h.accepted).length := Nat.not_le.2 hfew
    rw [if_neg hnot]
    exact ⟨fun hbad => by rw [if_pos hbad], fun hchain hlives => by rw [if_neg (by simp [hchain, hlives])]; rfl⟩
  case confirm => exact ⟨xieskConfirm_unknown hears hsound, fun h hfound => xieskConfirm_known hears hsound hfound⟩

/-! Messages of a session (R531, R533, R535). -/

theorem exec_xieskData (m : DataSeg) (ext : List DictExt) (s : State) : exec (.xieskData m ext) s = execXieskData m ext s := rfl
theorem exec_partialMessageTimeout (k : Fin 8) (c : W64) (s : State) :
    exec (.partialMessageTimeout k c) s = execPartialMessageTimeout k c s := rfl
theorem exec_dictRoRequest (p : PortNo) (node : BitVec 16) (tag : W32) (op : BitVec 256) (s : State) :
    exec (.dictRoRequest p node tag op) s = execDictRoRequest p node tag op s := rfl

/-- A segment has joined its message in session `y` of slot `k`: the message is executed when it is whole. -/
def State.joined (s : State) (k : Nat) (y : Sess) (m : DataSeg) (ext : List DictExt) : State :=
  (y.join m s.now).2.elim (s.setSess k (some (y.join m s.now).1)) fun b =>
    (s.setSess k (some (y.join m s.now).1)).sessionMessage k (y.join m s.now).1 b ext

/-- A segment with a sound tag: first by whether a message of its counter is begun. -/
def State.segment (s : State) (k : Nat) (x : Sess) (m : DataSeg) (ext : List DictExt) : State :=
  match x.parts.find? fun p => p.counter = m.counter.toNat with
  | some p => if p.count ≠ m.count.toNat || p.bytes ≠ m.bytes.toNat then s.sourceFault m.src.toNat 0x1101 else s.joined k x m ext
  | none => if !x.fresh m.counter.toNat then s.authDrop k m.src.toNat
    else if 8 ≤ x.parts.length && 1 < m.count.toNat then s else s.joined k (x.accept m.counter.toNat) m ext

/-- The model's way of taking the pair of `join` apart, said with its two parts. -/
theorem joined_match (s : State) (k : Nat) (y : Sess) (m : DataSeg) (ext : List DictExt) :
    (match (y.join m s.now).2 with
      | some b => (ok ((s.setSess k (some (y.join m s.now).1)).sessionMessage k (y.join m s.now).1 b ext) :
          Host.Outcome State Fault Refusal)
      | none => ok (s.setSess k (some (y.join m s.now).1))) = .next (s.joined k y m ext) := by
  unfold State.joined
  cases (y.join m s.now).2 <;> rfl

theorem xieskData_open {m : DataSeg} {s : State} {k : Nat} {x : Sess} (ext : List DictExt)
    (hears : s.hears m.src.toNat = true) (hsound : m.sound = true) (hfits : segFits m = true)
    (hslot : s.slotOf m.ident.toNat = some k) (hsess : s.sess k = some x) :
    exec (.xieskData m ext) s = .next (if m.tagOk = true then s.segment k x m ext else s.authDrop k m.src.toNat) := by
  rw [exec_xieskData, execXieskData]
  dsimp only
  rw [if_neg (by rw [hears]; decide), if_neg (by rw [hsound, hfits]; decide), hslot]
  dsimp only
  rw [hsess]
  dsimp only
  cases m.tagOk with
  | false => rfl
  | true =>
    rw [if_neg (by decide), if_pos rfl]
    unfold State.segment
    cases x.parts.find? fun p => p.counter = m.counter.toNat with
    | some p =>
      dsimp only
      rw [apply_ite Host.Outcome.next, ← joined_match]
      rfl
    | none =>
      dsimp only
      rw [apply_ite Host.Outcome.next, apply_ite Host.Outcome.next, ← joined_match]
      rfl

/-! Reads of the fabric (R539, R540). -/

/-- The request counted in the present second. -/
def State.roCounted (s : State) (node : Nat) : State :=
  { s with xiesk := { s.xiesk with roCounts := kput (0, 0) s.xiesk.roCounts node (s.now / 1000000000, s.roCount node) } }

/-- A refusal other than RATE_LIMITED, in the state that has counted the request. -/
def State.roRefused (s : State) (p node tag o : Nat) (code : Status) (type total : Nat) : State :=
  (s.faultOnce 0x110A noComp p).roReply node tag o code.code type total []

theorem dictRoRequest_up {p : PortNo} {s : State} (hup : (s.port p.val).st = .up) (node : BitVec 16) (tag : W32)
    (op : BitVec 256) :
    let o := op.toNat
    let key := Ro.index o * 256 + Ro.sub o
    let s1 := s.roCounted node.toNat
    let refused := s1.roRefused p.val node.toNat tag.toNat o
    (s.obj Obj.sessFabricRoRate < s.roCount node.toNat → exec (.dictRoRequest p node tag op) s =
      .next (s1.roReply node.toNat tag.toNat o Status.rateLimited.code 0 0 [])) ∧
    (s.roCount node.toNat ≤ s.obj Obj.sessFabricRoRate →
      (Ro.sound o = false → exec (.dictRoRequest p node tag op) s = .next ((refused .outOfRange 0 0).limitViolation p.val)) ∧
      (Ro.sound o = true → objRow key = none → exec (.dictRoRequest p node tag op) s = .next (refused .outOfRange 0 0)) ∧
      (∀ row : ObjRow, Ro.sound o = true → objRow key = some row → exec (.dictRoRequest p node tag op) s = .next
        (if roleReads .fabricPeer row key = false then refused .accessDenied row.type row.size
         else if row.size < Ro.off o + Ro.len o then (refused .outOfRange row.type row.size).limitViolation p.val
         else s1.roReply node.toNat tag.toNat o Status.ok.code row.type row.size
           (slice (leBytes row.size (s.dictValue .fabricPeer row key)) (Ro.off o) (Ro.len o))))) := by
  intro o key s1 refused
  rw [exec_dictRoRequest, execDictRoRequest]
  dsimp only
  rw [if_neg (not_not.2 hup)]
  refine ⟨fun hfast => if_pos hfast, fun hrate => ?_⟩
  rw [if_neg (Nat.not_lt.2 hrate)]
  refine ⟨fun hbad => if_pos (by simpa using hbad), fun hsound hnone => ?_, fun row hsound hrow => ?_⟩
  · rw [if_neg (by simpa using hsound), hnone]
    rfl
  · rw [if_neg (by simpa using hsound), hrow, apply_ite Host.Outcome.next, apply_ite Host.Outcome.next]
    simp only [Bool.not_eq_true']
    rfl

/-- Settles O44. The ninth partial message dropped, a message of one segment exempt, and the rate counted by whole seconds
are the model's readings. -/
theorem sessionMessagesAndFabricReadsAreAnswered : Obligations.SessionMessagesAndFabricReadsAreAnswered := by
  unfold Obligations.SessionMessagesAndFabricReadsAreAnswered
  refine ⟨fun m ext s k x => ?data, fun k c x s hsess => ?timeout,
    fun p node tag op s hup => dictRoRequest_up hup node tag op⟩
  case data =>
    intro src c joins hears hsound hfits hslot hsess
    rw [xieskData_open ext hears hsound hfits hslot hsess]
    refine ⟨fun htag => by rw [if_neg (by rw [htag]; decide)], fun htag => ?_⟩
    rw [if_pos htag]
    refine ⟨fun hnew => ?_, fun p hbegun => ?_⟩
    · rw [State.segment, hnew]
      refine ⟨fun hstale => congrArg Host.Outcome.next (if_pos (by rw [hstale]; rfl)), fun hfresh => ?_⟩
      dsimp only
      rw [if_neg (by rw [hfresh]; decide)]
      exact ⟨fun hfull => congrArg Host.Outcome.next (if_pos (by simpa using hfull)),
        fun hroom => congrArg Host.Outcome.next (if_neg (by simp; omega))⟩
    · rw [State.segment, hbegun]
      dsimp only
      by_cases hagree : p.count = m.count.toNat ∧ p.bytes = m.bytes.toNat
      · rw [if_pos hagree, if_neg (by simp [hagree.1, hagree.2])]
        rfl
      · rw [if_neg hagree, if_pos (by simpa [or_iff_not_imp_left] using hagree)]
  case timeout =>
    rw [exec_partialMessageTimeout, execPartialMessageTimeout, hsess]
    rfl

end Sys2Proof.Machine
end
section
/-! Chapters 20 and 21: the commands of the module and its resets (R543, R544, R548, R549, R562), its boot (R379-R381,
R546, R547), firmware, what is stored and the watchdog (R519, R550-R552), and ATTN# (R563). -/

namespace Sys2Proof.Machine
open Sys2Proof

/-! module.command (R544). -/

theorem exec_moduleStart (r : Role) (s : State) : exec (.moduleStart r) s = s.moduleCommand r 1 := rfl
theorem exec_moduleService (r : Role) (s : State) : exec (.moduleService r) s = s.moduleCommand r 2 := rfl
theorem exec_exitService (r : Role) (s : State) : exec (.exitService r) s = s.moduleCommand r 3 := rfl
theorem exec_moduleStandby (r : Role) (s : State) : exec (.moduleStandby r) s = s.moduleCommand r 4 := rfl
theorem exec_resetModule (r : Role) (s : State) : exec (.resetModule r) s = s.moduleCommand r 5 := rfl
theorem exec_resetFull (r : Role) (s : State) : exec (.resetFull r) s = s.moduleCommand r 6 := rfl
theorem exec_autoStart (s : State) : exec .autoStart s = execAutoStart s := rfl
theorem exec_resetPinAssert (low : Bool) (s : State) : exec (.resetPinAssert low) s = execResetPinAssert low s := rfl
theorem exec_lenderReclaimDeadline (s : State) : exec .lenderReclaimDeadline s = execLenderReclaimDeadline s := rfl

theorem State.moduleCommand_eq (s : State) (r : Role) (code : Nat) :
    s.moduleCommand r code = s.ifWritable r Obj.moduleCommand code (s.moduleAct code).out := by
  unfold State.moduleCommand State.ifWritable
  cases s.checkWrite r Obj.moduleCommand code <;> rfl

/-- A command that its state does not allow. -/
theorem State.moduleAct_refused {s : State} {code : Nat} (h0 : code ≠ 0) (h6 : code ≤ 6) (h : s.cmdAllowed code = false) :
    s.moduleAct code = ⟨.stateConflict, 0x1201, s.mode.code, s.fault 0x1201⟩ := by
  unfold State.moduleAct
  rw [if_neg (by simp [h0, h6]), if_pos (by rw [h]; rfl)]

/-- What each code does where the model's table of states allows it. -/
def State.moduleDoes (s : State) (code : Nat) : State :=
  match code with
  | 1 => if s.pins.busWarn then { s with startPending := true } else s.enterVerify
  | 2 => s.await .toService
  | 3 => s.enterMode .ready
  | 4 => s.await .toStandby
  | 5 => s.resetAct false
  | _ => s.resetAct true

theorem State.moduleAct_allowed {s : State} {code : Nat} (h0 : 0 < code) (h6 : code ≤ 6) (h : s.cmdAllowed code = true) :
    s.moduleAct code = ⟨.ok, 0, 0, s.moduleDoes code⟩ := by
  unfold State.moduleAct
  rw [if_neg (by simpa [Nat.pos_iff_ne_zero] using And.intro h0 h6), if_neg (by rw [h]; decide)]
  interval_cases code <;> rfl

/-- What a write of module.command comes to, where `allowed` says what the model's table of states says. -/
theorem moduleCommand_cases {i : Instr} {r : Role} {s : State} {code : Nat} {allowed : Prop}
    (hexec : exec i s = s.moduleCommand r code) (h0 : 0 < code) (h6 : code ≤ 6) (hallowed : s.cmdAllowed code = true ↔ allowed) :
    (s.checkWrite r Obj.moduleCommand code ≠ .ok → exec i s = .next (s.reply (s.checkWrite r Obj.moduleCommand code))) ∧
    (s.checkWrite r Obj.moduleCommand code = .ok →
      (allowed → exec i s = .next ((s.moduleDoes code).reply .ok)) ∧
      (¬ allowed → exec i s = .next ((s.fault 0x1201).reply .stateConflict 0x1201 s.mode.code))) := by
  rw [hexec, State.moduleCommand_eq]
  refine ⟨State.ifWritable_of_refused _, fun hok => ?_⟩
  rw [State.ifWritable_of_ok _ hok]
  refine ⟨fun h => by rw [State.moduleAct_allowed h0 h6 (hallowed.2 h)]; rfl, fun h => ?_⟩
  rw [State.moduleAct_refused h0.ne' h6 (Bool.eq_false_iff.2 (mt hallowed.1 h))]
  rfl

theorem State.allFree_iff (s : State) :
    ((List.range 8).all fun n => (s.comp n).st = .free) = true ↔ ∀ n, n < 8 → (s.comp n).st = .free := by
  simp only [List.all_eq_true, List.mem_range, decide_eq_true_eq]

/-! The end of a reset (R548, R549). -/

/-- What is left after the domains are off: the objects kept, and last_reset set. -/
def State.resetKept (s : State) (full : Bool) : State :=
  let s1 := if s.mode = .fault then s else s.closeAll.domainsOff
  let keep (k : Nat) : Bool := decide (persClass k ≠ 2) || (!full && resetKeeps k)
  let s2 := { s1 with
    objs := s1.objs.filter (fun q => keep q.1), going := none, startPending := false, cleanEnd := true, fwStage := [],
    tiles := [], seams := [], rot := Rot.init, power := Power.init, flashOld := s1.flashOld ||| s1.obj Obj.compFlashErasing }
  (s2.setObj Obj.moduleLastReset (if full then 3 else 2)).setObj Obj.holdupBusWarning (b2n s.pins.busWarn)

theorem State.finishReset_module (s : State) : s.finishReset false = (s.resetKept false).enterVerify := rfl

theorem State.finishReset_full (s : State) : s.finishReset true =
    { ((s.resetKept true).enterMode .standby) with
      time := 0, modeAt := 0, windowAt := 0, clock := Clock.init, xiesk := Xiesk.init,
      log := { (s.resetKept true).log with entries := (s.resetKept true).log.mirror, lastWin := [] } } := rfl

theorem State.resetKept_lastReset (s : State) (full : Bool) :
    (s.resetKept full).obj Obj.moduleLastReset = if full then 3 else 2 :=
  (State.obj_setObj_other _ _ _ _ (by decide)).trans (State.obj_setObj_self _ _ _)

theorem State.resetKept_going (s : State) (full : Bool) : (s.resetKept full).going = none := rfl
theorem State.resetKept_cleanEnd (s : State) (full : Bool) : (s.resetKept full).cleanEnd = true := rfl

/-- After a boot that a requested reset ended, VERIFY is entered without a fault. -/
theorem State.enterVerify_of_clean {s : State} (h : s.cleanEnd = true) : s.enterVerify =
    { ((((s.enterMode .verify).inc Obj.moduleBootCount).setObj Obj.moduleGroupsFailed 0).setObj Obj.moduleFlashFailed 0).setObj
      Obj.rotMr 0 with startPending := false, cleanEnd := false } :=
  if_pos h

/-- The two flags of a start are no objects. -/
theorem State.obj_started (s : State) (k : Nat) :
    State.obj { s with startPending := false, cleanEnd := false } k = s.obj k := rfl

theorem State.enterVerify_lastReset_of_clean {s : State} (h : s.cleanEnd = true) :
    s.enterVerify.obj Obj.moduleLastReset = s.obj Obj.moduleLastReset := by
  rw [State.enterVerify_of_clean h]
  exact (State.obj_started _ _).trans <| (State.obj_setObj_other _ _ _ _ (by decide)).trans <|
    (State.obj_setObj_other _ _ _ _ (by decide)).trans <| (State.obj_setObj_other _ _ _ _ (by decide)).trans <|
    (State.inc_other _ _ _ _ (by decide)).trans <|
    State.enterMode_get_obj s .verify Obj.moduleLastReset

theorem State.goOn_resetModule {s : State} {k : Nat} (h : s.going = some (.resetModule k)) :
    s.goOn = s.finishReset false := by
  rw [State.goOn, h]

theorem State.goOn_resetFull {s : State} {k : Nat} (h : s.going = some (.resetFull k)) : s.goOn = s.finishReset true := by
  rw [State.goOn, h]

theorem lenderReclaimDeadline_due {s : State} (hgoing : s.going ≠ none)
    (h : s.leasesHome = true ∨ s.goingAt + s.obj Obj.tierLendReclaimDeadlineMs * 1000000 ≤ s.now) :
    exec .lenderReclaimDeadline s = .next s.goOn := by
  rw [exec_lenderReclaimDeadline, execLenderReclaimDeadline]
  refine if_neg ?_
  simp only [Bool.or_eq_true, Option.isNone_iff_eq_none, Bool.and_eq_true, Bool.not_eq_true', decide_eq_true_eq, not_or]
  refine ⟨hgoing, fun ⟨hout, hearly⟩ => h.elim (fun hhome => ?_) fun hpast => absurd hearly (Nat.not_lt.2 hpast)⟩
  rw [hhome] at hout
  cases hout

theorem lenderReclaimDeadline_idle {s : State} (h : s.going = none) : exec .lenderReclaimDeadline s = .next s := by
  rw [exec_lenderReclaimDeadline, execLenderReclaimDeadline]
  exact if_pos (by rw [h]; rfl)

theorem resetPinAssert_eq (low : Bool) (s : State) : exec (.resetPinAssert low) s = .next
    (if low = true ∧ s.pins.resetLow = false ∧ s.mode ≠ .off then
      State.resetAct { s with pins := { s.pins with resetLow := low } } true
     else { s with pins := { s.pins with resetLow := low } }) := by
  rw [exec_resetPinAssert, execResetPinAssert, apply_ite Host.Outcome.next]
  simp only [Bool.and_eq_true, Bool.not_eq_true', decide_eq_true_eq, and_assoc]
  rfl

/-- Settles O45. That SERVICE and STANDBY wait for the reclaim too is the model's reading. -/
theorem moduleCommandsMoveTheMode : Obligations.ModuleCommandsMoveTheMode := by
  unfold Obligations.ModuleCommandsMoveTheMode
  refine ⟨fun r s => ?commands, fun s => ?auto, resetPinAssert_eq, fun s => lenderReclaimDeadline_due,
    fun s => lenderReclaimDeadline_idle, fun k s h => ?module, fun k s h => ?full⟩
  case commands =>
    refine ⟨?start, ?service, ?exit, ?standby, ?resetModule, ?resetFull⟩
    case start =>
      refine moduleCommand_cases (exec_moduleStart r s) (by decide) (by decide) ?_
      simp only [State.cmdAllowed, Bool.and_eq_true, decide_eq_true_eq, Bool.not_eq_true']
    case service =>
      refine moduleCommand_cases (exec_moduleService r s) (by decide) (by decide) ?_
      simp only [State.cmdAllowed, Bool.and_eq_true, decide_eq_true_eq, State.allFree_iff]
    case exit =>
      refine moduleCommand_cases (exec_exitService r s) (by decide) (by decide) ?_
      simp only [State.cmdAllowed, decide_eq_true_eq]
    case standby =>
      refine moduleCommand_cases (exec_moduleStandby r s) (by decide) (by decide) ?_
      simp only [State.cmdAllowed, Bool.or_eq_true, Bool.and_eq_true, decide_eq_true_eq, State.allFree_iff]
    case resetModule =>
      refine moduleCommand_cases (exec_resetModule r s) (by decide) (by decide) ?_
      simp only [State.cmdAllowed, decide_eq_true_eq]
    case resetFull =>
      refine moduleCommand_cases (exec_resetFull r s) (by decide) (by decide) ?_
      simp only [State.cmdAllowed, decide_eq_true_eq]
  case auto =>
    rw [exec_autoStart, execAutoStart, apply_ite Host.Outcome.next]
    rfl
  case module =>
    rw [State.goOn_resetModule h, State.finishReset_module, State.enterVerify_lastReset_of_clean (s.resetKept_cleanEnd false),
      State.enterVerify_of_clean (s.resetKept_cleanEnd false)]
    exact ⟨rfl, s.resetKept_lastReset false, rfl⟩
  case full =>
    rw [State.goOn_resetFull h, State.finishReset_full]
    exact ⟨rfl, s.resetKept_lastReset true, rfl, rfl, rfl⟩

/-! Boot (R379-R381) and bring-up (R546, R547). -/

theorem exec_verifyPass (fuses : Bool) (slots : List (FwSlot × FwSlot)) (s : State) :
    exec (.verifyPass fuses slots) s = execVerifyPass fuses slots s := rfl
theorem exec_bringupComplete (rails : Bool) (st : List (Fin 12)) (fl : List (Fin 32)) (ts : List TileNo) (sp : BitVec 256)
    (s : State) : exec (.bringupComplete rails st fl ts sp) s = execBringupComplete rails st fl ts sp s := rfl
theorem exec_verifyTimeout (s : State) : exec .verifyTimeout s = execVerifyTimeout s := rfl
theorem exec_bringupTimeout (s : State) : exec .bringupTimeout s = execBringupTimeout s := rfl

theorem State.trySlot_of_broken {s : State} {x : FwSlot} (h : x.intact = false) (c k : Nat) : s.trySlot c k x = 0x0C01 :=
  if_pos (by rw [h]; rfl)

theorem State.trySlot_of_intact {s : State} {x : FwSlot} (h : x.intact = true) (c k : Nat) :
    s.trySlot c k x = if (s.slotHdr (2 * c + k) x).svn < s.svnFused c then 0x0C03 else 0 :=
  if_neg (by rw [h]; decide)

theorem State.bootClass_of_slotA {s : State} {c : Nat} {x : FwSlot} (h : s.trySlot c 0 x = 0) (y : FwSlot) :
    (s.bootClass c x y).1 = true := by
  unfold State.bootClass
  rw [h]
  rfl

theorem State.bootClass_of_neither {s : State} {c f g : Nat} {x y : FwSlot} (hf : f ≠ 0) (hg : g ≠ 0)
    (hA : s.trySlot c 0 x = f) (hB : s.trySlot c 1 y = g) : s.bootClass c x y = (false, (s.fault f).fault g) := by
  unfold State.bootClass
  dsimp only
  rw [hA, hB]
  cases f with
  | zero => exact absurd rfl hf
  | succ f =>
    cases g with
    | zero => exact absurd rfl hg
    | succ g => rfl

/-- What the boot of the six classes comes to in VERIFY, with sound fuses. -/
theorem verifyPass_sound {s : State} (hmode : s.mode = .verify) (slots : List (FwSlot × FwSlot)) :
    let b := ((s.setObj Obj.rotMr 0).extendMr 0 0xFF 0 (Config.identity 0 % 2 ^ 384)).bootFrom slots 6 0
    exec (.verifyPass true slots) s = .next (if b.1 = true then b.2.enterMode .bringup else b.2.failModule 0x0C02) := by
  rw [exec_verifyPass, execVerifyPass, if_neg (not_not.2 hmode), if_neg (by decide)]
  rcases ((s.setObj Obj.rotMr 0).extendMr 0 0xFF 0 (Config.identity 0 % 2 ^ 384)).bootFrom slots 6 0 with ⟨booted, t⟩
  cases booted <;> rfl

/-- Settles O46. The register that the boot ROM's digest begins is the model's reading. -/
theorem bootAndBringUpEndInTheirMode : Obligations.BootAndBringUpEndInTheirMode := by
  unfold Obligations.BootAndBringUpEndInTheirMode
  refine ⟨fun fuses slots s => ?verify, fun c x y s => ?classes, fun rails st fl ts sp s => ?bringup, fun s => ?late,
    fun s => ?slow⟩
  case verify =>
    refine ⟨fun hmode => ?_, fun hmode => ⟨?_, fun hboot => ?_, fun hfail => ?_⟩⟩
    · rw [exec_verifyPass, execVerifyPass]
      exact if_pos hmode
    · rw [exec_verifyPass, execVerifyPass, if_neg (not_not.2 hmode)]
      exact if_pos rfl
    · rw [verifyPass_sound hmode]
      exact congrArg Host.Outcome.next (if_pos hboot)
    · rw [verifyPass_sound hmode]
      exact congrArg Host.Outcome.next (if_neg (by rw [hfail]; decide))
  case classes =>
    refine ⟨fun hA hsvn => ?_, fun hA hA' hB hB' => ?_, fun hA hB => ?_⟩
    · exact State.bootClass_of_slotA ((State.trySlot_of_intact hA c 0).trans (if_neg (Nat.not_lt.2 hsvn))) y
    · exact State.bootClass_of_neither (by decide) (by decide) ((State.trySlot_of_intact hA c 0).trans (if_pos hA'))
        ((State.trySlot_of_intact hB c 1).trans (if_pos hB'))
    · exact State.bootClass_of_neither (by decide) (by decide) (State.trySlot_of_broken hA c 0) (State.trySlot_of_broken hB c 1)
  case bringup =>
    refine ⟨fun hmode => ?_, fun hmode => ⟨?_, ?_⟩⟩
    · rw [exec_bringupComplete, execBringupComplete]
      exact if_pos hmode
    · rw [exec_bringupComplete, execBringupComplete, if_neg (not_not.2 hmode)]
      exact if_pos rfl
    · rw [exec_bringupComplete, execBringupComplete, if_neg (not_not.2 hmode), if_neg (by decide), apply_ite Host.Outcome.next]
      rfl
  case late =>
    rw [exec_verifyTimeout, execVerifyTimeout, apply_ite Host.Outcome.next]
    simp only [Bool.and_eq_true, decide_eq_true_eq]
    rfl
  case slow =>
    rw [exec_bringupTimeout, execBringupTimeout, apply_ite Host.Outcome.next]
    simp only [Bool.and_eq_true, decide_eq_true_eq]
    rfl

/-! Firmware (R551), what is stored (R519, R552), and the watchdog (R550). -/

theorem exec_fwStage (r : Role) (v : List Byte) (s : State) : exec (.fwStage r v) s = s.ifWritable r Obj.moduleFwStage 0
    (.next ((s.stageAct (padTo 32768 v)).2.reply (s.stageAct (padTo 32768 v)).1)) := by
  change execFwStage r v s = _
  unfold execFwStage State.ifWritable
  cases s.checkWrite r Obj.moduleFwStage 0 <;> rfl
theorem exec_fwCommit (r : Role) (cls : Byte) (signed : Bool) (s : State) :
    exec (.fwCommit r cls signed) s = s.ifWritable r Obj.moduleFwCommit cls.toNat
      (.next ((s.commitFwAct cls.toNat signed).2.2.reply (s.commitFwAct cls.toNat signed).1
        (s.commitFwAct cls.toNat signed).2.1)) := by
  change execFwCommit r cls signed s = _
  unfold execFwCommit State.ifWritable
  cases s.checkWrite r Obj.moduleFwCommit cls.toNat <;> rfl
theorem exec_faultLogMirror (s : State) : exec .faultLogMirror s = execFaultLogMirror s := rfl
theorem exec_persistentCounterStore (s : State) : exec .persistentCounterStore s = execPersistentCounterStore s := rfl
theorem exec_requestWatchdog (t : TileNo) (slot : Fin 256) (s : State) :
    exec (.requestWatchdog t slot) s = execRequestWatchdog t slot s := rfl

/-- A block of a staged image (R551): its length, its padding, and its place in the image. -/
def State.stageSound (s : State) (b : List Byte) : Prop :=
  0 < leNat (b.take 4) ∧ leNat (b.take 4) ≤ 32752 ∧ leNat ((b.drop 8).take 8) = 0 ∧
    (∀ x ∈ b.drop (16 + leNat (b.take 4)), x = 0) ∧ leNat ((b.drop 4).take 4) = s.fwStage.length ∧
    leNat ((b.drop 4).take 4) + leNat (b.take 4) ≤ 16777216

theorem State.stageSound_iff (s : State) (b : List Byte) : s.stageSound b ↔
    ¬ (leNat (b.take 4) = 0 || 32752 < leNat (b.take 4) || leNat ((b.drop 8).take 8) ≠ 0 ||
      (b.drop (16 + leNat (b.take 4))).any (· ≠ 0) || leNat ((b.drop 4).take 4) ≠ s.fwStage.length ||
      16777216 < leNat ((b.drop 4).take 4) + leNat (b.take 4)) = true := by
  unfold State.stageSound
  simp only [Bool.or_eq_true, decide_eq_true_eq, List.any_eq_true, not_or, not_lt, ne_eq, not_not, not_exists, not_and,
    and_assoc, Nat.pos_iff_ne_zero]

theorem State.stageAct_of_sound {s : State} {b : List Byte} (h : s.stageSound b) :
    s.stageAct b = (.ok, { s with fwStage := s.fwStage ++ (b.drop 16).take (leNat (b.take 4)) }) :=
  if_neg ((s.stageSound_iff b).1 h)

theorem State.stageAct_of_unsound {s : State} {b : List Byte} (h : ¬ s.stageSound b) : s.stageAct b = (.outOfRange, s) :=
  if_pos (not_not.1 (mt (s.stageSound_iff b).2 h))

theorem State.commitFwAct_of_image {s : State} {k : Nat} {signed : Bool} (hk : k ≤ 5) (himage : s.imageOk k signed = true) :
    s.commitFwAct k signed = (.ok, 0, { s.fault 0x120B with
      fwStage := [],
      boot := (s.boot.filter fun q => decide (q.1 / 2 ≠ k)) ++
        [(2 * k, ⟨leNat ((s.fwStage.drop 8).take 8), leNat ((s.fwStage.drop 32).take 48)⟩)] ++
        (s.boot.find? fun q => decide (q.1 = 2 * k)).elim [] fun q => [(2 * k + 1, q.2)] }) := by
  unfold State.commitFwAct
  rw [if_neg (by simp [hk, himage])]
  cases s.boot.find? fun q => decide (q.1 = 2 * k) <;> rfl

theorem State.commitFwAct_of_other {s : State} {k : Nat} {signed : Bool} (h : 5 < k ∨ s.imageOk k signed = false) :
    s.commitFwAct k signed = (.outOfRange, 0x120A, { s.fault 0x120A with fwStage := [] }) :=
  if_pos (by simpa using h)

/-- Whether this module serves the request of a slot. -/
def Target.here : Target → Bool
  | .module _ => false
  | _ => true

theorem Target.here_iff (x : Target) : x.here = true ↔ ∀ m, x ≠ .module m := by
  cases x <;> simp [Target.here]

/-- The state in which an overdue request has been noted. -/
def State.overdue (s : State) (t : Nat) (x : Slot) : State :=
  (if s.compNo t < 8 then s.lostAccess (s.compNo t) 0x1209 x.addr else s).faultOnce 0x1209 (s.compNo t) x.target.subject

/-- The request of slot `slot` of tile `t` ends with 0x1209. -/
def State.endOverdue (s : State) (t slot : Nat) (x : Slot) : State :=
  match x.who with
  | .pegOp k => ((s.overdue t x).setSlot t slot none).pegEnd k 0x1209 false
  | _ => (s.overdue t x).answerSlot t slot 0x1209 []

/-- The model's choice between the two ends, as the one state it comes to. -/
theorem endOverdue_match (s : State) (t slot : Nat) (x : Slot) :
    (match x.who with
      | .pegOp k => (ok (((s.overdue t x).setSlot t slot none).pegEnd k 0x1209 false) : Host.Outcome State Fault Refusal)
      | _ => ok ((s.overdue t x).answerSlot t slot 0x1209 [])) = .next (s.endOverdue t slot x) := by
  unfold State.endOverdue
  cases x.who <;> rfl

theorem requestWatchdog_of_slot {t : TileNo} {slot : Fin 256} {x : Slot} {s : State}
    (hslot : s.slotAt t.val slot.val = some x) : exec (.requestWatchdog t slot) s = .next
      (if !x.target.here || x.reply.isSome || s.now < x.issued + s.obj Obj.moduleSlotWatchdogUs * 1000 then s
       else s.endOverdue t.val slot.val x) := by
  rw [exec_requestWatchdog, execRequestWatchdog, hslot, apply_ite Host.Outcome.next, ← endOverdue_match]
  rfl

theorem requestWatchdog_overdue {t : TileNo} {slot : Fin 256} {x : Slot} {s : State}
    (hslot : s.slotAt t.val slot.val = some x) (hhere : ∀ m, x.target ≠ .module m) (hreply : x.reply = none)
    (hlate : x.issued + s.obj Obj.moduleSlotWatchdogUs * 1000 ≤ s.now) :
    exec (.requestWatchdog t slot) s = .next (s.endOverdue t.val slot.val x) := by
  rw [requestWatchdog_of_slot hslot, if_neg]
  rw [(Target.here_iff _).2 hhere, hreply]
  simpa using hlate

theorem requestWatchdog_idle {t : TileNo} {slot : Fin 256} {s : State} (h : ∀ x, s.slotAt t.val slot.val = some x →
      (∃ m, x.target = .module m) ∨ x.reply ≠ none ∨ s.now < x.issued + s.obj Obj.moduleSlotWatchdogUs * 1000) :
    exec (.requestWatchdog t slot) s = .next s := by
  cases hslot : s.slotAt t.val slot.val with
  | none => rw [exec_requestWatchdog, execRequestWatchdog, hslot]; rfl
  | some x =>
    rw [requestWatchdog_of_slot hslot, if_pos]
    simp only [Bool.or_eq_true, Bool.not_eq_true', decide_eq_true_eq, or_assoc, Option.isSome_iff_ne_none]
    refine (h x hslot).imp_left fun ⟨m, hm⟩ => ?_
    rw [hm]
    rfl

/-- Settles O47. -/
theorem firmwareFaultLogAndWatchdogWork : Obligations.FirmwareFaultLogAndWatchdogWork := by
  unfold Obligations.FirmwareFaultLogAndWatchdogWork
  refine ⟨fun r v s => ⟨fun hok => ?stage, ?stageRefused⟩, fun r cls signed s => ⟨fun hok => ?commit, ?commitRefused⟩,
    fun s hpower => ?mirror, fun s hpower => ?counters, fun s hoff => ?off, fun t slot x s hslot => ?overdue,
    fun t slot s => requestWatchdog_idle⟩
  case stage =>
    rw [exec_fwStage, State.ifWritable_of_ok _ hok]
    exact ⟨fun h => by rw [State.stageAct_of_sound h], fun h => by rw [State.stageAct_of_unsound h]⟩
  case stageRefused => exact fun h => by rw [exec_fwStage, State.ifWritable_of_refused _ h]
  case commit =>
    rw [exec_fwCommit, State.ifWritable_of_ok _ hok]
    exact ⟨fun ⟨hk, himage⟩ => by rw [State.commitFwAct_of_image hk himage], fun h => by rw [State.commitFwAct_of_other h]⟩
  case commitRefused => exact fun h => by rw [exec_fwCommit, State.ifWritable_of_refused _ h]
  case mirror => rw [exec_faultLogMirror, execFaultLogMirror]; exact if_neg hpower
  case counters => rw [exec_persistentCounterStore, execPersistentCounterStore]; exact if_neg hpower
  case off =>
    rw [exec_faultLogMirror, execFaultLogMirror, exec_persistentCounterStore, execPersistentCounterStore]
    exact ⟨if_pos hoff, if_pos hoff⟩
  case overdue =>
    intro n s1 hhere hreply hlate
    rw [requestWatchdog_overdue hslot hhere hreply hlate, State.endOverdue]
    refine ⟨fun k hwho => by rw [hwho]; rfl, fun hother => ?_⟩
    split
    next k hwho => exact absurd hwho (hother k)
    next => rfl

/-! ATTN# (R563). -/

theorem State.attention_iff (s : State) : s.attention = true ↔ s.mode = .fault ∨ s.mode = .service := by
  unfold State.attention
  simp only [Bool.or_eq_true, decide_eq_true_eq]

/-- With power the entry to FAULT ends in FAULT, where it may have been before. -/
theorem State.enterFault_mode {s : State} (hpower : s.mode ≠ .off) (code : Nat) : (s.enterFault code).mode = .fault := by
  unfold State.enterFault
  by_cases hfault : s.mode = .fault
  · rw [if_pos (by rw [hfault]; decide)]
    exact hfault
  · rw [if_neg (by simp [hpower, hfault])]
    rfl

theorem State.powerLoss_mode (s : State) (mv : Nat) : (s.powerLoss mv).mode = .off := rfl

/-- Settles O56. -/
theorem attentionFollowsTheState : Obligations.AttentionFollowsTheState := by
  unfold Obligations.AttentionFollowsTheState
  have hreleased : ∀ s : State, s.mode = .off → s.attention = false := fun s hoff =>
    Bool.eq_false_iff.2 (mt s.attention_iff.1 (by rw [hoff]; decide))
  refine ⟨State.attention_iff, hreleased, fun s code hpower => ?_, fun s mv => hreleased _ (s.powerLoss_mode mv)⟩
  rw [State.failModule_of_power code hpower]
  exact (State.attention_iff _).2 (Or.inl (State.enterFault_mode (by rwa [State.fault_mode]) code))

end Sys2Proof.Machine
end
